-- ==== Sys2Proof/Word.lean ====
section
/-! DEFINITION. The words of the part: bytes, 32-bit register words, 64-bit instruction and packet words (spec/00_scope.md R3, R5). -/
namespace Sys2Proof

/-- A byte of memory or of a message. -/
abbrev Byte := BitVec 8
/-- A 32-bit register word (R5). -/
abbrev Word := BitVec 32
/-- A 64-bit word: a cell instruction (R170), a counter pair (R6). -/
abbrev DWord := BitVec 64

/-- A map over natural keys, as a list of pairs with strictly rising keys. An absent key reads as a default that the reader names. -/
abbrev SMap (α : Type) := List (Nat × α)

end Sys2Proof
end

