-- ==== Sys2Proof/Syntax.lean ====
section
/-! DEFINITION. The commands of the block, one constructor per row of spec/opcode_table.json, and the plain data of their operands. Instruction fields follow spec/08_instruction_reference.md R171 to R195; packets spec/12_rinmen_fabric.md R283; messages spec/15_pyerly_mailboxes.md R345. -/
namespace Sys2Proof

/-- A logical cell (R11): region 0 to 15, block 0 to 149, cell 0 to 127. -/
structure CellId where
  r : Fin 16
  b : Fin 150
  c : Fin 128
  deriving DecidableEq, Repr

/-- A 4-bit register field, A0 to A15 (R174). -/
abbrev AReg := BitVec 4

/-- The guard of an instruction (R171): predicate selector and negate bit. -/
structure Pred where
  psel : BitVec 3
  pneg : Bool
  deriving DecidableEq, Repr

/-- Fields of LOOP (R177). -/
structure LoopF where
  ln : BitVec 2
  src : Bool
  ra : AReg
  dist : BitVec 14
  imm : BitVec 16
  deriving DecidableEq, Repr

/-- Fields of CUEWAIT (R177). -/
structure CueWaitF where
  cue : BitVec 13
  ra : AReg
  imm : BitVec 16
  deriving DecidableEq, Repr

/-- Fields of CUESIG with its .rel suffix (R172, R177). -/
structure CueSigF where
  rel : Bool
  cue : BitVec 13
  remote : Bool
  rm : AReg
  rc : AReg
  src : Bool
  imm : BitVec 16
  deriving DecidableEq, Repr

/-- Fields of WAITC (R177). -/
structure WaitcF where
  ctr : BitVec 4
  src : Bool
  ra : AReg
  imm : BitVec 16
  deriving DecidableEq, Repr

/-- Fields of SETCFG (R177). -/
structure SetcfgF where
  sel : Byte
  src : Bool
  ra : AReg
  imm : Word
  deriving DecidableEq, Repr

/-- Fields of SHL and SHR (R180). -/
structure ShiftF where
  rd : AReg
  ra : AReg
  rb : AReg
  i : Bool
  arith : Bool
  sh : BitVec 5
  deriving DecidableEq, Repr

/-- Fields of CMP (R180). -/
structure CmpF where
  pd : BitVec 3
  ra : AReg
  rb : AReg
  i : Bool
  cond : BitVec 3
  imm : BitVec 24
  deriving DecidableEq, Repr

/-- Fields of WLOAD (R181). -/
structure WloadF where
  slot : BitVec 1
  fmt : BitVec 4
  group : BitVec 2
  s24 : Bool
  ra : AReg
  stream : BitVec 2
  palEn : Bool
  rp : AReg
  nrowsM1 : BitVec 8
  scaled : Bool
  deriving DecidableEq, Repr

/-- Fields of MVM and MVMT with their suffixes (R171, R172, R181). `begin` is the two-bit field: 1 .ow, 2 .add. -/
structure MvmF where
  begin : BitVec 2
  tree : Bool
  sp : Bool
  slot : BitVec 1
  tile : BitVec 2
  first : BitVec 6
  countM1 : BitVec 6
  ra : AReg
  fmt : BitVec 4
  stream : BitVec 2
  int : Bool
  skipEn : Bool
  rk : AReg
  palEn : Bool
  rp : AReg
  scaled : Bool
  deriving DecidableEq, Repr

/-- What a swatch compare reads where timing margin is wanting (R64, R65): the vector (of SWATCH, the synthetic plane), the pass of a BF16 vector, the quarter and the plane compared, how many times in a row the trees deliver these counts (3: margin failure), and the counts: of S0 to S7 over the quarter, or in transposed mode of the row-side swatch tree over the quarter's 32 rows. -/
structure MarginObs where
  vec : Nat
  pass : Fin 3
  quarter : Fin 4
  plane : Fin 16
  times : Fin 4
  counts : List Nat
  deriving DecidableEq, Repr

/-- Fields of ADRAIN (R184). -/
structure AdrainF where
  tile : BitVec 2
  first : BitVec 6
  countM1 : BitVec 6
  rd : AReg
  deriving DecidableEq, Repr

/-- The operand layout of the vector instructions with the .jit and .sp suffixes (R172, R185). -/
structure VecF where
  jit : Bool
  sp : Bool
  rd : AReg
  rs1 : AReg
  rs2 : AReg
  rn : AReg
  rx : AReg
  fs : BitVec 4
  fd : BitVec 4
  rnd : Bool
  rc : AReg
  sub : BitVec 5
  tag : Byte
  deriving DecidableEq, Repr

/-- Fields of ST (R192): form 0 copies, form 1 stores a word. -/
structure StF where
  form : Bool
  rd : AReg
  ra : AReg
  rn : AReg
  tag : Byte
  imm : BitVec 16
  deriving DecidableEq, Repr

/-- Fields of PUT and ACCW (R192). -/
structure PutF where
  rd : AReg
  ra : AReg
  rn : AReg
  cntEn : Bool
  ctr : BitVec 4
  tag : Byte
  rk : AReg
  deriving DecidableEq, Repr

/-- Fields of GET, HBMRD and HBMWR (R192). -/
structure XferF where
  rd : AReg
  ra : AReg
  rn : AReg
  cntEn : Bool
  ctr : BitVec 4
  deriving DecidableEq, Repr

/-- Fields of CSEND and CRECV (R195). -/
structure CombF where
  ra : AReg
  rn : AReg
  op : BitVec 2
  int : Bool
  rt : AReg
  deriving DecidableEq, Repr

/-- The vector instructions; VSCL by its form (R186 to R190). -/
inductive VecKind where
  | add | mul | fma | max | min | exp2 | rcp | rsq | cvt | had
  | sclConvert | sclDerive | sclPush | sclPushAdvance | sclMerge | stat | prune24 | red
  deriving DecidableEq, Repr

/-- Register-to-register scalar operations (R180). -/
inductive AluKind where
  | add | sub | and | or
  deriving DecidableEq, Repr

/-- A decoded cell instruction with its fields (R176 to R195). -/
inductive CellOp where
  | nop
  | halt
  | loop (f : LoopF)
  | endloop (ln : BitVec 2)
  | br (offset : BitVec 15)
  | brp (ra : AReg)
  | cuewait (f : CueWaitF)
  | cuesig (f : CueSigF)
  | waitc (f : WaitcF)
  | fence (scope : BitVec 3)
  | setcfg (f : SetcfgF)
  | li (rd : AReg) (imm : Word)
  | alu (k : AluKind) (rd ra rb : AReg)
  | addi (rd ra : AReg) (imm : BitVec 24)
  | shift (right : Bool) (f : ShiftF)
  | cmp (f : CmpF)
  | wload (f : WloadF)
  | mvm (transposed : Bool) (f : MvmF)
  | swatch
  | slotinv (slot : BitVec 1)
  | aclr (tile : BitVec 2) (int : Bool)
  | apromo
  | adrain (f : AdrainF)
  | amov (src dst : BitVec 2)
  | arot (form : BitVec 1)
  | vec (k : VecKind) (f : VecF)
  | ld (rd ra : AReg) (imm : BitVec 16)
  | st (f : StF)
  | put (f : PutF)
  | accw (f : PutF) (acc : BitVec 2)
  | get (f : XferF)
  | hbmrd (f : XferF)
  | hbmwr (f : XferF)
  | tagset (full : Bool) (ra rn : AReg)
  | csend (f : CombF)
  | crecv (f : CombF)
  deriving DecidableEq, Repr

/-- The in-order units that hold queued instructions (R146). -/
inductive CellUnit where
  | array | acc | vector | memory
  deriving DecidableEq, Repr

/-- What may be blocked by a tag (R206): a unit, or the inbound remote port. -/
inductive Blocked where
  | unit (u : CellUnit)
  | port
  deriving DecidableEq, Repr

/-- Who makes a register or memory access (R200, R355): the host through a session, a debug session, a test session, firmware. -/
inductive Requester where
  | host (session : Word)
  | debug (session : Word)
  | test (session : Word)
  | firmware
  deriving DecidableEq, Repr

/-- A completed training attempt or retrain (R273, R274, R279, R280). -/
structure TrainResult where
  reversed : Bool
  delay : BitVec 20
  /-- Free receive buffers the partner advertises, per virtual channel. -/
  credits : List Nat
  /-- The partner's port is a half-port (R272, R273). -/
  half : Bool
  /-- Greatest skew between lanes in ns, and whether lanes are misconnected other than in reverse (R273). -/
  skew : Nat
  misconnected : Bool
  /-- The cause that a failed attempt records. -/
  cause : Byte
  deriving DecidableEq, Repr

/-- A fabric packet (R283): header bytes 0 to 7, 8 to 15 and 16 to 23 as little-endian words, and the data units. -/
structure Packet where
  h0 : DWord
  h1 : DWord
  h2 : DWord
  data : List Byte
  deriving DecidableEq, Repr

/-- An identifier assignment message (R291). -/
structure AssignMsg where
  assigner : DWord
  number : Word
  target : DWord
  ident : BitVec 12
  hops : Nat
  deriving DecidableEq, Repr

/-- A reply to an assignment message (R291). -/
structure AssignReply where
  assigner : DWord
  number : Word
  assigned : Bool
  deriving DecidableEq, Repr

/-- The IEEE 802.1Q tag of a frame, if it bears one (R323). -/
abbrev VlanTag := Option (BitVec 16)

/-- What a frame says, with its VLAN tag (R323). -/
structure Tagged (α : Type) where
  val : α
  tag : VlanTag
  deriving DecidableEq, Repr

/-- What a RoCEv2 packet says, with its CE mark (R327) and its VLAN tag. -/
structure Marked (α : Type) where
  val : α
  ce : Bool
  tag : VlanTag
  deriving DecidableEq, Repr

/-- Read data on their way back (R217): the request they answer, and the bits of the block that have flipped since it was written or corrected (R218). -/
structure ReadBack where
  id : Nat
  upset : List Nat
  deriving DecidableEq, Repr

/-- What a DHCPv4 server answers (R325, RFC 2131): DHCPOFFER, DHCPACK, DHCPNAK. -/
inductive DhcpKind where
  | offer | ack | nak
  deriving DecidableEq, Repr

/-- A DHCPv4 reply (R325): an offer, an acknowledgement with its lease, or a refusal. -/
structure DhcpReply where
  kind : DhcpKind
  tag : VlanTag
  addr : Word
  mask : Word
  gateway : Word
  leaseSec : Nat
  deriving DecidableEq, Repr

/-- A source of the RoCEv2 traffic: IP address (an IPv4 address is mapped) and GID (R329). -/
structure NetSource where
  ip : BitVec 128
  gid : BitVec 128
  deriving DecidableEq, Repr

/-- A connection request on QP1 (R329). -/
structure CmReq where
  source : NetSource
  /-- The module's own address that the request names. -/
  dstIp : BitVec 128
  service : BitVec 16
  session : Word
  mtu : Nat
  psn : BitVec 24
  tag : VlanTag
  deriving DecidableEq, Repr

/-- The place of an RDMA WRITE packet in its message (R328); or the BTH opcode of a request that the module does not support: SEND First, Middle and Last, immediate data, invalidate, atomics (R328, R330). -/
inductive WriteOp where
  | only | first | middle | last
  | unsupported (opcode : Byte)
  deriving DecidableEq, Repr

/-- An RDMA WRITE packet (R334); key, address and length are those of the RETH on first and only. -/
structure RdmaWrite where
  q : Fin 64
  op : WriteOp
  psn : BitVec 24
  key : Word
  va : DWord
  len : Nat
  ce : Bool
  tag : VlanTag
  /-- Bytes in the receive buffer when the packet has arrived (R326). -/
  buffered : Nat
  data : List Byte
  deriving DecidableEq, Repr

/-- An RDMA READ request (R334). -/
structure RdmaRead where
  q : Fin 64
  psn : BitVec 24
  key : Word
  va : DWord
  len : Nat
  ce : Bool
  tag : VlanTag
  /-- READs of the queue pair still being answered (R328). -/
  outstanding : Nat
  deriving DecidableEq, Repr

/-- Why an Ethernet frame is answered without an effect (R338). -/
inductive EthDrop where
  | badFcs | badIcrc | badFec | address | etherType | tooLong | doubleTag | unknownQp | malformedCm | otherIcmp
  deriving DecidableEq, Repr

/-- A message header without its command code (R345), the queue pair it came on with its PSN, CE mark and VLAN tag, and the payload. -/
structure Msg where
  q : Fin 64
  psn : BitVec 24
  ce : Bool
  tag : VlanTag
  magic : BitVec 16
  version : Byte
  flags : Byte
  status : BitVec 16
  seq : Word
  session : Word
  length : Word
  rsv0 : Word
  applyAt : DWord
  job : Word
  rsv1 : BitVec 96
  payload : List Byte
  deriving DecidableEq, Repr

/-- A FIRMWARE message between Pyerly instances (R286) that acts on a job: a staged change that the root distributes (R265) or withdraws (R358), or an allocation (R394). -/
inductive FwMsg where
  | change (job : Word) (epoch : Nat) (code : BitVec 16) (m : Msg)
  | alloc (job : Word) (epoch units : Nat)
  | cancel (job seq : Word)
  deriving DecidableEq, Repr

/-- Mean measured and estimated power of a region's sub-windows in mW (R386). -/
structure RegionFit where
  r : Fin 16
  measured : List Nat
  dynamic : List Nat
  leak : List Nat
  deriving DecidableEq, Repr

/-- The two watched clocks (R364). -/
inductive ClockName where
  | refclk | sclk
  deriving DecidableEq, Repr

/-- A domain that changes over between clocks (R369). -/
inductive ClockDomain where
  | hub | alwaysOn | region (r : Fin 16)
  deriving DecidableEq, Repr

/-- How a waking region came up (R240, R420): well, HBM training failed, or a swatch column failed its pattern in a physical cell. -/
inductive WakeResult where
  | ok
  | hbmFailed
  | swatch (b : Fin 150) (phys : Fin 132) (col : Fin 600)
  deriving DecidableEq, Repr

/-- What the pattern test of a scrub finds (R420, R421). -/
inductive TestFinding where
  | column (b : Fin 150) (phys : Fin 132) (col : Fin 600)
  | cell (b : Fin 150) (phys : Fin 132)
  | block (b : Fin 150)
  deriving DecidableEq, Repr

/-- The hop a fault record takes next (R413): into a block aggregator, from a block into its region aggregator, from a region into the hub. -/
inductive FaultStage where
  | block (r : Fin 16) (b : Fin 150)
  | region (r : Fin 16) (b : Fin 150)
  | hub (r : Fin 16)
  deriving DecidableEq, Repr

/-- The commands of the block: one constructor per row of spec/opcode_table.json, with the operands that the row acts on. -/
inductive Instr where
  /-- NOP (R176). Cell instruction that does nothing for one NCLK. -/
  | nop (c : CellId) (p : Pred)
  /-- HALT (R166). Waits for every earlier instruction to complete, then halts the cell without fault. -/
  | halt (c : CellId) (p : Pred)
  /-- LOOP (R150). Sets a loop counter, records the body bounds, skips the body on a zero count and may capture the body into the loop buffer. -/
  | loopw (c : CellId) (p : Pred) (f : LoopF)
  /-- ENDLOOP (R150). Decrements the loop counter and returns to the body start while the counter is non-zero. -/
  | endloop (c : CellId) (p : Pred) (ln : BitVec 2)
  /-- BR (R151). Branches by a signed instruction offset, closing any open loop it leaves. -/
  | br (c : CellId) (p : Pred) (offset : BitVec 15)
  /-- BRP (R177). Branches to the byte offset held in an A register. -/
  | brp (c : CellId) (p : Pred) (ra : AReg)
  /-- CUEWAIT (R160). Holds later dispatch until the named cue reaches its target. -/
  | cuewait (c : CellId) (p : Pred) (f : CueWaitF)
  /-- CUEWAIT_SATISFIED (R160). A waiting CUEWAIT finds its cue at the target, and dispatch resumes. -/
  | cuewaitSatisfied (c : CellId) (cycles : Nat)
  /-- CUESIG (R158). Places a relaxed or release cue signal in the signal queue, or sends a CUE packet to another module. -/
  | cuesig (c : CellId) (p : Pred) (f : CueSigF)
  /-- CUE_SIGNAL_RELEASE (R257). A queued signal leaves once the signals ahead of it have left and, for a release signal, once the earlier writes are visible; its count is then added to the cue. -/
  | cueSignalRelease (c : CellId)
  /-- WAITC (R161). Holds later dispatch until an arrival counter holds at least n, then subtracts n. -/
  | waitc (c : CellId) (p : Pred) (f : WaitcF)
  /-- WAITC_SATISFIED (R161). The arrival counter reaches n; n is subtracted and dispatch resumes. -/
  | waitcSatisfied (c : CellId) (cycles : Nat)
  /-- WAITC_TIMEOUT (R161). A WAITC exceeds the full/empty timeout, completes without subtracting and records class 0x0410. -/
  | waitcTimeout (c : CellId) (cycles : Nat)
  /-- FENCE (R157). Holds later dispatch until earlier instructions have completed and their writes are visible within the scope. -/
  | fence (c : CellId) (p : Pred) (scope : BitVec 3)
  /-- FENCE_RELEASE (R157). The last write in the fence's scope becomes visible or acknowledged, and dispatch resumes. -/
  | fenceRelease (c : CellId) (cycles : Nat)
  /-- SETCFG (R179). Writes the sparse threshold, force_dense or a scale-stream ring configuration, effective at dispatch. -/
  | setcfg (c : CellId) (p : Pred) (f : SetcfgF)
  /-- LI (R180). Loads an immediate into an A register. -/
  | li (c : CellId) (p : Pred) (rd : AReg) (imm : Word)
  /-- ADD (R180). Adds two A registers modulo 2^32. -/
  | addw (c : CellId) (p : Pred) (rd ra rb : AReg)
  /-- ADDI (R180). Adds a sign-extended immediate to an A register. -/
  | addi (c : CellId) (p : Pred) (rd ra : AReg) (imm : BitVec 24)
  /-- SUB (R180). Subtracts two A registers. -/
  | subw (c : CellId) (p : Pred) (rd ra rb : AReg)
  /-- SHL (R180). Shifts an A register left. -/
  | shl (c : CellId) (p : Pred) (f : ShiftF)
  /-- SHR (R180). Shifts an A register right, logically or arithmetically. -/
  | shr (c : CellId) (p : Pred) (f : ShiftF)
  /-- AND (R180). Bitwise AND of two A registers. -/
  | andw (c : CellId) (p : Pred) (rd ra rb : AReg)
  /-- OR (R180). Bitwise OR of two A registers. -/
  | orw (c : CellId) (p : Pred) (rd ra rb : AReg)
  /-- CMP (R180). Compares an A register with a register or immediate and writes a predicate. -/
  | cmp (c : CellId) (p : Pred) (f : CmpF)
  /-- RESERVED_INSTRUCTION (R173). An instruction word with a reserved opcode, encoding or forbidden combination stops the cell at once with class 0x0350. -/
  | reservedInstruction (c : CellId) (word : DWord)
  /-- INSTR_LINE_FETCH (R149). A bank of the block instruction store reads a requested 64-byte line into a cell's fetch buffer. -/
  | instrLineFetch (c : CellId) (waited : Nat)
  /-- UNIT_ISSUE (R146). A unit issues the instruction at the head of its queue once its track, busy-bit and slot conditions allow. -/
  | unitIssue (c : CellId) (u : CellUnit) (waited : Nat)
  /-- WLOAD (R58). Writes an operand tile into a slot one row per ACLK, converting it and checking its scale record. -/
  | wload (c : CellId) (p : Pred) (f : WloadF)
  /-- SLOT_WRITE_DONE (R58). The last row of a slot write commits, and the slot's valid bit is set in the following cycle. -/
  | slotWriteDone (c : CellId)
  /-- MVM (R183). Streams input vectors through a slot in forward mode and promotes the group sums into a tile. -/
  | mvm (c : CellId) (p : Pred) (f : MvmF) (seen : List MarginObs)
  /-- MVMT (R56). Streams input vectors through a slot in transposed mode and promotes the row sums into a tile. -/
  | mvmt (c : CellId) (p : Pred) (f : MvmF) (seen : List MarginObs)
  /-- SWATCH (R67). Runs the known-answer check of the swatch columns on four synthetic planes. -/
  | swatch (c : CellId) (p : Pred) (seen : List MarginObs)
  /-- SLOTINV (R60). Clears the valid bit of a slot. -/
  | slotinv (c : CellId) (p : Pred) (slot : BitVec 1)
  /-- ACLR (R184). Clears a frame to FP32 or INT32 zero with shape O = 32 and resets its tree columns. -/
  | aclr (c : CellId) (p : Pred) (tile : BitVec 2) (int : Bool)
  /-- APROMO (R91). Closes every open tree column of the tile named A. -/
  | apromo (c : CellId) (p : Pred)
  /-- ADRAIN (R184). Copies vector columns of a frame to the scratchpad. -/
  | adrain (c : CellId) (p : Pred) (f : AdrainF)
  /-- AMOV (R184). Copies one frame, with its format, shape and tree state, into another. -/
  | amov (c : CellId) (p : Pred) (src dst : BitVec 2)
  /-- AROT (R88). Rotates or exchanges the frames bound to the names A, B and W in a lead cell. -/
  | arot (c : CellId) (p : Pred) (form : BitVec 1)
  /-- VADD (R186). Element-wise addition, with an optional causal mask. -/
  | vadd (c : CellId) (p : Pred) (f : VecF)
  /-- VMUL (R186). Element-wise multiplication. -/
  | vmul (c : CellId) (p : Pred) (f : VecF)
  /-- VFMA (R186). Element-wise fused multiply-add. -/
  | vfma (c : CellId) (p : Pred) (f : VecF)
  /-- VMAX (R186). Element-wise maximum, with an optional causal mask. -/
  | vmax (c : CellId) (p : Pred) (f : VecF)
  /-- VMIN (R186). Element-wise minimum. -/
  | vmin (c : CellId) (p : Pred) (f : VecF)
  /-- VEXP2 (R187). Exact 2^x rounded once to the destination format. -/
  | vexp2 (c : CellId) (p : Pred) (f : VecF)
  /-- VRCP (R187). Exact reciprocal rounded once. -/
  | vrcp (c : CellId) (p : Pred) (f : VecF)
  /-- VRSQ (R187). Exact reciprocal square root rounded once. -/
  | vrsq (c : CellId) (p : Pred) (f : VecF)
  /-- VCVT (R188). Converts elements between formats, through a palette, with dequantisation, a scale record, compressed output or a .jit pass as selected. -/
  | vcvt (c : CellId) (p : Pred) (f : VecF)
  /-- VHAD (R114). Applies an optional sign vector and a Walsh-Hadamard transform to runs of n elements. -/
  | vhad (c : CellId) (p : Pred) (f : VecF)
  /-- VSCL_CONVERT (R189). VSCL form 0 converts elements under an explicit scale record. -/
  | vsclConvert (c : CellId) (p : Pred) (f : VecF)
  /-- VSCL_DERIVE (R189). VSCL form 1 sets a palette's scale from the present amax of the source. -/
  | vsclDerive (c : CellId) (p : Pred) (f : VecF)
  /-- VSCL_PUSH (R109). VSCL form 2 closes a palette's step: pushes amax into the history and recomputes the scale. -/
  | vsclPush (c : CellId) (p : Pred) (f : VecF)
  /-- VSCL_PUSH_ADVANCE (R109). VSCL form 3 pushes a palette and also advances its tensor identifier. -/
  | vsclPushAdvance (c : CellId) (p : Pred) (f : VecF)
  /-- VSCL_MERGE (R107). VSCL form 4 merges the statistics of two palette copies. -/
  | vsclMerge (c : CellId) (p : Pred) (f : VecF)
  /-- VSTAT (R190). Adds conversion statistics to a palette without writing, or keeps per-channel amax. -/
  | vstat (c : CellId) (p : Pred) (f : VecF)
  /-- VPRUNE24 (R140). Keeps the two largest of each group of four elements and writes the values, indices and masks. -/
  | vprune24 (c : CellId) (p : Pred) (f : VecF)
  /-- VRED (R190). Reduces m elements by SUM, SUMSQ, MAX or MIN with index. -/
  | vred (c : CellId) (p : Pred) (f : VecF)
  /-- LD (R192). Loads a word from the local window into an A register. -/
  | ld (c : CellId) (p : Pred) (rd ra : AReg) (imm : BitVec 16)
  /-- ST (R192). Copies bytes locally, or stores an A register word. -/
  | st (c : CellId) (p : Pred) (f : StF)
  /-- PUT (R192). Posts a remote write of scratchpad data to another cell, HBM or another module. -/
  | putw (c : CellId) (p : Pred) (f : PutF)
  /-- GET (R192). Reads data from another cell of the module into local scratchpad. -/
  | getw (c : CellId) (p : Pred) (f : XferF)
  /-- ACCW (R213). Posts a remote accumulate-on-write into another cell's slots or frames, or into HBM. -/
  | accw (c : CellId) (p : Pred) (f : PutF) (acc : BitVec 2)
  /-- HBMRD (R216). Reads HBM blocks into local scratchpad. -/
  | hbmrd (c : CellId) (p : Pred) (f : XferF)
  /-- HBMWR (R216). Writes local scratchpad blocks to HBM. -/
  | hbmwr (c : CellId) (p : Pred) (f : XferF)
  /-- TAGSET (R205). Marks slots of a tagged window full. -/
  | tagset (c : CellId) (p : Pred) (ra rn : AReg)
  /-- TAGCLR (R205). Marks slots of a tagged window empty. -/
  | tagclr (c : CellId) (p : Pred) (ra rn : AReg)
  /-- CSEND (R229). Presents elements to a combine channel as a member of the channel's next combine. -/
  | csend (c : CellId) (p : Pred) (f : CombF)
  /-- CRECV (R195). At the root, receives the combined result of the channel's next combine. -/
  | crecv (c : CellId) (p : Pred) (f : CombF)
  /-- TAG_BLOCK_RELEASE (R205). An access blocked on a full or empty slot proceeds once the slot changes state. -/
  | tagBlockRelease (c : CellId) (b : Blocked) (cycles : Nat)
  /-- TAG_WAIT_TIMEOUT (R209). A tag-blocked read, write or arrival exceeds CELL_TAG_TIMEOUT and faults with class 0x0411 or 0x0412. -/
  | tagWaitTimeout (c : CellId) (b : Blocked) (cycles : Nat)
  /-- REMOTE_PUT_ARRIVAL (R206). A PUT slot lands at its destination, sets the tag and increments the named arrival counter. -/
  | remotePutArrival (id : Nat)
  /-- ACCW_ARRIVAL (R213). An ACCW slot is added atomically into its destination elements and counted. -/
  | accwArrival (id : Nat)
  /-- GET_REQUEST_ARRIVAL (R206). A GET request reads the source slots at the remote cell without tag checks. -/
  | getRequestArrival (id : Nat)
  /-- GET_DATA_ARRIVAL (R206). GET data return and are written into the requester's slots. -/
  | getDataArrival (id : Nat)
  /-- HBM_READ_DATA (R217). HBM read data return and are written into local slots with their restored tags and poison. -/
  | hbmReadData (d : ReadBack)
  /-- HBM_WRITE_ACK (R216). An HBM write block is acknowledged at the controller's ordering point. -/
  | hbmWriteAck (id : Nat)
  /-- REMOTE_WRITE_ACK (R157). The destination acknowledges an on-module remote write once it is visible. -/
  | remoteWriteAck (id : Nat)
  /-- COMBINE_GROUP_ADVANCE (R231). The block combine network advances one 64-byte group of a ready channel once every member's group is present. -/
  | combineGroupAdvance (r : Fin 16) (b : Fin 150) (ch : Fin 4)
  /-- COMBINE_ROOT_DELIVERY (R231). A combined group leaves the root 16 NCLK after it advanced and is written by the CRECV. -/
  | combineRootDelivery (r : Fin 16) (b : Fin 150) (ch : Fin 4)
  /-- REGION_COMBINE_STEP (R233). A region combine unit forms the canonical tree over one group from each member block or region and delivers it. -/
  | regionCombineStep (r : Fin 16) (ch : Fin 4)
  /-- COMBINE_TIMEOUT (R232). A blocked CSEND or waiting CRECV exceeds the wait limit, and the channel fails with class 0x0431. -/
  | combineTimeout (c : CellId)
  /-- ARRAY_SCRUB (R68). Every 4,096 ACLK the array scrubber reads one slot row and corrects or poisons it. -/
  | arrayScrub (c : CellId) (slot : BitVec 1) (row : Fin 128) (upset : List Nat)
  /-- SCRUB_ROW_REWRITE (R61). A deferred corrected-row rewrite is made once the slot is no longer busy. -/
  | scrubRowRewrite (c : CellId) (slot : BitVec 1)
  /-- SPM_SCRUB (R220). Every 1,024 NCLK the scratchpad scrubber reads one weight-class slot; numbers from 512 up are the 64-byte pieces of the frames, which it does not read but in which bits may have flipped. -/
  | spmScrub (c : CellId) (piece : Fin 896) (upset : List Nat)
  /-- HBM_PATROL (R220). The HBM controller patrols a block of its stack in idle cycles. -/
  | hbmPatrol (r : Fin 16) (block : Nat) (upset : List Nat)
  /-- ISTORE_SCRUB (R419). Every 4,096 NCLK one instruction-store line is scrubbed. -/
  | istoreScrub (r : Fin 16) (b : Fin 150) (line : Fin 2048) (upset : List Nat)
  /-- HUB_SRAM_SCRUB (R419). Every 100 ms hub SRAM is scrubbed; an uncorrectable error leads to a module reset. -/
  | hubSramScrub (corrected : Nat) (lost : List Nat)
  /-- SLOT_VIEW_WRITE (R51). A debug or firmware write through the slot view encodes check bits and counts as a slot write. -/
  | slotViewWrite (q : Requester) (c : CellId) (off : BitVec 12) (v : Word)
  /-- DBG_HALT_WRITE (R167). A debug write of CELL_SEQ_CTRL.dbg_halt halts or resumes the cell's dispatch. -/
  | dbgHaltWrite (q : Requester) (c : CellId) (halt : Bool)
  /-- DBG_STEP (R167). Writing step while debug-halted dispatches one instruction. -/
  | dbgStep (q : Requester) (c : CellId)
  /-- CELL_RESET (R376). A debug write to BLK_CELL_RESET_n resets the named cells to the entry of their program image. -/
  | cellReset (q : Requester) (r : Fin 16) (b : Fin 150) (n : Fin 4) (cells : Word)
  /-- CLK_RGN_CTRL_WRITE (R367). A write of a region's target clocks starts a slew or a divisor change. -/
  | clkRgnCtrlWrite (q : Requester) (r : Fin 16) (v : Word)
  /-- RGN_CUE_ADD_WRITE (R257). A write to RGN_CUE_ADD_i adds the value to the cue as a relaxed signal. -/
  | rgnCueAddWrite (q : Requester) (cue : Fin 8192) (v : Word)
  /-- COUNTER_READ_CLEAR (R7). A read of an RC counter returns its value and clears it. -/
  | counterReadClear (q : Requester) (addr : BitVec 48)
  /-- REG64_LOW_READ (R6). A read of the low word of a 64-bit register latches the high word. -/
  | reg64LowRead (q : Requester) (addr : BitVec 48)
  /-- REGISTER_WRITE (R5). A write to a register with no row of its own: RW fields take the value, W1C bits clear, and bad accesses fault with class 0x0615. -/
  | registerWrite (q : Requester) (addr : BitVec 48) (size : Nat) (v : Word)
  /-- INJECTION_GO (R454). Writing TST_INJ_CTRL.go arms a single-bit, double-bit, parity or swatch injection. -/
  | injectionGo (q : Requester) (v : Word)
  /-- INJECTION_APPLY (R454). A pending flip is applied in the first cycle in which no write to the word is in progress. -/
  | injectionApply
  /-- CUE0_TIMER (R255). Cue 0 rises by 1 every 65,536 ticks of the hub's tick counter. -/
  | cue0Timer
  /-- EPOCH_START (R252). Epoch 0 begins on a module when its job tick counter reaches T0. -/
  | epochStart (job : Word)
  /-- EPOCH_CHECK (R258). At each check tick, a module that has not completed the epoch broadcasts the next HOLD. -/
  | epochCheck (job : Word)
  /-- EPOCH_BOUNDARY (R254). At B(e) stop-pending cells stop, summaries form, staged changes apply, any change hold is taken and the epoch advances. -/
  | epochBoundary (job : Word)
  /-- CHANGE_HOLD_RESEND (R265). The root sends a change-flagged HOLD every 256 ticks until every module has acknowledged. -/
  | changeHoldResend (job : Word)
  /-- CHANGE_HOLD_ACK (R265). The root receives a module's acknowledgement and releases the hold once all have acknowledged. -/
  | changeHoldAck (job : Word) (position : Nat)
  /-- CHANGE_HOLD_RELEASE (R265). The release reaches a module, and step 5 follows at its next 256-tick mark. -/
  | changeHoldRelease (job : Word)
  /-- CHANGE_HOLD_LIMIT (R265). A change hold exceeding change_hold_limit faults the job with class 0x0444. -/
  | changeHoldLimit (job : Word)
  /-- HEARTBEAT_SEND (R263). At each 65,536-tick mark a beat is sent to the root, or by the root to every module. -/
  | heartbeatSend (job : Word)
  /-- HEARTBEAT_TIMEOUT (R263). No beat for 262,144 ticks faults the job with class 0x0445. -/
  | heartbeatTimeout (job : Word) (position : Nat)
  /-- ANNOUNCE_TIMEOUT (R354). No announce within 1,000,000 ticks of JOB_START refuses the start and faults the job. -/
  | announceTimeout (job : Word)
  /-- JOB_FAULT_TAKE (R261). The job faults: running cells stop, buckets fail, a fault HOLD goes out and the host is told. -/
  | jobFaultTake (job : Word) (cls : BitVec 16)
  /-- FLIT_RECEIVE (R278). A received flit is checked for CRC and sequence, accepted or discarded with a NAK, and its ack and credits used. -/
  | flitReceive (p : Fin 48) (symbols : Nat) (flit : List Byte)
  /-- ACK_TIMEOUT (R275). Unacknowledged flits waiting 2 µs without progress put the port in Retrain. -/
  | ackTimeout (p : Fin 48)
  /-- TRAINING_ATTEMPT (R275). Every 10 ms a Down port with signal on a receive lane starts training. -/
  | trainingAttempt (p : Fin 48)
  /-- TRAINING_DONE (R274). A training or retrain attempt completes, credits are advertised and the port goes Up. -/
  | trainingDone (p : Fin 48) (t : TrainResult)
  /-- TRAINING_TIMEOUT (R275). A training attempt exceeding 100 ms, or a retrain exceeding 10 ms, fails and may fence the port. -/
  | trainingTimeout (p : Fin 48) (cause : Byte)
  /-- PARTNER_RETRAIN (R275). The partner starts a retrain and the port enters Retrain. -/
  | partnerRetrain (p : Fin 48)
  /-- PACKET_FORWARD (R287). A packet not for this module is routed by its arrival port's table, or dropped with UNREACHABLE. -/
  | packetForward (p : Fin 48) (k : Packet)
  /-- WRITE_PACKET (R285). A WRITE packet arrives at its destination as a PUT. -/
  | writePacket (p : Fin 48) (k : Packet)
  /-- ACCW_PACKET (R285). An ACCW packet arrives at its destination as an ACCW. -/
  | accwPacket (p : Fin 48) (k : Packet)
  /-- CUE_PACKET (R159). A CUE packet adds its count to a cue of this module, or is discarded with class 0x0420. -/
  | cuePacket (p : Fin 48) (k : Packet)
  /-- REDUCE_PACKET (R314). A REDUCE packet carries a child's stream to the home combine unit, which checks it and adds it in turn or holds it. -/
  | reducePacket (p : Fin 48) (k : Packet)
  /-- BCAST_PACKET (R307). A BCAST packet carries the result, which is forwarded to the children and written to dst. -/
  | bcastPacket (p : Fin 48) (k : Packet)
  /-- HOLD_PACKET (R259). A HOLD raises K(e) and the boundary, or is ignored, or is late, or carries a job fault or change hold. -/
  | holdPacket (p : Fin 48) (k : Packet)
  /-- TIME_ALIGN (R295). A TIME align packet sets the job's tick counters to the delay-corrected root time. -/
  | timeAlign (p : Fin 48) (k : Packet)
  /-- TIME_ANNOUNCE (R295). A TIME announce packet delivers T0 to the module. -/
  | timeAnnounce (p : Fin 48) (k : Packet)
  /-- TIME_BEAT (R263). A heartbeat TIME packet restarts the silence count for its sender. -/
  | timeBeat (p : Fin 48) (k : Packet)
  /-- IDENT_PACKET (R292). A partner's IDENT is recorded, or blocks the port on an identity change, duplicate or foreign part. -/
  | identPacket (p : Fin 48) (k : Packet)
  /-- MGMT_NAK (R286). A received NAK records class 0x0505. -/
  | mgmtNak (p : Fin 48) (k : Packet)
  /-- MGMT_UNREACHABLE (R297). A received UNREACHABLE for an originated job packet faults that job with class 0x0507. -/
  | mgmtUnreachable (p : Fin 48) (k : Packet)
  /-- MGMT_FIRMWARE (R286). A FIRMWARE message between Pyerly instances is delivered to firmware. -/
  | mgmtFirmware (p : Fin 48) (k : Packet)
  /-- ID_ASSIGN_MESSAGE (R291). An identifier assignment message is applied if it targets this module, or relayed on the other ports. -/
  | idAssignMessage (p : Fin 48) (a : AssignMsg)
  /-- ID_ASSIGN_REPLY (R291). An assignment reply is relayed back toward the assigner, which records the outcome. -/
  | idAssignReply (p : Fin 48) (a : AssignReply)
  /-- ID_ASSIGN_REPLY_TIMEOUT (R291). No reply within 100 ms reports the pair as unreachable. -/
  | idAssignReplyTimeout (number : Word)
  /-- SLACK_REPORT_RECEIVE (R394). The root ranks the reporting modules, moves allocation between pairs and sends the new allocations. -/
  | slackReportReceive (job : Word) (position : Nat) (slack : Int) (ceiling : Nat)
  /-- FCLK_HOLDOVER_ENTER (R294). The FCLK source port leaves Up or loses lock, and FCLK enters holdover with class 0x0510. -/
  | fclkHoldoverEnter
  /-- FCLK_HOLDOVER_EXIT (R294). The source port is locked again or another port is designated, and FCLK follows it with class 0x0511. -/
  | fclkHoldoverExit
  /-- FABRIC_SUMMARY_TIMER (R300). Every 1,048,576 ticks each port with non-zero error counts forms a class 0x0500 summary. -/
  | fabricSummaryTimer
  /-- BUCKET_CONTRIB_READ (R306). The home unit finishes reading a contribution from HBM, checks poison and widens it. -/
  | bucketContribRead (job : Word) (bucket : BitVec 12) (inst : BitVec 16)
  /-- BUCKET_RESULT_VISIBLE (R307). All result blocks are visible, done_cue rises and the digest entry is written. -/
  | bucketResultVisible (job : Word) (bucket : BitVec 12) (inst : BitVec 16)
  /-- EARLY_STORE_TIMEOUT (R315). An early REDUCE or BCAST unclaimed for 100,000 unheld ticks is dropped with class 0x0531. -/
  | earlyStoreTimeout (k : Packet)
  /-- ETH_LINK_UP (R323). The Ethernet link comes up at 1.6 Tb/s; DHCP starts on the first rise after reset. -/
  | ethLinkUp
  /-- ETH_LINK_DOWN (R341). The Ethernet link goes down and records class 0x0601. -/
  | ethLinkDown
  /-- ARP_REQUEST (R325). An ARP request for the module's IPv4 address is answered. -/
  | arpRequest (sender : Word) (target : Tagged Word)
  /-- NEIGHBOUR_SOLICITATION (R325). An IPv6 neighbour solicitation is answered. -/
  | neighbourSolicitation (sender : BitVec 128) (target : Tagged (BitVec 128))
  /-- ROUTER_ADVERTISEMENT (R325). A router advertisement is ignored. -/
  | routerAdvertisement
  /-- ICMP_ECHO_REQUEST (R325). An echo request is answered within the rate limit. -/
  | icmpEchoRequest (v6 : Bool) (sender target : BitVec 128) (body : Tagged (List Byte))
  /-- DHCP_REPLY (R325). A DHCPv4 reply grants or renews the lease and sets the IPv4 address. -/
  | dhcpReply (d : DhcpReply)
  /-- DHCP_RETRY (R325). Every 4 s without a lease the DHCP client retries. -/
  | dhcpRetry
  /-- DHCP_RENEW (R325). At half the lease time the client renews. -/
  | dhcpRenew
  /-- DHCP_LEASE_EXPIRY (R325). An expired lease removes the address, errors its queue pairs and records class 0x0602. -/
  | dhcpLeaseExpiry
  /-- PFC_FRAME (R326). A received PFC frame pauses transmission on its priority. -/
  | pfcFrame (enable : Byte) (quanta : List Nat)
  /-- PAUSE_FRAME (R323). A PAUSE frame is honoured when PFC is disabled. -/
  | pauseFrame (quanta : BitVec 16)
  /-- CNP_RECEIVED (R327). A received congestion notification packet is counted and changes nothing. -/
  | cnpReceived (q : Fin 64)
  /-- CM_REQ (R329). A connection request on QP1 is accepted or rejected by service identifier, session and free queue pairs. -/
  | cmReq (r : CmReq)
  /-- CM_RTU (R329). A ready-to-use message completes a connection. -/
  | cmRtu (q : Fin 64)
  /-- CM_REJ (R329). A reject message abandons a connection attempt. -/
  | cmRej (q : Fin 64)
  /-- CM_DREQ (R329). A disconnect request frees the queue pair and is answered with DREP. -/
  | cmDreq (q : Tagged (Fin 64))
  /-- CM_DREP (R332). A disconnect reply frees a queue pair in the error state. -/
  | cmDrep (q : Fin 64)
  /-- QP_FREE_TIMEOUT (R332). A queue pair in the error state is freed 100 ms after its DREQ. -/
  | qpFreeTimeout (q : Fin 64)
  /-- RDMA_WRITE_PACKET (R334). An RDMA WRITE packet is checked against its window and written, and acknowledged once visible. -/
  | rdmaWritePacket (w : RdmaWrite)
  /-- RDMA_READ_REQUEST (R334). An RDMA READ request is checked against its window and answered, stopping at poison. -/
  | rdmaReadRequest (w : RdmaRead)
  /-- RDMA_ACK_RECEIVED (R331). An acknowledgement or NAK for a module-originated send is received. -/
  | rdmaAckReceived (q : Fin 64) (psn : BitVec 24) (syndrome : Marked Byte)
  /-- QP_RETRY_TIMEOUT (R331). A module send whose acknowledgement timeout expires is retried, and after 7 retries the queue pair errors. -/
  | qpRetryTimeout (q : Fin 64)
  /-- SESSION_IDLE_CLOSE (R351). A session with no queue pair and no request for 60 s closes with class 0x0612. -/
  | sessionIdleClose (session : Word)
  /-- DEBUG_EXPIRY (R446). The validity of a debug unlock ends, debug is locked and M5 is extended. -/
  | debugExpiry
  /-- IDENT_GET (R352). Returns identity, serial, module identifier, booted slot, firmware version and MAC address. -/
  | identGet (m : Msg)
  /-- UNITS_GET (R352). Returns region states and the failed regions and fenced blocks. -/
  | unitsGet (m : Msg)
  /-- CHALLENGE (R349). Returns a fresh 32-byte nonce for a key slot. -/
  | challenge (m : Msg)
  /-- SESSION_OPEN (R349). Verifies a signed nonce and opens a session with its privileges and mailboxes. -/
  | sessionOpen (m : Msg)
  /-- SESSION_CLOSE (R351). Closes the session, freeing its queue pairs, windows, staging space and mailboxes. -/
  | sessionClose (m : Msg)
  /-- QUOTE (R443). Returns a signed snapshot of the measurement registers with the certificate chain. -/
  | quote (m : Msg)
  /-- DEBUG_UNLOCK (R445). Accepts a signed debug token and unlocks debug scope for the session. -/
  | debugUnlock (m : Msg)
  /-- MAILBOX_BIND (R350). Binds further mailboxes to the session. -/
  | mailboxBind (m : Msg)
  /-- BOOK_BEGIN (R353). Reserves staging space for one prompt book. -/
  | bookBegin (m : Msg)
  /-- BOOK_WRITE (R353). Writes a piece of the prompt-book image into staging space. -/
  | bookWrite (m : Msg)
  /-- JOB_ASSIGN (R250). Checks the staged book, brings the regions to Loading, loads them and leaves them Assigned. -/
  | jobAssign (m : Msg)
  /-- JOB_START (R354). On the root, sets T0 and sends alignment and announce packets; elsewhere, waits to hold T0. -/
  | jobStart (m : Msg)
  /-- JOB_STATUS (R352). Returns the job's epoch, status, region states and first fault record. -/
  | jobStatus (m : Msg)
  /-- JOB_END (R354). Ends a job whose cells have halted, stopped or faulted and releases its regions. -/
  | jobEnd (m : Msg)
  /-- JOB_KILL (R354). Kills a job and releases its regions unconditionally. -/
  | jobKill (m : Msg)
  /-- JOB_CLAIM (R351). Takes over a job left by a closed session with the same key slot, with its waiting events. -/
  | jobClaim (m : Msg)
  /-- CUE_ADD (R355). Adds a count to a cue of the job. -/
  | cueAdd (m : Msg)
  /-- PALETTE_WRITE (R358). Writes palette records into cells, staged under a change hold while the job runs. -/
  | paletteWrite (m : Msg)
  /-- STAGE_CANCEL (R358). Withdraws a staged change whose epoch has not begun. -/
  | stageCancel (m : Msg)
  /-- WINDOW_REGISTER (R333). Registers a transfer window and returns its key. -/
  | windowRegister (m : Msg)
  /-- WINDOW_DEREGISTER (R337). Invalidates a transfer window. -/
  | windowDeregister (m : Msg)
  /-- WINDOW_LIST (R352). Lists the registered transfer windows. -/
  | windowList (m : Msg)
  /-- PORT_SET (R356). Disables, enables, retrains, splits or joins a logical port. -/
  | portSet (m : Msg)
  /-- NEIGHBOURS_GET (R352). Returns the status and partner identity of every logical port. -/
  | neighboursGet (m : Msg)
  /-- MODULE_ID_SET (R290). Sets the module identifier while no region is Loading or Assigned, and re-sends IDENT. -/
  | moduleIdSet (m : Msg)
  /-- ROUTE_WRITE (R356). Fills shadow copies of routing-table entries. -/
  | routeWrite (m : Msg)
  /-- ROUTE_COMMIT (R289). Replaces the named routing tables with their shadows atomically, staged under a change hold while a job runs. -/
  | routeCommit (m : Msg)
  /-- CLOCK_SOURCE_SET (R293). Designates the FCLK source port or REFCLK. -/
  | clockSourceSet (m : Msg)
  /-- ID_DISTRIBUTE (R291). Assigns identifiers to named serials through relayed FIRMWARE messages and reports per-pair outcomes. -/
  | idDistribute (m : Msg)
  /-- PORT_CONFIG (R356). Sets a static IPv4 address, an IPv6 global address or the QoS word, after responding. -/
  | portConfig (m : Msg)
  /-- CAP_SET (R391). Sets the module power cap, staged when apply is given. -/
  | capSet (m : Msg)
  /-- POOL_SET (R392). Sets a job's power pool, floor and ceiling under a change hold across the job. -/
  | poolSet (m : Msg)
  /-- REGION_READY (R240). Holds regions Ready or releases that hold. -/
  | regionReady (m : Msg)
  /-- POWER_GET (R406). Returns the power and thermal registers. -/
  | powerGet (m : Msg)
  /-- REG_READ (R355). Reads listed registers within the session's rights. -/
  | regRead (m : Msg)
  /-- REG_WRITE (R355). Writes listed registers within the session's rights, staged when apply is given. -/
  | regWrite (m : Msg)
  /-- DIGEST_GET (R352). Returns the digest entries of a bucket instance. -/
  | digestGet (m : Msg)
  /-- LOG_READ (R417). Returns fault records from an index and the next index. -/
  | logRead (m : Msg)
  /-- LOG_CLEAR (R417). Empties the fault-log ring and its persistent part. -/
  | logClear (m : Msg)
  /-- RESET (R357). Requests a module reset or a reset of named regions. -/
  | resetw (m : Msg)
  /-- TEST_WRITE (R449). Writes test-block registers in a test session. -/
  | testWrite (m : Msg)
  /-- TEST_READ (R449). Reads test-block registers in a test session. -/
  | testRead (m : Msg)
  /-- FW_BEGIN (R437). Begins staging a firmware image. -/
  | fwBegin (m : Msg)
  /-- FW_WRITE (R437). Writes a piece of the staged firmware image. -/
  | fwWrite (m : Msg)
  /-- FW_COMMIT (R437). Verifies the staged image and writes it to the slot not booted. -/
  | fwCommit (m : Msg)
  /-- FW_ACTIVATE (R437). Writes the boot record for a valid slot and resets the module into it. -/
  | fwActivate (m : Msg)
  /-- UNKNOWN_COMMAND (R352). A request with an unknown or reserved command code is answered with status 0x0101. -/
  | unknownCommand (m : Msg) (code : BitVec 16)
  /-- ESTIMATOR_SAMPLE (R385). Every 1 µs each block estimator forms its dynamic energy and the region estimate is updated. -/
  | estimatorSample (r : Fin 16) (b : Fin 150) (counts : List Nat)
  /-- POWER_CALIBRATION (R386). Every 10 ms firmware fits gain and leakage factor per region and divides measured energy among the energy counters. -/
  | powerCalibration (inputUj : Nat) (fits : List RegionFit)
  /-- INPUT_SAMPLE (R387). The 44 V input is sampled at 8 kHz and checked against its range. -/
  | inputSample (mv ma : Nat)
  /-- CAP_LOOP (R391). Every 100 µs the cap loop steps job points down or up and adjusts thermal ceilings and the activity allowance. -/
  | capLoop
  /-- RAIL_SETTLED (R389). The rail reaches the new setpoint and the clocks of a step up begin to move. -/
  | railSettled (r : Fin 16)
  /-- SLEW_DONE (R367). A PLL slew reaches its target frequency. -/
  | slewDone (r : Fin 16)
  /-- ACTIVITY_RAMP_MARK (R395). At each 250 ns mark a region sets its activity allowance. -/
  | activityRampMark (r : Fin 16) (held : Nat)
  /-- DROOP_ASSERT (R396). A droop detector asserts and the region's clocks stretch to 1.5 times nominal. -/
  | droopAssert (r : Fin 16) (b : Fin 150) (det : Fin 4) (sustained : Bool)
  /-- DROOP_RELEASE (R396). The last droop detector releases. -/
  | droopRelease (r : Fin 16) (b : Fin 150) (det : Fin 4)
  /-- STRETCH_END (R396). 64 ACLK after the last release the droop stretch ends. -/
  | stretchEnd (r : Fin 16) (cycles : Nat)
  /-- DROOP_QUIET (R398). After 1 µs of droop quiet a deferred or halted step up resumes. -/
  | droopQuiet (r : Fin 16)
  /-- DROOP_CEILING_RECOVER (R397). After 100 ms without sustained droop the droop ceiling rises one point. -/
  | droopCeilingRecover (r : Fin 16)
  /-- TEMP_SENSOR_READ (R401). Every 10 µs block sensors are read, setting or clearing the temperature warning. -/
  | tempSensorRead (r : Fin 16) (temps : List Nat)
  /-- HBM_TEMP_READ (R401). Every 1 ms the HBM stack sensor is read. -/
  | hbmTempRead (r : Fin 16) (temp : Nat)
  /-- THERMAL_TRIP (R403). A trip comparator reaches 118 °C and forces blackout with TRIP_N and class 0x0712. -/
  | thermalTrip (die site : Byte)
  /-- CLOCK_JUDGE_WINDOW (R364). At the end of each window the counters judge REFCLK and SCLK good or failed. -/
  | clockJudgeWindow (refCount sclkCount : Nat)
  /-- CLOCK_STOP_DETECT (R364). 64 cycles of one clock without an edge of the other judge the other failed. -/
  | clockStopDetect (k : ClockName)
  /-- FORCED_CHANGEOVER (R369). A changeover not completed in 64 cycles of the new clock is forced, with class 0x0802. -/
  | forcedChangeover (d : ClockDomain)
  /-- HUB_PLL_LOCK_LOSS (R370). The hub PLL loses lock, forcing blackout with class 0x0804. -/
  | hubPllLockLoss
  /-- REGION_PLL_LOCK_LOSS (R370). A region compute PLL loses lock: clocks are gated, the interconnect moves to standby and the job faults. -/
  | regionPllLockLoss (r : Fin 16)
  /-- REGION_PLL_RELOCK_ATTEMPT (R370). A 50 µs relock attempt ends locked, or after the third failure the region is Failed. -/
  | regionPllRelockAttempt (r : Fin 16) (ok : Bool)
  /-- STANDBY_PLL_LOCK_LOSS (R370). A standby PLL loses lock and the region is marked Failed. -/
  | standbyPllLockLoss (r : Fin 16)
  /-- INPUT_ENTER_RANGE (R372). The input rising into range starts a power-on reset. -/
  | inputEnterRange
  /-- POR_HOLD_END (R379). The 2 ms power-on reset hold ends and fuses are read. -/
  | porHoldEnd
  /-- BULK_CHARGED (R460). The bulk capacitance finishes charging behind the hot-swap switches. -/
  | bulkCharged
  /-- PWR_EN_SETTLE (R465). PWR_EN holding a level for 1 ms takes effect. -/
  | pwrEnSettle (high : Bool)
  /-- PWR_EN_RISE (R379). PWR_EN high brings up the conversion stages, hub rail and region 0 interconnect and HBM rails. -/
  | pwrEnRise
  /-- PWR_EN_FALL (R381). PWR_EN low faults every job and removes every rail except the always-on domain. -/
  | pwrEnFall
  /-- IN_RST_N_ASSERT (R374). IN_RST_N low for long enough starts a warm reset. -/
  | inRstNAssert (ns : Nat)
  /-- IN_RST_N_RELEASE (R374). IN_RST_N rising ends the warm reset, or a trip blackout when the sensors are cool. -/
  | inRstNRelease (cool : Bool)
  /-- UNDERVOLTAGE_LOCKOUT (R461). The bulk below 38.0 V removes every rail. -/
  | undervoltageLockout
  /-- OVERVOLTAGE_LOCKOUT (R461). A sample above 52.0 V, or 100 ms above 48.0 V, locks the module out. -/
  | overvoltageLockout
  /-- LOCKOUT_RECOVERY (R461). After 100 ms in range following a lockout the module starts by power-on reset. -/
  | lockoutRecovery
  /-- RAILS_GOOD (R379). Every rail is good and PG_OUT is released. -/
  | railsGood
  /-- REFCLK_ABSENT_TIMEOUT (R379). REFCLK absent 100 ms after PG_OUT asserts FAULT_N. -/
  | refclkAbsentTimeout
  /-- HUB_LEAVE_RESET (R379). REFCLK judged good releases the hub from reset. -/
  | hubLeaveReset (straps : BitVec 6) (pairA pairB : Bool)
  /-- HUB_PLL_LOCKED (R379). The hub PLL locks, the hub changes over to PCLK and the boot ROM starts. -/
  | hubPllLocked
  /-- HUB_READY (R379). Firmware reaches hub ready and enables every logical port. -/
  | hubReady
  /-- REGION_WAKE_DONE (R240). A waking region's rail and PLL are up and its swatch patterns written; it proceeds to Scrubbing or Loading. -/
  | regionWakeDone (r : Fin 16) (w : WakeResult)
  /-- REGION_SCRUB_DONE (R425). The region scrub ends, scrub-pending clears and the region becomes Ready. -/
  | regionScrubDone (r : Fin 16) (found : List TestFinding)
  /-- READY_POWER_DOWN (R240). A Ready region not held Ready powers down to Asleep. -/
  | readyPowerDown (r : Fin 16)
  /-- HOST_REGION_TAKEOVER (R423). After region 0 fails and no job holds the host region, that region takes the firmware area and cues 0 to 127. -/
  | hostRegionTakeover
  /-- FAULT_RECORD_ARRIVAL (R413). A fault record reaches an aggregator or the hub and is merged, queued, dropped or logged. -/
  | faultRecordArrival (st : FaultStage)
  /-- SUMMARY_TIMER (R414). At each 1,048,576-tick mark of the hub counter, summaries form for unassigned regions and the hub. -/
  | summaryTimer
  /-- UNIT_COMPLETION (R146). An array, accumulator, vector or local memory instruction reaches its completion point, clearing its frame busy bits and pending registers and releasing instructions held on it. -/
  | unitCompletion (c : CellId) (u : CellUnit)
  /-- MALFORMED_PACKET (R296). A Rinmen packet with a reserved type or subtype, a wrong vc, a bad len, reserved bits set, a misaligned address or a forbidden 0xFFF is dropped, NAKed and logged as class 0x0504. -/
  | malformedPacket (p : Fin 48) (k : Packet)
  /-- ETH_DROPPED_PACKET (R338). An Ethernet frame with bad FCS or ICRC, an unaccepted address or EtherType, an unknown queue pair or a malformed CM message is dropped and counted in ETH_RX_DROP. -/
  | ethDroppedPacket (cause : EthDrop)
  /-- SEND_TO_BUSY_MAILBOX (R330). A SEND that arrives on a mailbox queue pair while the request buffer still holds a request is answered with an RNR NAK and the buffer is left untouched. -/
  | sendToBusyMailbox (q : Fin 64) (psn : BitVec 24) (bytes : Marked Nat)
  /-- ONE_SECOND_SUMMARY (R338). Once per second in which the count is non-zero, firmware forms the class 0x0600 summary of dropped Ethernet packets and the class 0x0610 summary of rejected mailbox requests. -/
  | oneSecondSummary
  /-- ALERT_N_RELEASE (R466). Firmware releases ALERT_N once none of warn, throttle, floor_limited or an out-of-range input sample has held for 1 s. -/
  | alertNRelease
  /-- TCK_EDGE (R458). A TCK edge advances the JTAG TAP, shifting the boundary-scan chain or applying BYPASS, SAMPLE/PRELOAD, EXTEST, CLAMP or HIGHZ. -/
  | tckEdge (rising tms tdi : Bool) (pins : BitVec 15)
  /-- TRST_N_CHANGE (R458). TRST_N going low holds the TAP in Test-Logic-Reset with BYPASS selected, and going high releases it. -/
  | trstNChange (high : Bool)
  deriving DecidableEq, Repr

end Sys2Proof
end

