-- ==== Sys2Proof/Config.lean ====
section
/-! DEFINITION. What the spec leaves to fuses, to flash as shipped, or states no value for: constants without a body, so that no proof can lean on a value of them. -/
namespace Sys2Proof

/-- What a conversion writes where R27 states no result: a finite value beyond the finite range of FP32 or INT32, an infinity or a NaN to INT32 (log entry 5). Arguments: target format code, 0 finite, 1 infinity, 2 NaN, sign, numerator, denominator, exponent. -/
opaque Config.convUnstated : Nat → Nat → Bool → Nat → Nat → Int → BitVec 32
/-- The zero point of a UINT8 palette record, for which R105 gives no field (log entry 6). Argument: the tensor identifier. -/
opaque Config.paletteZeroPoint : Nat → BitVec 8
/-- Whether the tensor descriptor of an operand marks its INT8 tensor as MX (R44): no layout of the spec holds that mark (log entry 60). Argument: the address that the operand is read from. -/
opaque Config.mxInt8 : Nat → Bool
/-- The verdict of R250 on a section of route requests, whose layout no file gives (log entry 40). -/
opaque Config.routeRequestsOk : List Byte → Bool
/-- What a transposed row promotes to where the input record gives it more than one group, for which R74 states no scale (log entry 10). Arguments: the row sum and the number of groups. -/
opaque Config.mixedGroups : Int → Nat → BitVec 32
/-- The scale of a group converted through a UINT8 palette with one scale per group: R106 says that the module never derives it (log entry 11). Arguments: the tensor identifier and the group's number. -/
opaque Config.uint8GroupScale : Nat → Nat → BitVec 32
/-- A free value: applied to the counter `State.fresh`, which the step advances (log entry 7). -/
opaque Config.freeValue : Nat → BitVec 32
/-- HUB_SERIAL, loaded from fuses (R360). -/
opaque Config.fuseSerial : BitVec 64
/-- The MAC address, loaded from fuses (R324), byte 0 in bits [7:0]. -/
opaque Config.fuseMac : BitVec 48
/-- SHA-256 of the Limtar signing modulus, in fuses (R433). -/
opaque Config.fuseKeyHash : BitVec 256
/-- The anti-rollback fuse bits blown at manufacture (R436), as a count. -/
opaque Config.fuseRollback : BitVec 7
/-- Operator key slot 0 as the order supplies it (R438, R475): the modulus. -/
opaque Config.orderKey : BitVec 3072
/-- The privileges of operator key slot 0 (R438). -/
opaque Config.orderKeyPriv : BitVec 4
/-- SHA-256 of the header and body of the image shipped in a slot (R475). -/
opaque Config.shippedDigest : Bool → BitVec 256
/-- The svn of the shipped image. -/
opaque Config.shippedSvn : Bool → BitVec 7
/-- The fw_version of the shipped image. -/
opaque Config.shippedVersion : Bool → BitVec 32
/-- The attestation signature of the security engine over a digest (R443); no command reads the key. -/
opaque Config.attestSign : BitVec 256 → BitVec 3072
/-- The certificate chain in flash (R443, R475). -/
opaque Config.certChain : List Byte
/-- The nonce the security engine draws for a CHALLENGE (R349), by draw number. -/
opaque Config.nonce : Nat → BitVec 256
/-- Where the generations of window keys begin (R333): they count on from it, one for each registration. -/
opaque Config.windowBase : Nat
/-- Where session numbers begin (R350): they count on from it over the non-zero numbers, one for each session since power-on. -/
opaque Config.sessionBase : Nat
/-- The fused voltage of an operating point in mV (R388), by region and point. -/
opaque Config.fuseVoltage : Nat → Nat → BitVec 12
/-- The fused energy weights of the activity estimator (R385), in nJ per event: plane drive, vector-unit cycle, local-port byte, remote-port byte, router flit, instruction-line read. -/
opaque Config.fuseWeight : Nat → Nat
/-- The fused leakage curve of a region (R385): watts at a temperature in units of 0.25 °C. -/
opaque Config.fuseLeak : Nat → Nat → Nat
/-- The outcome of a pulse on IN_RST_N between 100 ns and 1 µs (R374): taken or not, by occurrence number. -/
opaque Config.shortPulseTaken : Nat → Bool
/-- Repairs of manufacture (R62, R422): the physical columns replaced in a physical cell (by block × 132 + physical cell), in the order of the understudies U0 up. -/
opaque Config.shippedCols : Nat → List (BitVec 10)
/-- Repairs of manufacture: the failed physical cells of a block, in the order of the understudies. -/
opaque Config.shippedCells : Nat → List (BitVec 8)
/-- Repairs of manufacture: a fenced block. -/
opaque Config.shippedFence : Nat → Bool
/-- Column and cell entries that the repair list holds at manufacture (R422). -/
opaque Config.shippedEntries : Nat
/-- The fit of a region's gain and leakage where the sub-windows of R386 do not determine it. Arguments: the region and the number of the draw (log entry 7). -/
opaque Config.singularFit : Nat → Nat → Nat × Nat
/-- Length of the JTAG instruction register; the file that describes the boundary scan gives it (R458). -/
opaque Config.jtagIrLen : Nat
/-- Operation of a JTAG instruction code: 0 BYPASS, 1 SAMPLE/PRELOAD, 2 EXTEST, 3 CLAMP, 4 HIGHZ (R458). -/
opaque Config.jtagOp : Nat → Nat
/-- What a FIRMWARE packet says, whose layout firmware defines (R286, log entry 24): header bytes 8 to 15, 16 to 23, and the data. -/
opaque Config.firmwareMsg : BitVec 64 → BitVec 64 → List Byte → Option FwMsg

end Sys2Proof
end

