-- ==== Sys2Proof/Machine/Bits.lean ====
section
/-! DEFINITION. Bit fields, little-endian bytes, sign extension and small list helpers (spec/00_scope.md R3, R4). -/
namespace Sys2Proof.Machine

/-- Bits [lo + w - 1 : lo] of a number. -/
def field (x lo w : Nat) : Nat := x / 2 ^ lo % 2 ^ w

/-- Bit `i` of a number. -/
def bitAt (x i : Nat) : Bool := x / 2 ^ i % 2 == 1

/-- A Bool as 0 or 1. -/
def b2n (b : Bool) : Nat := if b then 1 else 0

/-- The two's complement reading of the low `w` bits (R4). -/
def toSigned (w x : Nat) : Int :=
  let v := x % 2 ^ w
  if v < 2 ^ (w - 1) then (v : Int) else (v : Int) - (2 ^ w : Nat)

/-- The low `w` bits of an integer in two's complement. -/
def ofSigned (w : Nat) (x : Int) : Nat := (x % ((2 ^ w : Nat) : Int)).toNat

/-- Little-endian bytes to a number (R3). -/
def leNat : List Byte → Nat
  | [] => 0
  | b :: t => b.toNat + 256 * leNat t

/-- A number as `n` little-endian bytes (R3). -/
def leBytes : Nat → Nat → List Byte
  | 0, _ => []
  | n + 1, x => BitVec.ofNat 8 x :: leBytes n (x / 256)

/-- Big-endian bytes to a number (R431). -/
def beNat (l : List Byte) : Nat := leNat l.reverse

/-- A number as `n` big-endian bytes. -/
def beBytes (n x : Nat) : List Byte := (leBytes n x).reverse

/-- `n` bytes from offset `o`, zero beyond the end. -/
def slice : List Byte → Nat → Nat → List Byte
  | _, _, 0 => []
  | l, o, n + 1 => l.getD o 0 :: slice l (o + 1) n

/-- The little-endian number in the `n` bytes at offset `o`. -/
def leAt (l : List Byte) (o n : Nat) : Nat := leNat ((l.drop o).take n)

/-- Pad with zeros up to a multiple of `n` bytes. -/
def padTo (n : Nat) (l : List Byte) : List Byte :=
  l ++ List.replicate ((n - l.length % n) % n) 0

/-- All bytes of the list are zero. -/
def allZero (l : List Byte) : Bool := l.all (· == 0)

/-- Replace the element at an index. -/
def setAt {α : Type} : List α → Nat → α → List α
  | [], _, _ => []
  | _ :: t, 0, v => v :: t
  | a :: t, n + 1, v => a :: setAt t n v

/-- Apply a function to the element at an index. -/
def modAt {α : Type} (f : α → α) : List α → Nat → List α
  | [], _ => []
  | a :: t, 0 => f a :: t
  | a :: t, n + 1 => a :: modAt f t n

/-- The list without the element at an index. -/
def dropAt {α : Type} : List α → Nat → List α
  | [], _ => []
  | _ :: t, 0 => t
  | a :: t, n + 1 => a :: dropAt t n

/-- Cut a list into pieces of `n` (with fuel, so that it is structural). -/
def chunksF {α : Type} (n : Nat) : Nat → List α → List (List α)
  | 0, _ => []
  | _, [] => []
  | f + 1, l => l.take n :: chunksF n f (l.drop n)

/-- Cut a list into pieces of `n` elements, the last one possibly shorter. -/
def chunks {α : Type} (n : Nat) (l : List α) : List (List α) := chunksF n l.length l

/-- The rounded-up quotient. -/
def ceilDiv (a b : Nat) : Nat := (a + b - 1) / b

/-- Whether bit `i` of a mask of at most 256 bits is set. -/
def inMask (m : BitVec 256) (i : Nat) : Bool := m.getLsbD i

/-- Saturating 32-bit count (R73): a counter that reaches 0xFFFF_FFFF stays there. -/
def satAdd32 (c : Word) (n : Nat) : Word :=
  if c.toNat + n > 0xFFFFFFFF then 0xFFFFFFFF else BitVec.ofNat 32 (c.toNat + n)

/-- The bytes of a word, low first. -/
def wordBytes (w : Word) : List Byte := leBytes 4 w.toNat

/-- `XOR` of two numbers. -/
def nxor (a b : Nat) : Nat := a ^^^ b

end Sys2Proof.Machine
end

