-- ==== Sys2Proof/Machine/Num.lean ====
section
/-! DEFINITION. Number formats, exact values and rounding (spec/02_number_formats.md R23 to R45; spec/04_accumulation_order.md R76 to R79; spec/05_scaling_quantisation.md R110). -/
namespace Sys2Proof.Machine

/-- An exact magnitude num / den × 2^ex with a sign (kept for zeros). -/
structure Q where
  neg : Bool
  num : Nat
  den : Nat
  ex : Int
  deriving DecidableEq, Repr

/-- A value of a format: NaN, an infinity, or a finite exact value. -/
inductive Val where
  | nan
  | inf (neg : Bool)
  | fin (q : Q)
  deriving DecidableEq, Repr

/-- A floating-point format of R25: exponent and mantissa bits, bias, and kind of its all-ones exponent field: 0 all finite, 1 E4M3 (one NaN pattern), 2 infinities and NaNs. -/
structure FltFmt where
  eb : Nat
  mb : Nat
  bias : Nat
  kind : Nat
  deriving DecidableEq, Repr

/-- The floating-point formats by code (R25). -/
def fltFmt : Nat → Option FltFmt
  | 0x3 => some ⟨2, 1, 1, 0⟩
  | 0x4 => some ⟨2, 3, 1, 0⟩
  | 0x5 => some ⟨3, 2, 3, 0⟩
  | 0x6 => some ⟨4, 3, 7, 1⟩
  | 0x7 => some ⟨5, 2, 15, 2⟩
  | 0x8 => some ⟨8, 7, 127, 2⟩
  | 0x9 => some ⟨5, 10, 15, 2⟩
  | 0xA => some ⟨8, 23, 127, 2⟩
  | _ => none

/-- FP32 of R25. -/
def fp32 : FltFmt := ⟨8, 23, 127, 2⟩

/-- The width in bits of an element of a format (R23); 0 for a reserved code. -/
def fmtBits : Nat → Nat
  | 0x0 => 4 | 0x1 => 8 | 0x2 => 8 | 0x3 => 4 | 0x4 => 6 | 0x5 => 6 | 0x6 => 8 | 0x7 => 8
  | 0x8 => 16 | 0x9 => 16 | 0xA => 32 | 0xB => 32 | _ => 0

/-- Formats that a slot operand may take (R23). -/
def slotRole (f : Nat) : Bool := f == 0 || f == 1 || (3 ≤ f && f ≤ 8)
/-- Formats that a streamed input may take (R23). -/
def inputRole (f : Nat) : Bool := f ≤ 8
/-- Formats of the vector unit (R23). -/
def vectorRole (f : Nat) : Bool := f ≤ 0xB
/-- FP32, BF16 and FP16: the formats of vector arithmetic (R186, R187). -/
def arithRole (f : Nat) : Bool := f == 8 || f == 9 || f == 10

/-- Bit-planes of an input format (R42). -/
def planes : Nat → Nat
  | 0 => 4 | 1 => 8 | 2 => 9 | 3 => 5 | 4 => 7 | 5 => 8 | 6 => 8 | 7 => 8 | 8 => 24 | _ => 0

/-- A finite integer as an exact value. -/
def qInt (x : Int) : Q := ⟨decide (x < 0), x.natAbs, 1, 0⟩

/-- The value a floating-point encoding holds (R25). -/
def decodeFlt (f : FltFmt) (bits : Nat) : Val :=
  let man := field bits 0 f.mb
  let e := field bits f.mb f.eb
  let neg := bitAt bits (f.mb + f.eb)
  if f.kind = 2 ∧ e = 2 ^ f.eb - 1 then (if man = 0 then .inf neg else .nan)
  else if f.kind = 1 ∧ e = 2 ^ f.eb - 1 ∧ man = 2 ^ f.mb - 1 then .nan
  else if e = 0 then .fin ⟨neg, man, 1, 1 - (f.bias : Int) - f.mb⟩
  else .fin ⟨neg, 2 ^ f.mb + man, 1, (e : Int) - f.bias - f.mb⟩

/-- The value an element of a format holds. A UINT8 element is read as u; its zero point is taken off by the reader (R29). -/
def decodeElem (fmt bits : Nat) : Val :=
  match fltFmt fmt with
  | some f => decodeFlt f bits
  | none =>
    if fmt = 0 then .fin (qInt (toSigned 4 bits))
    else if fmt = 1 then .fin (qInt (toSigned 8 bits))
    else if fmt = 2 then .fin (qInt (field bits 0 8))
    else .fin (qInt (toSigned 32 bits))

/-- The canonical NaN of a format (R26); 0 for a format without one. -/
def canonNaN : Nat → Nat
  | 0x6 => 0x7F | 0x7 => 0x7E | 0x8 => 0x7FC0 | 0x9 => 0x7E00 | 0xA => 0x7FC00000 | _ => 0

/-- A rounding mode: to nearest even, stochastic under a draw of R40, toward zero. -/
inductive Rnd where
  | rne
  | sr (draw : Nat)
  | tz
  deriving DecidableEq, Repr

/-- Numerator and denominator of num/den × 2^sh as naturals. -/
def shiftFrac (num den : Nat) (sh : Int) : Nat × Nat :=
  if 0 ≤ sh then (num * 2 ^ sh.toNat, den) else (num, den * 2 ^ (-sh).toNat)

/-- floor(log2) of a positive magnitude num/den × 2^ex. -/
def log2Q (num den : Nat) (ex : Int) : Int :=
  let k : Int := (Nat.log2 num : Int) - (Nat.log2 den : Int)
  let (n, d) := shiftFrac num den (-k)
  (if n < d then k - 1 else k) + ex

/-- Round n/d to an integer under a mode (R39, R41). -/
def roundInt (m : Rnd) (n d : Nat) : Nat :=
  let q := n / d
  let r := n % d
  match m with
  | .tz => q
  | .rne => if 2 * r > d ∨ (2 * r = d ∧ q % 2 = 1) then q + 1 else q
  | .sr draw => if r * 2 ^ 32 / d + draw ≥ 2 ^ 32 then q + 1 else q

/-- Round a positive magnitude to `p` mantissa bits with smallest step 2^emin: significand and step exponent. -/
def roundMag (m : Rnd) (mb : Nat) (emin : Int) (num den : Nat) (ex : Int) : Nat × Int :=
  let e := log2Q num den ex
  let lsb := max (e - mb) emin
  let (n, d) := shiftFrac num den (ex - lsb)
  (roundInt m n d, lsb)

/-- The step of the subnormal range of a format. -/
def FltFmt.emin (f : FltFmt) : Int := 1 - (f.bias : Int) - f.mb

/-- Significand and step of the largest finite value (R25). -/
def FltFmt.maxFin (f : FltFmt) : Nat × Int :=
  if f.kind = 2 then (2 ^ (f.mb + 1) - 1, (2 ^ f.eb : Nat) - 2 - (f.bias : Int) - f.mb)
  else if f.kind = 1 then (2 ^ (f.mb + 1) - 2, (2 ^ f.eb : Nat) - 1 - (f.bias : Int) - f.mb)
  else (2 ^ (f.mb + 1) - 1, (2 ^ f.eb : Nat) - 1 - (f.bias : Int) - f.mb)

/-- The encoding of sign and significand × 2^lsb, already rounded and within range. -/
def FltFmt.encode (f : FltFmt) (neg : Bool) (q : Nat) (lsb : Int) : Nat :=
  let s := if neg then 2 ^ (f.mb + f.eb) else 0
  if q < 2 ^ f.mb then s + q
  else
    let (q, lsb) := if q = 2 ^ (f.mb + 1) then (2 ^ f.mb, lsb + 1) else (q, lsb)
    s + (lsb + f.mb + f.bias).toNat * 2 ^ f.mb + (q - 2 ^ f.mb)

/-- The encoding of the largest finite value with a sign. -/
def FltFmt.maxBits (f : FltFmt) (neg : Bool) : Nat :=
  f.encode neg f.maxFin.1 f.maxFin.2

/-- The encoding of an infinity. -/
def FltFmt.infBits (f : FltFmt) (neg : Bool) : Nat :=
  (if neg then 2 ^ (f.mb + f.eb) else 0) + (2 ^ f.eb - 1) * 2 ^ f.mb

/-- Whether a rounded magnitude passes the largest finite value. -/
def FltFmt.overflows (f : FltFmt) (q : Nat) (lsb : Int) : Bool :=
  decide (lsb > f.maxFin.2) || (decide (lsb = f.maxFin.2) && decide (q > f.maxFin.1))

/-- Round a value once to a floating-point format as an arithmetic result (R26): overflow goes to infinity. -/
def arithTo (fmt : Nat) (m : Rnd) (v : Val) : Nat :=
  match fltFmt fmt with
  | none => 0
  | some f =>
    match v with
    | .nan => canonNaN fmt
    | .inf n => f.infBits n
    | .fin x =>
      if x.num = 0 then f.encode x.neg 0 0
      else
        let r := roundMag m f.mb f.emin x.num x.den x.ex
        if f.overflows r.1 r.2 then f.infBits x.neg else f.encode x.neg r.1 r.2

/-- What one converted element is: its bits and how R27 classifies it. -/
structure Conv where
  bits : Nat
  sat : Bool
  under : Bool
  nonfin : Bool
  deriving DecidableEq, Repr

/-- The integer limits of a format, as (lowest, highest). -/
def intLimits : Nat → Int × Int
  | 0 => (-8, 7) | 1 => (-128, 127) | 2 => (0, 255) | _ => (-2147483648, 2147483647)

/-- Width of an integer format. -/
def intWidth : Nat → Nat
  | 0 => 4 | 1 => 8 | 2 => 8 | _ => 32

/-- Convert a value to an integer format with zero point `zp` (0 but for UINT8), under R27. -/
def convInt (fmt : Nat) (zp : Nat) (m : Rnd) (v : Val) : Conv :=
  let (lo, hi) := intLimits fmt
  let w := intWidth fmt
  match v with
  | .nan =>
    if fmt = 0xB then ⟨(Config.convUnstated fmt 2 false 0 1 0).toNat, false, false, true⟩
    else ⟨ofSigned w (if fmt = 2 then (zp : Int) else 0), false, false, true⟩
  | .inf n =>
    if fmt = 0xB then ⟨(Config.convUnstated fmt 1 n 0 1 0).toNat, false, false, true⟩
    else ⟨ofSigned w (if n then lo else hi), false, false, true⟩
  | .fin x =>
    let (nn, dd) := shiftFrac x.num x.den x.ex
    let k : Int := roundInt m nn dd
    let r := (if x.neg then -k else k) + zp
    if r < lo ∨ hi < r then
      if fmt = 0xB then ⟨(Config.convUnstated fmt 0 x.neg x.num x.den x.ex).toNat, true, false, false⟩
      else ⟨ofSigned w (if r < lo then lo else hi), true, false, false⟩
    else ⟨ofSigned w r, false, decide (x.num ≠ 0) && decide (k = 0), false⟩

/-- Convert a value to a floating-point format under R27. -/
def convFlt (fmt : Nat) (f : FltFmt) (m : Rnd) (v : Val) : Conv :=
  match v with
  | .nan => ⟨canonNaN fmt, false, false, true⟩
  | .inf n =>
    if f.kind = 2 then ⟨f.infBits n, false, false, true⟩
    else if f.kind = 1 then ⟨canonNaN fmt, false, false, true⟩
    else ⟨f.maxBits n, false, false, true⟩
  | .fin x =>
    if x.num = 0 then ⟨f.encode x.neg 0 0, false, false, false⟩
    else
      let r := roundMag m f.mb f.emin x.num x.den x.ex
      if f.overflows r.1 r.2 then
        if fmt = 0xA then ⟨(Config.convUnstated fmt 0 x.neg x.num x.den x.ex).toNat, true, false, false⟩
        else ⟨f.maxBits x.neg, true, false, false⟩
      else ⟨f.encode (x.neg && (decide (r.1 ≠ 0) || decide (f.kind ≠ 0))) r.1 r.2, false, decide (r.1 = 0), false⟩

/-- A conversion of R27 to any format. -/
def convTo (fmt zp : Nat) (m : Rnd) (v : Val) : Conv :=
  match fltFmt fmt with
  | some f => convFlt fmt f m v
  | none => convInt fmt zp m v

/-! Exact arithmetic. -/

/-- The value with its sign as an integer numerator over `den` at exponent `ex`. -/
def Q.sNum (x : Q) : Int := if x.neg then -(x.num : Int) else x.num

/-- Exact sum. A zero sum is +0 unless both operands are negative zeros (R26, IEEE 754). -/
def qAdd (a b : Q) : Q :=
  let e := min a.ex b.ex
  let an := a.sNum * (b.den * 2 ^ (a.ex - e).toNat : Nat)
  let bn := b.sNum * (a.den * 2 ^ (b.ex - e).toNat : Nat)
  let s := an + bn
  ⟨if s = 0 then a.neg && b.neg && decide (a.num = 0) && decide (b.num = 0) else decide (s < 0), s.natAbs, a.den * b.den, e⟩

/-- Exact product. -/
def qMul (a b : Q) : Q := ⟨a.neg != b.neg, a.num * b.num, a.den * b.den, a.ex + b.ex⟩

/-- Exact quotient by a non-zero value. -/
def qDiv (a b : Q) : Q := ⟨a.neg != b.neg, a.num * b.den, a.den * b.num, a.ex - b.ex⟩

/-- Exact difference of two values as a non-negative magnitude, for errors. -/
def qAbsDiff (a b : Q) : Q := { qAdd a { b with neg := !b.neg } with neg := false }

/-- Compare exact values: a < b. -/
def qLt (a b : Q) : Bool :=
  let e := min a.ex b.ex
  decide (a.sNum * (b.den * 2 ^ (a.ex - e).toNat : Nat) < b.sNum * (a.den * 2 ^ (b.ex - e).toNat : Nat))

/-- The larger magnitude of an exact magnitude and a value; a NaN or an infinity takes no part. -/
def qMaxVal (m : Q) : Val → Q
  | .fin x => if qLt m { x with neg := false } then { x with neg := false } else m
  | _ => m

/-- The largest magnitude of the finite values of a list, exact; zero where there is none (R45, R108). -/
def amaxOf (vs : List Val) : Q := vs.foldl qMaxVal ⟨false, 0, 1, 0⟩

/-- Sum of two values (R26). -/
def vAdd : Val → Val → Val
  | .nan, _ => .nan
  | _, .nan => .nan
  | .inf a, .inf b => if a = b then .inf a else .nan
  | .inf a, .fin _ => .inf a
  | .fin _, .inf b => .inf b
  | .fin a, .fin b => .fin (qAdd a b)

/-- Product of two values (R26). -/
def vMul : Val → Val → Val
  | .nan, _ => .nan
  | _, .nan => .nan
  | .inf a, .inf b => .inf (a != b)
  | .inf a, .fin b => if b.num = 0 then .nan else .inf (a != b.neg)
  | .fin a, .inf b => if a.num = 0 then .nan else .inf (a.neg != b)
  | .fin a, .fin b => .fin (qMul a b)

/-- Whether a value is a NaN. -/
def Val.isNaN : Val → Bool
  | .nan => true
  | _ => false

/-- Whether a value is finite. -/
def Val.isFin : Val → Bool
  | .fin _ => true
  | _ => false

/-- Order of two values that are not NaNs: a < b, with −0 = +0. -/
def vLt : Val → Val → Bool
  | .fin a, .fin b => qLt a b
  | .inf a, .inf b => a && !b
  | .inf a, .fin _ => a
  | .fin _, .inf b => !b
  | _, _ => false

/-- One IEEE 754 FP32 addition, to nearest even (R26). -/
def f32Add (a b : Nat) : Nat := arithTo 0xA .rne (vAdd (decodeFlt fp32 a) (decodeFlt fp32 b))

/-- Clamp an integer to the INT32 range, and whether it was clamped (R79, R186). -/
def satI32 (x : Int) : Int × Bool :=
  if x < -2147483648 then (-2147483648, true)
  else if x > 2147483647 then (2147483647, true)
  else (x, false)

/-- INT32 addition with saturation: the bits, and whether it saturated (R79). -/
def i32Add (a b : Nat) : Nat × Bool :=
  let r := satI32 (toSigned 32 a + toSigned 32 b)
  (ofSigned 32 r.1, r.2)

/-! Square root and exp2, each correctly rounded once (R187). -/

/-- Integer square root by bits, from bit `k` down. -/
def isqrtBits (n : Nat) : Nat → Nat → Nat
  | 0, acc => acc
  | k + 1, acc =>
    let t := acc + 2 ^ k
    isqrtBits n k (if t * t ≤ n then t else acc)

/-- floor(√n). -/
def isqrt (n : Nat) : Nat := isqrtBits n (Nat.log2 n / 2 + 1) 0

/-- 1/√x for a positive finite x, rounded to nearest even: significand and step. -/
def rsqrtMag (mb : Nat) (emin : Int) (x : Q) : Nat × Int :=
  let e := Int.fdiv (log2Q x.den x.num (-x.ex)) 2
  let lsb := max (e - mb) emin
  let (n, d) := shiftFrac x.den x.num (-x.ex - 2 * lsb)
  let q := isqrt (n / d)
  (if 4 * n > (2 * q + 1) * (2 * q + 1) * d ∨ (4 * n = (2 * q + 1) * (2 * q + 1) * d ∧ q % 2 = 1) then q + 1 else q, lsb)

/-- ln 2 × 2^352, rounded down. -/
def ln2Fixed : Nat := 6358928397166619073799727950702657526331395863850634013586543962628151833936298946809452269120457102676731

/-- Σ y^k / k! in fixed point with 352 fraction bits, `n` more terms, from the term `t` of index `k`. -/
def expTerms (y : Nat) : Nat → Nat → Nat → Nat → Nat
  | 0, _, _, acc => acc
  | n + 1, k, t, acc => expTerms y n (k + 1) (t * y / 2 ^ 352 / (k + 1)) (acc + t)

/-- 2^f in fixed point with 352 fraction bits, for f = num / 2^k in [0, 1). -/
def exp2Frac (num k : Nat) : Nat :=
  expTerms (num * ln2Fixed / 2 ^ k) 80 0 (2 ^ 352) 0

/-- 2^x for a finite x, as an exact dyadic or as a value strictly between two neighbours at 2^-352: the rounding of the former is the rounding of the exact power (log entry 8). -/
def exp2Q (x : Q) : Val :=
  if x.num = 0 then .fin ⟨false, 1, 1, 0⟩
  else
    let k := (-x.ex).toNat
    let s : Int := x.sNum * (2 ^ x.ex.toNat : Nat)
    let n := Int.fdiv s ((2 ^ k : Nat) : Int)
    let f := (Int.fmod s ((2 ^ k : Nat) : Int)).toNat
    if n > 4096 then .fin ⟨false, 1, 1, 4096⟩
    else if n < -4096 then .fin ⟨false, 1, 1, -4096⟩
    else if f = 0 then .fin ⟨false, 1, 1, n⟩
    else .fin ⟨false, 2 * exp2Frac f k + 1, 1, n - 353⟩

/-! The scumble generator (R40). -/

/-- One Philox4x32 round. -/
def philoxRound (k0 k1 c0 c1 c2 c3 : Nat) : Nat × Nat × Nat × Nat :=
  let p0 := 0xD2511F53 * c0
  let p1 := 0xCD9E8D57 * c2
  (nxor (nxor (p1 / 2 ^ 32) c1) k0, p1 % 2 ^ 32, nxor (nxor (p0 / 2 ^ 32) c3) k1, p0 % 2 ^ 32)

/-- `n` rounds of Philox4x32, the key bumped between rounds. -/
def philoxRounds : Nat → Nat → Nat → Nat × Nat × Nat × Nat → Nat × Nat × Nat × Nat
  | 0, _, _, c => c
  | n + 1, k0, k1, (c0, c1, c2, c3) =>
    philoxRounds n ((k0 + 0x9E3779B9) % 2 ^ 32) ((k1 + 0xBB67AE85) % 2 ^ 32) (philoxRound k0 k1 c0 c1 c2 c3)

/-- The draw of R40 for seed s, tensor t and element index i. -/
def scumble (s t i : Nat) : Nat :=
  let n := i / 4
  let r := philoxRounds 10 (s % 2 ^ 32) (s / 2 ^ 32 % 2 ^ 32) (n % 2 ^ 32, n / 2 ^ 32 % 2 ^ 14, t, 0)
  match i % 4 with
  | 0 => r.1
  | 1 => r.2.1
  | 2 => r.2.2.1
  | _ => r.2.2.2

/-! Scales (R30, R76, R110). -/

/-- What a stored scale stands for. -/
inductive ScaleVal where
  | nan
  | zero
  | pos (sig : Nat) (ex : Int)
  deriving DecidableEq, Repr

/-- The value of a stored scale in a scale format (R30, R76). -/
def scaleVal (sfmt bits : Nat) : ScaleVal :=
  if sfmt = 0 then (if bits % 256 = 0xFF then .nan else .pos 1 ((bits % 256 : Nat) - (127 : Int)))
  else if sfmt = 1 then
    let b := bits % 256
    if b ≥ 0x7F then .nan
    else if b = 0 then .zero
    else if b < 8 then .pos b (-9)
    else .pos (8 + b % 8) ((b / 8 : Nat) - (10 : Int))
  else
    let m := field bits 0 16
    if m = 0 then .zero else .pos m (-(toSigned 8 (field bits 16 8)))

/-- A scale as an exact value; none for a NaN. -/
def ScaleVal.toQ : ScaleVal → Option Q
  | .nan => none
  | .zero => some ⟨false, 0, 1, 0⟩
  | .pos s e => some ⟨false, s, 1, e⟩

/-- x × s: element times scale, exact; a NaN scale gives a NaN (R28, R34). A zero scale gives zero (R30), but a NaN for a value that makes its group non-finite (R34, R478). -/
def scaleMul (v : Val) (s : ScaleVal) : Val :=
  match s with
  | .nan => .nan
  | .zero => match v with
    | .fin x => .fin ⟨x.neg, 0, 1, 0⟩
    | _ => .nan
  | .pos k e => vMul v (.fin ⟨false, k, 1, e⟩)

/-- The combined group scale (R76): product significand and exponent, normalised to m × 2^(−sh) with 2^15 ≤ m < 2^16, truncating. -/
def combineScale (sig : Nat) (ex : Int) : Nat × Int :=
  let k : Int := (Nat.log2 sig : Int) - 15
  let m := if 0 ≤ k then sig / 2 ^ k.toNat else sig * 2 ^ (-k).toNat
  (m, -(ex + k))

/-- Promote a group sum into FP32 by truncation (R78): bits, and whether it saturated. -/
def promoteF32 (g : Int) (m : Nat) (sh : Int) : Nat × Bool :=
  let num := g.natAbs * m
  if num = 0 then (0, false)
  else
    let r := roundMag .tz fp32.mb fp32.emin num 1 (-sh)
    if fp32.overflows r.1 r.2 then (fp32.maxBits (decide (g < 0)), true)
    else (fp32.encode (decide (g < 0)) r.1 r.2, false)

/-- Promote a group sum into INT32 (R79): bits, and whether it saturated. -/
def promoteI32 (g : Int) (m : Nat) (sh : Int) : Nat × Bool :=
  let (n, d) := shiftFrac (g.natAbs * m) 1 (-sh)
  let k : Int := (n / d : Nat)
  let r := satI32 (if g < 0 then -k else k)
  (ofSigned 32 r.1, r.2)

/-- The largest finite magnitude F of a scaling target (R110). -/
def targetMax (fmt : Nat) : Q :=
  match fltFmt fmt with
  | some f => ⟨false, f.maxFin.1, 1, f.maxFin.2⟩
  | none => if fmt = 0 then ⟨false, 7, 1, 0⟩ else if fmt = 1 then ⟨false, 127, 1, 0⟩
            else if fmt = 2 then ⟨false, 255, 1, 0⟩ else ⟨false, 2147483647, 1, 0⟩

/-- The rounded-up quotient of num/den × 2^ex as an integer. -/
def ceilQ (x : Q) : Nat :=
  let (n, d) := shiftFrac x.num x.den x.ex
  ceilDiv n d

/-- The smallest UE4M3 encoding from `b` up whose value is not below q, clamped to 0x7E (R110). -/
def ue4m3Up (q : Q) : Nat → Nat → Nat
  | 0, b => b
  | n + 1, b =>
    match scaleVal 1 b with
    | .pos s e => if qLt ⟨false, s, 1, e⟩ q then ue4m3Up q n (b + 1) else b
    | _ => ue4m3Up q n (b + 1)

/-- scale_from(a) of R110: the stored scale for an exact amax, target format, scale format and margin. -/
def scaleFrom (sfmt fmt : Nat) (margin : Int) (a : Q) : Nat :=
  let q := qDiv { a with ex := a.ex + margin } (targetMax fmt)
  if sfmt = 0 then
    if q.num = 0 then 0
    else
      let e := log2Q q.num q.den q.ex
      let (n, d) := shiftFrac q.num q.den (q.ex - e)
      let c := if n = d then e else e + 1
      ((max (-127) (min 127 c)) + 127).toNat
  else if sfmt = 1 then
    if q.num = 0 then 1 else ue4m3Up q 125 1
  else
    if q.num = 0 then 0x7F8000
    else
      let sh := 15 - log2Q q.num q.den q.ex
      let shc := max (-128) (min 127 sh)
      let m := ceilQ { q with ex := q.ex + shc }
      let (m, shc) := if m = 2 ^ 16 ∧ -128 < shc then (2 ^ 15, shc - 1) else (m, shc)
      min m 0xFFFF + ofSigned 8 shc * 2 ^ 16

/-- emax of the targets that R45 names; none for the others. -/
def emaxOf : Nat → Option Int
  | 3 => some 2 | 4 => some 2 | 5 => some 4 | 6 => some 8 | 7 => some 15 | _ => none

/-- The scale formed from a present amax: R45 for E8M0 with the targets it names, R110 otherwise. -/
def scaleFromPresent (sfmt fmt : Nat) (margin : Int) (a : Q) : Nat :=
  match (if sfmt = 0 then emaxOf fmt else none) with
  | some em =>
    if a.num = 0 then 0
    else ((max (-127) (min 127 (log2Q a.num a.den a.ex - em + margin))) + 127).toNat
  | none => scaleFrom sfmt fmt margin a

/-! Packing of elements (R31). -/

/-- Bits of element `i` of a packed tensor of `w`-bit elements whose first byte is at the head of the list. -/
def unpackAt (w : Nat) (l : List Byte) (i : Nat) : Nat :=
  if w = 4 then field (l.getD (i / 2) 0).toNat (4 * (i % 2)) 4
  else if w = 6 then field (leAt l (3 * (i / 4)) 3) (6 * (i % 4)) 6
  else leAt l (w / 8 * i) (w / 8)

/-- Bytes that `n` packed elements take. -/
def packedLen (w n : Nat) : Nat :=
  if w = 4 then ceilDiv n 2 else if w = 6 then 3 * ceilDiv n 4 else w / 8 * n

/-- Unpack the first `n` elements. -/
def unpack (w n : Nat) (l : List Byte) : List Nat :=
  if w = 4 then ((l.flatMap fun b => [b.toNat % 16, b.toNat / 16]).take n)
  else if w = 6 then (((chunks 3 l).flatMap fun c => let x := leNat c; [field x 0 6, field x 6 6, field x 12 6, field x 18 6]).take n)
  else ((chunks (w / 8) l).map leNat).take n

/-- Pack elements (R31). -/
def pack (w : Nat) (l : List Nat) : List Byte :=
  if w = 4 then (chunks 2 l).map fun c => BitVec.ofNat 8 (c.getD 0 0 + 16 * c.getD 1 0)
  else if w = 6 then (chunks 4 l).flatMap fun c => leBytes 3 (c.getD 0 0 + 64 * c.getD 1 0 + 4096 * c.getD 2 0 + 262144 * c.getD 3 0)
  else l.flatMap (leBytes (w / 8))

/-! Alignment to array integers (R29, R32, R33, R37). -/

/-- Alignment parameter L of R33. -/
def alignL (fmt : Nat) : Int := if fmt = 8 then 13 else 6

/-- Whether a format is aligned in groups (R33). -/
def alignsInGroups (fmt : Nat) : Bool := fmt == 5 || fmt == 6 || fmt == 7 || fmt == 8

/-- The unbiased exponent of a finite element in its format, a subnormal counting as the smallest normal. -/
def elemExp (f : FltFmt) (x : Q) : Int := max (log2Q x.num x.den x.ex) (1 - (f.bias : Int))

/-- What aligning one group gives: the integers, the exponent of the group factor, and the non-finite flag. -/
structure Aligned where
  q : List Int
  fac : Int
  nonfin : Bool
  deriving DecidableEq, Repr

/-- Truncate v × 2^k toward zero. -/
def truncScaled (x : Q) (k : Int) : Int :=
  let (n, d) := shiftFrac x.num x.den (x.ex + k)
  if x.neg then -((n / d : Nat) : Int) else ((n / d : Nat) : Int)

/-- The group exponent E of R33 over elements with their validity. -/
def groupExp (f : FltFmt) (vs : List (Val × Bool)) : Int :=
  vs.foldl (fun e vb => match vb with
    | (.fin x, true) => if x.num = 0 then e else max e (elemExp f x)
    | _ => e) (1 - (f.bias : Int))

/-- Align one group of elements, given with their validity (an invalid row reads as zero and takes no part in E, R36); `zp` for UINT8. -/
def alignGroup (fmt zp : Nat) (es : List (Nat × Bool)) : Aligned :=
  let vs := es.map fun eb => (if eb.2 then decodeElem fmt eb.1 else .fin ⟨false, 0, 1, 0⟩, eb.2)
  if vs.any (fun vb => !vb.1.isFin) then ⟨es.map fun _ => 0, 0, true⟩
  else
    let k : Int :=
      if fmt = 3 then 1 else if fmt = 4 then 3
      else if alignsInGroups fmt then
        (match fltFmt fmt with | some f => alignL fmt - groupExp f vs | none => 0)
      else 0
    let q := vs.map fun vb => match vb.1 with
      | .fin x => if vb.2 then truncScaled x k - (if fmt = 2 then (zp : Int) else 0) else 0
      | _ => 0
    ⟨q, -k, false⟩

/-- Align one group under the scale, zero point and flag of its record entry (R34, R44): a NaN scale or a set flag makes every q zero and the group non-finite; `mx` marks an INT8 tensor with E8M0 scales as MX, whose element factor 2^-6 goes into the group factor. -/
def alignScaled (fmt : Nat) (mx : Bool) (s : ScaleVal × Nat × Bool) (es : List (Nat × Bool)) : Aligned :=
  if s.1 = .nan ∨ s.2.2 then ⟨es.map fun _ => 0, 0, true⟩
  else
    let al := alignGroup fmt s.2.1 es
    if fmt = 1 ∧ mx then { al with fac := al.fac - 6 } else al

/-- The high and low parts of an aligned BF16 integer (R37). -/
def splitHigh (q : Int) : Int := Int.fdiv (q + 128) 256
/-- The low part (R37). -/
def splitLow (q : Int) : Int := q - 256 * splitHigh q

end Sys2Proof.Machine
end

