-- ==== Sys2Proof/Decode.lean ====
section
/-! DEFINITION. The 64-bit words of the cell instructions: encoder, first decoding stage and decoder (spec/08_instruction_reference.md R170 to R195), and the decoder of the command table, whose rows carry no bits. -/
namespace Sys2Proof
open Machine

/-- Opcode and operand bits of an instruction (R176 to R195); the bits of the suffixes above the operands are included. -/
def opBits : CellOp → Nat × Nat
  | .nop => (0x00, 0)
  | .halt => (0x01, 0)
  | .loop f => (0x02, 2 ^ 44 * f.ln.toNat + 2 ^ 43 * b2n f.src + 2 ^ 39 * f.ra.toNat + 2 ^ 25 * f.dist.toNat + f.imm.toNat)
  | .endloop ln => (0x03, 2 ^ 44 * ln.toNat)
  | .br o => (0x04, 2 ^ 31 * o.toNat)
  | .brp ra => (0x05, 2 ^ 42 * ra.toNat)
  | .cuewait f => (0x06, 2 ^ 33 * f.cue.toNat + 2 ^ 28 * f.ra.toNat + f.imm.toNat)
  | .cuesig f => (0x07, 2 ^ 48 * b2n f.rel + 2 ^ 33 * f.cue.toNat + 2 ^ 32 * b2n f.remote + 2 ^ 28 * f.rm.toNat + 2 ^ 24 * f.rc.toNat
      + 2 ^ 23 * b2n f.src + f.imm.toNat)
  | .waitc f => (0x08, 2 ^ 42 * f.ctr.toNat + 2 ^ 41 * b2n f.src + 2 ^ 37 * f.ra.toNat + f.imm.toNat)
  | .fence s => (0x09, 2 ^ 43 * s.toNat)
  | .setcfg f => (0x0A, 2 ^ 38 * f.sel.toNat + 2 ^ 37 * b2n f.src + 2 ^ 33 * f.ra.toNat + f.imm.toNat)
  | .li rd imm => (0x10, 2 ^ 42 * rd.toNat + imm.toNat)
  | .alu k rd ra rb => ((match k with | .add => 0x11 | .sub => 0x13 | .and => 0x16 | .or => 0x17),
      2 ^ 42 * rd.toNat + 2 ^ 38 * ra.toNat + 2 ^ 34 * rb.toNat)
  | .addi rd ra imm => (0x12, 2 ^ 42 * rd.toNat + 2 ^ 38 * ra.toNat + imm.toNat)
  | .shift right f => (if right then 0x15 else 0x14, 2 ^ 42 * f.rd.toNat + 2 ^ 38 * f.ra.toNat + 2 ^ 34 * f.rb.toNat + 2 ^ 33 * b2n f.i
      + 2 ^ 32 * b2n f.arith + f.sh.toNat)
  | .cmp f => (0x18, 2 ^ 43 * f.pd.toNat + 2 ^ 38 * f.ra.toNat + 2 ^ 34 * f.rb.toNat + 2 ^ 33 * b2n f.i + 2 ^ 30 * f.cond.toNat + f.imm.toNat)
  | .wload f => (0x20, 2 ^ 45 * f.slot.toNat + 2 ^ 41 * f.fmt.toNat + 2 ^ 39 * f.group.toNat + 2 ^ 38 * b2n f.s24 + 2 ^ 34 * f.ra.toNat
      + 2 ^ 32 * f.stream.toNat + 2 ^ 31 * b2n f.palEn + 2 ^ 27 * f.rp.toNat + 2 ^ 19 * f.nrowsM1.toNat + 2 ^ 18 * b2n f.scaled)
  | .mvm t f => (if t then 0x22 else 0x21, 2 ^ 50 * f.begin.toNat + 2 ^ 47 * b2n f.tree + 2 ^ 46 * b2n f.sp + 2 ^ 45 * f.slot.toNat
      + 2 ^ 43 * f.tile.toNat + 2 ^ 37 * f.first.toNat + 2 ^ 31 * f.countM1.toNat + 2 ^ 27 * f.ra.toNat + 2 ^ 23 * f.fmt.toNat
      + 2 ^ 21 * f.stream.toNat + 2 ^ 20 * b2n f.int + 2 ^ 19 * b2n f.skipEn + 2 ^ 15 * f.rk.toNat + 2 ^ 14 * b2n f.palEn
      + 2 ^ 10 * f.rp.toNat + 2 ^ 9 * b2n f.scaled)
  | .swatch => (0x23, 0)
  | .slotinv s => (0x24, 2 ^ 45 * s.toNat)
  | .aclr t int => (0x30, 2 ^ 44 * t.toNat + 2 ^ 43 * b2n int)
  | .apromo => (0x31, 0)
  | .adrain f => (0x32, 2 ^ 44 * f.tile.toNat + 2 ^ 38 * f.first.toNat + 2 ^ 32 * f.countM1.toNat + 2 ^ 28 * f.rd.toNat)
  | .amov s d => (0x33, 2 ^ 44 * s.toNat + 2 ^ 42 * d.toNat)
  | .arot f => (0x34, 2 ^ 45 * f.toNat)
  | .vec k f => ((match k with
      | .add => 0x40 | .mul => 0x41 | .fma => 0x42 | .max => 0x43 | .min => 0x44 | .exp2 => 0x45 | .rcp => 0x46 | .rsq => 0x47
      | .cvt => 0x48 | .had => 0x49 | .sclConvert => 0x4A | .sclDerive => 0x4A | .sclPush => 0x4A | .sclPushAdvance => 0x4A
      | .sclMerge => 0x4A | .stat => 0x4B | .prune24 => 0x4C | .red => 0x4D),
      2 ^ 49 * b2n f.jit + 2 ^ 46 * b2n f.sp + 2 ^ 42 * f.rd.toNat + 2 ^ 38 * f.rs1.toNat + 2 ^ 34 * f.rs2.toNat + 2 ^ 30 * f.rn.toNat
      + 2 ^ 26 * f.rx.toNat + 2 ^ 22 * f.fs.toNat + 2 ^ 18 * f.fd.toNat + 2 ^ 17 * b2n f.rnd + 2 ^ 13 * f.rc.toNat + 2 ^ 8 * f.sub.toNat
      + f.tag.toNat)
  | .ld rd ra imm => (0x50, 2 ^ 42 * rd.toNat + 2 ^ 38 * ra.toNat + imm.toNat)
  | .st f => (0x51, 2 ^ 42 * f.rd.toNat + 2 ^ 38 * f.ra.toNat + 2 ^ 34 * f.rn.toNat + 2 ^ 33 * b2n f.form + 2 ^ 16 * f.tag.toNat + f.imm.toNat)
  | .put f => (0x52, 2 ^ 42 * f.rd.toNat + 2 ^ 38 * f.ra.toNat + 2 ^ 34 * f.rn.toNat + 2 ^ 33 * b2n f.cntEn + 2 ^ 29 * f.ctr.toNat
      + 2 ^ 16 * f.tag.toNat + 2 ^ 12 * f.rk.toNat)
  | .get f => (0x53, 2 ^ 42 * f.rd.toNat + 2 ^ 38 * f.ra.toNat + 2 ^ 34 * f.rn.toNat + 2 ^ 33 * b2n f.cntEn + 2 ^ 29 * f.ctr.toNat)
  | .accw f acc => (0x54, 2 ^ 42 * f.rd.toNat + 2 ^ 38 * f.ra.toNat + 2 ^ 34 * f.rn.toNat + 2 ^ 33 * b2n f.cntEn + 2 ^ 29 * f.ctr.toNat
      + 2 ^ 27 * acc.toNat + 2 ^ 16 * f.tag.toNat + 2 ^ 12 * f.rk.toNat)
  | .hbmrd f => (0x55, 2 ^ 42 * f.rd.toNat + 2 ^ 38 * f.ra.toNat + 2 ^ 34 * f.rn.toNat + 2 ^ 33 * b2n f.cntEn + 2 ^ 29 * f.ctr.toNat)
  | .hbmwr f => (0x56, 2 ^ 42 * f.rd.toNat + 2 ^ 38 * f.ra.toNat + 2 ^ 34 * f.rn.toNat + 2 ^ 33 * b2n f.cntEn + 2 ^ 29 * f.ctr.toNat)
  | .tagset full ra rn => (if full then 0x57 else 0x58, 2 ^ 42 * ra.toNat + 2 ^ 38 * rn.toNat)
  | .csend f => (0x60, 2 ^ 42 * f.ra.toNat + 2 ^ 38 * f.rn.toNat + 2 ^ 36 * f.op.toNat + 2 ^ 35 * b2n f.int + 2 ^ 31 * f.rt.toNat)
  | .crecv f => (0x61, 2 ^ 42 * f.ra.toNat + 2 ^ 38 * f.rn.toNat + 2 ^ 36 * f.op.toNat + 2 ^ 35 * b2n f.int + 2 ^ 31 * f.rt.toNat)

/-- The 64-bit word of an instruction with its guard (R170, R171). -/
def encodeCell (p : Pred) (op : CellOp) : DWord :=
  let b := opBits op
  BitVec.ofNat 64 (2 ^ 56 * b.1 + 2 ^ 53 * p.psel.toNat + 2 ^ 52 * b2n p.pneg + b.2)

/-! The first stage (R172, R173): what the word alone forbids. -/

/-- Formats among FP32, BF16 and FP16. -/
def isArith (f : BitVec 4) : Bool := arithRole f.toNat

/-- Fields of a vector instruction that it does not use are zero, and its subfunction and suffixes are allowed (R172, R185 to R190, R477). -/
def vecStage1 (k : VecKind) (f : VecF) : Bool :=
  let z4 := fun (r : AReg) => r == 0
  let noSuffix := !f.jit && !f.sp
  let rcFor := fun (used : Bool) (tensor : Bool) => if used then decide (f.rc.toNat ≤ (if tensor then 12 else 13)) else f.rc == 0
  match k with
  | .add | .max =>
    noSuffix && z4 f.rx && decide (f.sub.toNat ≤ 1) && rcFor (f.rnd || f.sub == 1) f.rnd && !(f.fs == 0xB && (f.rnd || f.sub == 1))
  | .mul | .min => noSuffix && z4 f.rx && f.sub == 0 && rcFor f.rnd f.rnd && !(f.fs == 0xB && f.rnd)
  | .fma => noSuffix && f.sub == 0 && rcFor f.rnd f.rnd && !(f.fs == 0xB && f.rnd)
  | .exp2 | .rcp | .rsq => noSuffix && z4 f.rs2 && z4 f.rx && f.sub == 0 && !f.rnd && f.rc == 0
  | .cvt =>
    let pal := f.sub.getLsbD 0
    let rec' := f.sub.getLsbD 1
    let deq := f.sub.getLsbD 2
    (!rec' || pal) && (pal || z4 f.rs2) && (rec' || z4 f.rx) && (deq || f.sub.toNat / 8 == 0)
      && rcFor (f.rnd || deq || pal || f.sp) (f.rnd && !pal)
  | .had => noSuffix && z4 f.rx && (f.sub.getLsbD 2 || z4 f.rs2) && f.sub.toNat % 4 != 3 && f.sub.toNat / 8 == 0 && !f.rnd && rcFor true false
  | .sclConvert => !f.jit && f.sub.toNat % 8 == 0 && f.sub.toNat / 16 == 0 && (f.sub.getLsbD 3 || z4 f.rs2) && rcFor true (f.rnd && !f.sub.getLsbD 3)
  | .sclDerive => noSuffix && f.sub == 1 && z4 f.rd && z4 f.rx && f.fd == 0 && !f.rnd && f.rc == 0 && f.tag == 0
  | .sclPush => noSuffix && f.sub == 2 && z4 f.rd && z4 f.rs1 && z4 f.rn && z4 f.rx && f.fs == 0 && f.fd == 0 && !f.rnd && f.rc == 0 && f.tag == 0
  | .sclPushAdvance => noSuffix && f.sub == 3 && z4 f.rd && z4 f.rs1 && z4 f.rn && z4 f.rx && f.fs == 0 && f.fd == 0 && !f.rnd && f.rc == 0 && f.tag == 0
  | .sclMerge => noSuffix && f.sub == 4 && z4 f.rs2 && z4 f.rn && z4 f.rx && f.fs == 0 && f.fd == 0 && !f.rnd && f.rc == 0 && f.tag == 0
  | .stat =>
    noSuffix && decide (f.sub.toNat ≤ 1) && z4 f.rx && f.fd == 0 && !f.rnd && rcFor true false
      && (if f.sub == 1 then z4 f.rs2 else z4 f.rd && f.tag == 0)
  | .prune24 => noSuffix && f.sub == 0 && !f.rnd && rcFor true false
  | .red => noSuffix && z4 f.rs2 && z4 f.rx && f.sub.toNat / 8 == 0 && !f.rnd && rcFor true false

/-- A register pair's first register (R174). -/
def pairOk (r : AReg) : Bool := decide (r.toNat ≤ 14)

/-- The first decoding stage (R172, R173, R174, R177 to R195): false for a word that stops the cell whatever its predicate. -/
def stage1 : CellOp → Bool
  | .loop f => f.dist != 0
  | .fence s => decide (s.toNat ≤ 4)
  | .shift right f => right || !f.arith
  | .cmp f => decide (f.cond.toNat ≤ 5)
  | .wload f => (f.fmt != 8 || f.slot == 0) && (if f.s24 then f.nrowsM1 == 127 else decide (f.nrowsM1.toNat ≤ 127))
  | .mvm _ f => (f.begin == 1 || f.begin == 2) && f.tile != 3 && (f.fmt != 8 || f.slot == 0) && (f.fmt != 2 || f.scaled)
  | .aclr t _ => t != 3
  | .adrain f => f.tile != 3
  | .amov s d => s != 3 && d != 3
  | .vec k f => vecStage1 k f
  | .st f => if f.form then f.ra == 0 && f.tag == 0 else f.imm == 0
  | .put f => pairOk f.rd
  | .accw f acc => pairOk f.rd && acc != 3
  | .get f => pairOk f.ra
  | .hbmrd f => pairOk f.ra
  | .hbmwr f => pairOk f.rd
  | .csend f => f.op != 3
  | .crecv f => f.op != 3
  | _ => true

/-! The decoder. -/

/-- A field of a word as a bit vector. -/
def fld (x lo w : Nat) : BitVec w := BitVec.ofNat w (field x lo w)

/-- Vector fields of a word (R185). -/
def vecFields (x : Nat) : VecF :=
  ⟨bitAt x 49, bitAt x 46, fld x 42 4, fld x 38 4, fld x 34 4, fld x 30 4, fld x 26 4, fld x 22 4, fld x 18 4, bitAt x 17, fld x 13 4, fld x 8 5, fld x 0 8⟩

/-- Fields of PUT and ACCW (R192). -/
def putFields (x : Nat) : PutF := ⟨fld x 42 4, fld x 38 4, fld x 34 4, bitAt x 33, fld x 29 4, fld x 16 8, fld x 12 4⟩
/-- Fields of GET, HBMRD and HBMWR (R192). -/
def xferFields (x : Nat) : XferF := ⟨fld x 42 4, fld x 38 4, fld x 34 4, bitAt x 33, fld x 29 4⟩
/-- Fields of CSEND and CRECV (R195). -/
def combFields (x : Nat) : CombF := ⟨fld x 42 4, fld x 38 4, fld x 36 2, bitAt x 35, fld x 31 4⟩
/-- Fields of MVM and MVMT (R181). -/
def mvmFields (x : Nat) : MvmF :=
  ⟨fld x 50 2, bitAt x 47, bitAt x 46, fld x 45 1, fld x 43 2, fld x 37 6, fld x 31 6, fld x 27 4, fld x 23 4, fld x 21 2, bitAt x 20, bitAt x 19,
   fld x 15 4, bitAt x 14, fld x 10 4, bitAt x 9⟩
/-- Fields of SHL and SHR (R180). -/
def shiftFields (x : Nat) : ShiftF := ⟨fld x 42 4, fld x 38 4, fld x 34 4, bitAt x 33, bitAt x 32, fld x 0 5⟩

/-- The VSCL form of a word's sub field (R189). -/
def sclKind (form : Nat) : Option VecKind :=
  if form = 0 then some .sclConvert else if form = 1 then some .sclDerive else if form = 2 then some .sclPush
  else if form = 3 then some .sclPushAdvance else if form = 4 then some .sclMerge else none

/-- The fields of a word by its opcode (R176); none for a reserved opcode. -/
def decodeFields (x : Nat) : Option CellOp :=
  match x / 2 ^ 56 % 256 with
  | 0x00 => some .nop
  | 0x01 => some .halt
  | 0x02 => some (.loop ⟨fld x 44 2, bitAt x 43, fld x 39 4, fld x 25 14, fld x 0 16⟩)
  | 0x03 => some (.endloop (fld x 44 2))
  | 0x04 => some (.br (fld x 31 15))
  | 0x05 => some (.brp (fld x 42 4))
  | 0x06 => some (.cuewait ⟨fld x 33 13, fld x 28 4, fld x 0 16⟩)
  | 0x07 => some (.cuesig ⟨bitAt x 48, fld x 33 13, bitAt x 32, fld x 28 4, fld x 24 4, bitAt x 23, fld x 0 16⟩)
  | 0x08 => some (.waitc ⟨fld x 42 4, bitAt x 41, fld x 37 4, fld x 0 16⟩)
  | 0x09 => some (.fence (fld x 43 3))
  | 0x0A => some (.setcfg ⟨fld x 38 8, bitAt x 37, fld x 33 4, fld x 0 32⟩)
  | 0x10 => some (.li (fld x 42 4) (fld x 0 32))
  | 0x11 => some (.alu .add (fld x 42 4) (fld x 38 4) (fld x 34 4))
  | 0x12 => some (.addi (fld x 42 4) (fld x 38 4) (fld x 0 24))
  | 0x13 => some (.alu .sub (fld x 42 4) (fld x 38 4) (fld x 34 4))
  | 0x14 => some (.shift false (shiftFields x))
  | 0x15 => some (.shift true (shiftFields x))
  | 0x16 => some (.alu .and (fld x 42 4) (fld x 38 4) (fld x 34 4))
  | 0x17 => some (.alu .or (fld x 42 4) (fld x 38 4) (fld x 34 4))
  | 0x18 => some (.cmp ⟨fld x 43 3, fld x 38 4, fld x 34 4, bitAt x 33, fld x 30 3, fld x 0 24⟩)
  | 0x20 => some (.wload ⟨fld x 45 1, fld x 41 4, fld x 39 2, bitAt x 38, fld x 34 4, fld x 32 2, bitAt x 31, fld x 27 4, fld x 19 8, bitAt x 18⟩)
  | 0x21 => some (.mvm false (mvmFields x))
  | 0x22 => some (.mvm true (mvmFields x))
  | 0x23 => some .swatch
  | 0x24 => some (.slotinv (fld x 45 1))
  | 0x30 => some (.aclr (fld x 44 2) (bitAt x 43))
  | 0x31 => some .apromo
  | 0x32 => some (.adrain ⟨fld x 44 2, fld x 38 6, fld x 32 6, fld x 28 4⟩)
  | 0x33 => some (.amov (fld x 44 2) (fld x 42 2))
  | 0x34 => some (.arot (fld x 45 1))
  | 0x40 => some (.vec .add (vecFields x))
  | 0x41 => some (.vec .mul (vecFields x))
  | 0x42 => some (.vec .fma (vecFields x))
  | 0x43 => some (.vec .max (vecFields x))
  | 0x44 => some (.vec .min (vecFields x))
  | 0x45 => some (.vec .exp2 (vecFields x))
  | 0x46 => some (.vec .rcp (vecFields x))
  | 0x47 => some (.vec .rsq (vecFields x))
  | 0x48 => some (.vec .cvt (vecFields x))
  | 0x49 => some (.vec .had (vecFields x))
  | 0x4A => (sclKind (field x 8 3)).map fun k => .vec k (vecFields x)
  | 0x4B => some (.vec .stat (vecFields x))
  | 0x4C => some (.vec .prune24 (vecFields x))
  | 0x4D => some (.vec .red (vecFields x))
  | 0x50 => some (.ld (fld x 42 4) (fld x 38 4) (fld x 0 16))
  | 0x51 => some (.st ⟨bitAt x 33, fld x 42 4, fld x 38 4, fld x 34 4, fld x 16 8, fld x 0 16⟩)
  | 0x52 => some (.put (putFields x))
  | 0x53 => some (.get (xferFields x))
  | 0x54 => some (.accw (putFields x) (fld x 27 2))
  | 0x55 => some (.hbmrd (xferFields x))
  | 0x56 => some (.hbmwr (xferFields x))
  | 0x57 => some (.tagset true (fld x 42 4) (fld x 38 4))
  | 0x58 => some (.tagset false (fld x 42 4) (fld x 38 4))
  | 0x60 => some (.csend (combFields x))
  | 0x61 => some (.crecv (combFields x))
  | _ => none

/-- The guard of a word (R171). -/
def predOf (x : Nat) : Pred := ⟨fld x 53 3, bitAt x 52⟩

/-- Decode an instruction word (R170 to R173): none for a reserved opcode, a reserved bit that is set, or a word that the first stage refuses. -/
def decodeCell (w : DWord) : Option (Pred × CellOp) :=
  match decodeFields w.toNat with
  | none => none
  | some op => if encodeCell (predOf w.toNat) op = w ∧ stage1 op = true then some (predOf w.toNat, op) else none

/-- The command that a word of the command table spells: no row of spec/opcode_table.json gives bits, so none does. -/
def decodeTableWord (_nbits _w : Nat) : Option Instr := none

end Sys2Proof
end

