-- ==== Sys2Proof/Machine/Crypto.lean ====
section
/-! DEFINITION. SHA-256, RSASSA-PSS verification with RSA-3072 (spec/19_measured_boot_attestation.md R431), CRC-32 of flits (spec/12_rinmen_fabric.md R277) and CRC-64 of digests (spec/13_gradient_reduction.md R318). -/
namespace Sys2Proof.Machine

/-- The round constants of SHA-256 (FIPS 180-4, named by R431). -/
def shaK : List Nat :=
  [0x428A2F98, 0x71374491, 0xB5C0FBCF, 0xE9B5DBA5, 0x3956C25B, 0x59F111F1, 0x923F82A4, 0xAB1C5ED5, 0xD807AA98, 0x12835B01, 0x243185BE, 0x550C7DC3, 0x72BE5D74, 0x80DEB1FE, 0x9BDC06A7, 0xC19BF174] ++
  [0xE49B69C1, 0xEFBE4786, 0x0FC19DC6, 0x240CA1CC, 0x2DE92C6F, 0x4A7484AA, 0x5CB0A9DC, 0x76F988DA, 0x983E5152, 0xA831C66D, 0xB00327C8, 0xBF597FC7, 0xC6E00BF3, 0xD5A79147, 0x06CA6351, 0x14292967] ++
  [0x27B70A85, 0x2E1B2138, 0x4D2C6DFC, 0x53380D13, 0x650A7354, 0x766A0ABB, 0x81C2C92E, 0x92722C85, 0xA2BFE8A1, 0xA81A664B, 0xC24B8B70, 0xC76C51A3, 0xD192E819, 0xD6990624, 0xF40E3585, 0x106AA070] ++
  [0x19A4C116, 0x1E376C08, 0x2748774C, 0x34B0BCB5, 0x391C0CB3, 0x4ED8AA4A, 0x5B9CCA4F, 0x682E6FF3, 0x748F82EE, 0x78A5636F, 0x84C87814, 0x8CC70208, 0x90BEFFFA, 0xA4506CEB, 0xBEF9A3F7, 0xC67178F2]

/-- The initial hash value of SHA-256. -/
def shaH0 : List Nat :=
  [0x6A09E667, 0xBB67AE85, 0x3C6EF372, 0xA54FF53A, 0x510E527F, 0x9B05688C, 0x1F83D9AB, 0x5BE0CD19]

/-- Rotate a 32-bit number right. -/
def rotr (n x : Nat) : Nat := x / 2 ^ n + x % 2 ^ n * 2 ^ (32 - n)

/-- Extend the message schedule by `n` words; the newest word stands first. -/
def shaSchedule : Nat → List Nat → List Nat
  | 0, w => w
  | n + 1, w =>
    let a := w.getD 1 0
    let b := w.getD 14 0
    let s1 := nxor (nxor (rotr 17 a) (rotr 19 a)) (a / 2 ^ 10)
    let s0 := nxor (nxor (rotr 7 b) (rotr 18 b)) (b / 2 ^ 3)
    shaSchedule n (((s1 + w.getD 6 0 + s0 + w.getD 15 0) % 2 ^ 32) :: w)

/-- The rounds over pairs of constant and schedule word. -/
def shaRounds : List (Nat × Nat) → Nat → Nat → Nat → Nat → Nat → Nat → Nat → Nat → List Nat
  | [], a, b, c, d, e, f, g, h => [a, b, c, d, e, f, g, h]
  | (k, w) :: t, a, b, c, d, e, f, g, h =>
    let s1 := nxor (nxor (rotr 6 e) (rotr 11 e)) (rotr 25 e)
    let ch := nxor (e &&& f) ((0xFFFFFFFF - e) &&& g)
    let t1 := h + s1 + ch + k + w
    let s0 := nxor (nxor (rotr 2 a) (rotr 13 a)) (rotr 22 a)
    let mj := nxor (nxor (a &&& b) (a &&& c)) (b &&& c)
    shaRounds t ((t1 + s0 + mj) % 2 ^ 32) a b c ((d + t1) % 2 ^ 32) e f g

/-- One compression of a 64-byte block. -/
def shaBlock (h : List Nat) (blk : List Byte) : List Nat :=
  let w := (shaSchedule 48 ((chunks 4 blk).map beNat).reverse).reverse
  let r := shaRounds (shaK.zip w) (h.getD 0 0) (h.getD 1 0) (h.getD 2 0) (h.getD 3 0) (h.getD 4 0) (h.getD 5 0) (h.getD 6 0) (h.getD 7 0)
  List.zipWith (fun a b => (a + b) % 2 ^ 32) h r

/-- The padding of SHA-256. -/
def shaPad (m : List Byte) : List Byte :=
  m ++ [0x80] ++ List.replicate ((119 - m.length % 64) % 64) 0 ++ beBytes 8 (8 * m.length)

/-- SHA-256 of a byte string, as 32 bytes. -/
def sha256 (m : List Byte) : List Byte :=
  ((chunks 64 (shaPad m)).foldl shaBlock shaH0).flatMap (beBytes 4)

/-- A digest as a 256-bit word, first byte most significant. -/
def digestWord (m : List Byte) : BitVec 256 := BitVec.ofNat 256 (beNat (sha256 m))

/-- The bytes of a 256-bit digest in digest order. -/
def digestBytes (d : BitVec 256) : List Byte := beBytes 32 d.toNat

/-- The mask generation function MGF1 with SHA-256: `n` blocks from counter `c`. -/
def mgf1Blocks (seed : List Byte) : Nat → Nat → List Byte
  | 0, _ => []
  | n + 1, c => sha256 (seed ++ beBytes 4 c) ++ mgf1Blocks seed n (c + 1)

/-- Square `k` times modulo n. -/
def sqMod (n : Nat) : Nat → Nat → Nat
  | 0, x => x
  | k + 1, x => sqMod n k (x * x % n)

/-- x^65537 mod n (R431: public exponent 65,537). -/
def rsaPublic (n x : Nat) : Nat := sqMod n 16 (x % n) * x % n

/-- The check of a data block of EMSA-PSS against the hash H of the encoded message: 318 zero bytes, a 1, and the salt. -/
def pssDataBlock (msg db h : List Byte) : Bool :=
  allZero (db.take 318) && db.getD 318 0 == 1
    && sha256 (List.replicate 8 0 ++ sha256 msg ++ db.drop 319) == h

/-- Clear the top bit of the first byte. -/
def clearTop : List Byte → List Byte
  | b :: t => (b &&& 0x7F) :: t
  | [] => []

/-- EMSA-PSS verification of a 384-byte encoded message: salt of 32 bytes, trailer 0xBC (R431, PKCS #1 v2.2). -/
def pssEncoded (msg em : List Byte) : Bool :=
  let h := (em.drop 351).take 32
  em.getD 383 0 == 0xBC && bitAt (em.getD 0 0).toNat 7 == false
    && pssDataBlock msg (clearTop (List.zipWith (fun a b => a ^^^ b) (em.take 351) (mgf1Blocks h 11 0))) h

/-- RSASSA-PSS verification with a 3072-bit modulus and SHA-256 (R431). -/
def pssVerify (modulus : Nat) (msg sig : List Byte) : Bool :=
  sig.length == 384 && Nat.log2 modulus == 3071 && Nat.blt (beNat sig) modulus
    && pssEncoded msg (beBytes 384 (rsaPublic modulus (beNat sig)))

/-- One bit of the reflected CRC-32 of IEEE 802.3. -/
def crc32Bits : Nat → Nat → Nat
  | 0, c => c
  | n + 1, c => crc32Bits n (if c % 2 = 1 then nxor (c / 2) 0xEDB88320 else c / 2)

/-- The CRC-32 of IEEE 802.3 (R277). -/
def crc32 (l : List Byte) : Nat :=
  nxor (l.foldl (fun c b => crc32Bits 8 (nxor c b.toNat)) 0xFFFFFFFF) 0xFFFFFFFF

/-- One bit of the CRC-64 with the ECMA-182 polynomial (R318). -/
def crc64Bits : Nat → Nat → Nat
  | 0, c => c
  | n + 1, c => crc64Bits n (if 2 ^ 63 ≤ c then nxor (c * 2 % 2 ^ 64) 0x42F0E1EBA9EA3693 else c * 2)

/-- The digest of R318 of a byte stream. -/
def crc64 (l : List Byte) : Nat :=
  l.foldl (fun c b => crc64Bits 8 (nxor c (b.toNat * 2 ^ 56))) 0

end Sys2Proof.Machine
end

