-- ==== Sys2Proof/Machine/Mem.lean ====
section
/-! DEFINITION. Sparse maps and byte memories in one canonical form (spec/09_scratchpad_hbm.md R197, R199): keys strictly rising, and in a memory no entry equal to what an unlisted key reads as. -/
namespace Sys2Proof.Machine

/-- The value at a key; `d` where the key is not listed. -/
def mapGet {α : Type} (d : α) : SMap α → Nat → α
  | [], _ => d
  | (k, v) :: t, x => if x = k then v else if x < k then d else mapGet d t x

/-- A key is listed. -/
def mapHas {α : Type} : SMap α → Nat → Bool
  | [], _ => false
  | (k, _) :: t, x => x == k || mapHas t x

/-- Write a value at a key, keeping the keys rising. Used for units (cells, blocks, regions, cues), where a listed default is harmless. -/
def mapPut {α : Type} : SMap α → Nat → α → SMap α
  | [], x, v => [(x, v)]
  | (k, w) :: t, x, v =>
    if x < k then (x, v) :: (k, w) :: t
    else if x = k then (x, v) :: t
    else (k, w) :: mapPut t x v

/-- Write a value at a key, keeping the canonical form: writing the default removes the entry. -/
def mapSet {α : Type} [DecidableEq α] (d : α) : SMap α → Nat → α → SMap α
  | [], x, v => if v = d then [] else [(x, v)]
  | (k, w) :: t, x, v =>
    if x < k then (if v = d then (k, w) :: t else (x, v) :: (k, w) :: t)
    else if x = k then (if v = d then t else (x, v) :: t)
    else (k, w) :: mapSet d t x v

/-- Remove the keys that satisfy `p`. -/
def mapDrop {α : Type} (p : Nat → Bool) (m : SMap α) : SMap α :=
  m.filter fun kv => !p kv.1

/-- Keys strictly rising, all of them at least `lo`, no value equal to `d`: the canonical form above `lo`. -/
def mapWfFrom {α : Type} [DecidableEq α] (d : α) : Nat → SMap α → Bool
  | _, [] => true
  | lo, (k, v) :: t => decide (lo ≤ k) && decide (v ≠ d) && mapWfFrom d (k + 1) t

/-- The canonical form of a map. -/
def mapWf {α : Type} [DecidableEq α] (d : α) (m : SMap α) : Bool := mapWfFrom d 0 m

/-- A byte memory: what an unlisted address reads as is 0 (log entry 2). -/
abbrev Memory := SMap Byte

/-- The canonical form of a byte memory. -/
def memWf (m : Memory) : Bool := mapWf (0 : Byte) m

/-- One byte of a memory. -/
def memGet (m : Memory) (a : Nat) : Byte := mapGet 0 m a

/-- Store one byte. -/
def memSet (m : Memory) (a : Nat) (b : Byte) : Memory := mapSet 0 m a b

/-- `n` bytes from an address, of a memory whose listed addresses are all at or above it. -/
def memSpan : Memory → Nat → Nat → List Byte
  | _, _, 0 => []
  | [], a, n + 1 => 0 :: memSpan [] (a + 1) n
  | (k, v) :: t, a, n + 1 => if k = a then v :: memSpan t (a + 1) n else 0 :: memSpan ((k, v) :: t) (a + 1) n

/-- `n` bytes from an address, lowest first. -/
def memRead (m : Memory) (a n : Nat) : List Byte := memSpan (m.filter fun kv => Nat.ble a kv.1) a n

/-- The entries that bytes from an address take: the non-zero ones. -/
def memCells : Nat → List Byte → Memory
  | _, [] => []
  | a, b :: t => if b = 0 then memCells (a + 1) t else (a, b) :: memCells (a + 1) t

/-- Store bytes from an address, lowest first. -/
def memWrite (m : Memory) (a : Nat) (bs : List Byte) : Memory :=
  (m.filter fun kv => Nat.blt kv.1 a) ++ memCells a bs ++ (m.filter fun kv => Nat.ble (a + bs.length) kv.1)

/-- Zero the bytes of the addresses from `a` up to, and not including, `e`. -/
def memZero (m : Memory) (a e : Nat) : Memory := mapDrop (fun k => decide (a ≤ k) && decide (k < e)) m

end Sys2Proof.Machine
end

