-- ==== Sys2Proof/Machine/CellState.lean ====
section
/-! DEFINITION. The state of one cell: array slots, frames, scratchpad tags, sequencer, units, registers (spec/03_cim_cell.md, 04_accumulation_order.md, 05_scaling_quantisation.md, 06_sparsity.md, 07_cell_execution.md, 09_scratchpad_hbm.md). -/
namespace Sys2Proof.Machine

/-- A flipped bit that stands until its word is rewritten (R218, R454): where it is in its row, slot, piece or block, and whether an injection made it (R455). -/
structure Flip where
  bit : Nat
  injected : Bool
  deriving DecidableEq, Repr

/-- A group-store entry of a slot (R49): stored scale, group factor 2^fac, zero point, non-finite flag. -/
structure GroupEnt where
  scaled : Bool
  sfmt : BitVec 2
  scale : Word
  fac : Int
  zp : Byte
  nonfin : Bool
  deriving DecidableEq, Repr

/-- A group without a stored scale and with factor 1. -/
def GroupEnt.one : GroupEnt := ⟨false, 0, 0, 0, 0, false⟩

/-- A tile slot with its group store, metadata store and row-valid bitmap (R49, R72, R125, R127). `bits` is the slot as the slot view shows it (R51). -/
structure Slot where
  valid : Bool
  writing : Bool
  poison : Bool
  fmt : BitVec 4
  four : Bool
  group : BitVec 2
  sparse : Bool
  /-- Row-valid bitmap: physical rows, or logical rows of a 2:4 slot (R36, R127). -/
  rowValid : BitVec 256
  bits : Memory
  store : SMap GroupEnt
  /-- Index array in the source layout of R127. -/
  idx : Memory
  /-- Flips still standing, per row (R47, R129, R454): data columns 0 to 255, check columns 256 to 287, index bits of the row from 288, their check bits from 416 (log entry 69). -/
  errs : SMap (List Flip)
  /-- Rows whose corrected rewrite is deferred (R61). -/
  rewrites : List Nat
  /-- Tick of the last clean read of a row (R68). -/
  lastClean : SMap Nat
  deriving DecidableEq, Repr

/-- A tree column of a frame (R90, R91). -/
structure TreeCol where
  c : BitVec 7
  done : Bool
  opened : Bool
  deriving DecidableEq, Repr

/-- How the tile in a frame was begun (R85, R91): by a clear, in sequential mode, in tree mode. -/
inductive TileMode where
  | clear | seq | tree
  deriving DecidableEq, Repr

/-- What a frame carries beside its bytes (R85, R90, R91). -/
structure Frame where
  int : Bool
  shape : BitVec 2
  mode : TileMode
  cols : List TreeCol
  deriving DecidableEq, Repr

/-- Which frame each name resolves to (R84, R88). -/
structure AccMap where
  a : BitVec 2
  b : BitVec 2
  w : BitVec 2
  deriving DecidableEq, Repr

/-- An instruction as dispatched to a unit, with what it read at dispatch (R147, R148). -/
structure QI where
  seq : Nat
  op : CellOp
  a : List Word
  map : AccMap
  threshold : Byte
  forceDense : Bool
  word : DWord
  seen : List MarginObs
  deriving DecidableEq, Repr

/-- A tag block (R205, R208): the slot, whether the access writes, and the ticks waited; `scale` marks a stall of a scaled operand under R118. -/
structure TagBlock where
  slot : Nat
  write : Bool
  age : Nat
  scale : Bool
  deriving DecidableEq, Repr

/-- Bytes waiting to be written into one scratchpad slot or frame piece. -/
structure Piece where
  addr : Nat
  data : List Byte
  tag : Option Byte
  poison : Bool
  /-- The instruction's last write into this slot: it sets the slot full (R205). -/
  last : Bool
  deriving DecidableEq, Repr

/-- An instruction that its unit executes: how far it has come, what it has still to write, what it waits for. -/
structure Run where
  qi : QI
  next : Nat
  wr : List Piece
  blocked : Option TagBlock
  /-- Every access is made; only the completion point is outstanding. -/
  done : Bool
  /-- Byte address of the next input vector (R182). -/
  at_ : Nat
  /-- The path chosen for an MVM or MVMT with .sp: none before the first block (R135). -/
  path : Option Bool
  /-- The value an LD has read, for its register (R194), or the skip record of an MVM (R141). -/
  value : Nat
  /-- The instruction's checks are made. -/
  begun : Bool
  /-- Bytes of the slots and frame pieces read so far, by number, while an operand is read slot by slot (R205). -/
  got : SMap (List Byte)
  /-- The palettes that the instruction names, as they stood at its issue (R108, R120). -/
  pal : List Byte
  /-- The tile's frame record and the bytes of the frames A and B as they stood before an MVM wrote them: a margin failure leaves the tile unwritten (R66). -/
  saved : Option (Frame × List Byte × List Byte)
  /-- Ticks since a CSEND's or CRECV's last group: its wait for the combine network (R208, R232). -/
  idle : Nat
  deriving DecidableEq, Repr

/-- A remote instruction that has left its unit and is not complete (R146, R157): fence level 0 local, 1 block, 2 region, 3 module, 4 fabric; accesses outstanding; local frames it still writes. -/
structure Outst where
  seq : Nat
  level : Nat
  left : Nat
  frames : BitVec 3
  write : Bool
  /-- An arriving slot that a full destination blocks: its flight, and the block (R206). -/
  block : Option (Nat × TagBlock)
  deriving DecidableEq, Repr

/-- Why later dispatch is held (R157, R160, R161, R166). -/
inductive Wait where
  | cue (cue : Nat) (target : Word)
  | ctr (c n : Nat) (age : Nat)
  | fence (scope : Nat) (upto : Nat)
  | halt (upto : Nat)
  /-- After a cell reset, until the next epoch boundary (R376). -/
  | epoch
  deriving DecidableEq, Repr

/-- A signal in the signal queue (R158). -/
structure Sig where
  cue : Nat
  count : Word
  rel : Bool
  seq : Nat
  remote : Option (BitVec 12)
  deriving DecidableEq, Repr

/-- An open loop of a loop counter (R150). -/
structure LoopRec where
  opened : Bool
  start : Nat
  stop : Nat
  deriving DecidableEq, Repr

/-- An instruction that waits at dispatch (R100, R146, R154, R158). -/
structure Held where
  p : Pred
  op : CellOp
  seen : List MarginObs
  /-- Its wait for a busy frame is counted (R100). -/
  counted : Bool
  deriving DecidableEq, Repr

/-- The sequencer (R149 to R168). -/
structure Seq where
  a : List Word
  l : List Word
  /-- P7 to P0; bit 0 is always 1. -/
  p : Byte
  pc : BitVec 17
  state : BitVec 2
  stopPending : Bool
  /-- A stop fell due during a debug halt, to be taken when the halt ends (R167). -/
  stopDue : Bool
  firstCause : BitVec 16
  later : Nat
  suppressed : Nat
  wait : Option Wait
  dbgHalt : Bool
  loops : List LoopRec
  /-- Body captured in the loop buffer: counter, start and end (R151). -/
  buf : Option (BitVec 2 × Nat × Nat)
  /-- The first iteration of that body is over: later ones dispatch from the buffer (R151). -/
  captured : Bool
  /-- The next instruction lies outside the block instruction store: its fetch is the fault (R165). -/
  pcOut : Bool
  /-- Lines in the fetch buffer, newest last (R149). -/
  lines : List Nat
  imgAt : Nat
  imgLen : Nat
  entry : Nat
  nextSeq : Nat
  /-- Pending A registers (R152). -/
  pendingA : BitVec 16
  held : Option Held
  sigs : List Sig
  deriving DecidableEq, Repr

/-- A scale stream of the cell as one SETCFG configures it (R179): the stream, the number of the SETCFG, and its ring. R148: an instruction dispatched before the SETCFG keeps the ring of the one before. -/
structure Stream where
  no : Nat
  since : Nat
  conf : Bool
  first : BitVec 9
  len : BitVec 10
  head : BitVec 9
  deriving DecidableEq, Repr

/-- An arrival that the inbound remote port holds (R101, R205, R206): the flight, and the tag block or the busy frame. -/
structure PortHold where
  flight : Nat
  block : TagBlock
  frame : Option (BitVec 2)
  deriving DecidableEq, Repr

/-- The units of a cell (R146, R59): queues, tracks, outstanding accesses, inbound port. -/
structure Units where
  arrQ : List QI
  accQ : List QI
  vecQ : List QI
  memQ : List QI
  comp : Option Run
  wload : Option Run
  acc : Option Run
  vec : Option Run
  mem : Option Run
  outst : List Outst
  port : Option PortHold
  /-- Slot-view writes that wait for the compute track: slot, offset in the view, word (R61). -/
  view : List (Nat × Nat × Word)
  deriving DecidableEq, Repr

/-- Cell registers that are not shown by other state: R72, R103, R122, R142, R222. -/
structure CellRegs where
  viewSel : Bool
  failCols : Byte
  failQuarter : BitVec 2
  failPlane : BitVec 4
  failSwatch : Bool
  accSat : Bool
  accMisuse : Bool
  desync : Bool
  desyncBehind : Bool
  palSat : Bool
  palMisuse : Bool
  dataTag : Byte
  scaleTag : Byte
  operand : BitVec 2
  threshold : Byte
  forceDense : Bool
  lastSparse : Bool
  metaDrop : Bool
  hdrErr : Bool
  spMisuse : Bool
  deriving DecidableEq, Repr

/-- Memory registers of the cell (R222). -/
structure MemRegs where
  bankOff : BitVec 4
  timeoutRd : Bool
  timeoutWr : Bool
  ctrOvf : Bool
  spmUnc : Bool
  prot : Bool
  win : List Word
  blkSlot : BitVec 9
  blkKind : BitVec 2
  blkUnit : BitVec 2
  blkSrc : BitVec 12
  arrival : List (BitVec 16 × Bool)
  streams : List Stream
  deriving DecidableEq, Repr

/-- One logical cell. -/
structure Cell where
  /-- Scratchpad and frames by offset in the cell window, 0 to 0xDFFF (R199). -/
  mem : Memory
  full : BitVec 512
  poison : BitVec 512
  seqTag : SMap Byte
  /-- Flips still standing, by 64 bytes of the window: scratchpad slot s at key s, a frame piece at offset/64 (R218, R454). -/
  errs : SMap (List Flip)
  slot0 : Slot
  slot1 : Slot
  frames : List Frame
  map : AccMap
  seq : Seq
  units : Units
  regs : CellRegs
  mr : MemRegs
  /-- RC counters by register offset in the cell window (R73, R104, R123, R143, R169, R223). -/
  cnt : SMap Word
  /-- Events of the present epoch by class: count, and the detail of the first (R102, R414). -/
  summ : SMap (Nat × List Byte)
  /-- Events so far by the event value of BLK_PCTR_CTRL (R457). -/
  events : SMap Nat
  /-- Swatch compares that an injection still makes fail (R454). -/
  forced : Nat
  /-- The swatch columns by physical row: bit k of a row's byte is column Sk (R63). -/
  swatch : List Byte
  deriving DecidableEq, Repr

/-- A slot after the scrub: invalid and zero (R221). -/
def Slot.reset : Slot := ⟨false, false, false, 0, false, 0, false, 0, [], [], [], [], [], []⟩

/-- A frame after the scrub or ACLR (R84, R85, R184). -/
def Frame.reset : Frame := ⟨false, 0, .clear, List.replicate 8 ⟨0, false, false⟩⟩

/-- The sequencer after any reset that restarts the program (R152, R168). -/
def Seq.reset : Seq :=
  ⟨List.replicate 16 0, List.replicate 4 0, 1, 0, 0, false, false, 0, 0, 0, none, false,
   List.replicate 4 ⟨false, 0, 0⟩, none, false, false, [], 0, 0, 0, 0, 0, none, []⟩

/-- Empty units. -/
def Units.reset : Units := ⟨[], [], [], [], none, none, none, none, none, [], none, []⟩

/-- Cell registers at reset (R72, R103, R122, R142). -/
def CellRegs.reset : CellRegs :=
  ⟨false, 0, 0, 0, false, false, false, false, false, false, false, 0, 0, 0,
   0x80, false, false, false, false, false⟩

/-- Memory registers at reset (R222). -/
def MemRegs.reset : MemRegs :=
  ⟨0, false, false, false, false, false, List.replicate 8 0, 0, 0, 0, 0, List.replicate 16 (0, false),
   []⟩

/-- The swatch patterns of one physical row (R63): S0 and S5 hold 1 on every row, S1 and S6 on even rows, S2 on odd rows, S3 on the rows of quarters 0 and 2, S4 and S7 on those of quarters 1 and 3. -/
def swatchRow (r : Nat) : Byte :=
  let even := if r % 2 = 0 then 1 else 0
  let q02 := if r / 32 % 2 = 0 then 1 else 0
  BitVec.ofNat 8 (1 + 2 * even + 4 * (1 - even) + 8 * q02 + 16 * (1 - q02) + 32 + 64 * even + 128 * (1 - q02))

/-- The swatch columns as the wake of a region writes them (R63, R239). -/
def swatchPatterns : List Byte := (List.range 128).map swatchRow

/-- A cell after reset and scrub (R221); its swatch columns hold what the wake wrote. -/
def Cell.reset : Cell :=
  ⟨[], 0, 0, [], [], .reset, .reset, List.replicate 3 .reset, ⟨0, 1, 2⟩, .reset, .reset, .reset, .reset, [], [], [], 0, swatchPatterns⟩

end Sys2Proof.Machine
end

