-- ==== Sys2Proof/Machine/Flags.lean ====
section
/-! DEFINITION. What a cell reports: counters, summaries, fault events, and stops (spec/07_cell_execution.md R163 to R165; spec/03_cim_cell.md R73; spec/04_accumulation_order.md R102). -/
namespace Sys2Proof.Machine

/-- A fault event of a cell before it becomes a record (R409): class, detail, and whether an injection made it (R412). -/
structure Ev where
  cls : Nat
  detail : List Byte
  injected : Bool
  deriving DecidableEq, Repr

/-- A cell with the fault events of the present step, oldest first. -/
structure Fx where
  c : Cell
  ev : List Ev
  deriving DecidableEq, Repr

/-- A cell with no event yet. -/
def Fx.of (c : Cell) : Fx := ⟨c, []⟩

/-- Apply a change to the cell. -/
def Fx.map (f : Cell → Cell) (x : Fx) : Fx := { x with c := f x.c }

/-- Note `n` events of a kind for the programmable counters (R457). -/
def Cell.tally (c : Cell) (ev n : Nat) : Cell := { c with events := mapSet 0 c.events ev (mapGet 0 c.events ev + n) }

/-- The event of R457 that a fixed counter of the cell counts too. -/
def eventOf (reg : Nat) : Option Nat :=
  if reg = 0xE340 then some 2 else if reg = 0xE240 then some 3 else if reg = 0xE680 then some 10 else if reg = 0xE0C4 then some 11 else none

/-- Add `n` to an RC counter, stopping at 0xFFFF_FFFF (R73). -/
def Cell.count (c : Cell) (reg n : Nat) : Cell :=
  let c := match eventOf reg with | some e => c.tally e n | none => c
  { c with cnt := mapSet 0 c.cnt reg (satAdd32 (mapGet 0 c.cnt reg) n) }

/-- Add `n` events of a class to the epoch's summary; the first event's detail is kept (R102, R414). -/
def Cell.sum (c : Cell) (cls n : Nat) (detail : List Byte) : Cell :=
  if n = 0 then c
  else
    let o := mapGet (0, detail) c.summ cls
    { c with summ := mapPut c.summ cls (o.1 + n, if o.1 = 0 then detail else o.2) }

/-- Change the sequencer. -/
def Cell.setSeq (f : Seq → Seq) (c : Cell) : Cell := { c with seq := f c.seq }
/-- Change the cell registers. -/
def Cell.setRegs (f : CellRegs → CellRegs) (c : Cell) : Cell := { c with regs := f c.regs }
/-- Change the memory registers. -/
def Cell.setMr (f : MemRegs → MemRegs) (c : Cell) : Cell := { c with mr := f c.mr }
/-- Change the units. -/
def Cell.setUnits (f : Units → Units) (c : Cell) : Cell := { c with units := f c.units }

/-- Detail of the stop record 0x0352: PC, first cause, suppressed signals (R164). -/
def stopDetail (q : Seq) : List Byte :=
  leBytes 4 q.pc.toNat ++ leBytes 2 q.firstCause.toNat ++ leBytes 4 q.suppressed

/-- The cell stops (R164): nothing more is dispatched, and the stop record is formed. -/
def Fx.stop (x : Fx) : Fx :=
  { c := x.c.setSeq fun q => { q with state := 3, stopPending := false, stopDue := false, wait := none, held := none },
    ev := x.ev ++ [⟨0x0352, stopDetail x.c.seq, false⟩] }

/-- Whether the sequencer waits at a CUEWAIT. -/
def Seq.atCueWait (q : Seq) : Bool :=
  match q.wait with
  | some (.cue _ _) => true
  | _ => false

/-- Whether the cell is running (R168). -/
def Seq.running (q : Seq) : Bool := q.state == 1

/-- Record an event without a stop. -/
def Fx.note (x : Fx) (cls : Nat) (detail : List Byte) (injected : Bool := false) : Fx :=
  { x with ev := x.ev ++ [⟨cls, detail, injected⟩] }

/-- Set stop-pending with a first cause, or count a later cause (R163); a halted cell stops at the next epoch boundary. A cell that has no program, or has stopped, has nothing to stop (log entry 27). -/
def Seq.pendStop (q : Seq) (cls : Nat) : Seq :=
  if q.stopPending || !(q.running || q.state == 2) then { q with later := q.later + 1 }
  else { q with stopPending := true, firstCause := BitVec.ofNat 16 cls }

/-- A stop point is reached (R163): the stop is taken, or falls due at the end of a debug halt (R167). -/
def Fx.stopPoint (x : Fx) : Fx :=
  if x.c.seq.dbgHalt then x.map (Cell.setSeq fun q => { q with stopDue := true }) else x.stop

/-- Take a pending stop at once when a CUEWAIT already waits (R163). -/
def Fx.stopIfWaiting (x : Fx) : Fx :=
  if x.c.seq.stopPending && x.c.seq.atCueWait then x.stopPoint else x

/-- A fault that stops the cell at its next cue wait (R163). -/
def Fx.fault (x : Fx) (cls : Nat) (detail : List Byte) (injected : Bool := false) : Fx :=
  ((x.note cls detail injected).map (Cell.setSeq fun q => q.pendStop cls)).stopIfWaiting

/-- A stop at the next cue wait without a record of its own (R69). -/
def Fx.faultQuiet (x : Fx) (cls : Nat) : Fx :=
  (x.map (Cell.setSeq fun q => q.pendStop cls)).stopIfWaiting

/-- A fault that stops the cell at once (R165): the pending first cause is kept where there is one. -/
def Fx.faultNow (x : Fx) (cls : Nat) (detail : List Byte) (injected : Bool := false) : Fx :=
  ((x.note cls detail injected).map (Cell.setSeq fun q =>
    if q.stopPending then { q with later := q.later + 1 }
    else { q with firstCause := BitVec.ofNat 16 cls })).stop

/-- Register offsets of the RC counters in the cell window (R72, R103, R122, R142, R168, R222). -/
def rMarginEvent : Nat := 0xE240
/-- CELL_ARRAY_STARVE. -/
def rArrayStarve : Nat := 0xE244
/-- CELL_SLOT_WAIT. -/
def rSlotWait : Nat := 0xE248
/-- CELL_ECC_CORR. -/
def rEccCorr : Nat := 0xE24C
/-- CELL_SCRUB_STEAL. -/
def rScrubSteal : Nat := 0xE250
/-- CELL_OVF_REPLAY. -/
def rOvfReplay : Nat := 0xE340
/-- CELL_TILE_CONFLICT. -/
def rTileConflict : Nat := 0xE344
/-- CELL_ACC_SAT. -/
def rAccSat : Nat := 0xE348
/-- CELL_NONFINITE_GROUP. -/
def rNonfinite : Nat := 0xE34C
/-- CELL_SCALE_STALL. -/
def rScaleStall : Nat := 0xE440
/-- CELL_JIT_PASS. -/
def rJitPass : Nat := 0xE444
/-- CELL_META_DROP. -/
def rMetaDrop : Nat := 0xE540
/-- CELL_PLANE_SKIP. -/
def rPlaneSkip : Nat := 0xE544
/-- CELL_SPARSE_TILE. -/
def rSparseTile : Nat := 0xE548
/-- CELL_SKIP_OUT. -/
def rSkipOut : Nat := 0xE54C
/-- CELL_DISPATCH_STALL. -/
def rDispatchStall : Nat := 0xE680
/-- CELL_FENCE_WAIT. -/
def rFenceWait : Nat := 0xE684
/-- CELL_SYNC_WAIT. -/
def rSyncWait : Nat := 0xE688
/-- CELL_FETCH_WAIT. -/
def rFetchWait : Nat := 0xE68C
/-- CELL_SIG_SUPPRESS. -/
def rSigSuppress : Nat := 0xE690
/-- CELL_PORT_WAIT. -/
def rPortWait : Nat := 0xE0C0
/-- CELL_TAG_WAIT. -/
def rTagWait : Nat := 0xE0C4
/-- CELL_SPM_CORR. -/
def rSpmCorr : Nat := 0xE0C8
/-- CELL_ACCW_SAT. -/
def rAccwSat : Nat := 0xE0CC

/-- Count saturations of an instruction or a combine (R79, R102): counter, summary 0x0321, CELL_ACC_STATUS.sat. -/
def Fx.saturated (x : Fx) (n : Nat) : Fx :=
  if n = 0 then x
  else x.map fun c => ((c.count rAccSat n).sum 0x0321 n []).setRegs fun r => { r with accSat := true }

/-- Detail of a fault that names the instruction and one more value: the word in bytes 0 to 7, the value in bytes 8 to 11 (log entry 20). -/
def opDetail (word : DWord) (v : Nat) : List Byte := leBytes 8 word.toNat ++ leBytes 4 v

/-- An accumulator misuse, class 0x0324 (R102): instruction and tile. -/
def Fx.accMisuse (x : Fx) (word : DWord) (tile : Nat) : Fx :=
  (x.map (Cell.setRegs fun r => { r with accMisuse := true })).fault 0x0324 (opDetail word tile)

/-- A palette misuse, class 0x0333 (R106): instruction and palette address. -/
def Fx.palMisuse (x : Fx) (word : DWord) (addr : Nat) : Fx :=
  (x.map (Cell.setRegs fun r => { r with palMisuse := true })).fault 0x0333 (opDetail word addr)

/-- A 2:4 slot misuse, class 0x0343 (R126): instruction and slot. -/
def Fx.sparseMisuse (x : Fx) (word : DWord) (slot : Nat) : Fx :=
  (x.map (Cell.setRegs fun r => { r with spMisuse := true })).fault 0x0343 (opDetail word slot)

/-- A malformed compressed block, class 0x0342 (R139): instruction and block address. -/
def Fx.badBlock (x : Fx) (word : DWord) (addr : Nat) : Fx :=
  (x.map (Cell.setRegs fun r => { r with hdrErr := true })).fault 0x0342 (opDetail word addr)

/-- A scale desync, class 0x0330 (R118, R119): T, H, direction, operand. -/
def Fx.desync (x : Fx) (t h : Byte) (behind : Bool) (operand : Nat) : Fx :=
  (x.map (Cell.setRegs fun r => { r with desync := true, desyncBehind := behind, dataTag := t, scaleTag := h, operand := BitVec.ofNat 2 operand })).fault
    0x0330 [t, h, BitVec.ofNat 8 (b2n behind), BitVec.ofNat 8 operand]

/-- Drops of R128 and R139: the counter, the status bit, the summary of their class. -/
def Fx.metaDrop (x : Fx) (cls n : Nat) : Fx :=
  if n = 0 then x
  else x.map fun c => ((c.count rMetaDrop n).sum cls n []).setRegs fun r => { r with metaDrop := true }

/-- An access refused at issue, class 0x0118 (R201): not executed; stop at the next cue wait. -/
def Fx.refused (x : Fx) (addr : Nat) : Fx :=
  (x.map (Cell.setMr fun r => { r with prot := true })).fault 0x0118 (leBytes 8 addr)

/-- An operand out of range (R173): the stop of class 0x0350. -/
def Fx.outOfRange (x : Fx) : Fx := x.faultNow 0x0350 []

/-- A format outside its role (R24, R173): class 0x0310, for which no rule defines detail bytes,
so they are zero (R409). -/
def Fx.badFormat (x : Fx) : Fx := x.fault 0x0310 []

end Sys2Proof.Machine
end

