-- ==== Sys2Proof/Machine/Operands.lean ====
section
/-! DEFINITION. Operand access of a cell: scratchpad windows and tags, reads and writes of slots and frames with their protection, address ranges (spec/09_scratchpad_hbm.md R199 to R221; spec/08_instruction_reference.md R174). -/
namespace Sys2Proof.Machine

/-- First slot of a window register (R222). -/
def winBase (w : Word) : Nat := field w.toNat 0 9
/-- Slots of a window; 0 for an unused one. -/
def winLen (w : Word) : Nat := field w.toNat 9 10
/-- Weight-class bit. -/
def winWeight (w : Word) : Bool := bitAt w.toNat 19
/-- Tag mode: 0 untagged, 1 fill, 2 flow. -/
def winMode (w : Word) : Nat := field w.toNat 20 2

/-- Whether a window holds a slot. -/
def winHas (w : Word) (slot : Nat) : Bool := Nat.ble (winBase w) slot && Nat.blt slot (winBase w + winLen w)

/-- The window that holds a slot (R203). -/
def Cell.winOf (c : Cell) (slot : Nat) : Option Word := c.mr.win.find? fun w => winHas w slot

/-- Tag mode of a slot; 0 in no window (R203). -/
def Cell.tagMode (c : Cell) (slot : Nat) : Nat :=
  match c.winOf slot with
  | some w => winMode w
  | none => 0

/-- A slot in a tagged window. -/
def Cell.tagged (c : Cell) (slot : Nat) : Bool := Nat.blt slot 512 && c.tagMode slot != 0

/-- A slot in a weight-class window. -/
def Cell.weightClass (c : Cell) (slot : Nat) : Bool :=
  match c.winOf slot with
  | some w => winWeight w
  | none => false

/-- Full bit of a slot. -/
def Cell.isFull (c : Cell) (slot : Nat) : Bool := c.full.getLsbD slot
/-- Poison bit of a slot. -/
def Cell.isPoison (c : Cell) (slot : Nat) : Bool := c.poison.getLsbD slot
/-- Sequence tag of a slot. -/
def Cell.tagOf (c : Cell) (slot : Nat) : Byte := mapGet 0 c.seqTag slot

/-- Set or clear one bit. -/
def setBit {w : Nat} (v : BitVec w) (i : Nat) (b : Bool) : BitVec w :=
  if b then v ||| (1#w <<< i) else v &&& ~~~(1#w <<< i)

/-- Slots that a byte range of the window touches. Numbers from 512 up are the 64-byte pieces of the frames. -/
def slotsOf (a n : Nat) : List Nat :=
  if n = 0 then [] else List.range' (a / 64) ((a + n - 1) / 64 + 1 - a / 64)

/-- The first empty tagged slot that would block a read (R205). -/
def Cell.firstEmpty (c : Cell) (slots : List Nat) : Option Nat := slots.find? fun s => c.tagged s && !c.isFull s

/-- Whether a write to the slot would block (R205). -/
def Cell.blocksWrite (c : Cell) (slot : Nat) : Bool := c.tagged slot && c.isFull slot

/-- Frame 2 exists (R84): a lead cell. -/
def isLead (cellNo : Nat) : Bool := cellNo % 16 == 0

/-- A local byte range lies in the scratchpad and frames that R174 allows. -/
def localOk (lead : Bool) (a n : Nat) : Bool := Nat.ble (a + n) (if lead then 0xE000 else 0xC000)

/-- A local range touches a powered-down bank (R201, R202). -/
def Cell.bankDown (c : Cell) (a n : Nat) : Bool :=
  (slotsOf a n).any fun s => Nat.blt s 512 && c.mr.bankOff.getLsbD (s / 128)

/-- Frames that a byte range touches, as a mask (R100). -/
def framesIn (a n : Nat) : BitVec 3 :=
  if n = 0 then 0
  else BitVec.ofNat 3 (b2n (Nat.blt 0x8000 (a + n) && Nat.blt a 0xA000) + 2 * b2n (Nat.blt 0xA000 (a + n) && Nat.blt a 0xC000)
    + 4 * b2n (Nat.blt 0xC000 (a + n) && Nat.blt a 0xE000))

/-- The bits of flips. -/
def flipBitsOf (l : List Flip) : List Nat := l.map (·.bit)

/-- Standing flips of a 64-byte piece, counted per word of `w` bits: the largest count. -/
def flipsMax (w : Nat) (l : List Nat) : Nat :=
  (List.range (512 / w)).foldl (fun m i => max m ((l.filter fun b => b / w == i).length)) 0

/-- Flip bits of a 64-byte piece back or forth: bit b is bit b mod 8 of byte b / 8. -/
def flipBits (m : Memory) (base : Nat) : List Nat → Memory
  | [] => m
  | b :: t => flipBits (memSet m (base + b / 8) (memGet m (base + b / 8) ^^^ BitVec.ofNat 8 (2 ^ (b % 8)))) base t

/-- Remove the standing flips of a piece. -/
def Cell.clearErrs (c : Cell) (slot : Nat) : Cell := { c with errs := mapDrop (· == slot) c.errs }

/-- Bytes stored in the cell window: the flips that stood in them go with the words rewritten (R48, R218). -/
def Cell.put (c : Cell) (a : Nat) (l : List Byte) : Cell :=
  { c with mem := memWrite c.mem a l,
           errs := (slotsOf a l.length).foldl (fun m p => if (mapGet [] m p).isEmpty then m else
             mapSet [] m p ((mapGet [] m p).filter fun f => !(Nat.ble a (64 * p + f.bit / 8) && Nat.blt (64 * p + f.bit / 8) (a + l.length)))) c.errs }

/-- Bits flip in a slot or frame piece, and stand (R218). -/
def Cell.flip (c : Cell) (piece : Nat) (l : List Nat) : Cell :=
  if l.isEmpty then c
  else { c with mem := flipBits c.mem (64 * piece) l, errs := mapSet [] c.errs piece (mapGet [] c.errs piece ++ l.map fun b => ⟨b, false⟩) }

/-- Poison a slot. -/
def Cell.setPoison (c : Cell) (slot : Nat) (b : Bool) : Cell := { c with poison := setBit c.poison slot b }

/-- The status bit of a data error (R222). -/
def Cell.spmUnc (c : Cell) : Cell := c.setMr fun r => { r with spmUnc := true }

/-- Some 32-bit word has an odd number of flips: its parity is wrong (R218). -/
def parityBad (l : List Nat) : Bool := (List.range 16).any fun i => (l.filter fun b => b / 32 == i).length % 2 == 1

/-- The protection check that a read or a scrub makes of a scratchpad slot (R218, R219): flips are corrected, or poison the slot; an injected one takes the class of R455. Data are delivered as they stand after it. -/
def Fx.checkSlot (x : Fx) (slot : Nat) : Fx :=
  let fs := mapGet [] x.c.errs slot
  let l := flipBitsOf fs
  let inj := (fs.filter (·.injected)).length
  if l.isEmpty then x
  else if x.c.weightClass slot then
    if flipsMax 64 l ≤ 1 then
      x.map fun c => (((({ c with mem := flipBits c.mem (64 * slot) l }).clearErrs slot).count rSpmCorr l.length).sum 0x0F10 inj (leBytes 2 slot)).sum 0x0110
        (l.length - inj) (leBytes 2 slot)
    else (x.map fun c => ((c.setPoison slot true).clearErrs slot).spmUnc).fault 0x0111 (leBytes 2 slot) (inj != 0)
  else if parityBad l then
    (x.map fun c => ((c.setPoison slot true).clearErrs slot).spmUnc).fault 0x0112 (leBytes 2 slot) (inj != 0)
  else x

/-- Correct what the protection of a weight-class slot can correct, before its contents decide anything (R218); an error beyond that is left for the read to meet. -/
def Fx.peekSlot (x : Fx) (slot : Nat) : Fx :=
  if x.c.weightClass slot && Nat.ble (flipsMax 64 (flipBitsOf (mapGet [] x.c.errs slot))) 1 then x.checkSlot slot else x

/-- Correct the slots of a byte range where their protection can (R218). -/
def Fx.peek (x : Fx) (a n : Nat) : Fx := (slotsOf a n).foldl Fx.peekSlot x

/-- The parity check of a frame piece (R219); a frame carries no poison. -/
def Fx.checkFrame (x : Fx) (piece : Nat) : Fx :=
  let fs := mapGet [] x.c.errs piece
  if parityBad (flipBitsOf fs) then
    (x.map fun c => (c.clearErrs piece).spmUnc).fault 0x0112 (leBytes 4 (64 * piece)) (fs.any (·.injected))
  else x

/-- The protection check of slots and frame pieces that an instruction reads without a tag (R219): a slot already poisoned is the fault 0x0115. -/
def Fx.checkSlots (x : Fx) (slots : List Nat) : Fx :=
  slots.foldl (fun x s =>
    if s < 512 then
      let was := x.c.isPoison s
      let x := x.checkSlot s
      if was then (x.map Cell.spmUnc).fault 0x0115 (leBytes 2 s) else x
    else x.checkFrame s) x

/-- A read of one slot or frame piece by an instruction: protection check, the fault of a slot already poisoned, and the full/empty effect (R205, R206, R219). -/
def Fx.readSlot (x : Fx) (slot : Nat) : Fx :=
  if slot < 512 then
    let was := x.c.isPoison slot
    let x := x.checkSlot slot
    let x := if was then (x.map Cell.spmUnc).fault 0x0115 (leBytes 2 slot) else x
    if x.c.tagMode slot = 2 then x.map fun c => { c with full := setBit c.full slot false } else x
  else x.checkFrame slot

/-- Read a byte range: the bytes as the check leaves them, and whether any slot is poisoned. -/
def Fx.readRange (x : Fx) (a n : Nat) : Fx × List Byte × Bool :=
  let x := (slotsOf a n).foldl Fx.readSlot x
  (x, memRead x.c.mem a n, (slotsOf a n).any fun s => Nat.blt s 512 && x.c.isPoison s)

/-- Write one piece that lies within one slot or one 64-byte frame piece (R205, R206, R219). -/
def Cell.writePiece (c : Cell) (w : Piece) : Cell :=
  let slot := w.addr / 64
  let c := c.put w.addr w.data
  if slot < 512 then
    let c := match w.tag with
      | some t => { c with seqTag := mapSet 0 c.seqTag slot t }
      | none => c
    let c := if w.poison then c.setPoison slot true
      else if w.data.length = 64 then c.setPoison slot false else c
    if w.last && c.tagMode slot != 0 then { c with full := setBit c.full slot true } else c
  else c

/-- Write one piece from outside the cell where its bank is on: a bank that is off holds no data (R202). -/
def Cell.loadPiece (c : Cell) (w : Piece) : Cell := if c.bankDown w.addr w.data.length then c else c.writePiece w

/-- Cut bytes at an address into pieces within slots, with fuel. -/
def piecesF (tag : Option Byte) (poison : Bool) : Nat → Nat → List Byte → List Piece
  | 0, _, _ => []
  | _, _, [] => []
  | f + 1, a, l =>
    let k := 64 - a % 64
    ⟨a, l.take k, tag, poison, true⟩ :: piecesF tag poison f (a + k) (l.drop k)

/-- Cut bytes at an address into pieces within slots. -/
def pieces (tag : Option Byte) (poison : Bool) (a : Nat) (l : List Byte) : List Piece :=
  piecesF tag poison (l.length + 1) a l

/-- The instruction's last write into each slot among pieces in order (R205). -/
def lastWrites : List Piece → List Piece
  | [] => []
  | w :: t => { w with last := !(t.any fun v => v.addr / 64 == w.addr / 64) } :: lastWrites t

/-- Write pieces in order up to the first that blocks on a full slot (R205): the cell, the rest, and the block. -/
def Cell.writePieces : Cell → List Piece → Cell × List Piece × Option TagBlock
  | c, [] => (c, [], none)
  | c, w :: t =>
    if c.blocksWrite (w.addr / 64) then (c, w :: t, some ⟨w.addr / 64, true, 0, false⟩)
    else Cell.writePieces (c.writePiece w) t

/-- Read slots one by one up to the first that is empty (R205): what has been read so far, and the slot that blocks. A slot in `got` is read already. -/
def Fx.takeSlots (x : Fx) (got : SMap (List Byte)) : List Nat → Fx × SMap (List Byte) × Option Nat
  | [] => (x, got, none)
  | s :: t =>
    if mapHas got s then x.takeSlots got t
    else if x.c.tagged s && !x.c.isFull s then (x, got, some s)
    else
      let x := x.readSlot s
      x.takeSlots (mapPut got s (memRead x.c.mem (64 * s) 64)) t

/-- The bytes of a range among slots read. -/
def gather (got : SMap (List Byte)) (a n : Nat) : List Byte :=
  (((slotsOf a n).flatMap fun s => mapGet [] got s).drop (a % 64)).take n

/-- The A register of an instruction as read at dispatch (R147). -/
def QI.reg (q : QI) (n : Nat) : Word := q.a.getD n 0
/-- The local address in an A register: bits [15:0] (R174). -/
def QI.addr (q : QI) (r : AReg) : Nat := field (q.reg r.toNat).toNat 0 16
/-- A count in an A register: bits [16:0]; none where bits [31:17] are not zero or the count passes 65,536 (R174). -/
def QI.count (q : QI) (r : AReg) : Option Nat :=
  let v := (q.reg r.toNat).toNat
  if v ≤ 65536 then some v else none
/-- The 64-bit value of a register pair (R174, R198). -/
def QI.pair (q : QI) (r : AReg) : Nat := (q.reg r.toNat).toNat + 2 ^ 32 * (q.reg (r.toNat + 1)).toNat

end Sys2Proof.Machine
end

