-- ==== Sys2Proof/Machine/Scales.lean ====
section
/-! DEFINITION. Palettes, conversions with their statistics, scale records and scale streams (spec/05_scaling_quantisation.md). -/
namespace Sys2Proof.Machine

/-- A palette record (R105). -/
structure Pal where
  tensorId : Nat
  fmt : Nat
  sfmt : Nat
  group : Nat
  lenM1 : Nat
  ptr : Nat
  fill : Nat
  policy : Nat
  jitDone : Bool
  hadNonfin : Bool
  ctrlTop : Nat
  thresh : Nat
  margin : Nat
  threshTop : Nat
  scale : Nat
  step : Nat
  jitCount : Nat
  elements : Nat
  sat : Nat
  under : Nat
  nonfin : Nat
  res1 : Nat
  sqErr : Nat
  amax : Nat
  res2 : Nat
  hist : List Nat
  deriving DecidableEq, Repr

/-- Read a palette record from its 192 bytes (R105). -/
def palOf (l : List Byte) : Pal :=
  let c := leAt l 4 4
  let j := leAt l 8 4
  { tensorId := leAt l 0 4, fmt := field c 0 4, sfmt := field c 4 2, group := field c 6 2, lenM1 := field c 8 5,
    ptr := field c 13 5, fill := field c 18 6, policy := field c 24 2, jitDone := bitAt c 26, hadNonfin := bitAt c 27,
    ctrlTop := field c 28 4, thresh := field j 0 16, margin := field j 16 8, threshTop := field j 24 8,
    scale := leAt l 12 4, step := leAt l 16 4, jitCount := leAt l 20 4, elements := leAt l 24 8, sat := leAt l 32 4,
    under := leAt l 36 4, nonfin := leAt l 40 4, res1 := leAt l 44 4, sqErr := leAt l 48 8, amax := leAt l 56 4,
    res2 := leAt l 60 4, hist := (List.range 32).map fun i => leAt l (64 + 4 * i) 4 }

/-- The 192 bytes of a palette record (R105). -/
def palBytes (p : Pal) : List Byte :=
  leBytes 4 p.tensorId
    ++ leBytes 4 (p.fmt + 2 ^ 4 * p.sfmt + 2 ^ 6 * p.group + 2 ^ 8 * p.lenM1 + 2 ^ 13 * p.ptr + 2 ^ 18 * p.fill + 2 ^ 24 * p.policy
        + 2 ^ 26 * b2n p.jitDone + 2 ^ 27 * b2n p.hadNonfin + 2 ^ 28 * p.ctrlTop)
    ++ leBytes 4 (p.thresh + 2 ^ 16 * p.margin + 2 ^ 24 * p.threshTop)
    ++ leBytes 4 p.scale ++ leBytes 4 p.step ++ leBytes 4 p.jitCount ++ leBytes 8 p.elements ++ leBytes 4 p.sat ++ leBytes 4 p.under
    ++ leBytes 4 p.nonfin ++ leBytes 4 p.res1 ++ leBytes 8 p.sqErr ++ leBytes 4 p.amax ++ leBytes 4 p.res2
    ++ p.hist.flatMap (leBytes 4)

/-- The checks of R106 on the record's contents. -/
def palOk (p : Pal) : Bool :=
  p.fmt ≤ 0xB && p.sfmt ≤ 2 && p.policy ≤ 2 && p.fill ≤ p.lenM1 + 1 && Nat.blt p.ptr (p.lenM1 + 1)
    && p.ctrlTop == 0 && p.threshTop == 0 && p.res1 == 0 && p.res2 == 0
    && (if p.sfmt == 2 then Nat.blt p.scale (2 ^ 24) else Nat.blt p.scale 256)
    && (p.fmt != 2 || p.policy == 2)

/-- The palette at an address is usable (R105, R106): aligned, wholly in a weight-class window, contents in order. -/
def Cell.palOk (c : Cell) (a : Nat) : Bool :=
  a % 64 == 0 && Nat.ble (a + 192) 0x8000 && (slotsOf a 192).all c.weightClass && Machine.palOk (palOf (memRead c.mem a 192))

/-- The palette at an address. -/
def Cell.pal (c : Cell) (a : Nat) : Pal := palOf (memRead c.mem a 192)
/-- Write a palette back in place (R107): no tag changes, no block. -/
def Cell.setPal (c : Cell) (a : Nat) (p : Pal) : Cell := c.put a (palBytes p)

/-- The protection check of the palette's slots when an instruction reads it (R219). -/
def Fx.checkPal (x : Fx) (a : Nat) : Fx := x.checkSlots (slotsOf a 192)

/-- What a conversion of several elements adds to a palette (R112), and its .jit passes (R113). -/
structure Stats where
  n : Nat
  sat : Nat
  under : Nat
  nonfin : Nat
  sq : Nat
  amax : Nat
  jit : Nat
  deriving DecidableEq, Repr

/-- No element. -/
def Stats.zero : Stats := ⟨0, 0, 0, 0, 0, 0, 0⟩

/-- Add counts; the amax is the larger FP32 magnitude. -/
def Stats.add (a b : Stats) : Stats :=
  ⟨a.n + b.n, a.sat + b.sat, a.under + b.under, a.nonfin + b.nonfin, a.sq + b.sq, max a.amax b.amax, a.jit + b.jit⟩

/-- FP32 bits of a finite magnitude; an INT32 magnitude that FP32 cannot hold is rounded to nearest even, as R190 rounds it (log entry 9). -/
def magF32 (x : Q) : Nat := arithTo 0xA .rne (.fin { x with neg := false })

/-- Saturating sum of two statistics of `w` bits. -/
def satSum (w a b : Nat) : Nat := min (a + b) (2 ^ w - 1)

/-- Add statistics to a palette (R108, R112, R113). -/
def Pal.addStats (p : Pal) (s : Stats) : Pal :=
  { p with elements := satSum 64 p.elements s.n, sat := satSum 32 p.sat s.sat, under := satSum 32 p.under s.under,
           nonfin := satSum 32 p.nonfin s.nonfin, sqErr := satSum 64 p.sqErr s.sq, amax := max p.amax s.amax,
           hadNonfin := p.hadNonfin || s.nonfin != 0, jitCount := satSum 32 p.jitCount s.jit, jitDone := p.jitDone || s.jit != 0 }

/-- Whether adding statistics saturates one of them (R112). -/
def Pal.saturates (p : Pal) (s : Stats) : Bool :=
  Nat.ble (2 ^ 64) (p.elements + s.n) || Nat.ble (2 ^ 32) (p.sat + s.sat) || Nat.ble (2 ^ 32) (p.under + s.under)
    || Nat.ble (2 ^ 32) (p.nonfin + s.nonfin) || Nat.ble (2 ^ 64) (p.sqErr + s.sq) || Nat.ble (2 ^ 32) (p.jitCount + s.jit)

/-- A statistic of the palette at an address has saturated (R112). -/
def Fx.palSaturated (x : Fx) (a : Nat) : Fx :=
  x.map fun c => (c.setRegs fun r => { r with palSat := true }).sum 0x0332 1 (leBytes 4 a)

/-- Add statistics to the palette at an address, in one read-modify-write (R107, R112); a .jit pass replaces its scale (R113). -/
def Fx.addStats (x : Fx) (a : Nat) (s : Stats) (scale : Option Nat := none) : Fx :=
  let p := x.c.pal a
  let q := p.addStats s
  let x := x.map fun c => c.setPal a (match scale with | some v => { q with scale := v } | none => q)
  if p.saturates s then x.palSaturated a else x

/-- d² in units of 2^-24, truncated (R112). -/
def sqUnits (d : Q) : Nat :=
  let s := shiftFrac (d.num * d.num) (d.den * d.den) (2 * d.ex + 24)
  s.1 / s.2

/-- One converted element: its bits and its statistics. -/
structure Elem where
  bits : Nat
  st : Stats
  deriving DecidableEq, Repr

/-- The magnitude of a finite value in FP32, zero otherwise. -/
def Val.mag : Val → Nat
  | .fin x => magF32 x
  | _ => 0

/-- Convert one element under a scale (R27, R110, R112, R478): the exact quotient x / s is rounded once. DESIGN CHOICE (log entry 63): no rule states what a conversion makes of a finite element under a NaN scale; it is written as the conversion of a NaN, it counts as an element and in amax_now, and it adds nothing to sq_err or nonfinite_count. -/
def convElem (fmt zp : Nat) (m : Rnd) (s : ScaleVal) (v : Val) : Elem :=
  let nf := b2n (!v.isFin)
  match s, v with
  | .zero, .fin x =>
    let neg := x.neg && fmt != 0 && fmt != 1 && fmt != 2 && fmt != 0xB
    ⟨match fltFmt fmt with | some f => f.encode neg 0 0 | none => if fmt = 2 then zp else 0, ⟨1, 0, b2n (x.num != 0), 0, 0, v.mag, 0⟩⟩
  | .pos k e, .fin x =>
    let q := qDiv x ⟨false, k, 1, e⟩
    let c := convTo fmt zp m (.fin q)
    let y := match decodeElem fmt c.bits with
      | .fin y => qAdd y (qInt (if fmt = 2 then -(zp : Int) else 0))
      | _ => q
    ⟨c.bits, ⟨1, b2n c.sat, b2n c.under, 0, sqUnits (qAbsDiff q y), v.mag, 0⟩⟩
  | .nan, .fin _ => ⟨(convTo fmt zp m .nan).bits, ⟨1, 0, 0, 0, 0, v.mag, 0⟩⟩
  | _, w => ⟨(convTo fmt zp m w).bits, ⟨1, 0, 0, nf, 0, 0, 0⟩⟩

/-- Statistics of an alignment under R32 or R33 (R112): x is in element units already. -/
def alignStats (fac : Int) (nonfinGroup : Bool) (v : Val) (q : Int) : Stats :=
  match v with
  | .fin x =>
    if nonfinGroup then ⟨1, 0, b2n (x.num != 0), 0, sqUnits { x with neg := false }, v.mag, 0⟩
    else ⟨1, 0, b2n (x.num != 0 && q == 0), 0, sqUnits (qAbsDiff x ⟨decide (q < 0), q.natAbs, 1, fac⟩), v.mag, 0⟩
  | _ => ⟨1, 0, 0, 1, 0, 0, 0⟩

/-- The largest finite entry among history entries when it is above zero, as an exact value; zero where there is none or it is not above zero (R109). -/
def finiteMax (l : List Nat) : Q :=
  l.foldl (fun m b => match decodeFlt fp32 b with
    | .fin x => if x.neg then m else qMaxVal m (.fin x)
    | _ => m) ⟨false, 0, 1, 0⟩

/-- The newest `n` history entries. -/
def Pal.newest (p : Pal) : List Nat :=
  (List.range p.fill).map fun i => p.hist.getD ((p.ptr + (p.lenM1 + 1) - i) % (p.lenM1 + 1)) 0

/-- The push of R109, with the advance option. -/
def Pal.push (p : Pal) (advance : Bool) : Pal :=
  let ptr := (p.ptr + 1) % (p.lenM1 + 1)
  let p := { p with ptr := ptr, hist := setAt p.hist ptr p.amax, fill := min (p.fill + 1) (p.lenM1 + 1),
                    amax := 0, jitDone := false, hadNonfin := false, step := (p.step + 1) % 2 ^ 32,
                    tensorId := if advance then (p.tensorId + 1) % 2 ^ 32 else p.tensorId }
  let a := if p.policy = 0 then finiteMax p.newest else finiteMax [p.hist.getD ptr 0]
  if p.policy ≠ 2 ∧ a.num ≠ 0 then { p with scale := scaleFrom p.sfmt p.fmt (toSigned 8 p.margin) a } else p

/-- The statistics that a palette holds. -/
def Pal.stats (p : Pal) : Stats := ⟨p.elements, p.sat, p.under, p.nonfin, p.sqErr, p.amax, p.jitCount⟩

/-- The merge of two palette copies (R107). -/
def Pal.merge (a b : Pal) : Pal :=
  { a.addStats b.stats with jitDone := a.jitDone || b.jitDone, hadNonfin := a.hadNonfin || b.hadNonfin }

/-- Derive of VSCL form 1 (R189): the scale from an exact present amax; policy 2 changes nothing. -/
def Pal.derive (p : Pal) (amax : Q) : Pal :=
  if p.policy = 2 then p else { p with scale := scaleFromPresent p.sfmt p.fmt (toSigned 8 p.margin) amax }

/-! Scale records (R116, R476). -/

/-- A scale record. -/
structure ScaleRec where
  tag : Byte
  sfmt : Nat
  group : Nat
  zp : Bool
  nf : Bool
  jit : Bool
  count : Nat
  reserved : Bool
  entries : List Nat
  zps : List Byte
  nfs : List Bool
  deriving DecidableEq, Repr

/-- Bytes of one entry of a scale format. -/
def entryLen (sfmt : Nat) : Nat := if sfmt = 2 then 4 else 1

/-- Length in bytes of the record whose header is given: 8 where the header is not usable. -/
def recLen (h : Nat) : Nat :=
  let sf := field h 8 2
  let n := field h 16 9
  if sf = 3 ∨ n = 0 ∨ 256 < n then 8
  else
    let body := n * entryLen sf + (if bitAt h 12 then n else 0) + (if bitAt h 13 then ceilDiv n 8 else 0)
    8 + 8 * ceilDiv body 8

/-- Read a record from its bytes. -/
def recOf (l : List Byte) : ScaleRec :=
  let h := leAt l 0 8
  let sf := field h 8 2
  let n := field h 16 9
  let e := entryLen sf
  let zoff := 8 + n * e
  let noff := zoff + (if bitAt h 12 then n else 0)
  { tag := BitVec.ofNat 8 h, sfmt := sf, group := field h 10 2, zp := bitAt h 12, nf := bitAt h 13, jit := bitAt h 14, count := n,
    reserved := bitAt h 15 || field h 25 39 != 0,
    entries := (chunks e ((l.drop 8).take (n * e))).map leNat,
    zps := if bitAt h 12 then (l.drop zoff).take n else [],
    nfs := if bitAt h 13 then (List.range n).map fun k => bitAt (l.getD (noff + k / 8) 0).toNat (k % 8) else [] }

/-- The padding after a record's parts is zero (R476). -/
def recPadZero (l : List Byte) (h : Nat) : Bool :=
  let n := field h 16 9
  let used := 8 + n * entryLen (field h 8 2) + (if bitAt h 12 then n else 0) + (if bitAt h 13 then ceilDiv n 8 else 0)
  allZero (l.drop used) && (!bitAt h 13 || n % 8 == 0 || field (l.getD (used - 1) 0).toNat (n % 8) (8 - n % 8) == 0)

/-- A record is well formed for a block that takes group field `group` (none: any of 0 to 3 by the count rule) and `count` groups (R476), but for its place in a ring. -/
def recOk (l : List Byte) (group count : Nat) : Bool :=
  let r := recOf l
  r.sfmt != 3 && r.count != 0 && Nat.ble r.count 256 && !r.reserved && r.entries.all (fun e => r.sfmt != 2 || Nat.blt e (2 ^ 24))
    && recPadZero l (leAt l 0 8) && r.group == group && r.count == count

/-- The bytes of a record (R116). -/
def recBytes (r : ScaleRec) : List Byte :=
  padTo 8 (leBytes 8 (r.tag.toNat + 2 ^ 8 * r.sfmt + 2 ^ 10 * r.group + 2 ^ 12 * b2n r.zp + 2 ^ 13 * b2n r.nf + 2 ^ 14 * b2n r.jit + 2 ^ 16 * r.count)
    ++ r.entries.flatMap (leBytes (entryLen r.sfmt)) ++ r.zps
    ++ (if r.nf then (chunks 8 r.nfs).map fun c => BitVec.ofNat 8 (c.foldr (fun b a => b2n b + 2 * a) 0) else []))

/-- The stored scale, zero point and non-finite flag of group `g` of a record. -/
def ScaleRec.at (r : ScaleRec) (g : Nat) : ScaleVal × Nat × Bool :=
  (scaleVal r.sfmt (r.entries.getD g 0), (r.zps.getD g 0).toNat, r.nfs.getD g false)

/-! Scale streams (R118, R119, R179). -/

/-- Size in elements of a vector group field 0 to 2 (R116). -/
def groupLen (g : Nat) : Nat := 32 * 2 ^ g

/-- Where the head record of a stream stands. -/
def Stream.headSlot (s : Stream) : Nat := s.head.toNat

/-- Slots that the head record takes: its header, read from memory, says how many. -/
def Cell.recSlots (c : Cell) (s : Stream) : List Nat :=
  List.range' s.headSlot (ceilDiv (recLen (leNat (memRead c.mem (64 * s.headSlot) 8))) 64)

/-- The record's slots lie within the ring (R179, R476). -/
def Stream.holds (s : Stream) (n : Nat) : Bool :=
  Nat.ble (s.headSlot + n) (s.first.toNat + s.len.toNat)

/-- Move the stream head past `n` slots (R179). -/
def Stream.advance (s : Stream) (n : Nat) : Stream :=
  let h := s.headSlot + n
  { s with head := BitVec.ofNat 9 (if h = s.first.toNat + s.len.toNat then s.first.toNat else h) }

/-- What fetching a data block with its scale record gives (R118). -/
inductive Fetch where
  | ok (r : Option ScaleRec)
  | empty (slot : Nat)
  | desync (t h : Byte) (behind : Bool)
  deriving DecidableEq, Repr

/-- Judge a data block's slots against the head record of a stream, without taking either (R118, R119): stall first, then desync. `group` and `count` are what the block asks of the record. DESIGN CHOICE (log entry 64): a block in an accumulator frame has no tag (R117 gives tags to slots), so T is taken equal to H. -/
def Cell.judge (c : Cell) (slots : List Nat) (s : Stream) (groupCount : Nat → Nat → Bool) : Fetch :=
  match c.firstEmpty slots with
  | some e => .empty e
  | none =>
    match c.firstEmpty [s.headSlot] with
    | some e => .empty e
    | none =>
      let rs := c.recSlots s
      let h := memGet c.mem (64 * s.headSlot)
      let t := match slots with
        | [] => h
        | x :: _ => if x < 512 then c.tagOf x else h
      let d := (h.toNat + 256 - t.toNat) % 256
      if (slots.any fun x => Nat.blt x 512 && c.tagOf x != t) then .desync t h true
      else if 1 ≤ d ∧ d ≤ 127 then .desync t h false
      else if 128 ≤ d then .desync t h true
      else if !s.holds rs.length then .desync t h true
      else
        match c.firstEmpty rs with
        | some e => .empty e
        | none =>
          let l := memRead c.mem (64 * s.headSlot) (recLen (leNat (memRead c.mem (64 * s.headSlot) 8)))
          let r := recOf l
          if recOk l r.group r.count && groupCount r.group r.count then .ok (some r) else .desync t h true

/-- Correct the head record's slots where their protection can, before the record is judged (R218). -/
def Fx.peekRec (x : Fx) (s : Stream) : Fx :=
  if (x.c.firstEmpty [s.headSlot]).isSome then x
  else
    let x := x.peekSlot s.headSlot
    (x.c.recSlots s).foldl Fx.peekSlot x

/-- Stream `i` as an instruction of number `seq` sees it: the last SETCFG dispatched before it (R148). -/
def MemRegs.stream (r : MemRegs) (i seq : Nat) : Stream :=
  ((r.streams.filter fun s => s.no == i && Nat.ble s.since seq).getLast?).getD ⟨i, 0, false, 0, 0, 0⟩

/-- Take the head record of stream `i` for the instruction numbered `seq`: read its slots with their effects and move the head (R118). -/
def Fx.takeRec (x : Fx) (i seq : Nat) : Fx :=
  let s := x.c.mr.stream i seq
  let rs := x.c.recSlots s
  let x := rs.foldl Fx.readSlot x
  x.map (Cell.setMr fun r => { r with streams := r.streams.map fun o => if o.no == i && o.since == s.since then s.advance rs.length else o })

end Sys2Proof.Machine
end

