-- ==== Sys2Proof/Machine/ArrayCore.lean ====
section
/-! DEFINITION. What the array computes: loading a tile, narrow partials, group sums, promotion, trees, compressed blocks (spec/03_cim_cell.md R49 to R57; spec/04_accumulation_order.md R74 to R92; spec/06_sparsity.md R125 to R141). -/
namespace Sys2Proof.Machine

/-- Transpose a list of rows of `n` elements. -/
def transposeL {α : Type} (n : Nat) (rows : List (List α)) : List (List α) :=
  rows.foldr (fun row acc => List.zipWith List.cons row acc) (List.replicate n [])

/-- Largest power of two below n, for n ≥ 2 (R89). -/
def pow2Below (n : Nat) : Nat := 2 ^ Nat.log2 (n - 1)

/-- The canonical tree of R89 over leaves in order, with fuel; `none` for no leaf. -/
def treeF {α : Type} (f : α → α → α) : Nat → List α → Option α
  | 0, _ => none
  | _, [] => none
  | _, [x] => some x
  | n + 1, l =>
    let p := pow2Below l.length
    match treeF f n (l.take p), treeF f n (l.drop p) with
    | some a, some b => some (f a b)
    | a, _ => a

/-- The canonical tree of R89. -/
def canonTree {α : Type} (f : α → α → α) (l : List α) : Option α := treeF f (l.length + 1) l

/-- A sum in FP32 or INT32 bits with the saturations it took. -/
structure Acc where
  bits : Nat
  sats : Nat
  deriving DecidableEq, Repr

/-- One addition of the accumulation: FP32 to nearest even, or INT32 with saturation (R78, R79). -/
def accAdd (int : Bool) (a b : Acc) : Acc :=
  if int then
    let r := i32Add a.bits b.bits
    ⟨r.1, a.sats + b.sats + b2n r.2⟩
  else ⟨f32Add a.bits b.bits, a.sats + b.sats⟩

/-! Bit-planes (R52, R56, R130, R131). -/

/-- Bit k of an integer in two's complement of `n` bits. -/
def planeBit (n k : Nat) (x : Int) : Nat := field (ofSigned n x) k 1

/-- The plane sum S_k over pairs of input and weight (R52, R56). -/
def planeSum (n k : Nat) (xw : List (Int × Int)) : Int :=
  (xw.map fun p => (planeBit n k p.1 : Int) * p.2).sum

/-- The narrow partial after the planes from n − 1 down to plane n − 1 − i have been accumulated (R52). -/
def narrowAfter (n : Nat) (xw : List (Int × Int)) : Nat → Int
  | 0 => -(planeSum n (n - 1) xw)
  | i + 1 => 2 * narrowAfter n xw i + planeSum n (n - 2 - i) xw

/-- The narrow partial of R52 after plane 0. -/
def narrowPlanes (n : Nat) (xw : List (Int × Int)) : Int := narrowAfter n xw (n - 1)

/-- The exact sum that the narrow partial equals (R52, R70). -/
def narrowSum (xw : List (Int × Int)) : Int := (xw.map fun p => p.1 * p.2).sum

/-- Plane k of a quarter is empty: its bit is 0 on every active row (R130). -/
def planeEmpty (n k : Nat) (xs : List Int) : Bool := xs.all fun x => planeBit n k x == 0

/-- Non-empty planes of a quarter's inputs. -/
def itemCount (n : Nat) (xs : List Int) : Nat := ((List.range n).filter fun k => !planeEmpty n k xs).length

/-- The sparse path's walk over the planes from k − 1 down: partial and last plane (R131). -/
def sparseWalk (n : Nat) (xw : List (Int × Int)) : Nat → Int × Nat → Int × Nat
  | 0, s => s
  | k + 1, (p, last) =>
    if planeEmpty n k (xw.map Prod.fst) then sparseWalk n xw k (p, last)
    else
      let sk := planeSum n k xw
      sparseWalk n xw k (p * 2 ^ (last - k) + (if k + 1 = n then -sk else sk), k)

/-- The narrow partial of the sparse path (R131). -/
def sparsePartial (n : Nat) (xw : List (Int × Int)) : Int :=
  let r := sparseWalk n xw n (0, n - 1)
  r.1 * 2 ^ r.2

/-- A narrow partial leaves its 20-bit range (R52, R80). -/
def narrowOverflows (p : Int) : Bool := decide (p < -524288) || decide (524287 < p)

/-- Halving of a replayed quarter's inputs (R81). -/
def halveIn (x : Int) : Int := Int.tdiv x 2

/-! Tiles (R49, R58, R127, R128). -/

/-- What a tile source becomes in a slot. -/
structure Tile where
  hi : List Byte
  lo : List Byte
  store : SMap GroupEnt
  idx : List Byte
  rowValid : BitVec 256
  dropRange : Nat
  dropEqual : Nat
  stats : Stats
  deriving DecidableEq, Repr

/-- Weights in a row of the layout (R49). -/
def tileCols (fmt : Nat) : Nat := if fmt = 0 then 64 else 32
/-- Bytes of a source row (R181). -/
def rowLen (fmt : Nat) : Nat := if fmt = 8 then 64 else 32
/-- Rows of a column-group field (R72); 32 for square groups. -/
def groupRows (group : Nat) : Nat := if group = 3 then 32 else groupLen group
/-- Bytes of a WLOAD source (R127, R181). -/
def tileLen (fmt : Nat) (s24 : Bool) : Nat :=
  128 * rowLen fmt + (if s24 then 128 * (if fmt = 0 then 16 else 8) + 32 else 0)
/-- Scale entries that a tile's record must have (R476). -/
def tileGroups (fmt group : Nat) : Nat := if group = 3 then 4 else tileCols fmt * (128 / groupRows group)

/-- The index of weight j of physical row r (R127). -/
def idxAt (idx : List Byte) (cols r j : Nat) : Nat :=
  field (idx.getD (r * (cols / 4) + j / 4) 0).toNat (2 * (j % 4)) 2

/-- The indices of physical row r, in column order. -/
def idxRow (idx : List Byte) (cols r : Nat) : List Nat :=
  ((idx.drop (r * (cols / 4))).take (cols / 4)).flatMap fun b =>
    [field b.toNat 0 2, field b.toNat 2 2, field b.toNat 4 2, field b.toNat 6 2]

/-- Whether a kept weight is dropped (R128): 0 no, 1 out of range, 2 equal indices. DESIGN CHOICE (log entry 61): a weight that is both counts once, as out of range. -/
def dropKind (rv : BitVec 256) (r i iPrev : Nat) : Nat :=
  if !rv.getLsbD (4 * (r / 2) + i) then 1
  else if r % 2 = 1 ∧ i = iPrev then 2 else 0

/-- Statistics of aligned elements against their sources. -/
def statsOf (fmt : Nat) (es : List Nat) (al : Aligned) : Stats :=
  if fltFmt fmt = none then .zero
  else (List.zip es al.q).foldl (fun s eq => s.add (alignStats al.fac al.nonfin (decodeElem fmt eq.1) eq.2)) .zero

/-- What the record entry of group k gives its elements: scale, zero point, non-finite flag; none stands for the scale 1 (R118). -/
def scaleAt (r : Option ScaleRec) (k : Nat) : ScaleVal × Nat × Bool :=
  match r with
  | some r => r.at k
  | none => (.pos 1 0, 0, false)

/-- An operand whose tensor is marked as MX carries E8M0 scales (R44). -/
def mxScaled (mx : Bool) (r : Option ScaleRec) : Bool :=
  match r with
  | some r => mx && r.sfmt == 0
  | none => false

/-- Whether a stored element is other than zero, a NaN or an infinity included. -/
def elemSet (fmt e : Nat) : Bool :=
  match decodeElem fmt e with
  | .fin x => x.num != 0
  | _ => true

/-- Convert a tile source as WLOAD does (R32 to R37, R44, R127, R128, R181). A weight on an invalid row is padding and takes no part in its group (R36). DESIGN CHOICE (log entry 61): whether a dropped weight is non-zero is judged on its element in the source, so that a BF16 weight counts once. -/
def loadTile (fmt group : Nat) (s24 : Bool) (nrowsM1 : Nat) (src : List Byte) (mx : Bool) (r : Option ScaleRec) : Tile :=
  let cols := tileCols fmt
  let rows := (List.range 128).map fun i => unpack (fmtBits fmt) cols ((src.drop (i * rowLen fmt)).take (rowLen fmt))
  let idx := (src.drop (128 * rowLen fmt)).take (if s24 then 128 * (cols / 4) else 0)
  let rv : BitVec 256 :=
    if s24 then BitVec.ofNat 256 (leNat ((src.drop (128 * rowLen fmt + 128 * (cols / 4))).take 32))
    else BitVec.ofNat 256 (2 ^ (nrowsM1 + 1) - 1)
  let kinds : List (List Nat) := (List.range 128).map fun i =>
    if s24 then (List.zip (idxRow idx cols i) (idxRow idx cols (i - 1))).map fun ab => dropKind rv i ab.1 ab.2
    else List.replicate cols (if i ≤ nrowsM1 then 0 else 1)
  let marked := List.zipWith (List.zipWith fun e k => (e, k != 1)) rows kinds
  let n := groupRows group
  let mxs := mxScaled mx r
  -- groups of elements in the entry order of R116, what they align to, and the integers by row
  let srcs : List (List (Nat × Bool)) :=
    if group = 3 then (chunks 32 marked).map List.flatten
    else (transposeL cols marked).flatMap fun col => chunks n col
  let als : List Aligned :=
    (List.zip (List.range srcs.length) srcs).map fun ks => alignScaled fmt mxs (scaleAt r ks.1) ks.2
  let q : List (List Int) :=
    if group = 3 then (als.flatMap fun a => chunks cols a.q)
    else transposeL 128 ((chunks (128 / n) als).map fun cs => (cs.map (·.q)).flatten)
  let st := (List.zip srcs als).foldl (fun s sa => s.add (statsOf fmt ((sa.1.filter (·.2)).map (·.1))
    { sa.2 with q := ((List.zip sa.1 sa.2.q).filter (·.1.2)).map (·.2) })) Stats.zero
  let store := (List.zip (List.range als.length) als).map fun ia =>
    (ia.1, match r with
      | some r => ⟨true, BitVec.ofNat 2 r.sfmt, BitVec.ofNat 32 (r.entries.getD ia.1 0), ia.2.fac, r.zps.getD ia.1 0, ia.2.nonfin⟩
      | none => ⟨false, 0, 0, ia.2.fac, 0, ia.2.nonfin⟩)
  let kept := List.zipWith (List.zipWith fun x k => if k = 0 then x else 0) q kinds
  let drops := fun k => if s24 then (List.zipWith (List.zipWith fun e d => b2n (d == k && elemSet fmt e)) rows kinds).flatten.sum else 0
  { hi := if fmt = 8 then kept.flatMap fun w => w.map fun x => BitVec.ofNat 8 (ofSigned 8 (splitHigh x))
          else if fmt = 0 then kept.flatMap fun w => pack 4 (w.map (ofSigned 4))
          else kept.flatMap fun w => w.map fun x => BitVec.ofNat 8 (ofSigned 8 x),
    lo := if fmt = 8 then kept.flatMap fun w => w.map fun x => BitVec.ofNat 8 (ofSigned 8 (splitLow x)) else [],
    store := store, idx := idx, rowValid := rv, dropRange := drops 1, dropEqual := drops 2, stats := st }

/-- A slot written with a tile (R58, R72). -/
def Slot.fill (s : Slot) (fmt group : Nat) (s24 : Bool) (t : Tile) (body : List Byte) : Slot :=
  { s with fmt := BitVec.ofNat 4 fmt, four := decide (fmt = 0), group := BitVec.ofNat 2 group, sparse := s24, poison := false,
           rowValid := t.rowValid, bits := memCells 0 body, store := t.store, idx := memCells 0 t.idx, errs := [], rewrites := [] }

/-! Vectors through a slot (R52 to R57, R74 to R79, R125). -/

/-- An input vector as the array takes it: integers, factor and flags per input group, with their stored scales. -/
structure InVec where
  xs : List Int
  /-- Elements per input group. -/
  g : Nat
  groups : List (ScaleVal × Int × Bool)
  stats : Stats
  deriving DecidableEq, Repr

/-- Align an input vector (R29, R33, R34, R36, R44): `valid` marks the rows that are no padding. -/
def alignIn (fmt g : Nat) (es : List Nat) (valid : Nat → Bool) (mx : Bool) (r : Option ScaleRec) : InVec :=
  let idx := List.range es.length
  let marked := (List.zip es idx).map fun ei => (ei.1, valid ei.2)
  let gs := (List.zip (List.range marked.length) (chunks g marked)).map fun kc =>
    let sz := scaleAt r kc.1
    let al := alignScaled fmt (mxScaled mx r) sz kc.2
    (al.q, (sz.1, al.fac, al.nonfin),
      statsOf fmt ((kc.2.filter (·.2)).map (·.1)) { al with q := ((List.zip kc.2 al.q).filter (·.1.2)).map (·.2) })
  ⟨gs.flatMap (·.1), g, gs.map (·.2.1), gs.foldl (fun s x => s.add x.2.2) .zero⟩

/-- Stored weights of a slot by row (R49). -/
def slotRows (s : Slot) : List (List Int) :=
  (chunks 32 (memRead s.bits 0 4096)).map fun row =>
    if s.four then row.flatMap fun b => [toSigned 4 b.toNat, toSigned 4 (b.toNat / 16)]
    else row.map fun b => toSigned 8 b.toNat

/-- For each output, the (input, weight) pairs of each quarter: forward mode, selectors of a 2:4 slot applied (R52, R125). -/
def forwardPairs (s : Slot) (xs : List Int) : List (List (List (Int × Int))) :=
  let rows := slotRows s
  let cols := if s.four then 64 else 32
  let idx := memRead s.idx 0 (128 * (cols / 4))
  let xw := (List.zip (List.range 128) rows).map fun ir =>
    if s.sparse then
      let four := (xs.drop (4 * (ir.1 / 2))).take 4
      List.zipWith (fun i w => (four.getD i 0, w)) (idxRow idx cols ir.1) ir.2
    else
      let x := xs.getD ir.1 0
      ir.2.map fun w => (x, w)
  (transposeL cols xw).map (chunks 32)

/-- For each row, the pairs of its one reduction: transposed mode (R56). -/
def transposedPairs (s : Slot) (xs : List Int) : List (List (Int × Int)) :=
  (slotRows s).map fun row => List.zip xs row

/-- The partial of one quarter with its replay exponent (R52, R80, R81). -/
def quarterSum (replay : Bool) (xw : List (Int × Int)) : Int :=
  if replay then 2 * narrowSum (xw.map fun p => (halveIn p.1, p.2)) else narrowSum xw

/-- How one product group promotes (R76 to R79): bits, saturated, non-finite. -/
def promote (int : Bool) (g : Int) (w : GroupEnt) (i : ScaleVal × Int × Bool) : Acc × Bool :=
  let ws := if w.scaled then scaleVal w.sfmt.toNat w.scale.toNat else .pos 1 0
  match ws, i.1 with
  | .nan, _ => (⟨if int then 0 else canonNaN 0xA, 0⟩, true)
  | _, .nan => (⟨if int then 0 else canonNaN 0xA, 0⟩, true)
  | .zero, _ => if w.nonfin || i.2.2 then (⟨if int then 0 else canonNaN 0xA, 0⟩, true) else (⟨0, 0⟩, false)
  | _, .zero => if w.nonfin || i.2.2 then (⟨if int then 0 else canonNaN 0xA, 0⟩, true) else (⟨0, 0⟩, false)
  | .pos ks es, .pos ki ei =>
    if w.nonfin || i.2.2 then (⟨if int then 0 else canonNaN 0xA, 0⟩, true)
    else
      let s := combineScale (ks * ki) (es + ei + w.fac + i.2.1)
      let r := if int then promoteI32 g s.1 s.2 else promoteF32 g s.1 s.2
      (⟨r.1, b2n r.2⟩, false)

/-- What one vector delivers: a chunk sum per output (R86), and what it counts. -/
structure VecOut where
  sums : List Acc
  /-- Quarters replayed. -/
  replays : Nat
  /-- Product groups promoted as non-finite, and the first output that had one. -/
  nonfin : Nat
  firstNonfin : Nat
  /-- Planes skipped on the sparse path (R143). -/
  skipped : Nat
  deriving DecidableEq, Repr

/-- The planes that the sparse path does not drive in one pass over the four quarters (R143). -/
def planesSkipped (n : Nat) (quarters : List (List Int)) : Nat :=
  (quarters.map fun q => n - itemCount n q).sum

/-- Input integers of each quarter's active rows (R130). -/
def quarterInputs (s : Slot) (xs : List Int) : List (List Int) := chunks (if s.sparse then 64 else 32) xs

/-- The planes skipped by all passes of a vector, replays included (R133, R143). -/
def vectorSkips (fmt : Nat) (quarters : List (List Int)) (replayed : List Bool) : Nat :=
  if fmt = 8 then
    planesSkipped 8 (quarters.map (·.map splitHigh)) * 2 + planesSkipped 8 (quarters.map (·.map splitLow))
  else
    let n := planes fmt
    planesSkipped n quarters
      + planesSkipped n (((List.zip quarters replayed).filter (·.2)).map fun q => q.1.map halveIn)

/-- Plane items of a vector over the four quarter lanes on the dense path, replays included (R54, R81, R457). -/
def vectorPlanes (fmt replays : Nat) : Nat := if fmt = 8 then 96 else planes fmt * (4 + replays)

/-- Whether the rows of product group k (of `n` rows) hold any row that is no padding (R86). -/
def groupLive (s : Slot) (n k : Nat) : Bool :=
  let m := if s.sparse then 2 * n else n
  (List.range m).any fun i => s.rowValid.getLsbD (m * k + i)

/-- A vector in forward mode through a slot of one 8-bit or 4-bit operand, or through the pair of a BF16 tile (R52 to R54, R74 to R79, R86). `skip` marks skipped outputs. -/
def forwardVec (s0 s1 : Slot) (fmt : Nat) (int : Bool) (v : InVec) (skip : Nat → Bool) : VecOut :=
  let bf := fmt = 8
  let pairs := if bf then [] else forwardPairs s0 v.xs
  let hh := if bf then forwardPairs s0 (v.xs.map splitHigh) else []
  let hl := if bf then forwardPairs s0 (v.xs.map splitLow) else []
  let lh := if bf then forwardPairs s1 (v.xs.map splitHigh) else []
  let outs := if s0.four then 64 else 32
  let live := (List.range outs).filter fun o => !skip o
  let replayed : List Bool := (List.range 4).map fun q =>
    !bf && live.any fun o => narrowOverflows (narrowSum ((pairs.getD o []).getD q []))
  let quarterG : Nat → List Int := fun o =>
    if bf then
      (List.range 4).map fun q => 2 ^ 16 * narrowSum ((hh.getD o []).getD q [])
        + 2 ^ 8 * (narrowSum ((hl.getD o []).getD q []) + narrowSum ((lh.getD o []).getD q []))
    else List.zipWith quarterSum replayed (pairs.getD o [])
  let slotG := groupRows s0.group.toNat
  let inG := if s0.sparse then v.g / 2 else v.g
  let n := min slotG (min inG 128)
  let groups := (List.range (128 / n)).filter (groupLive s0 n)
  let entKey := fun (o k : Nat) => if s0.group = 3 then n * k / 32 else o * (128 / slotG) + n * k / slotG
  let prom := fun (o : Nat) =>
    let gq := quarterG o
    groups.map fun k => promote int ((gq.drop (n / 32 * k)).take (n / 32)).sum
      (mapGet GroupEnt.one s0.store (entKey o k)) (v.groups.getD (n * k / inG) (.pos 1 0, 0, false))
  let res := (List.range outs).map fun o => if skip o then (⟨0, 0⟩, []) else
    let ps := prom o
    ((canonTree (accAdd int) (ps.map (·.1))).getD ⟨0, 0⟩, ps.map (·.2))
  let bad := (List.zip (List.range outs) res).filter fun x => x.2.2.any id
  { sums := res.map (·.1),
    replays := (replayed.filter id).length,
    nonfin := if s0.group = 3 then ((List.range groups.length).filter fun k => bad.any fun x => x.2.2.getD k false).length
              else (bad.map fun x => (x.2.2.filter id).length).sum,
    firstNonfin := (bad.map (·.1)).headD 0,
    skipped := vectorSkips fmt (quarterInputs s0 v.xs) replayed }

/-- A vector in transposed mode (R56, R74, R75): one group per row, so each row promoted as non-finite counts once (R104). With several input groups a row is non-finite when any of them or its weight group is (R34). -/
def transposedVec (s0 s1 : Slot) (fmt : Nat) (int : Bool) (v : InVec) (skip : Nat → Bool) : VecOut :=
  let bf := fmt = 8
  let rows := if bf then transposedPairs s0 (v.xs.map splitHigh) else transposedPairs s0 v.xs
  let hl := if bf then transposedPairs s0 (v.xs.map splitLow) else []
  let lh := if bf then transposedPairs s1 (v.xs.map splitHigh) else []
  let replayed : List Bool := (List.range 4).map fun q =>
    !bf && (List.range' (32 * q) 32).any fun r => !skip r && narrowOverflows (narrowSum (rows.getD r []))
  let res := (List.range 128).map fun r =>
    let g := if bf then 2 ^ 16 * narrowSum (rows.getD r []) + 2 ^ 8 * (narrowSum (hl.getD r []) + narrowSum (lh.getD r []))
      else quarterSum (replayed.getD (r / 32) false) (rows.getD r [])
    if skip r then (⟨0, 0⟩, false)
    else if !s0.rowValid.getLsbD r then (⟨0, 0⟩, false)
    else if 1 < v.groups.length ∧ !((mapGet GroupEnt.one s0.store (r / 32)).nonfin || v.groups.any fun i => i.2.2) then
      (⟨(Config.mixedGroups g (v.groups.length)).toNat, 0⟩, false)
    else if 1 < v.groups.length then (⟨if int then 0 else canonNaN 0xA, 0⟩, true)
    else promote int g (mapGet GroupEnt.one s0.store (r / 32)) (v.groups.getD 0 (.pos 1 0, 0, false))
  let bad := (List.zip (List.range 128) res).filter fun x => x.2.2
  { sums := res.map (·.1),
    replays := (replayed.filter id).length,
    nonfin := bad.length,
    firstNonfin := (bad.map (·.1)).headD 0,
    skipped := vectorSkips fmt (List.replicate 4 v.xs) replayed }

/-! The swatch compare (R63 to R67). -/

/-- The input that each physical row shows the swatch bitcells: on a 2:4 slot row 2g that of logical row 4g and row 2g + 1 that of logical row 4g + 1 (R125). -/
def swatchInputs (s : Slot) (xs : List Int) : List Int :=
  if s.sparse then (List.range 128).map fun r => xs.getD (4 * (r / 2) + r % 2) 0 else xs

/-- The counts of S0 to S7 over quarter q: rows on which the plane's bit and the column's bit are both 1 (R64). -/
def swatchCounts (img : List Byte) (q : Nat) (bits : List Nat) : List Nat :=
  let rows := List.zip ((bits.drop (32 * q)).take 32) ((img.drop (32 * q)).take 32)
  (List.range 8).map fun c => (rows.map fun r => r.1 * field r.2.toNat c 1).sum

/-- The counts that R64 expects of S0 to S7 in quarter q, from the popcounts of the plane's 1 bits over all, even and odd rows. -/
def swatchExpected (q : Nat) (bits : List Nat) : List Nat :=
  let rows := List.zip (List.range 32) ((bits.drop (32 * q)).take 32)
  let even := (rows.map fun r => if r.1 % 2 = 0 then r.2 else 0).sum
  let odd := (rows.map fun r => if r.1 % 2 = 0 then 0 else r.2).sum
  let all := even + odd
  let low := if q % 2 = 0 then all else 0
  [all, even, odd, low, all - low, all, even, all - low]

/-- The sums of the row-side swatch tree over the rows of quarter q, the swatch columns driven with 1 (R64). -/
def swatchRowSums (img : List Byte) (q : Nat) : List Nat :=
  ((img.drop (32 * q)).take 32).map fun b => ((List.range 8).map fun c => field b.toNat c 1).sum

/-- The row sums that R64 expects in transposed mode: 4, 1 more on an even row, 1 more in quarter 1 or 3. -/
def swatchRowExpected (q : Nat) : List Nat :=
  (List.range 32).map fun r => 4 + (if r % 2 = 0 then 1 else 0) + (if q % 2 = 0 then 0 else 1)

/-- The columns that a compare finds wrong. A row sum names no column, so in transposed mode all eight are involved (log entry 62). -/
def swatchWrong (transposed : Bool) (got want : List Nat) : Byte :=
  if transposed then (if got = want then 0 else 0xFF)
  else BitVec.ofNat 8 ((List.range 8).map fun c => if got.getD c 0 = want.getD c 0 then 0 else 2 ^ c).sum

/-- A plane that fails its compare: how often in a row, in which quarter first, and the columns. -/
structure PlaneFail where
  slot : Nat
  quarter : Nat
  plane : Nat
  times : Nat
  cols : Byte
  deriving DecidableEq, Repr

/-- The compare of one plane in the quarters driven (R64, R65): counts that the bitcells give fail three times when they are wrong, counts that come out wrong for want of margin as often as `seen` says. The quarter that fails most often is the one recorded, the lowest of equals. -/
def planeCompare (img : List Byte) (transposed : Bool) (seen : List MarginObs) (slot plane : Nat) (bits : List Nat) (driven : Nat → Bool) : Option PlaneFail :=
  let fails := ((List.range 4).filter driven).filterMap fun q =>
    let want := if transposed then swatchRowExpected q else swatchExpected q bits
    let stored := swatchWrong transposed (if transposed then swatchRowSums img q else swatchCounts img q bits) want
    if stored ≠ 0 then some (PlaneFail.mk slot q plane 3 stored)
    else
      match seen.find? fun o => o.quarter.val == q with
      | some o =>
        let m := swatchWrong transposed o.counts want
        if m ≠ 0 ∧ o.times.val ≠ 0 then some ⟨slot, q, plane, o.times.val, m⟩ else none
      | none => none
  fails.foldl (fun b x => match b with
    | none => some x
    | some y => some (if Nat.blt y.times x.times then x else if x.times = y.times then { y with cols := y.cols ||| x.cols } else y)) none

/-- The passes of a vector (R37, R54): number, slot, input integers, planes. -/
def vectorPasses (fmt slot : Nat) (xs : List Int) : List (Nat × Nat × List Int × Nat) :=
  if fmt = 8 then [(0, 0, xs.map splitHigh, 8), (1, 0, xs.map splitLow, 8), (2, 1, xs.map splitHigh, 8)]
  else [(0, slot, xs, planes fmt)]

/-- Whether plane k of a pass is driven in quarter q: on the sparse path an empty plane is not (R130, R131). -/
def planeDriven (sparse transposed : Bool) (s : Slot) (n k : Nat) (xs : List Int) (q : Nat) : Bool :=
  !sparse || !(if transposed then planeEmpty n k xs else planeEmpty n k ((quarterInputs s xs).getD q []))

/-- A vector drives some plane. -/
def vectorDrives (sparse transposed : Bool) (s : Slot) (fmt slot : Nat) (xs : List Int) : Bool :=
  (vectorPasses fmt slot xs).any fun p => (List.range p.2.2.2).any fun k => (List.range 4).any (planeDriven sparse transposed s p.2.2.2 k p.2.2.1)

/-- The planes of a vector that fail their compare, in the order they are driven (R64): pass by pass, from the sign plane down. -/
def vectorCompares (img : List Byte) (sparse transposed : Bool) (s : Slot) (fmt slot : Nat) (xs : List Int) (seen : List MarginObs) : List PlaneFail :=
  (vectorPasses fmt slot xs).flatMap fun p =>
    (List.range p.2.2.2).reverse.filterMap fun k =>
      planeCompare img transposed (seen.filter fun o => o.pass.val == p.1 && o.plane.val == k) p.2.1 k
        ((swatchInputs s p.2.2.1).map (planeBit p.2.2.2 k)) (planeDriven sparse transposed s p.2.2.2 k p.2.2.1)

/-- The bits of synthetic plane i of SWATCH (R67): all rows, even rows, odd rows, quarters 0 and 2. -/
def syntheticPlane (i : Nat) : List Nat :=
  (List.range 128).map fun r =>
    if i = 0 then 1 else if i = 1 then (if r % 2 = 0 then 1 else 0) else if i = 2 then r % 2 else (if r / 32 % 2 = 0 then 1 else 0)

/-- The synthetic planes that fail their compare (R67). -/
def syntheticCompares (img : List Byte) (seen : List MarginObs) : List PlaneFail :=
  (List.range 4).filterMap fun i => planeCompare img false (seen.filter fun o => o.vec == i) 0 i (syntheticPlane i) fun _ => true

/-! Compressed activation blocks (R137 to R139). -/

/-- Header fields of a block: fmt, dense, reserved bits, density, count, nnz. -/
structure BlockHdr where
  fmt : Nat
  dense : Bool
  bad : Bool
  density : Nat
  count : Nat
  nnz : Nat
  deriving DecidableEq, Repr

/-- Read a block header (R137). -/
def blockHdr (h : Nat) : BlockHdr :=
  ⟨field h 0 4, bitAt h 4, field h 5 3 != 0 || field h 34 30 != 0, field h 8 8, field h 16 9, field h 25 9⟩

/-- The header is malformed for an instruction's format and vector length (R139). -/
def BlockHdr.malformed (h : BlockHdr) (fmt len : Nat) : Bool :=
  h.bad || Nat.blt 0xB h.fmt || h.fmt != fmt || h.count != len || Nat.blt h.count h.nnz

/-- Length in bytes of a block with its header. -/
def blockLen (h : BlockHdr) : Nat :=
  let body := fun n => 8 * ceilDiv (packedLen (fmtBits h.fmt) n) 8
  if h.dense then 8 + body h.count else 8 + 8 * ceilDiv (ceilDiv h.count 8) 8 + body h.nnz

/-- Spread the packed elements over the set bits: `left` elements remain; the elements, each with whether its row may be active (a dropped position and a set bit whose element is zero may not), and the positions dropped (R139). -/
def spread : List Bool → Nat → List Nat → List (Nat × Bool) × Nat
  | [], _, _ => ([], 0)
  | true :: t, 0, _ => let r := spread t 0 []; ((0, false) :: r.1, r.2 + 1)
  | true :: t, n + 1, es => let r := spread t n (es.drop 1); ((es.headD 0, es.headD 0 != 0) :: r.1, r.2)
  | false :: t, n, es => let r := spread t n es; ((0, true) :: r.1, r.2)

/-- Decode a well-formed block: its elements with whether each one's row may be active, and the count of dropped positions (R137, R139). A stored −0 in the compressed form reads as +0. -/
def decodeBlock (h : BlockHdr) (l : List Byte) : List (Nat × Bool) × Nat :=
  let w := fmtBits h.fmt
  if h.dense then ((unpack w h.count (l.drop 8)).map fun e => (e, true), 0)
  else
    let mapLen := 8 * ceilDiv (ceilDiv h.count 8) 8
    let bits := ((l.drop 8).take mapLen).flatMap fun b => (List.range 8).map fun i => b.getLsbD i
    let extra := ((bits.drop h.count).filter id).length
    let inRange := bits.take h.count
    let set := (inRange.filter id).length
    let es := (unpack w h.nnz (l.drop (8 + mapLen))).map fun e =>
      match decodeElem h.fmt e with
      | .fin x => if x.num = 0 then 0 else e
      | _ => e
    let r := spread inRange h.nnz es
    (r.1, extra + r.2 + (h.nnz - set))

/-- Whether an element is zero (R137). -/
def elemZero (fmt e : Nat) : Bool :=
  match decodeElem fmt e with
  | .fin x => x.num == 0
  | _ => false

/-- Density of a block's elements (R138). -/
def density (fmt : Nat) (es : List Nat) : Nat :=
  let runs := chunks 32 es
  let items := fun (run : List Nat) =>
    let q := (alignGroup fmt 0 (run.map fun e => (e, true))).q
    if fmt = 8 then 2 * itemCount 8 (q.map splitHigh) + itemCount 8 (q.map splitLow) else itemCount (planes fmt) q
  let tot := (runs.map items).sum
  let den := runs.length * planes fmt
  if den = 0 then 0 else min 255 (256 * tot / den)

/-- Write elements as a block in the dense or compressed form (R137, R138). -/
def encodeBlock (fmt : Nat) (es : List Nat) : List Byte :=
  let w := fmtBits fmt
  let nz := es.filter fun e => !elemZero fmt e
  let bitmap := padTo 8 ((chunks 8 es).map fun c => BitVec.ofNat 8 (c.foldr (fun e a => b2n (!elemZero fmt e) + 2 * a) 0))
  let comp := bitmap ++ padTo 8 (pack w nz)
  let plain := padTo 8 (pack w es)
  let dense := Nat.blt plain.length comp.length
  leBytes 8 (fmt + 2 ^ 4 * b2n dense + 2 ^ 8 * density fmt es + 2 ^ 16 * es.length + 2 ^ 25 * nz.length)
    ++ (if dense then plain else comp)

/-! Frames and trees (R84 to R92). -/

/-- Base of a frame in the cell window (R84). -/
def frameBase (f : Nat) : Nat := 0x8000 + 0x2000 * f
/-- O of a shape code (R103). -/
def shapeO (s : BitVec 2) : Nat := 32 * 2 ^ s.toNat
/-- Shape code of O. -/
def shapeOf (o : Nat) : BitVec 2 := if o = 128 then 2 else if o = 64 then 1 else 0
/-- Vector columns of a sequential tile (R85). -/
def seqCols (o : Nat) : Nat := 2048 / o
/-- Vector columns of a tree tile (R85). -/
def treeCols (o : Nat) : Nat := 256 / o

/-- The 32-bit entry at an address. -/
def Cell.word (c : Cell) (a : Nat) : Nat := leNat (memRead c.mem a 4)
/-- Write a 32-bit entry. -/
def Cell.setWord (c : Cell) (a v : Nat) : Cell := c.put a (leBytes 4 v)

/-- A chunk sum enters a tree column of chunk count c: level j and on (R91). Gives the cell and the saturations. -/
def treeEnter (int : Bool) (aBase bBase off : Nat) : Nat → Nat → Nat → Acc → Cell → Cell × Nat
  | 0, _, _, x, c => (c, x.sats)
  | f + 1, j, n, x, c =>
    if j = 6 then (c.setWord (aBase + off) x.bits, x.sats)
    else if bitAt n j then treeEnter int aBase bBase off f (j + 1) n (accAdd int ⟨c.word (bBase + 0x400 * j + off), 0⟩ x) c
    else (c.setWord (bBase + 0x400 * j + off) x.bits, x.sats)

/-- The value APROMO forms for one entry over levels j and on (R91); none when the column has no chunk. -/
def promoEntry (int : Bool) (c : Cell) (bBase off n : Nat) : Nat → Nat → Option Acc → Option Acc
  | 0, _, x => x
  | f + 1, j, x =>
    promoEntry int c bBase off n f (j + 1)
      (if bitAt n j then
        let l : Acc := ⟨c.word (bBase + 0x400 * j + off), 0⟩
        some (match x with | none => l | some y => accAdd int l y)
       else x)

/-- Some column of the frame holds an open tree. -/
def Frame.treeOpen (f : Frame) : Bool := f.cols.any fun t => t.opened && !t.done

/-- The frame of a number. -/
def Cell.frame (c : Cell) (f : Nat) : Frame := c.frames.getD f .reset
/-- Replace a frame's record. -/
def Cell.setFrame (c : Cell) (f : Nat) (v : Frame) : Cell := { c with frames := setAt c.frames f v }

end Sys2Proof.Machine
end

