-- ==== Sys2Proof/Machine/Book.lean ====
section
/-! DEFINITION. The prompt-book image: layout, checks, and what its records say (spec/11_prompt_books_epochs.md R243 to R250). -/
namespace Sys2Proof.Machine

/-- A number of `n` bytes at an offset of the image. -/
abbrev imgAt (img : List Byte) (o n : Nat) : Nat := leAt img o n

/-- Directory entries: type word, length, offset (R244); no more than one past the 16 allowed. -/
def bookDir (img : List Byte) : List (Nat × Nat × Nat) :=
  (List.range (min 17 (imgAt img 0x14 4))).map fun i =>
    (imgAt img (0x80 + 16 * i) 4, imgAt img (0x84 + 16 * i) 4, imgAt img (0x88 + 16 * i) 8)

/-- Offset and length of a section by type. -/
def bookSec (img : List Byte) (ty : Nat) : Option (Nat × Nat) :=
  ((bookDir img).find? fun e => e.1 == ty).map fun e => (e.2.2, e.2.1)

/-- Offset of a section, 0 where it is missing. -/
def secOff (img : List Byte) (ty : Nat) : Nat := ((bookSec img ty).map (·.1)).getD 0
/-- Length of a section, 0 where it is missing. -/
def secLen (img : List Byte) (ty : Nat) : Nat := ((bookSec img ty).map (·.2)).getD 0

/-- The job seed s of R40 (R245). -/
def bookSeed (img : List Byte) : Nat := imgAt img (secOff img 1) 8
/-- Tag timeout in ticks (R245). -/
def bookTagTimeout (img : List Byte) : Nat := let v := imgAt img (secOff img 1 + 8) 4; if v = 0 then 0x800000 else v
/-- Consecutive hold steps allowed (R245). -/
def bookHoldLimit (img : List Byte) : Nat := let v := imgAt img (secOff img 1 + 0xC) 4; if v = 0 then 4096 else v
/-- Steps allowed to one change hold (R245). -/
def bookChangeLimit (img : List Byte) : Nat := let v := imgAt img (secOff img 1 + 0x10) 4; if v = 0 then 16384 else v
/-- Lead of every epoch check (R245). -/
def bookHoldLead (img : List Byte) : Nat := imgAt img (secOff img 1 + 0x14) 4
/-- Ticks from the start command to epoch 0 (R245). -/
def bookStartLead (img : List Byte) : Nat := let v := imgAt img (secOff img 1 + 0x18) 4; if v = 0 then 100000 else v
/-- Profile field (R243). -/
def bookProfile (img : List Byte) : Nat := field (imgAt img 0x10 4) 0 2
/-- Modules of the job (R243). -/
def bookModules (img : List Byte) : Nat := imgAt img 0x24 4

/-- Identifier of the module at a position (R246). -/
def bookIdent (img : List Byte) (j : Nat) : Nat := imgAt img (secOff img 2 + 576 * j) 2
/-- Region mask of the module at a position (R246). -/
def bookMask (img : List Byte) (j : Nat) : Nat := imgAt img (secOff img 2 + 576 * j + 2) 2
/-- Block mask of a region of the module at a position (R246). -/
def bookBlocks (img : List Byte) (j r : Nat) : Nat := imgAt img (secOff img 2 + 576 * j + 0x40 + 32 * r) 32
/-- Position of a module identifier. -/
def bookPosition (img : List Byte) (ident : Nat) : Option Nat :=
  (List.range (bookModules img)).find? fun j => bookIdent img j == ident

/-- A cell program image record (R247). -/
structure ImageRec where
  region : Nat
  position : Nat
  codeLen : Nat
  storeOff : Nat
  entry : Nat
  bankOff : Nat
  blocks : Nat
  cells : Nat
  windows : List Nat
  code : List Byte
  zeros : Bool
  /-- The record ends within its section. -/
  fits : Bool
  deriving DecidableEq, Repr

/-- One image record at an offset, in a section that ends at `stop`. -/
def imageAt (img : List Byte) (stop o : Nat) : ImageRec :=
  let n := imgAt img (o + 8) 4
  { region := imgAt img o 4, position := imgAt img (o + 4) 4, codeLen := n, storeOff := imgAt img (o + 0xC) 4, entry := imgAt img (o + 0x10) 4,
    bankOff := imgAt img (o + 0x14) 4, blocks := imgAt img (o + 0x18) 32, cells := imgAt img (o + 0x38) 16,
    windows := (List.range 8).map fun i => imgAt img (o + 0x48 + 4 * i) 4, code := (img.drop (o + 128)).take n,
    zeros := allZero ((img.drop (o + 0x68)).take 0x18), fits := Nat.ble (o + 128 + 64 * ceilDiv n 64) stop }

/-- Image records from an offset to the section's end, with fuel. After a record whose length is out of range no further one can be found. -/
def imagesF (img : List Byte) (stop : Nat) : Nat → Nat → List ImageRec
  | 0, _ => []
  | f + 1, o =>
    if stop ≤ o then []
    else
      let r := imageAt img stop o
      if r.codeLen < 8 ∨ 131072 < r.codeLen then [r] else r :: imagesF img stop f (o + 128 + 64 * ceilDiv r.codeLen 64)

/-- All image records (R247). -/
def bookImages (img : List Byte) : List ImageRec :=
  imagesF img (secOff img 3 + secLen img 3) (secLen img 3 / 128 + 1) (secOff img 3)

/-- An initial data or palette record (R248). -/
structure DataRec where
  position : Nat
  region : Nat
  blocks : Nat
  cells : Nat
  /-- 0 scratchpad, 1 slot tile, 2 HBM, 3 palette. -/
  kind : Nat
  /-- Words at +0x3C, +0x40 and +0x44; for HBM the 64-bit address in the second. -/
  w3c : Nat
  w40 : Nat
  w44 : Nat
  data : List Byte
  size : Nat
  /-- The record ends within its section. -/
  fits : Bool
  deriving DecidableEq, Repr

/-- Length in bytes of a slot-tile record's data: the source, then its scale record (R248). -/
def slotTileLen (img : List Byte) (o cfg : Nat) : Nat :=
  let n := tileLen (field cfg 0 4) (bitAt cfg 6)
  n + (if bitAt cfg 7 then recLen (imgAt img (o + 0x44 + n) 8) else 0)

/-- One record of section 4 at an offset; data begin at +0x48, +0x44 and +0x50 for the three kinds (log entry 12); the section ends at `stop`. -/
def dataRecAt (img : List Byte) (stop o : Nat) : DataRec :=
  let kind := imgAt img (o + 0x38) 4
  let p : Nat × Nat :=
    if kind = 0 then (0x48, imgAt img (o + 0x40) 4)
    else if kind = 1 then (0x44, slotTileLen img o (imgAt img (o + 0x40) 4))
    else (0x50, imgAt img (o + 0x48) 8)
  { position := imgAt img o 4, region := imgAt img (o + 4) 4, blocks := imgAt img (o + 8) 32, cells := imgAt img (o + 0x28) 16, kind := kind,
    w3c := imgAt img (o + 0x3C) 4, w40 := if kind = 2 then imgAt img (o + 0x40) 8 else imgAt img (o + 0x40) 4, w44 := imgAt img (o + 0x44) 4,
    data := (img.drop (o + p.1)).take p.2, size := 64 * ceilDiv (p.1 + p.2) 64, fits := Nat.ble (o + 64 * ceilDiv (p.1 + p.2) 64) stop }

/-- Records from an offset to the section's end, with fuel. -/
def dataF (img : List Byte) (stop : Nat) : Nat → Nat → List DataRec
  | 0, _ => []
  | f + 1, o => if stop ≤ o then [] else let r := dataRecAt img stop o; r :: dataF img stop f (o + r.size)

/-- Initial data records, in the order of the section (R248, R251). -/
def bookData (img : List Byte) : List DataRec :=
  dataF img (secOff img 4 + secLen img 4) (secLen img 4 / 64 + 1) (secOff img 4)

/-- Palette records (R248): 256 bytes each, the record at +0x40. -/
def bookPalettes (img : List Byte) : List DataRec :=
  (List.range (secLen img 5 / 256)).map fun i =>
    let o := secOff img 5 + 256 * i
    { position := imgAt img o 4, region := imgAt img (o + 4) 4, blocks := imgAt img (o + 8) 32, cells := imgAt img (o + 0x28) 16, kind := 3,
      w3c := imgAt img (o + 0x3C) 4, w40 := imgAt img (o + 0x38) 4, w44 := 0, data := (img.drop (o + 0x40)).take 192, size := 256, fits := true }

/-- A cue table entry (R248). -/
structure CueRec where
  cue : Nat
  action : Nat
  step : Nat
  init : Nat
  thresh : Nat
  zeros : Bool
  deriving DecidableEq, Repr

/-- The cue table. -/
def bookCues (img : List Byte) : List CueRec :=
  (List.range (secLen img 6 / 16)).map fun i =>
    let o := secOff img 6 + 16 * i
    let w := imgAt img o 4
    ⟨field w 0 13, field w 13 3, field w 16 16, imgAt img (o + 4) 4, imgAt img (o + 8) 4, imgAt img (o + 12) 4 == 0⟩

/-- Offset in the image of reduction-tree descriptor i (R249). -/
def treeOff (img : List Byte) (i : Nat) : Option Nat :=
  if i < imgAt img (secOff img 7) 4 ∧ secLen img 7 ≠ 0 then some (secOff img 7 + imgAt img (secOff img 7 + 4 + 4 * i) 4) else none

/-- A reduction-tree descriptor of level 1 or 2 (R249). -/
structure TreeDesc where
  level : Nat
  rootBlock : Nat
  rootRegion : Nat
  regions : Nat
  blocks : Nat
  zeros : Bool
  deriving DecidableEq, Repr

/-- Descriptor i; level 3 is a fabric descriptor (R249). -/
def treeDesc (img : List Byte) (i : Nat) : Option TreeDesc :=
  (treeOff img i).map fun o =>
    ⟨imgAt img o 1, imgAt img (o + 2) 2, imgAt img (o + 4) 1, imgAt img (o + 8) 2, imgAt img (o + 16) 32,
     allZero ((img.drop (o + 1)).take 1) && allZero ((img.drop (o + 5)).take 3) && allZero ((img.drop (o + 10)).take 6)
       && allZero ((img.drop (o + 48)).take 16)⟩

/-- HBM extents: region, base, length, tensor (R249). -/
def bookExtents (img : List Byte) : List (Nat × Nat × Nat × Nat) :=
  (List.range (secLen img 9 / 32)).map fun i =>
    let o := secOff img 9 + 32 * i
    (imgAt img o 8, imgAt img (o + 8) 8, imgAt img (o + 16) 8, imgAt img (o + 24) 8)

/-- Epoch plan: lengths and counts (R249); an entry past the 64 allowed is seen, so that the check refuses it. -/
def bookPlan (img : List Byte) : List (Nat × Nat) :=
  (List.range (min 65 (imgAt img (secOff img 0xA) 4))).map fun i =>
    let o := secOff img 0xA + 4 + 16 * i
    (imgAt img o 4, imgAt img (o + 4) 4)

/-- Entry in use in epoch e, and its length: the last entry repeats without end (R249, R253). -/
def planAt : List (Nat × Nat) → Nat → Nat → Nat × Nat
  | [], i, _ => (i, 1024)
  | [x], i, _ => (i, x.1)
  | x :: t, i, e => if e < x.2 then (i, x.1) else planAt t (i + 1) (e - x.2)

/-- Length L(e) of an epoch (R253). -/
def epochLen (img : List Byte) (e : Nat) : Nat := (planAt (bookPlan img) 0 e).2

/-! The checks of R250. -/

/-- Two spans do not overlap. -/
def apart (a n b m : Nat) : Bool := Nat.ble (a + n) b || Nat.ble (b + m) a

/-- All pairs of a list satisfy a relation. -/
def allPairs {α : Type} (r : α → α → Bool) : List α → Bool
  | [] => true
  | a :: t => t.all (r a) && allPairs r t

/-- 0x04: the directory (R244). -/
def dirOk (img : List Byte) : Bool :=
  let d := bookDir img
  let n := imgAt img 0x14 4
  Nat.ble 1 n && Nat.ble n 16 && imgAt img 0x18 8 == img.length && Nat.ble img.length (512 * 2 ^ 20)
    && d.all (fun e => e.2.2 % 64 == 0 && Nat.ble (0x80 + 16 * n) e.2.2
        && Nat.ble (e.2.2 + e.2.1) img.length)
    && allPairs (fun a b => a.1 != b.1 && Nat.ble (a.2.2 + a.2.1) b.2.2) d
    && [1, 2, 3, 6, 0xA].all (fun t => (bookSec img t).isSome)
    && (match bookSec img 0xFF with
        | some (o, l) => o + l == img.length && (d.getLast?.map (·.1)) == some 0xFF
        | none => true)

/-- 0x03: reserved fields and encodings of the header and the directory (R243, R244). -/
def headerZeros (img : List Byte) : Bool :=
  field (imgAt img 0x10 4) 2 30 == 0 && bookProfile img != 3 && imgAt img 0x0E 2 == 0 && allZero ((img.drop 0x28).take 0x58)
    && (Nat.blt 16 (imgAt img 0x14 4) || (bookDir img).all fun e => Nat.ble 1 e.1 && Nat.ble e.1 0xA || e.1 == 0xFF)

/-- A window word holds no reserved bit and no reserved mode (R222). -/
def windowZeros (w : Nat) : Bool := field w 22 10 == 0 && field w 20 2 != 3

/-- 0x03: reserved fields and encodings of the sections (R245 to R249), judged where the directory lets them be found; `fabZeros` judges a level-3 descriptor at its offset. -/
def sectionZeros (img : List Byte) (fabZeros : Nat → Bool) : Bool :=
  let start := secOff img 1
  allZero ((img.drop (start + 0x1C)).take 0x24) && Nat.blt (imgAt img (start + 8) 4) (2 ^ 24) && Nat.blt (imgAt img (start + 0xC) 4) (2 ^ 16)
    && Nat.blt (imgAt img (start + 0x10) 4) (2 ^ 16) && Nat.blt (imgAt img (start + 0x14) 4) (2 ^ 12)
    && (List.range (min (bookModules img) (secLen img 2 / 576))).all (fun j => Nat.blt (bookIdent img j) (2 ^ 12)
        && allZero ((img.drop (secOff img 2 + 576 * j + 4)).take 60)
        && (List.range 16).all fun r => Nat.blt (bookBlocks img j r) (2 ^ 150))
    && (bookImages img).all (fun r => Nat.blt r.region 16 && Nat.blt r.position (2 ^ 12) && Nat.blt r.bankOff 16 && r.zeros && r.windows.all windowZeros)
    && (bookData img).all (fun d => Nat.ble d.kind 2 && Nat.blt d.position (2 ^ 12) && Nat.blt d.region 16
        && (if d.kind = 0 then Nat.blt d.w44 512 else if d.kind = 1 then Nat.blt d.w40 (2 ^ 15) && Nat.ble (field d.w40 0 4) 8 else d.w3c == 0))
    && (bookPalettes img).all (fun d => Nat.blt d.position (2 ^ 12) && Nat.blt d.region 16 && d.w3c == 0)
    && (bookCues img).all (fun c => c.zeros && Nat.ble c.action 4)
    && (bookExtents img).all (fun e => Nat.blt e.1 16 && Nat.blt e.2.2.2 (2 ^ 32))
    && (List.range (min 4096 (imgAt img (secOff img 7) 4))).all (fun i =>
        match treeOff img i, treeDesc img i with
        | some o, some d => Nat.ble 1 d.level && Nat.ble d.level 3 && (if d.level = 3 then fabZeros o else d.zeros)
        | _, _ => true)
    && (List.range (bookPlan img).length).all (fun i => allZero ((img.drop (secOff img 0xA + 12 + 16 * i)).take 8))

/-- 0x06: the module table (R246). -/
def modulesOk (img : List Byte) (ident : Nat) : Bool :=
  let n := bookModules img
  Nat.ble 1 n && Nat.ble n 4095 && Nat.ble (576 * n) (secLen img 2) && (bookPosition img ident).isSome
    && (List.range n).all (fun j => bookIdent img j != 0xFFF)
    && allPairs (fun a b => bookIdent img a != bookIdent img b) (List.range n)

/-- Windows that R203 allows: within the scratchpad, no overlap, no powered-down bank. -/
def windowsOk (bankOff : Nat) (ws : List Nat) : Bool :=
  let used := ws.filter fun w => field w 9 10 != 0
  used.all (fun w => Nat.ble (field w 0 9 + field w 9 10) 512
        && (List.range 4).all fun k => !bitAt bankOff k || apart (field w 0 9) (field w 9 10) (128 * k) 128)
    && allPairs (fun a b => apart (field a 0 9) (field a 9 10) (field b 0 9) (field b 9 10)) used

/-- Images of the module's own position. -/
def ownImages (img : List Byte) (pos : Nat) : List ImageRec := (bookImages img).filter fun r => r.position == pos

/-- 0x08: program images of every module (R203, R247). -/
def imagesOk (img : List Byte) : Bool :=
  (bookImages img).all (fun r => r.fits && Nat.blt r.position (bookModules img) && r.codeLen % 8 == 0 && Nat.ble 8 r.codeLen
      && Nat.ble (r.storeOff + r.codeLen) 131072 && r.storeOff % 8 == 0 && Nat.ble r.storeOff r.entry && Nat.blt r.entry (r.storeOff + r.codeLen)
      && r.entry % 8 == 0
      && bitAt (bookMask img r.position) r.region && (r.blocks &&& bookBlocks img r.position r.region) == r.blocks)
    && (bookImages img).all (fun r => windowsOk r.bankOff r.windows)
    && allPairs (fun a b => a.position != b.position || a.region != b.region || (a.blocks &&& b.blocks) == 0
        || (apart a.storeOff a.codeLen b.storeOff b.codeLen && (a.cells &&& b.cells) == 0)) (bookImages img)

/-- Windows of a cell as the images of its module give them. -/
def cellWindows (img : List Byte) (pos r b c : Nat) : List Nat :=
  match (ownImages img pos).find? fun i => i.region == r && bitAt i.blocks b && bitAt i.cells c with
  | some i => i.windows
  | none => List.replicate 8 0

/-- Three slots from one lie in one weight-class window (R105). -/
def weightRange (ws : List Nat) (slot : Nat) : Bool :=
  (List.range 3).all fun i => ws.any fun w => bitAt w 19 && Nat.ble (field w 0 9) (slot + i) && Nat.blt (slot + i) (field w 0 9 + field w 9 10)

/-- A palette record's target cells hold it in weight-class windows (R106). -/
def paletteWindows (img : List Byte) (d : DataRec) : Bool :=
  (List.range 150).all fun b => !bitAt d.blocks b || (List.range 128).all fun c => !bitAt d.cells c || weightRange (cellWindows img d.position d.region b c) (d.w40 / 64)

/-- A slot tile's scale record in its data (R248). -/
def tileRecOf (d : DataRec) : Option (List Byte) :=
  if bitAt d.w40 7 then some (d.data.drop (tileLen (field d.w40 0 4) (bitAt d.w40 6))) else none

/-- 0x09: initial data, palettes and HBM extents of every module (R106, R248, R249, R476); `hbmOk` judges a range on the module at a position. A slot tile of a format outside its role is the cell's fault, not the book's (R24). -/
def dataOk (img : List Byte) (hbmOk : Nat → Nat → Nat → Bool) : Bool :=
  let inBlocks : DataRec → Bool := fun d => d.kind == 2 || (d.blocks &&& bookBlocks img d.position d.region) == d.blocks
  (bookData img).all (fun d =>
      d.fits && Nat.blt d.position (bookModules img) && Nat.blt d.region 16 && bitAt (bookMask img d.position) d.region && inBlocks d &&
      (if d.kind = 0 then d.w3c % 64 == 0 && d.w40 % 64 == 0 && Nat.ble (d.w3c + d.w40) 0x8000
       else if d.kind = 1 then
        let fmt := field d.w40 0 4
        let g := field d.w40 4 2
        Nat.ble d.w3c 1 && (fmt != 8 || d.w3c == 0)
          && (if bitAt d.w40 6 then field d.w40 8 7 == 127 && g != 2 else true)
          && (!slotRole fmt || (match tileRecOf d with | some l => recOk l g (tileGroups fmt g) | none => true))
       else if d.kind = 2 then d.w40 % 64 == 0 && d.w40 / 2 ^ 36 == d.region && hbmOk d.position d.w40 d.data.length
       else false))
    && (bookPalettes img).all (fun d =>
      Nat.blt d.position (bookModules img) && Nat.blt d.region 16 && bitAt (bookMask img d.position) d.region && inBlocks d && d.w40 % 64 == 0 && Nat.ble (d.w40 + 192) 0x8000
        && palOk (palOf d.data) && paletteWindows img d)
    && (bookExtents img).all (fun e => e.2.1 / 2 ^ 36 == e.1 && (List.range (bookModules img)).any (fun j => bitAt (bookMask img j) e.1)
      && (List.range (bookModules img)).all (fun j => !bitAt (bookMask img j) e.1 || hbmOk j e.2.1 e.2.2.1))
    && allPairs (fun a b => a.1 != b.1 || apart a.2.1 a.2.2.1 b.2.1 b.2.2.1) (bookExtents img)

/-- 0x0A: cues (R248, R250, R257); `gone` are cue numbers that no longer exist (R423). -/
def cuesOk (img : List Byte) (gone : Nat → Bool) (regions : Nat) : Bool :=
  let cs := bookCues img
  cs.all (fun c => Nat.ble 128 c.cue && !gone c.cue
      && (List.range (bookModules img)).any fun j => bitAt (bookMask img j) (c.cue / 512))
    && (List.range 16).all fun r => !bitAt regions r || cs.any fun c => c.action == 1 && c.cue / 512 == r

/-- 0x0B: trees of levels 1 and 2, route requests and the epoch plan (R249); `fabOk` judges a level-3 descriptor at its offset. Every descriptor lies within the section. The regions of a tree are the job's on one module. No file gives the layout of a route request: the verdict on the section is a free value (log entry 40). -/
def treesOk (img : List Byte) (fabOk : Nat → Bool) : Bool :=
  let n := imgAt img (secOff img 7) 4
  let plan := bookPlan img
  (secLen img 7 == 0 || (Nat.ble 1 n && Nat.ble n 4096 && (List.range n).all fun i =>
      match treeOff img i, treeDesc img i with
      | some o, some d =>
        Nat.ble (o + if d.level = 3 then 640 else 64) (secOff img 7 + secLen img 7) &&
        if d.level = 3 then fabOk o
        else Nat.blt d.rootBlock 150 && Nat.blt d.blocks (2 ^ 150)
          && (List.range (bookModules img)).any fun j => bitAt (bookMask img j) d.rootRegion && (d.regions &&& bookMask img j) == d.regions
      | _, _ => false))
    && (match bookSec img 8 with | some (o, n) => Config.routeRequestsOk ((img.drop o).take n) | none => true)
    && Nat.ble 1 plan.length && Nat.ble plan.length 64
    && plan.all (fun e => Nat.ble 1024 e.1 && Nat.ble e.1 (2 ^ 31))

/-- 0x0C: the job-start record's ranges (R245). -/
def startOk (img : List Byte) : Bool :=
  let tt := imgAt img (secOff img 1 + 8) 4
  let sl := imgAt img (secOff img 1 + 0x18) 4
  (tt == 0 || Nat.ble 256 tt) && Nat.ble 16 (bookHoldLead img) && Nat.ble (bookHoldLead img) 4095 && (sl == 0 || Nat.ble 1000 sl)

end Sys2Proof.Machine
end

