-- ==== Sys2Proof/Machine/ClockState.lean ====
section
/-! DEFINITION. The state of clocks, resets, start-up and pins (spec/16_clocks_reset_startup.md R363 to R382; spec/20_perturbation_counters.md R458; spec/21_electrical_mechanical.md R460 to R468). -/
namespace Sys2Proof.Machine

/-- Clocks of a region (R367, R382). -/
structure RgnClk where
  /-- CLK_RGN_CTRL [14:0]. -/
  ctrl : BitVec 15
  aclkNow : Nat
  pllLocked : Bool
  onNclk : Bool
  lockLost : Bool
  forced : Bool
  debugClk : Bool
  /-- Compute clocks gated after a loss of lock, and relock attempts made (R370). -/
  gated : Bool
  attempts : Nat
  deriving DecidableEq, Repr

/-- Where start-up stands (R379, R461). -/
inductive Stage where
  /-- No power: before the input enters range, or in a lockout. -/
  | off
  /-- The 2 ms power-on reset hold. -/
  | porHold
  /-- The always-on domain runs; PWR_EN is not in effect. -/
  | standby
  /-- Rails come up. -/
  | rails
  /-- PG_OUT released; the hub waits in reset for REFCLK, IN_RST_N or the end of a blackout. -/
  | waitRef
  /-- The hub is out of reset on SCLK; its PLL locks. -/
  | waitPll
  /-- The boot ROM and firmware start. -/
  | boot
  /-- Both firmware slots have failed (R434). -/
  | bootFailed
  /-- Hub ready. -/
  | ready
  deriving DecidableEq, Repr

/-- The TAP of IEEE 1149.1 (R458). -/
inductive Tap where
  | reset | idle
  | selectDr | captureDr | shiftDr | exit1Dr | pauseDr | exit2Dr | updateDr
  | selectIr | captureIr | shiftIr | exit1Ir | pauseIr | exit2Ir | updateIr
  deriving DecidableEq, Repr

/-- The JTAG instructions (R458). -/
inductive JtagOp where
  | bypass | sample | extest | clamp | highz
  deriving DecidableEq, Repr

/-- The JTAG port: TAP state, TRST_N, instruction in force, shift registers, boundary latch, TDO (none while released). -/
structure Jtag where
  tap : Tap
  trst : Bool
  op : JtagOp
  ir : Nat
  byp : Bool
  chain : BitVec 15
  latch : BitVec 15
  tdo : Option Bool
  deriving DecidableEq, Repr

/-- Clocks, resets, start-up and pins. -/
structure Clk where
  cause : BitVec 3
  tripSeen : Bool
  blackoutSeen : Bool
  forcedSeen : Bool
  warmCount : Byte
  refOk : Bool
  sclkOk : Bool
  pclk : Bool
  aonOnRef : Bool
  hubReady : Bool
  /-- Failed clocks that a blackout waits for, a failed hub PLL, a trip (R365, R370, R403). -/
  refFailed : Bool
  sclkFailed : Bool
  pllFailed : Bool
  trip : Bool
  /-- Consecutive windows with both counts good (R364). -/
  goodWindows : Nat
  stage : Stage
  /-- The input is in range; the bulk is charged. -/
  inRange : Bool
  bulk : Bool
  /-- PWR_EN as taken, and whether a level waits for the bulk (R465). -/
  pwrEn : Bool
  /-- IN_RST_N low and taken as a warm reset. -/
  rstLow : Bool
  /-- Cause of the reset under way: the hub leaves it with this cause. -/
  nextCause : BitVec 3
  pgOut : Bool
  refAbsent : Bool
  alert : Bool
  slotId : BitVec 6
  pairASeen : Bool
  pairBSeen : Bool
  rgns : SMap RgnClk
  /-- Short pulses on IN_RST_N so far (R374). -/
  pulses : Nat
  jtag : Jtag
  deriving DecidableEq, Repr

/-- A region's clocks while it sleeps: point 0's setting. -/
def RgnClk.reset : RgnClk := ⟨BitVec.ofNat 15 (20 + 2 ^ 9 * 10), 0, false, false, false, false, false, false, 0⟩
/-- The JTAG port at power-on: TRST_N is held low by its pull-down (R463). -/
def Jtag.reset : Jtag := ⟨.reset, false, .bypass, 0, false, 0, 0, none⟩
/-- The module before its input enters range. -/
def Clk.reset : Clk :=
  ⟨1, false, false, false, 0, false, false, false, false, false, false, false, false, false, 0, .porHold, true, false, false, false, 1, false, false,
   false, 0, false, false, [], 0, .reset⟩

end Sys2Proof.Machine
end

