-- ==== Sys2Proof/Machine/UnitState.lean ====
section
/-! DEFINITION. The state above the cells: blocks, regions, cues, HBM, remote traffic, fault records, jobs (spec/09_scratchpad_hbm.md, 10_blocks_regions.md, 11_prompt_books_epochs.md, 18_faults_fencing.md). -/
namespace Sys2Proof.Machine

/-- A fault record (R409). -/
structure Rec where
  tick : Nat
  cls : BitVec 16
  level : Nat
  summary : Bool
  phys : Bool
  persistent : Bool
  lostBefore : Bool
  /-- A continuation record follows (R411). -/
  ext : Bool
  region : Nat
  block : Nat
  cell : Nat
  port : Nat
  count : Nat
  detail : List Byte
  deriving DecidableEq, Repr

/-- A member's operand in a combine (R228, R229): participant number, descriptor bytes 0 to 23, operation, format, count; groups present in the leaf buffer, and how many groups have come in all. -/
structure Sub where
  who : Nat
  desc : List Byte
  op : BitVec 2
  int : Bool
  m : Nat
  groups : List (List Byte)
  /-- In a region combine unit, the saturations that each of those groups has taken (R230, R233). -/
  sats : List Nat
  given : Nat
  malformed : Bool
  /-- The combine of the channel that the instruction belongs to, from 0 (R229). -/
  idx : Nat
  deriving DecidableEq, Repr

/-- A group that has left a root and is not delivered: which combines it may belong to (their level, and 4 times their tree), its bytes, its saturations (R229 to R231). -/
structure OutGroup where
  key : Nat
  data : List Byte
  sats : Nat
  deriving DecidableEq, Repr

/-- A combine channel of a block or of a region combine unit (R229, R231 to R233). -/
structure Chan where
  subs : List Sub
  /-- Groups of the present combine that have advanced. -/
  adv : Nat
  /-- Groups that have left the root and are not delivered. -/
  out : List OutGroup
  failed : Bool
  /-- Combines that have ended. -/
  ended : Nat
  /-- CSENDs presented by each participant. -/
  sent : List (Nat × Nat)
  /-- CRECVs presented by the root. -/
  recv : Nat
  /-- CRECVs whose combine has not ended. -/
  roots : List Sub
  /-- Ended combines whose CRECV has not come: one operand of each. -/
  past : List Sub
  deriving DecidableEq, Repr

/-- An idle channel. -/
def Chan.reset : Chan := ⟨[], 0, [], false, 0, [], 0, [], []⟩

/-- A record aggregator (R413). -/
structure Aggr where
  recs : List Rec
  lost : Bool
  deriving DecidableEq, Repr

/-- One block (R149, R225, R241, R457). -/
structure Block where
  istore : Memory
  /-- Injected flips standing in the instruction store, by instruction number. -/
  istoreErrs : SMap (List Nat)
  /-- Lines marked bad (R419). -/
  badLines : List Nat
  /-- Single-bit errors corrected in the store since the last summary: real ones, and injected ones (R419). -/
  icorr : Nat
  icorrInj : Nat
  /-- Repairs in force beyond those of manufacture: physical columns replaced, by physical cell, and failed physical cells, each in the order in which they were made (R62, R225, R226). -/
  badCols : SMap (List Nat)
  badCells : List Nat
  fenced : Bool
  chans : List Chan
  /-- The channel that the combine network served last (R231). -/
  served : Nat
  mismatch : Bool
  timeout : Bool
  abandoned : Bool
  aggr : Aggr
  /-- Records on their way to the block aggregator. -/
  transit : List Rec
  /-- RC counters by offset in the block register range. -/
  cnt : SMap Word
  /-- BLK_PCTR_CTRL_n (R457). -/
  pctr : SMap Word
  /-- Selected events that each programmable counter has taken in already (R457). -/
  pseen : SMap Nat
  /-- Droop detectors that stand asserted (R396). -/
  droop : BitVec 4
  deriving DecidableEq, Repr

/-- A block after power-on: nothing loaded, no repair beyond those of manufacture (R225). -/
def Block.reset : Block :=
  ⟨[], [], [], 0, 0, [], [], false, List.replicate 4 .reset, 3, false, false, false, ⟨[], false⟩, [], [], [], [], 0⟩

/-- What a region in transition is to become (R240). -/
inductive RgnGoal where
  | none
  | assign (job : Word)
  | ready
  deriving DecidableEq, Repr

/-- One region (R239 to R242, R252). -/
structure Region where
  state : BitVec 3
  scrubPending : Bool
  heldReady : Bool
  detour : Bool
  linkUp : BitVec 4
  linkErr : BitVec 4
  tick : Nat
  goal : RgnGoal
  /-- A power-down request deferred until Ready (R240). -/
  downWanted : Bool
  /-- Job that holds the region. -/
  owner : Option Word
  /-- CELL_MEM_IDENT.module_id as loaded (R251). -/
  ident : BitVec 12
  /-- CELL_TAG_TIMEOUT.ticks as loaded (R251). -/
  tagTimeout : BitVec 24
  chans : List Chan
  aggr : Aggr
  /-- Records on their way to the region aggregator. -/
  transit : List Rec
  cnt : SMap Word
  /-- HBM errors corrected in the present interval, and injected ones (R219). -/
  hbmCorr : Nat
  hbmCorrInj : Nat
  deriving DecidableEq, Repr

/-- A region at reset (R241): Asleep, scrub-pending. -/
def Region.reset : Region :=
  ⟨0, true, false, false, 0, 0, 0, .none, false, none, 0xFFF, 0x800000, List.replicate 4 .reset, ⟨[], false⟩, [], [], 0, 0⟩

/-- One cue (R255, R268). -/
structure Cue where
  value : Word
  thresh : Word
  action : BitVec 3
  armed : Bool
  /-- Firings since epoch 0; RGN_CUE_CTRL shows them modulo 4096. -/
  fired : Word
  step : BitVec 16
  deriving DecidableEq, Repr

/-- A cue at reset (R268). -/
def Cue.reset : Cue := ⟨0, 0, 0, false, 0, 0⟩

/-- HBM of all regions by local physical address, with its metadata by 64-byte block (R215, R217). -/
structure Hbm where
  mem : Memory
  tags : SMap Byte
  /-- Poisoned blocks: 1. -/
  poison : SMap Byte
  /-- Flips standing, by block. -/
  errs : SMap (List Flip)
  deriving DecidableEq, Repr

/-- A slot of a PUT or ACCW in flight (R206, R210, R213): source, destination on this module, data, counting. -/
structure RemoteWrite where
  srcModule : BitVec 12
  src : Nat
  seq : Nat
  addr : Nat
  data : List Byte
  tag : Byte
  poison : Bool
  acc : Option (BitVec 2)
  ctr : Option (BitVec 4)
  /-- Count cell of a write into HBM from another module (R210). -/
  countCell : Option Nat
  deriving DecidableEq, Repr

/-- Traffic under way on the module, by what its arrival is. -/
inductive Flight where
  | write (w : RemoteWrite)
  | getReq (cell seq addr dst n : Nat) (ctr : Option (BitVec 4))
  | getData (cell seq dst : Nat) (data : List Byte) (tag : Byte) (poison : Bool) (ctr : Option (BitVec 4))
  | hbmRead (cell seq addr dst : Nat) (ctr : Option (BitVec 4))
  | hbmWrite (cell seq addr : Nat) (data : List Byte) (tag : Byte) (poison : Bool) (ctr : Option (BitVec 4))
  | ack (cell seq : Nat)
  deriving DecidableEq, Repr

/-- A staged change (R264, R358): the epoch it names, its command code and the request. -/
structure Staged where
  epoch : Nat
  code : BitVec 16
  m : Msg
  deriving DecidableEq, Repr

/-- A change hold under way (R265). -/
structure ChangeHold where
  steps : Nat
  /-- Positions whose acknowledgement the root has. -/
  acked : List Nat
  released : Bool
  deriving DecidableEq, Repr

/-- An event that waits (R359): its code, the job it is about, its payload. -/
structure Event where
  code : BitVec 16
  job : Word
  payload : List Byte
  deriving DecidableEq, Repr

/-- A job on this module (R243 to R265, R351, R354). -/
structure Job where
  id : Word
  session : Word
  keySlot : Nat
  img : List Byte
  pos : Nat
  regions : BitVec 16
  rootIdent : BitVec 12
  root : Bool
  t0 : Option Nat
  begun : Bool
  epoch : Nat
  sTick : Nat
  kSteps : Nat
  kSrc : Nat
  /-- Checks made of the present epoch (R258). -/
  checks : Nat
  selfSteps : Nat
  faulted : Bool
  cause : Option Rec
  /-- A fault of the job that is to be taken (R261): its record. -/
  faultDue : Option Rec
  /-- Firings of each epoch-done cue since epoch 0 began (R257). -/
  fired : SMap Nat
  staged : List Staged
  /-- Sequence tags of staged changes that have been applied (R358). -/
  applied : List Word
  chg : Option ChangeHold
  /-- Instances started of each bucket (R304). -/
  nextInst : SMap Nat
  /-- Logical ports of the job's edge regions as they stood at load (R303). -/
  homePorts : List Nat
  /-- Tick of the last beat of each module, by position (R263). -/
  beats : SMap Nat
  /-- Events that wait for a JOB_CLAIM (R351, R359), and how many have been dropped. -/
  events : List Event
  lostEvents : Nat
  /-- Hold steps received for epochs other than the present one, with the module that sent the largest (R259). -/
  kOf : SMap (Nat × Nat)
  /-- Ticks at which epochs not yet ended were completed (R257, R393). -/
  doneAt : SMap Nat
  /-- Least slack of the present rebalance interval, and the epochs it has run (R393, R394). -/
  slack : Option Int
  ran : Nat
  /-- Tick at which the last rebalance interval ended. -/
  ended : Nat
  /-- Power pool as set up (R392): pool, floor, ceiling in units of 25 W. -/
  pool : Option (Nat × Nat × Nat)
  /-- At the root: allocations by position, and the reports of the present interval. -/
  allocs : SMap Nat
  reports : SMap (Int × Nat)
  /-- Allocations that wait for the start of an epoch (R394). -/
  allocDue : List (Nat × Nat)
  deriving DecidableEq, Repr

/-- The module fault log (R417, R418, R428). -/
structure FltLog where
  /-- Ring, oldest first, with the index of each record. -/
  ring : List (Nat × Rec)
  next : Nat
  oldest : Nat
  wrapped : Bool
  lost : Bool
  jobFault : Bool
  persist : List Rec
  /-- Records formed while the hub was down, for the ring once it runs again (R369, R418). -/
  due : List Rec
  lostCount : Word
  deriving DecidableEq, Repr

/-- The log at power-on (R417, R428). -/
def FltLog.reset : FltLog := ⟨[], 0, 0, false, false, false, [], [], 0⟩

end Sys2Proof.Machine
end

