-- ==== Sys2Proof/Machine/FabricState.lean ====
section
/-! DEFINITION. The state of the Rinmen ports and of routing (spec/12_rinmen_fabric.md R271 to R300). -/
namespace Sys2Proof.Machine

/-- A packet that waits for a port (R287): the cell and instruction it completes on entering the replay buffer (R157), the routing entry that chose the port, its arrival port, and the tick it began to wait. -/
structure TxPkt where
  k : Packet
  origin : Option (Nat × Nat)
  entry : Option Word
  src : Option Nat
  tick : Nat
  deriving DecidableEq, Repr

/-- A flit of the replay buffer (R278): sequence number, virtual channel, sop, body, times sent, and the first header words of the packets that begin in it. -/
structure TxFlit where
  seq : Nat
  vc : Nat
  sop : Bool
  body : List Byte
  sends : Nat
  heads : List DWord
  deriving DecidableEq, Repr

/-- The sending side of a virtual channel (R280, R282): packets that wait, what is left of the packet being cut, credits held, and the space last advertised. -/
structure VcTx where
  wait : List TxPkt
  rest : List Byte
  origin : Option (Nat × Nat)
  credits : Nat
  adv : Nat
  deriving DecidableEq, Repr

/-- The receiving side of a virtual channel (R280, R282, R296): bytes of the packet being received, the routing entry in force when its header came (R289), bodies they hold, whether the stream is discarded up to the next sop, bodies in the buffer, credits owed. -/
structure VcRx where
  bytes : List Byte
  entry : Option Word
  held : Nat
  skip : Bool
  occ : Nat
  owed : Nat
  deriving DecidableEq, Repr

/-- A packet that has arrived whole (or whose header is malformed): the channel and number of the bodies it holds, the routing entry in force when its header came (R289), whether it is delivered on this module whatever its destination (R287), and the tick. -/
structure Arr where
  k : Packet
  vc : Nat
  bodies : Nat
  entry : Word
  here : Bool
  tick : Nat
  deriving DecidableEq, Repr

/-- One logical port (R272 to R300). -/
structure Port where
  state : BitVec 3
  /-- The physical port is split (R272): kept on logical ports 0 to 23. -/
  split : Bool
  reversed : Bool
  peerValid : Bool
  fails : Nat
  trainFail : Bool
  retrained : Bool
  malformed : Bool
  blockedSeen : Bool
  delay : BitVec 20
  peerSerial : DWord
  peerIdent : BitVec 12
  peerPort : BitVec 6
  peerSplit : Bool
  /-- Serial and identifier of the partner before the retrain (R292). -/
  before : Option (DWord × BitVec 12)
  /-- RC counters by offset in the port's register block (R298). -/
  cnt : SMap Word
  /-- Corrected codewords, CRC errors and replays since the last summary (R300). -/
  sums : List Nat
  /-- Ticks of entries into Retrain within the last 100,000,000 (R275). -/
  retrains : List Nat
  /-- Tick of the last NAK packet sent (R286). -/
  lastNak : Option Nat
  /-- Sequence number last accepted (R278). -/
  rxSeq : Nat
  rxDiscard : Bool
  /-- The codeword being received could not be corrected: its remaining flits are lost too (R276). -/
  codeLost : Bool
  /-- Flits received and sent since training (R277). -/
  rxCount : Nat
  txCount : Nat
  rx : List VcRx
  arrived : List Arr
  txSeq : Nat
  tx : List VcTx
  replay : List TxFlit
  /-- A nak is due in the next flit (R278). -/
  nakDue : Bool
  /-- After a retrain: sending waits for the partner's acknowledgement (R275). -/
  resume : Bool
  /-- Flits since the last of VC2 and of VC3 (as many as either must wait for, where there was none), and whether the last bulk body was of VC0 (R281). -/
  since2 : Nat
  since3 : Nat
  lastVc0 : Bool
  table : SMap Word
  shadow : SMap Word
  deriving DecidableEq, Repr

/-- An identifier pair of an ID_DISTRIBUTE under way (R291, R352). -/
structure IdPair where
  number : Word
  serial : DWord
  ident : BitVec 12
  /-- 0 assigned, 1 unreachable, 2 duplicate, 3 refused. -/
  outcome : Option Nat
  deriving DecidableEq, Repr

/-- Ports, routing and identifier assignment. -/
structure Fabric where
  moduleId : BitVec 12
  ports : SMap Port
  /-- Injection table and its shadow (R287). -/
  table : SMap Word
  shadow : SMap Word
  srcPort : BitVec 6
  freewheel : Bool
  locked : Bool
  freewheelSeen : Bool
  /-- Names of assignment messages seen: serial, number, arrival port, tick (R291). -/
  names : List (DWord × Word × Nat × Nat)
  /-- Number of the next assignment message of this module. -/
  nextNumber : Word
  pairs : List IdPair
  /-- FIRMWARE messages delivered to firmware: port, packet (R286). -/
  inbox : List (Nat × Packet)
  deriving DecidableEq, Repr

/-- A sending side without credits. -/
def VcTx.reset : VcTx := ⟨[], [], none, 0, 0⟩
/-- An empty receiving side. -/
def VcRx.reset : VcRx := ⟨[], none, 0, false, 0, 0⟩

/-- A logical port after power-on: Disabled (R274, R298). -/
def Port.reset : Port :=
  ⟨0, false, false, false, 0, false, false, false, false, 0, 0, 0xFFF, 0, false, none, [], [0, 0, 0], [], none, 4095, false, false, 0, 0,
   List.replicate 4 .reset, [], 0, List.replicate 4 .reset, [], false, false, 3, 15, false, [], []⟩

/-- The fabric after power-on (R290, R298). -/
def Fabric.reset : Fabric := ⟨0xFFF, [], [], [], 63, false, false, false, [], 0, [], []⟩

end Sys2Proof.Machine
end

