-- ==== Sys2Proof/Machine/BucketState.lean ====
section
/-! DEFINITION. The state of the combine units of the Rinmen ports (spec/13_gradient_reduction.md R301 to R321). -/
namespace Sys2Proof.Machine

/-- A data unit of a stream: its 64 element bytes, and in format 2 its two scale bytes (R312, R313). -/
abbrev BktUnit := List Byte × List Byte

/-- Elements and scales of a whole tensor. -/
abbrev BktData := List Byte × List Byte

/-- An outstanding instance of a bucket (R304 to R307). -/
structure BktInst where
  job : Word
  bucket : Nat
  num : Nat
  contrib : Option BktData
  /-- Streams of the children, by child position: the units that have come. -/
  kids : List (Nat × SMap BktUnit)
  up : Option BktData
  /-- Units of the result that a BCAST has brought and that are written. -/
  got : SMap BktUnit
  result : Option BktData
  sat : Nat
  deriving DecidableEq, Repr

/-- A packet in the early store (R315): its arrival port, its combine unit, the ticks it has been held. -/
structure Early where
  k : Packet
  port : Nat
  unit : Nat
  age : Nat
  deriving DecidableEq, Repr

/-- The combine units. -/
structure Buckets where
  insts : List BktInst
  early : List Early
  /-- The digest log, by entry (R319). -/
  log : SMap (List Byte)
  head : BitVec 12
  wrapped : Bool
  failed : Bool
  earlyDrop : Bool
  malformed : Bool
  limit : Bool
  /-- RC counters by offset (R321). -/
  cnt : SMap Word
  /-- Saturations of the present epoch, by job, bucket and instance (R322). -/
  sats : List (Word × Nat × Nat × Nat)
  deriving DecidableEq, Repr

/-- The combine units at reset (R320). -/
def Buckets.reset : Buckets := ⟨[], [], [], 0, false, false, false, false, false, [], []⟩

end Sys2Proof.Machine
end

