-- ==== Sys2Proof/Machine/HostState.lean ====
section
/-! DEFINITION. The state of the Ethernet port, its queue pairs and transfer windows, and of mailboxes and sessions (spec/14_ethernet_port.md R323 to R341; spec/15_pyerly_mailboxes.md R342 to R361). -/
namespace Sys2Proof.Machine

/-- The states of a queue pair (R329, R332). -/
inductive QpState where
  | free | connecting | connected | error
  deriving DecidableEq, Repr

/-- The kinds of queue pair (R329). -/
inductive QpKind where
  | mailbox (n : Nat)
  | event
  | data
  deriving DecidableEq, Repr

/-- A multi-packet RDMA WRITE under way (R334): key of its window, next address, bytes left. -/
structure WriteCtx where
  key : Word
  addr : Nat
  left : Nat
  deriving DecidableEq, Repr

/-- A queue pair (R328 to R332). -/
structure Qp where
  state : QpState
  kind : QpKind
  session : Word
  src : NetSource
  /-- The module's address that the connection is bound to (R325). -/
  dst : BitVec 128
  /-- Expected PSN, and message sequence number. -/
  epsn : BitVec 24
  msn : BitVec 24
  /-- The NAK of the present PSN gap has been sent (R338). -/
  nakSent : Bool
  write : Option WriteCtx
  txPsn : BitVec 24
  /-- Sends not yet acknowledged: PSN, message (R331). -/
  unacked : List (BitVec 24 × List Byte)
  retries : Nat
  /-- Tick of the last congestion notification (R327). -/
  lastCnp : Option Nat
  /-- VLAN tag of the last packet that came on it: that of every packet sent on it (R323). -/
  tag : VlanTag
  deriving DecidableEq, Repr

/-- A transfer window (R333). -/
structure Window where
  key : Word
  session : Word
  job : Word
  rd : Bool
  wr : Bool
  base : Nat
  len : Nat
  deriving DecidableEq, Repr

/-- The Ethernet port (R323 to R327, R339). -/
structure Eth where
  linkUp : Bool
  linkChange : Bool
  ipv4 : Word
  mask : Word
  gateway : Word
  ipv4Valid : Bool
  dhcp : Bool
  /-- The DHCP client has started and not been replaced by a static address (R325). -/
  client : Bool
  /-- The address of a DHCPREQUEST that waits for its DHCPACK (R325). -/
  asked : Option Word
  leaseSec : Nat
  ipv6 : BitVec 128
  ipv6Valid : Bool
  /-- ETH_QOS [15:0]. -/
  qos : BitVec 16
  cnt : SMap Word
  /-- Drops of the present second (R338). -/
  drops : Nat
  /-- Remaining pause of each priority in quanta (R323, R326). -/
  pause : List Nat
  /-- The module has asked the partner to pause the RoCE priority (R326). -/
  pfcSent : Bool
  /-- Echo replies of the present second: IPv4, IPv6; and when the second began (R325). -/
  echo4 : Nat
  echo6 : Nat
  echoTick : Nat
  qps : SMap Qp
  /-- Windows by index; how many registrations there have been. -/
  windows : SMap Window
  regs : Nat
  deriving DecidableEq, Repr

/-- A request in a mailbox (R343). -/
structure Req where
  code : BitVec 16
  m : Msg
  executing : Bool
  /-- The queue pair that it came on is gone: its response is discarded (R332). -/
  lost : Bool
  deriving DecidableEq, Repr

/-- The last response of a mailbox (R344). -/
structure Kept where
  code : BitVec 16
  seq : Word
  bytes : List Byte
  deriving DecidableEq, Repr

/-- A mailbox (R342 to R344). -/
structure Mbx where
  session : Word
  req : Option Req
  kept : Option Kept
  deriving DecidableEq, Repr

/-- A book reservation of a session (R353). -/
structure Staging where
  len : Nat
  data : Memory
  deriving DecidableEq, Repr

/-- A session (R349 to R351, R359). -/
structure Session where
  num : Word
  slot : Nat
  test : Bool
  priv : BitVec 4
  src : NetSource
  staging : Option Staging
  events : List Event
  count : Word
  dropped : Nat
  /-- A burst of drops is recorded already (R359). -/
  burst : Bool
  deriving DecidableEq, Repr

/-- A nonce (R349): key slot, value, tick of the draw. -/
structure Nonce where
  slot : Nat
  value : BitVec 256
  tick : Nat
  deriving DecidableEq, Repr

/-- Mailboxes and sessions. -/
structure Mail where
  mbx : SMap Mbx
  /-- Mailboxes whose request waits to be executed, in the order in which their SENDs completed (R343). -/
  waiting : List Nat
  sessions : List Session
  /-- Sessions opened since power-on, and nonces drawn. -/
  opened : Nat
  draws : Nat
  nonces : List Nonce
  /-- Jobs whose regions are being released: job, session, region mask, regions not yet Ready (R359). -/
  releasing : List (Word × Word × BitVec 16 × BitVec 16)
  requests : Word
  errors : Word
  /-- Requests rejected with 0x0100 to 0x0105 in the present second (R362). -/
  rejected : Nat
  deriving DecidableEq, Repr

/-- A free queue pair. -/
def Qp.reset : Qp := ⟨.free, .data, 0, ⟨0, 0⟩, 0, 0, 0, false, none, 0, [], 0, none, none⟩
/-- The Ethernet port at reset, with the defaults of firmware in ETH_QOS (R339). -/
def Eth.reset : Eth :=
  ⟨false, false, 0, 0, 0, false, false, false, none, 0, 0, false, BitVec.ofNat 16 (3 + 2 ^ 3 * 26 + 2 ^ 9 * 48), [], 0, List.replicate 8 0, false, 0, 0, 0, [], [], 0⟩
/-- An empty mailbox. -/
def Mbx.reset : Mbx := ⟨0, none, none⟩
/-- No session is open. -/
def Mail.reset : Mail := ⟨[], [], [], 0, 0, [], [], 0, 0, 0⟩

end Sys2Proof.Machine
end

