-- ==== Sys2Proof/Machine/PowerState.lean ====
section
/-! DEFINITION. The state of power, droop and thermal control (spec/17_power_thermal.md R384 to R407). -/
namespace Sys2Proof.Machine

/-- Where a region stands in a change of operating point (R389): none; the rail rising or settling; the clocks moving. -/
inductive StepPhase where
  | idle
  | rail (dest : Nat)
  | slew (dest : Nat)
  deriving DecidableEq, Repr

/-- Power and thermal control of a region (R385 to R407). -/
structure RgnPwr where
  point : Nat
  capPoint : Nat
  thermal : Nat
  droopCeil : Nat
  /-- Kept in flash: highest point not withdrawn, guard steps (R399, R400). -/
  top : Nat
  guard : Nat
  /-- Guard steps raised but not yet in effect (R399). -/
  guardDue : Nat
  setpoint : Nat
  /-- Block sensors and the stack sensor in 0.25 °C (R401). -/
  temps : List Nat
  hbmTemp : Nat
  warn : Bool
  /-- A throttle episode is recorded (R402); loops since every sensor read below 100 °C. -/
  hot : Bool
  coolLoops : Nat
  /-- Dynamic power of each block in mW (R385). -/
  dyn : SMap Nat
  /-- P_rgn in mW; sum and number of the estimates since the last cap loop, and their mean then (R406). -/
  power : Nat
  sum : Nat × Nat
  mean : Nat
  /-- g and o in units of 2^-14 (R386). -/
  gain : Nat
  leak : Nat
  /-- Energy in µJ, and the fraction carried, in 2^-32 µJ (R404). -/
  energy : Nat
  frac : Nat
  stretchCnt : Word
  rampCnt : Word
  phase : StepPhase
  /-- A step up waits for droop quiet; a slew has halted (R398). -/
  deferred : Bool
  halted : Bool
  stretched : Bool
  allowance : Nat
  /-- Margin events of the last second: tick and count (R399). -/
  margins : List (Nat × Nat)
  deriving DecidableEq, Repr

/-- A job slot (R405). -/
structure JobSlot where
  job : Word
  alloc : Nat
  capPoint : Nat
  live : Bool
  energy : Nat
  frac : Nat
  /-- When it was released: 0 for never used. -/
  released : Nat
  /-- Consecutive loops at or below 98% of the allocation (R391). -/
  quiet : Nat
  deriving DecidableEq, Repr

/-- Module power (R387, R391, R404, R406). -/
structure Power where
  capped : Bool
  floorLimited : Bool
  inputOor : Bool
  calibOor : Bool
  cap : Nat
  mv : Nat
  /-- Input power of the last eight samples in mW, newest first: 1 ms at 8 kHz. -/
  inputs : List Nat
  energy : Nat
  overhead : Nat
  overheadFrac : Nat
  rgns : SMap RgnPwr
  slots : SMap JobSlot
  releases : Nat
  /-- Activity allowance ceiling in 1/32 (R391). -/
  ceiling : Nat
  quietCap : Nat
  lastRaised : Nat
  /-- Extreme out-of-range sample of the present second (R387). -/
  extreme : Option Nat
  /-- Samples taken, and the number of the last one below 40.0 V (R462). -/
  samples : Nat
  lowSample : Option Nat
  /-- Energy of each queue pair in pJ (R405). -/
  qp : SMap Nat
  deriving DecidableEq, Repr

/-- A region's power control at power-on (R406): nothing withdrawn and no guard steps as shipped. -/
def RgnPwr.reset : RgnPwr :=
  ⟨0, 5, 11, 11, 11, 0, 0, 0, [], 0, false, false, 0, [], 0, (0, 0), 0, 0x4000, 0x4000, 0, 0, 0, 0, .idle, false, false, false, 600, []⟩
/-- An unused job slot. -/
def JobSlot.reset : JobSlot := ⟨0, 0, 0, false, 0, 0, 0, 0⟩
/-- Power control at power-on (R406). -/
def Power.reset : Power := ⟨false, false, false, false, 624, 0, [], 0, 0, 0, [], [], 0, 32, 0, 0, none, 0, none, []⟩

end Sys2Proof.Machine
end

