-- ==== Sys2Proof/Machine/SecState.lean ====
section
/-! DEFINITION. The state of measured boot, keys, debug unlock and firmware update (spec/19_measured_boot_attestation.md R431 to R447), and of the test block (spec/20_perturbation_counters.md R449 to R456). -/
namespace Sys2Proof.Machine

/-- An operator key (R438). -/
structure OpKey where
  modulus : BitVec 3072
  priv : BitVec 4
  deriving DecidableEq, Repr

/-- A flash slot (R434, R437): marked valid; the committed image, none for the one it was shipped with. -/
structure FlashSlot where
  valid : Bool
  image : Option (List Byte)
  deriving DecidableEq, Repr

/-- A debug unlock (R445, R446): session, scope, tick at which the validity ends. -/
structure Debug where
  session : Word
  scope : BitVec 4
  until_ : Nat
  deriving DecidableEq, Repr

/-- A firmware image being staged (R437): the session, its length and bytes. -/
structure FwStage where
  session : Word
  len : Nat
  data : Memory
  deriving DecidableEq, Repr

/-- The security engine, flash and fuses. -/
structure Sec where
  /-- M0 to M7. -/
  m : List (BitVec 256)
  /-- The boot record names B. -/
  preferB : Bool
  bootedB : Bool
  fellBack : Bool
  failReason : BitVec 3
  other : BitVec 2
  slotA : FlashSlot
  slotB : FlashSlot
  /-- Fuse bits blown beyond those of manufacture (R436). -/
  blown : Nat
  /-- svn and version of the booted image. -/
  svn : Nat
  version : Word
  keys : List (Option OpKey)
  tableVersion : Nat
  dbg : Option Debug
  fw : Option FwStage
  deriving DecidableEq, Repr

/-- A pending injection (R454): target, kind, bit and count as set up. -/
structure Inject where
  addr : BitVec 48
  kind : BitVec 2
  bit : Nat
  count : Nat
  deriving DecidableEq, Repr

/-- The test block (R456). -/
structure Test where
  refused : Bool
  seed : DWord
  mask : BitVec 16
  noc : Word
  credit : Word
  hbmLat : Word
  mbxDelay : Word
  stretch : Word
  tagStall : Word
  injAddr : BitVec 48
  /-- TST_INJ_CTRL [15:0]. -/
  injCtrl : BitVec 16
  pending : Option Inject
  done : Bool
  deriving DecidableEq, Repr

/-- The test block after any reset that reaches the hub (R456). -/
def Test.reset : Test := ⟨false, 0, 0, 0, 63 * 2 ^ 12, 0, 0, 0, 0, 0, 0, none, false⟩

/-- The security engine as shipped and before the boot ROM has run (R434, R438, R475). -/
def Sec.reset : Sec :=
  ⟨List.replicate 8 0, false, false, false, 0, 0, ⟨true, none⟩, ⟨true, none⟩, 0, 0, 0,
   some ⟨Config.orderKey, Config.orderKeyPriv⟩ :: List.replicate 7 none, 0, none, none⟩

end Sys2Proof.Machine
end

