-- ==== Sys2Proof/Machine/HubState.lean ====
section
/-! DEFINITION. The hub, and what leaves the block. -/
namespace Sys2Proof.Machine

/-- What the module sends on a queue pair or for one (R328 to R338). -/
inductive RdmaOut where
  /-- An acknowledgement or NAK: PSN, syndrome, MSN. -/
  | ack (psn : BitVec 24) (syndrome : Byte) (msn : BitVec 24)
  /-- SEND Only: PSN and message. -/
  | send (psn : BitVec 24) (bytes : List Byte)
  /-- A READ response: PSN, data, last of its request. -/
  | readResp (psn : BitVec 24) (data : List Byte) (last : Bool)
  | cnp
  | rep
  | dreq
  | drep
  deriving DecidableEq, Repr

/-- The marks of a RoCEv2 packet that the module sends: VLAN tag (R323), PCP and DSCP (R326), ECT(0) (R326), and that it bears its ICRC (R328). -/
structure RoceMark where
  tag : VlanTag
  pcp : BitVec 3
  dscp : BitVec 6
  ect0 : Bool
  icrc : Bool
  deriving DecidableEq, Repr

/-- Other frames that the Ethernet port sends (R325, R326, R329). -/
inductive EthOut where
  | arpReply (dest own : Word)
  | neighbourAdvert (dest own : BitVec 128)
  | echoReply (v6 : Bool) (dest own : BitVec 128) (body : List Byte)
  | dhcpDiscover
  | dhcpRequest (addr : Word)
  /-- A rejected connection request: the marks of the packet, its source and the reason. -/
  | cmRej (m : RoceMark) (dest : NetSource) (reason : Nat)
  /-- PFC on the RoCE priority: pause or release. -/
  | pfc (pause : Bool)
  deriving DecidableEq, Repr

/-- What leaves the block. -/
inductive Out where
  /-- A flit sent on a logical port (R277). -/
  | flit (p : Nat) (bytes : List Byte)
  /-- An identifier assignment message and a reply, whose layout firmware defines (R291). -/
  | assign (p : Nat) (a : AssignMsg)
  | assignReply (p : Nat) (a : AssignReply)
  /-- Free receive buffers, per virtual channel, that a port advertises at the end of a training or retrain (R280). -/
  | advertise (p : Nat) (free : List Nat)
  /-- Messages between Pyerly instances whose layout firmware defines (R286): slack reports and allocations (R394), staged changes sent out by the root, acknowledgements and releases of a change hold (R265, R358). -/
  | slack (dest : Nat) (job : Word) (pos : Nat) (slack : Int) (ceiling : Nat)
  | alloc (dest : Nat) (job : Word) (epoch units : Nat)
  | change (dest : Nat) (job : Word) (epoch : Nat) (code : BitVec 16) (m : Msg)
  | changeCancel (dest : Nat) (job seq : Word)
  | changeAck (dest : Nat) (job : Word) (pos : Nat)
  | changeRelease (dest : Nat) (job : Word)
  /-- A RoCEv2 packet of a queue pair. -/
  | rdma (q : Nat) (m : RoceMark) (o : RdmaOut)
  /-- Another frame, with the VLAN tag of what it replies to. -/
  | eth (tag : VlanTag) (o : EthOut)
  /-- The value that a register read by a debug session returns (R5 to R7). -/
  | value (q : Requester) (addr : Nat) (v : Word)
  deriving DecidableEq, Repr

/-- The hub. -/
structure Hub where
  /-- Hub tick counter (R410). -/
  tick : Nat
  fab : Fabric
  bkt : Buckets
  eth : Eth
  mail : Mail
  pwr : Power
  clk : Clk
  sec : Sec
  tst : Test
  /-- The region that holds the firmware area and cues 0 to 127 (R423), and whether a failure of it waits for step 4. -/
  hostRgn : Nat
  takeover : Bool
  /-- Failed regions that the route tables in force do not avoid yet (R238). -/
  detourDue : BitVec 16
  /-- High word latched by the read of a low word (R6): requester, address of the high word, value. -/
  latch : Option (Requester × Nat × Word)
  /-- Single-bit errors of hub SRAM in the present interval (R419). -/
  sramCorr : Nat
  /-- Times at which a corrected error was found in a physical column (by block × 132 + physical cell, column), and a margin failure in a physical cell (R420). -/
  colErrs : List (Nat × Nat × Nat)
  cellFails : List (Nat × Nat)
  /-- The repair list in flash (R422), beyond the entries of manufacture: columns by block × 132 + physical cell, failed physical cells, fenced blocks, failed regions, and whether class 0x0134 is recorded. -/
  flashCols : SMap (List Nat)
  flashCells : List Nat
  flashBlocks : List Nat
  flashRgns : BitVec 16
  flashFull : Bool
  deriving DecidableEq, Repr

/-- The hub after power-on. -/
def Hub.reset : Hub := ⟨0, .reset, .reset, .reset, .reset, .reset, .reset, .reset, .reset, 0, false, 0, none, 0, [], [], [], [], [], 0, false⟩

end Sys2Proof.Machine
end

