-- ==== Sys2Proof/Machine/State.lean ====
section
/-! DEFINITION. The state of the block, its outcomes, and the state at reset (spec/10_blocks_regions.md R241; spec/16_clocks_reset_startup.md R372). -/
namespace Sys2Proof.Machine

/-- Reasons to stop with a fault. No command of this block stops it: every error that the spec describes is an effect on the state (a fault record, a response, a drop), so the type has no constructor. -/
inductive Fault where
  deriving DecidableEq, Repr

/-- Reasons to refuse a command. -/
inductive Refusal where
  /-- Raised by an arm of `exec` for a command without a meaning; safe: the machine stops where the hardware goes on. -/
  | notModelled (mnemonic : String)
  deriving DecidableEq, Repr

/-- The whole block: the commands that wait, the units of the module, its traffic, its log and what has left it. -/
structure State where
  /-- Commands that wait, first in, first out. -/
  pending : List Instr
  /-- Logical cells by number (region × 150 + block) × 128 + cell. -/
  cells : SMap Cell
  /-- Blocks by region × 150 + block. -/
  blocks : SMap Block
  /-- Regions 0 to 15. -/
  regions : SMap Region
  /-- Cues 0 to 8191. -/
  cues : SMap Cue
  hbm : Hbm
  /-- Traffic under way, by number. -/
  flights : SMap Flight
  /-- Number that the next flight takes. -/
  nextId : Nat
  jobs : List Job
  flt : FltLog
  hub : Hub
  /-- What has left the block, oldest first. -/
  out : List Out
  /-- Draws of free values so far (log entry 7). -/
  fresh : Nat
  deriving DecidableEq, Repr

/-- The machine right after power-on reset. -/
def State.reset : State :=
  { pending := [], cells := [], blocks := [], regions := [], cues := [], hbm := ⟨[], [], [], []⟩, flights := [], nextId := 0, jobs := [],
    flt := .reset, hub := .reset, out := [], fresh := 0 }

end Sys2Proof.Machine
end

