-- ==== Sys2Proof/Machine/ArrayUnit.lean ====
section
/-! DEFINITION. The array engine of a cell: issue and execution of WLOAD, MVM, MVMT, SWATCH and SLOTINV (spec/03_cim_cell.md R58 to R69; spec/08_instruction_reference.md R181 to R183; spec/06_sparsity.md R126, R135, R139, R141). -/
namespace Sys2Proof.Machine

/-- A slot by its number. -/
def Cell.slot (c : Cell) (i : Nat) : Slot := if i = 0 then c.slot0 else c.slot1
/-- Replace a slot. -/
def Cell.setSlot (c : Cell) (i : Nat) (v : Slot) : Cell := if i = 0 then { c with slot0 := v } else { c with slot1 := v }
/-- Change a slot. -/
def Cell.modSlot (c : Cell) (i : Nat) (f : Slot → Slot) : Cell := c.setSlot i (f (c.slot i))

/-- Slots that an array instruction reads on the compute track (R54, R59). -/
def readsSlots : CellOp → List Nat
  | .mvm _ f => if f.fmt = 8 then [0, 1] else [f.slot.toNat]
  | _ => []

/-- A slot is busy: read by the instruction on the compute track (R59, R72). -/
def Cell.slotBusy (c : Cell) (i : Nat) : Bool :=
  match c.units.comp with
  | some r => (readsSlots r.qi.op).contains i
  | none => false

/-- Slots that a write-track instruction writes. -/
def writesSlots : CellOp → List Nat
  | .wload f => if f.fmt = 8 then [0, 1] else [f.slot.toNat]
  | .slotinv s => [s.toNat]
  | _ => []

/-- Whether an array instruction may issue (R59): its track is free and its slots allow it. A poisoned slot is not waited on; a slot that an issued WLOAD is to write is (R58, R61). -/
def Cell.arrayReady (c : Cell) (q : QI) : Bool :=
  match q.op with
  | .mvm _ _ => c.units.comp.isNone && (readsSlots q.op).all fun i => !(c.slot i).writing && ((c.slot i).valid || (c.slot i).poison)
  | .swatch => c.units.comp.isNone
  | .wload _ => c.units.wload.isNone && (writesSlots q.op).all fun i => !c.slotBusy i
  | .slotinv _ => c.units.wload.isNone && (writesSlots q.op).all fun i => !c.slotBusy i
  | _ => false

/-- A fresh execution of an instruction. -/
def Run.start (q : QI) : Run := ⟨q, 0, [], none, false, 0, none, 0, false, [], [], none, 0⟩
/-- An execution whose accesses are all made. -/
def Run.finish (r : Run) : Run := { r with done := true, blocked := none }
/-- An execution that a tag blocks; `scale` marks a stall of a scaled operand (R118, R123). -/
def Run.block (r : Run) (slot : Nat) (write : Bool) (scale : Bool := false) : Run := { r with blocked := some ⟨slot, write, 0, scale⟩ }

/-! The swatch check (R63 to R67). -/

/-- Status of a margin failure (R72). -/
def CellRegs.marginFail (r : CellRegs) (o : PlaneFail) (swatch : Bool) : CellRegs :=
  { r with failCols := r.failCols ||| o.cols, failQuarter := BitVec.ofNat 2 o.quarter, failPlane := BitVec.ofNat 4 o.plane,
           failSwatch := swatch }

/-- Margin events of the planes that fail their compare: each replay counts (R65). -/
def Fx.marginEvents (x : Fx) (os : List PlaneFail) : Fx :=
  let n := (os.map fun o => min o.times 2).sum
  if n = 0 then x else x.map fun c => (c.count rMarginEvent n).sum 0x0201 n []

/-- A third failure of one plane: class 0x0202 with slot, quarter and plane, or 0x0203 during SWATCH (R66, R67). -/
def Fx.marginFault (x : Fx) (o : PlaneFail) (swatch : Bool) (injected : Bool := false) : Fx :=
  (x.map (Cell.setRegs fun r => r.marginFail o swatch)).fault (if swatch then 0x0203 else 0x0202)
    [BitVec.ofNat 8 o.slot, BitVec.ofNat 8 o.quarter, BitVec.ofNat 8 o.plane] injected

/-- Planes up to the first that fails three times, and that one: later planes are not driven (R65, R66). -/
def planeFails : List PlaneFail → List PlaneFail × Option PlaneFail
  | [] => ([], none)
  | o :: t =>
    if o.times = 3 then ([o], some o)
    else let r := planeFails t; (o :: r.1, r.2)

/-- The compares that an injection makes fail in the first plane to be compared (R454, R455): up to three in a row, each a margin event of class 0x0F01. -/
def Fx.forcedEvents (x : Fx) : Fx × Bool :=
  let k := min x.c.forced 3
  if k = 0 then (x, false)
  else (x.map fun c => ({ c with forced := c.forced - k }.count rMarginEvent (min k 2)).sum 0x0F01 (min k 2) [], k == 3)

/-- The plane whose forced compares fail: the first one driven, in quarter 0, with every swatch column involved. -/
def forcedFail (slot plane : Nat) : PlaneFail := ⟨slot, 0, plane, 3, 0xFF⟩

/-- Issue of SWATCH (R67). DESIGN CHOICE (log entry 62): the spec numbers neither the synthetic planes nor a slot for them; the planes are 0 to 3 in the order that R67 names them, and the slot byte of class 0x0203 is 0. -/
def issueSwatch (x : Fx) (q : QI) : Fx × Run :=
  let fe := x.forcedEvents
  if fe.2 then (fe.1.marginFault (forcedFail 0 0) true true, (Run.start q).finish) else
  let fs := planeFails (syntheticCompares x.c.swatch q.seen)
  let x := fe.1.marginEvents fs.1
  match fs.2 with
  | some o => (x.marginFault o true, (Run.start q).finish)
  | none => (x, (Run.start q).finish)

/-! WLOAD and SLOTINV. -/

/-- What a scale record must match for a tile (R476). -/
def tileRec (fmt group : Nat) (g n : Nat) : Bool := g == group && n == tileGroups fmt group

/-- A slot write is under way (R58, R61): an MVM waits for the slot. The valid bit clears at once where no record is still to be judged; R119 leaves the slot unchanged on a desync. -/
def Cell.beginWrite (c : Cell) (slots : List Nat) (scaled : Bool) : Cell :=
  slots.foldl (fun c i => c.modSlot i fun s => { s with writing := true, valid := scaled && s.valid }) c

/-- A slot write that ends before it has written (R119, R209). -/
def Cell.endWrite (c : Cell) (slots : List Nat) : Cell :=
  slots.foldl (fun c i => c.modSlot i fun s => { s with writing := false }) c

/-- A slot write's rows (R58): the valid bit is clear and the tile goes in row by row. -/
def Cell.writeTile (c : Cell) (fmt slot group : Nat) (s24 : Bool) (t : Tile) : Cell :=
  let mark := fun s : Slot => { s with valid := false, writing := true }
  if fmt = 8 then
    (c.modSlot 0 fun s => mark (s.fill fmt group s24 t t.hi)).modSlot 1 fun s => mark (s.fill fmt group s24 t t.lo)
  else c.modSlot slot fun s => mark (s.fill fmt group s24 t t.hi)

/-- The end of a slot write: the valid bit is set (R58). -/
def Cell.tileDone (c : Cell) (slots : List Nat) : Cell :=
  slots.foldl (fun c i => c.modSlot i fun s => { s with valid := true, writing := false }) c

/-- WLOAD once its source is read and its record judged (R58, R112, R118, R128, R181). -/
def wloadTake (x : Fx) (r : Run) (f : WloadF) (src : List Byte) (rec : Option ScaleRec) : Fx × Run :=
  let a := r.qi.addr f.ra
  let t := loadTile f.fmt.toNat f.group.toNat f.s24 f.nrowsM1.toNat src (Config.mxInt8 a) rec
  let x := (x.metaDrop 0x0340 t.dropRange).metaDrop 0x0341 t.dropEqual
  let x := if f.palEn then x.addStats (r.qi.addr f.rp) t.stats else x
  (x.map fun c => c.writeTile f.fmt.toNat f.slot.toNat f.group.toNat f.s24 t, r.finish)

/-- Go on with a WLOAD (R118, R205): a scaled source is taken whole with its record, any other slot by slot. `next` of the run is 1 where the slot is not written. -/
def wloadGo (x : Fx) (r : Run) (f : WloadF) : Fx × Run :=
  let a := r.qi.addr f.ra
  let n := tileLen f.fmt.toNat f.s24
  let slots := slotsOf a n
  if f.scaled then
    let st := x.c.mr.stream f.stream.toNat r.qi.seq
    let x := x.peekRec st
    match x.c.judge slots st (tileRec f.fmt.toNat f.group.toNat) with
    | .empty s => (x, r.block s false true)
    | .desync t h b => ((x.map fun c => c.endWrite (writesSlots r.qi.op)).desync t h b 1, { r with next := 1 }.finish)
    | .ok rec =>
      let rd := x.takeSlots [] slots
      wloadTake (rd.1.takeRec f.stream.toNat r.qi.seq) r f (gather rd.2.1 a n) rec
  else
    let rd := x.takeSlots r.got slots
    match rd.2.2 with
    | some s => (rd.1, { r with got := rd.2.1 }.block s false)
    | none => wloadTake rd.1 { r with got := [] } f (gather rd.2.1 a n) none

/-- Issue of WLOAD: its checks, then its work. -/
def issueWload (lead : Bool) (x : Fx) (q : QI) (f : WloadF) : Fx × Run :=
  let r := Run.start q
  let off := { r with next := 1 }.finish
  let a := q.addr f.ra
  let n := tileLen f.fmt.toNat f.s24
  let x := if f.palEn then x.peek (q.addr f.rp) 192 else x
  if f.s24 ∧ f.group = 2 then (x.sparseMisuse q.word f.slot.toNat, off)
  else if f.palEn ∧ !x.c.palOk (q.addr f.rp) then (x.palMisuse q.word (q.addr f.rp), off)
  else if !localOk lead a n ∨ x.c.bankDown a n then (x.refused a, off)
  else
    let x := if f.palEn then x.checkPal (q.addr f.rp) else x
    wloadGo (x.map fun c => c.beginWrite (writesSlots q.op) f.scaled) { r with begun := true } f

/-- Issue of SLOTINV (R60). -/
def issueSlotinv (x : Fx) (q : QI) (s : BitVec 1) : Fx × Run :=
  (x.map fun c => c.modSlot s.toNat fun v => { v with valid := false }, (Run.start q).finish)

/-! MVM and MVMT. -/

/-- Outputs of an instruction on a slot (R85). -/
def mvmO (transposed : Bool) (s : Slot) : Nat := if transposed then 128 else if s.four then 64 else 32
/-- Elements of an input vector (R182). -/
def mvmLen (transposed : Bool) (s : Slot) : Nat :=
  if transposed then (if s.four then 64 else 32) else if s.sparse then 256 else 128

/-- The frame that a tile name resolves to (R84, R88). -/
def AccMap.resolve (m : AccMap) (tile : BitVec 2) : Nat :=
  if tile = 0 then m.a.toNat else if tile = 1 then m.b.toNat else m.w.toNat

/-- Formats that INT32 accumulation allows (R79). -/
def intAccOk (f : Nat) : Bool := Nat.ble f 2

/-- The accumulator misuses of R79, R85, R90, R91 and R182 for an MVM or MVMT. -/
def mvmMisuse (lead transposed : Bool) (c : Cell) (q : QI) (f : MvmF) : Bool :=
  let s := c.slot f.slot.toNat
  let o := mvmO transposed s
  let fr := c.frame (q.map.resolve f.tile)
  let cols := if f.tree then treeCols o else seqCols o
  (f.tile == 2 && !lead)
    || Nat.ble cols (f.first.toNat + f.countM1.toNat)
    || (f.int && !(intAccOk f.fmt.toNat && intAccOk s.fmt.toNat))
    || (f.begin == 2 && f.int != fr.int)
    || (f.tree && f.tile != 0)
    || (!f.tree && fr.treeOpen)
    || (f.tree && f.begin == 2 && fr.mode == .seq)
    || (f.tree && f.begin == 2 && (List.range (f.countM1.toNat + 1)).any fun i => (fr.cols.getD (f.first.toNat + i) ⟨0, false, false⟩).done)

/-- Frame record after an MVM or MVMT begins to write it (R85, R91). -/
def Frame.begin (fr : Frame) (f : MvmF) (o : Nat) : Frame :=
  let fr := { fr with shape := shapeOf o }
  if f.begin = 1 then
    let fr := { fr with int := f.int }
    if f.tree then
      if fr.mode = .tree then fr else { fr with mode := .tree, cols := List.replicate 8 ⟨0, false, false⟩ }
    else { fr with mode := .seq }
  else if f.tree then { fr with mode := .tree } else if fr.mode = .clear then { fr with mode := .seq } else fr

/-- Write one vector's chunk sums into its column in sequential mode (R87, R141): the cell and the saturations of the additions. -/
def seqWrite (c : Cell) (base o v : Nat) (ow int : Bool) (sums : List Acc) (skip : Nat → Bool) : Cell × Nat :=
  let a := base + 4 * (v * o)
  let old := (chunks 4 (memRead c.mem a (4 * o))).map leNat
  let new := (List.zip (List.range o) (List.zip old sums)).map fun x =>
    if skip x.1 then (if ow then ⟨0, 0⟩ else ⟨x.2.1, 0⟩)
    else if ow then x.2.2
    else accAdd int ⟨x.2.1, 0⟩ x.2.2
  (c.put a (new.flatMap fun y => leBytes 4 y.bits), (new.map (·.sats)).sum)

/-- Enter one vector's chunk sums into its tree column (R90, R91, R141). -/
def treeWrite (c : Cell) (fa fb o v : Nat) (ow int : Bool) (sums : List Acc) (skip : Nat → Bool) : Cell × Nat :=
  let fr := c.frame fa
  let col := fr.cols.getD v ⟨0, false, false⟩
  let n := if ow then 0 else col.c.toNat
  let r := (List.zip (List.range o) sums).foldl (fun (cs : Cell × Nat) x =>
    let w := treeEnter int (frameBase fa) (frameBase fb) (4 * (v * o + x.1)) 7 0 n (if skip x.1 then ⟨0, 0⟩ else x.2) cs.1
    (w.1, cs.2 + w.2)) (c, 0)
  (r.1.setFrame fa { fr with cols := setAt fr.cols v ⟨BitVec.ofNat 7 (n + 1), decide (n + 1 = 64), true⟩ }, r.2)

/-- The frame pieces that a write of one vector reads first, for their parity (R196, R219): the column of an .add, or the levels that a chunk of a tree carries through (R91). -/
def mvmReads (c : Cell) (f : MvmF) (fa fb o v : Nat) : List Nat :=
  if f.tree then
    let n := if f.begin = 1 then 0 else ((c.frame fa).cols.getD v ⟨0, false, false⟩).c.toNat
    ((List.range 6).takeWhile fun j => bitAt n j).flatMap fun j => slotsOf (frameBase fb + 0x400 * j + 4 * (v * o)) (4 * o)
  else if f.begin = 1 then [] else slotsOf (frameBase fa + 4 * (v * o)) (4 * o)

/-- The tile as it stood before an MVM wrote it (R66). -/
def Cell.keepTile (c : Cell) (f : MvmF) (fa fb : Nat) : Frame × List Byte × List Byte :=
  (c.frame fa, memRead c.mem (frameBase fa) 0x2000, if f.tree then memRead c.mem (frameBase fb) 0x2000 else [])

/-- The destination tile is left as the instruction found it (R66). -/
def Cell.restoreTile (c : Cell) (fa fb : Nat) : Option (Frame × List Byte × List Byte) → Cell
  | none => c
  | some k => { (c.setFrame fa k.1) with mem := memWrite (memWrite c.mem (frameBase fa) k.2.1) (frameBase fb) k.2.2 }

/-- A skipped vector, or a skipped output of vector i (R141). -/
def skips (record i k : Nat) : Bool := bitAt record (128 + i) || bitAt record k

/-- The computation of one vector whose data are aligned and whose planes have passed their compares: write and count (R52, R74, R86, R87, R91, R104, R143). The detail of class 0x0323 has no layout in R102; the tile's name code is byte 0 and the first output byte 1 (DESIGN CHOICE, log entry 20). -/
def mvmVector (x : Fx) (r : Run) (transposed : Bool) (f : MvmF) (v : InVec) : Fx :=
  let c := x.c
  let i := r.next
  let s0 := c.slot (if f.fmt = 8 then 0 else f.slot.toNat)
  let o := mvmO transposed s0
  let skipV := bitAt r.value (128 + i)
  let skip := skips r.value i
  let out := if skipV then ⟨List.replicate o ⟨0, 0⟩, 0, 0, 0, 0⟩
    else if transposed then transposedVec s0 c.slot1 f.fmt.toNat f.int v skip
    else forwardVec s0 c.slot1 f.fmt.toNat f.int v skip
  let fa := r.qi.map.resolve f.tile
  let fb := r.qi.map.b.toNat
  let x := (mvmReads c f fa fb o (f.first.toNat + i)).foldl Fx.checkFrame x
  let w := if f.tree then treeWrite x.c fa fb o (f.first.toNat + i) (f.begin == 1) f.int out.sums skip
    else seqWrite x.c (frameBase fa) o (f.first.toNat + i) (f.begin == 1) f.int out.sums skip
  let x : Fx := { x with c := w.1 }
  let x := x.saturated w.2
  let x := if skipV then x else x.map fun c =>
    (c.tally 1 1).tally 0 (vectorPlanes f.fmt.toNat out.replays - if r.path = some true then out.skipped else 0)
  let nSkip := ((List.range o).filter skip).length
  let x := if nSkip = 0 then x else x.map fun c => (c.count rSkipOut nSkip).sum 0x0344 nSkip []
  let x := if out.replays = 0 then x else x.map fun c => (c.count rOvfReplay out.replays).sum 0x0320 out.replays []
  let x := if out.nonfin = 0 then x else x.map fun c =>
    (c.count rNonfinite out.nonfin).sum 0x0323 out.nonfin [BitVec.ofNat 8 f.tile.toNat, BitVec.ofNat 8 out.firstNonfin]
  if r.path = some true then x.map fun c => c.count rPlaneSkip out.skipped else x

/-- The path of an instruction with .sp, chosen at its first block (R135). -/
def choosePath (x : Fx) (r : Run) (f : MvmF) (h : BlockHdr) : Fx × Run :=
  if !f.sp then (if r.next = 0 then (x.map (Cell.setRegs fun g => { g with lastSparse := false }), r) else (x, r))
  else if r.path.isSome then (x, r)
  else
    let sparse := Nat.blt h.density r.qi.threshold.toNat && !r.qi.forceDense
    let x := x.map (Cell.setRegs fun g => { g with lastSparse := sparse })
    (if sparse then x.map fun c => c.count rSparseTile 1 else x, { r with path := some sparse })

/-- The input vector that a block's or a plain vector's bytes give (R29, R33, R36, R137, R139). A row that R139 names not active reads as the integer zero. -/
def mvmInput (s0 : Slot) (q : QI) (transposed : Bool) (f : MvmF) (d : List (Nat × Bool)) (rec : Option ScaleRec) : InVec :=
  let g := match rec with
    | some r => if r.group = 3 then d.length else groupLen r.group
    | none => if transposed then d.length else groupRows s0.group.toNat * (if s0.sparse then 2 else 1)
  alignIn f.fmt.toNat g (d.map (·.1)) (fun k => (transposed || s0.rowValid.getLsbD k) && (f.fmt != 2 || (d.getD k (0, true)).2)) (Config.mxInt8 (q.addr f.ra)) rec

/-- Vector `next` once its bytes and its record are read: alignment, swatch compares, computation (R64 to R66, R112, R118, R182). A skipped vector drives no plane and meets no compare (R141). -/
def mvmTake (x : Fx) (r : Run) (transposed : Bool) (f : MvmF) (data : List Byte) (h : BlockHdr) (rec : Option ScaleRec) : Fx × Run :=
  let p := choosePath x r f h
  let x := p.1
  let r := p.2
  let slot := if f.fmt = 8 then 0 else f.slot.toNat
  let s0 := x.c.slot slot
  let d := if f.sp then decodeBlock h data else ((unpack (fmtBits f.fmt.toNat) (mvmLen transposed s0) data).map fun e => (e, true), 0)
  let x := x.metaDrop 0x0340 d.2
  let v := mvmInput s0 r.qi transposed f d.1 rec
  let x := if f.palEn then x.addStats (r.qi.addr f.rp) v.stats else x
  let fa := r.qi.map.resolve f.tile
  let fb := r.qi.map.b.toNat
  let skipV := bitAt r.value (128 + r.next)
  let sparse := r.path == some true
  let fe := if skipV || !vectorDrives sparse transposed s0 f.fmt.toNat slot v.xs then (x, false) else x.forcedEvents
  if fe.2 then
    ((fe.1.map fun c => c.restoreTile fa fb r.saved).marginFault (forcedFail slot (if f.fmt = 8 then 7 else planes f.fmt.toNat - 1)) false true, r.finish)
  else
    let fs := if skipV then ([], none)
      else planeFails (vectorCompares x.c.swatch sparse transposed s0 f.fmt.toNat slot v.xs (r.qi.seen.filter fun o => o.vec == r.next))
    let x := fe.1.marginEvents fs.1
    match fs.2 with
    | some o => ((x.map fun c => c.restoreTile fa fb r.saved).marginFault o false, r.finish)
    | none =>
      let r := if r.next = 0 then { r with saved := some (x.c.keepTile f fa fb) } else r
      let x := if r.next = 0 then x.map fun c => c.setFrame fa ((c.frame fa).begin f (mvmO transposed s0)) else x
      let x := mvmVector x r transposed f v
      let r := { r with next := r.next + 1, at_ := 64 * ceilDiv (r.at_ + data.length) 64, blocked := none, got := [] }
      (x, if f.countM1.toNat < r.next then r.finish else r)

/-- What an input vector asks of its scale record (R476). -/
def vecRec (len g n : Nat) : Bool := if g = 3 then n == 1 else n == ceilDiv len (groupLen g)

/-- Try vector `next`: empty slots block it, a malformed block or a desync ends the instruction (R118, R119, R139, R183, R205). -/
def mvmTry (lead : Bool) (x : Fx) (r : Run) (transposed : Bool) (f : MvmF) : Fx × Run :=
  let s := x.c.slot f.slot.toNat
  let len := mvmLen transposed s
  let stream := x.c.mr.stream f.stream.toNat r.qi.seq
  let first := r.at_ / 64
  let read := mapHas r.got first
  match (if f.sp && !read then x.c.firstEmpty [first] else none) with
  | some e => (x, r.block e false f.scaled)
  | none =>
    let x := if f.sp && !read then x.peekSlot first else x
    let h := blockHdr (leNat (if read then gather r.got r.at_ 8 else memRead x.c.mem r.at_ 8))
    if f.sp ∧ h.malformed f.fmt.toNat len = true then ((x.checkSlots [first]).badBlock r.qi.word r.at_, r.finish)
    else
      let n := if f.sp then blockLen h else packedLen (fmtBits f.fmt.toNat) len
      if !localOk lead r.at_ n ∨ x.c.bankDown r.at_ n then (x.refused r.at_, r.finish)
      else
        let slots := slotsOf r.at_ n
        if f.scaled then
          let x := x.peekRec stream
          match x.c.judge slots stream (vecRec len) with
          | .empty e => (x, r.block e false true)
          | .desync t h b => (x.desync t h b 0, r.finish)
          | .ok none => (x, r.finish)
          | .ok (some rec) =>
            if s.sparse ∧ groupLen rec.group ≠ 2 * groupRows s.group.toNat then (x.sparseMisuse r.qi.word f.slot.toNat, r.finish)
            else
              let rd := x.takeSlots [] slots
              mvmTake (rd.1.takeRec f.stream.toNat r.qi.seq) r transposed f (gather rd.2.1 r.at_ n) h (some rec)
        else
          let rd := x.takeSlots r.got slots
          match rd.2.2 with
          | some e => (rd.1, { r with got := rd.2.1 }.block e false)
          | none => mvmTake rd.1 r transposed f (gather rd.2.1 r.at_ n) h none

/-- Go on with an MVM or MVMT until it ends or blocks, with fuel for its vectors. -/
def mvmLoop (lead : Bool) (transposed : Bool) (f : MvmF) : Nat → Fx × Run → Fx × Run
  | 0, s => s
  | k + 1, (x, r) =>
    if r.done ∨ r.blocked.isSome then (x, r)
    else mvmLoop lead transposed f k (mvmTry lead x r transposed f)

/-- The skip record of R141, then the vectors. `value` of the run is the record. -/
def mvmGo (lead : Bool) (x : Fx) (r : Run) (transposed : Bool) (f : MvmF) : Fx × Run :=
  let go := fun (x : Fx) (sk : Nat) =>
    mvmLoop lead transposed f (f.countM1.toNat + 1) (x, { r with at_ := r.qi.addr f.ra, value := sk, begun := true, got := [] })
  if r.begun then mvmLoop lead transposed f (f.countM1.toNat + 1) (x, r)
  else if f.skipEn then
    let rd := x.takeSlots r.got (slotsOf (r.qi.addr f.rk) 32)
    match rd.2.2 with
    | some e => (rd.1, { r with got := rd.2.1 }.block e false)
    | none => go rd.1 (leNat (gather rd.2.1 (r.qi.addr f.rk) 32))
  else go x 0

/-- A BF16 product takes a pair of slots that hold a BF16 tile, any other product a slot that holds none (R37, R38). -/
def pairingBad (c : Cell) (f : MvmF) : Bool :=
  if f.fmt = 8 then c.slot0.fmt != 8 || c.slot1.fmt != 8 else (c.slot f.slot.toNat).fmt == 8

/-- Issue of MVM and MVMT: the checks of R24, R38, R69, R79, R85, R90, R91, R106, R126, R182, then the vectors. -/
def issueMvm (lead : Bool) (x : Fx) (q : QI) (transposed : Bool) (f : MvmF) : Fx × Run :=
  let r := Run.start q
  let s := x.c.slot f.slot.toNat
  let x := if f.palEn then x.peek (q.addr f.rp) 192 else x
  if (readsSlots q.op).any fun i => (x.c.slot i).poison then (x.faultQuiet 0x0102, r.finish)
  else if pairingBad x.c f then (x.badFormat, r.finish)
  else if transposed && s.sparse then (x.sparseMisuse q.word f.slot.toNat, r.finish)
  else if transposed && s.group != 3 then (x.badFormat, r.finish)
  else if mvmMisuse lead transposed x.c q f then (x.accMisuse q.word f.tile.toNat, r.finish)
  else if f.palEn && !x.c.palOk (q.addr f.rp) then (x.palMisuse q.word (q.addr f.rp), r.finish)
  else if f.skipEn && x.c.bankDown (q.addr f.rk) 32 then (x.refused (q.addr f.rk), r.finish)
  else mvmGo lead (if f.palEn then x.checkPal (q.addr f.rp) else x) r transposed f

/-- Issue an array instruction. -/
def issueArray (lead : Bool) (x : Fx) (q : QI) : Fx × Run :=
  match q.op with
  | .wload f => issueWload lead x q f
  | .mvm t f => issueMvm lead x q t f
  | .swatch => issueSwatch x q
  | .slotinv s => issueSlotinv x q s
  | _ => (x, (Run.start q).finish)

/-- Go on with an array instruction whose tag block is released (R205). -/
def resumeArray (lead : Bool) (x : Fx) (r : Run) : Fx × Run :=
  let r := { r with blocked := none }
  match r.qi.op with
  | .wload f => wloadGo x r f
  | .mvm t f => mvmGo lead x r t f
  | _ => (x, r.finish)

end Sys2Proof.Machine
end

