-- ==== Sys2Proof/Machine/Vector.lean ====
section
/-! DEFINITION. The vector unit: every vector instruction over its operands (spec/08_instruction_reference.md R185 to R191; spec/05_scaling_quantisation.md R108 to R115; spec/06_sparsity.md R137, R138, R140). -/
namespace Sys2Proof.Machine

/-- Coordinates of an instruction keyed by element index (R175). -/
structure Coord where
  p : Nat
  k : Nat
  w : Nat
  deriving DecidableEq, Repr

/-- The coordinate group of an instruction over m elements; none where a register is out of range (R175). -/
def QI.coord (q : QI) (rc : AReg) (m : Nat) : Option Coord :=
  let p := (q.reg rc.toNat).toNat
  let k := (q.reg (rc.toNat + 1)).toNat
  let w0 := (q.reg (rc.toNat + 2)).toNat
  let w := if w0 = 0 then 2 ^ 23 else w0
  if p < 2 ^ 23 ∧ k < 2 ^ 23 ∧ w0 < 2 ^ 23 ∧ k < w ∧ p + (k + (m - 1)) / w < 2 ^ 23 then some ⟨p, k, w⟩ else none

/-- Position and index of element e (R175). -/
def Coord.at (c : Coord) (e : Nat) : Nat × Nat := (c.p + (c.k + e) / c.w, (c.k + e) % c.w)
/-- The element index of R40 (R175). -/
def Coord.index (c : Coord) (e : Nat) : Nat := (c.at e).1 * c.w + (c.at e).2

/-- Number the runs of equal keys of a list: the number of each element's run. -/
def runNumbers : List (Nat × Nat) → Option (Nat × Nat) → Nat → List Nat
  | [], _, _ => []
  | a :: t, none, n => n :: runNumbers t (some a) n
  | a :: t, some b, n => if a = b then n :: runNumbers t (some b) n else (n + 1) :: runNumbers t (some a) (n + 1)

/-- The group of each of m elements when groups of g lie along k (R188): group numbers from 0. -/
def groupsAlong (c : Coord) (g m : Nat) : List Nat :=
  runNumbers ((List.range m).map fun e => let x := c.at e; (x.1, x.2 / g)) none 0

/-- How many groups m elements meet. -/
def groupsMet (c : Coord) (g m : Nat) : Nat := (groupsAlong c g m).getLast?.map (· + 1) |>.getD 0

/-- The rounding of element e (R39, R41, R120, R477). -/
def rndOf (rnd : Bool) (seed t : Nat) (c : Option Coord) (e : Nat) : Rnd :=
  if rnd then .sr (scumble seed t ((c.getD ⟨0, 0, 1⟩).index e)) else .rne

/-- What a vector instruction makes of its operands: pieces to write, palette updates, events. -/
structure VOut where
  x : Fx
  wr : List Piece
  deriving DecidableEq, Repr

/-- Decode packed elements of a format. -/
def elems (fmt m : Nat) (l : List Byte) : List Nat := unpack (fmtBits fmt) m l

/-- Two element-wise operands combined. -/
def vecPair (k : VecKind) (a b : Val) : Val :=
  match k with
  | .add => vAdd a b
  | .mul => vMul a b
  | .max => if a.isNaN || b.isNaN then .nan else if vLt a b then b else a
  | _ => if a.isNaN || b.isNaN then .nan else if vLt b a then b else a

/-- Element-wise floating-point operation (R186): one rounding of the exact result. -/
def vecFloat (k : VecKind) (fd : Nat) (m : Rnd) (a b c : Val) : Nat :=
  arithTo fd m (match k with
    | .fma => vAdd (vMul a b) c
    | _ => vecPair k a b)

/-- Element-wise INT32 operation, saturated (R186). -/
def vecInt (k : VecKind) (a b c : Int) : Nat :=
  ofSigned 32 (satI32 (match k with
    | .add => a + b
    | .mul => a * b
    | .fma => a * b + c
    | .max => if a < b then b else a
    | _ => if b < a then b else a)).1

/-- The causal mask (R186): an rs1 element whose k exceeds its p reads as −infinity. -/
def masked (on : Bool) (c : Option Coord) (e : Nat) (v : Val) : Val :=
  if on then
    let x := (c.getD ⟨0, 0, 1⟩).at e
    if x.1 < x.2 then .inf true else v
  else v

/-- VADD, VMUL, VFMA, VMAX and VMIN over operand bytes (R186). -/
def vecArith (k : VecKind) (f : VecF) (seed t m : Nat) (c : Option Coord) (la lb lc : List Byte) : List Byte :=
  let fs := f.fs.toNat
  let fd := f.fd.toNat
  let go := (List.zip (List.range m) (List.zip (elems fs m la) (List.zip (elems fs m lb) (elems fs m lc)))).map fun x =>
    if fs = 0xB then vecInt k (toSigned 32 x.2.1) (toSigned 32 x.2.2.1) (toSigned 32 x.2.2.2)
    else vecFloat k fd (rndOf f.rnd seed t c x.1) (masked (f.sub.getLsbD 0) c x.1 (decodeElem fs x.2.1)) (decodeElem fs x.2.2.1) (decodeElem fs x.2.2.2)
  pack (fmtBits fd) go

/-- VEXP2, VRCP and VRSQ of one element (R187). -/
def vecFun (k : VecKind) (fd : Nat) (v : Val) : Nat :=
  match k, v with
  | _, .nan => canonNaN fd
  | .exp2, .inf n => arithTo fd .rne (if n then .fin ⟨false, 0, 1, 0⟩ else .inf false)
  | .exp2, .fin x => arithTo fd .rne (exp2Q x)
  | .rcp, .inf n => arithTo fd .rne (.fin ⟨n, 0, 1, 0⟩)
  | .rcp, .fin x => if x.num = 0 then arithTo fd .rne (.inf x.neg) else arithTo fd .rne (.fin (qDiv ⟨false, 1, 1, 0⟩ x))
  | _, .inf n => if n then canonNaN fd else arithTo fd .rne (.fin ⟨false, 0, 1, 0⟩)
  | _, .fin x =>
    if x.num = 0 then arithTo fd .rne (.inf x.neg)
    else if x.neg then canonNaN fd
    else
      match fltFmt fd with
      | some f => let r := rsqrtMag f.mb f.emin x; arithTo fd .rne (.fin ⟨false, r.1, 1, r.2⟩)
      | none => 0

/-! Conversions (R188 to R190). -/

/-- A source element of a conversion: its value in its own element units, and the exact value converted (R108, R188). -/
structure SrcElem where
  own : Val
  v : Val
  deriving DecidableEq, Repr

/-- One element of a scaled operand: y × s. Under the NaN scale, a set non-finite bit, or a zero scale over a group that `bad` marks as holding a NaN or an infinity, it reads as a NaN (R28, R34, R478). -/
def scaledElem (fs : Nat) (s : ScaleVal × Nat × Bool) (bad : Bool) (e : Nat) : SrcElem :=
  if s.2.2 || (bad && s.1 == .zero) then ⟨.nan, .nan⟩
  else
    match decodeElem fs e with
    | .fin y =>
      let y := if fs = 2 then qAdd y (qInt (-(s.2.1 : Int))) else y
      match scaleMul (.fin y) s.1 with
      | .nan => ⟨.nan, .nan⟩
      | v => ⟨.fin y, v⟩
    | v => ⟨v, scaleMul v s.1⟩

/-- The source elements of a conversion: plain elements, or elements times the scales of a record (R188). -/
def sourceVals (fs : Nat) (es : List Nat) (gs : List Nat) (r : Option ScaleRec) : List SrcElem :=
  match r with
  | none => es.map fun e => ⟨decodeElem fs e, decodeElem fs e⟩
  | some r =>
    let eg := List.zip es gs
    let bad := (eg.filter fun x => !(decodeElem fs x.1).isFin).map (·.2)
    eg.map fun x => scaledElem fs (r.at x.2) (bad.contains x.2) x.1

/-- Some value is a NaN or an infinity. -/
def anyNonfin (vs : List Val) : Bool := vs.any fun v => !v.isFin

/-- The scale that converts each group of a conversion through a palette with one scale per group, from the amax of its finite elements (R111), and whether the group is non-finite. -/
def groupScales (p : Pal) (n : Nat) (vg : List (Val × Nat)) : List (Nat × Bool) :=
  (List.range n).map fun g =>
    let vs := (vg.filter fun x => x.2 == g).map (·.1)
    let nf := anyNonfin vs
    (if p.fmt = 2 then (Config.uint8GroupScale p.tensorId g).toNat
     else scaleFromPresent p.sfmt p.fmt 0 (amaxOf vs), nf)

/-- Convert elements with the stored scale of each one's group; amax_now takes an element's magnitude in its own units (R108, log entry 65). -/
def convAll (fd zp : Nat) (rnd : Nat → Rnd) (sfmt : Nat) (scales : List (Nat × Bool)) (vg : List (SrcElem × Nat)) : List Elem :=
  (List.zip (List.range vg.length) vg).map fun x =>
    let e := convElem fd zp (rnd x.1) (scaleVal sfmt (scales.getD x.2.2 (0, false)).1) x.2.1.v
    { e with st := { e.st with amax := x.2.1.own.mag } }

/-- What a conversion through a palette gives: elements, the scale of each group, the new palette scale of a .jit pass where one is taken, and the statistics (R111, R112, R113). -/
structure PalConv where
  es : List Elem
  scales : List (Nat × Bool)
  newScale : Option Nat
  stats : Stats
  deriving DecidableEq, Repr

/-- Sum of elements' statistics. -/
def statsSum (es : List Elem) : Stats := es.foldl (fun s e => s.add e.st) .zero

/-- A conversion through the palette as it stood at issue, with its .jit pass (R108, R111, R112, R113). The present amax that forms a scale is that of the values converted, exact (log entry 65). DESIGN CHOICE (log entry 66): R173 does not tie fd to the palette's fmt; the elements are rounded to fd and a scale is formed for the palette's fmt. -/
def palConvert (p : Pal) (jit : Bool) (fd zp n : Nat) (rnd : Nat → Rnd) (vg : List (SrcElem × Nat)) : PalConv :=
  let vs := vg.map (·.1.v)
  if p.group ≠ 3 then
    let s := groupScales p n (vg.map fun x => (x.1.v, x.2))
    let es := convAll fd zp rnd p.sfmt s vg
    ⟨es, s, none, statsSum es⟩
  else
    let nf := anyNonfin vs
    let flat := vg.map fun x => (x.1, 0)
    let es := convAll fd zp rnd p.sfmt [(p.scale, nf)] flat
    let st := statsSum es
    if jit && p.policy != 2 && Nat.blt (p.thresh * vg.length) (st.sat * 2 ^ 16) then
      let sc := scaleFromPresent p.sfmt p.fmt (toSigned 8 p.margin) (amaxOf vs)
      let es := convAll fd zp rnd p.sfmt [(sc, nf)] flat
      ⟨es, [(sc, nf)], some sc, { statsSum es with jit := 1 }⟩
    else ⟨es, [(p.scale, nf)], none, st⟩

/-- Bytes of converted elements: packed, or as blocks of W elements, each from a slot boundary (R137, R138, R188). -/
def outBytes (sp : Bool) (fd w : Nat) (es : List Nat) : List Byte :=
  if sp then (chunks w es).flatMap fun r => padTo 64 (encodeBlock fd r) else pack (fmtBits fd) es

/-- The scale record of a VCVT with rec (R116, R188). A group written with an E8M0 scale that holds a NaN or an infinity takes the NaN scale 0xFF (R28, R45). -/
def outRec (tag : Byte) (p : Pal) (zp : Option Nat) (jit : Bool) (scales : List (Nat × Bool)) : ScaleRec :=
  { tag := tag, sfmt := p.sfmt, group := p.group, zp := zp.isSome, nf := scales.any (·.2), jit := jit, count := scales.length,
    reserved := false, entries := scales.map fun x => (if p.sfmt = 0 ∧ x.2 then 0xFF else x.1), zps := match zp with | some z => scales.map fun _ => BitVec.ofNat 8 z | none => [],
    nfs := scales.map (·.2) }

/-! VHAD, VPRUNE24, VRED. -/

/-- One stage of the transform (R114): pairs at distance 2^k, each rounded to FP32. -/
def hadStage (k : Nat) (l : List Val) : List Val :=
  (List.zip (List.range l.length) l).map fun x =>
    let i := x.1
    let get := fun j => l.getD j (.fin ⟨false, 0, 1, 0⟩)
    let r := if bitAt i k then vAdd (get (i - 2 ^ k)) (match get i with | .fin q => .fin { q with neg := !q.neg } | .inf n => .inf (!n) | v => v)
      else vAdd (get i) (get (i + 2 ^ k))
    decodeFlt fp32 (arithTo 0xA .rne r)

/-- `s` stages from stage k upward. -/
def hadStages : Nat → Nat → List Val → List Val
  | 0, _, l => l
  | s + 1, k, l => hadStages s (k + 1) (hadStage k l)

/-- VHAD of one run (R114). -/
def hadRun (logN : Nat) (sign : Bool) (seed rho : Nat) (vs : List Val) : List Val :=
  let sg := (List.zip (List.range vs.length) vs).map fun x =>
    if sign && bitAt (scumble seed rho x.1) 31 then
      (match x.2 with | .fin q => .fin { q with neg := !q.neg } | .inf n => .inf (!n) | v => v)
    else x.2
  hadStages logN 0 sg

/-- A value in a destination format, as an arithmetic result (R26): overflow goes to infinity in every format that has one, and a format without one takes the conversion of R27. -/
def toFmt (fd : Nat) (v : Val) : Nat := if arithRole fd || fd == 7 then arithTo fd .rne v else (convTo fd 0 .rne v).bits

/-- Rank of a magnitude in VPRUNE24 (R140): a is outranked by b. -/
def pruneLt (a b : Val) : Bool :=
  match a, b with
  | .nan, _ => false
  | _, .nan => true
  | .inf _, _ => false
  | .fin _, .inf _ => true
  | .fin x, .fin y => qLt { x with neg := false } { y with neg := false }

/-- Index of the largest of four by rank, lower index on ties, not counting `skip` (R140). -/
def pruneBest (vs : List Val) (skip : Option Nat) : Nat :=
  let l := (List.range 4).filter fun i => some i != skip
  l.foldl (fun b i => if pruneLt (vs.getD b .nan) (vs.getD i .nan) then i else b) (l.headD 0)

/-- The two kept positions of a group of four, ascending (R140). -/
def pruneKeep (vs : List Val) : Nat × Nat :=
  let a := pruneBest vs none
  let b := pruneBest vs (some a)
  (min a b, max a b)

/-- Cut m elements into the groups of VPRUNE24 along k (R140, R190). -/
def pruneGroups (c : Coord) (es : List Nat) : List (List Nat) :=
  let keys := groupsAlong c 4 es.length
  (List.range ((keys.getLast?.map (· + 1)).getD 0)).map fun g =>
    let l := ((List.zip es keys).filter fun x => x.2 == g).map (·.1)
    l ++ List.replicate (4 - l.length) 0

/-- Better pair in MAX (or MIN) with index (R99). -/
def redBetter (int isMin : Bool) (a b : Nat × Nat) : Bool :=
  if int then
    let x := toSigned 32 a.1
    let y := toSigned 32 b.1
    if x = y then Nat.blt a.2 b.2 else if isMin then decide (x < y) else decide (y < x)
  else
    let x := decodeFlt fp32 a.1
    let y := decodeFlt fp32 b.1
    if x.isNaN || y.isNaN then
      (if x.isNaN && y.isNaN then Nat.blt a.2 b.2 else x.isNaN)
    else if isMin then (if vLt x y then true else if vLt y x then false else Nat.blt a.2 b.2)
    else (if vLt y x then true else if vLt x y then false else Nat.blt a.2 b.2)

/-- The winning pair of two (R99): a NaN as the canonical NaN. -/
def redPick (int isMin : Bool) (a b : Nat × Nat) : Nat × Nat :=
  let r := if redBetter int isMin b a then b else a
  if !int && (decodeFlt fp32 r.1).isNaN then (canonNaN 0xA, r.2) else r

/-- VRED over element bits of the value format (R89, R99, R190): value and index, and saturations. -/
def vecRed (kind : Nat) (int : Bool) (es : List Nat) (idx : Nat → Nat) : Nat × Nat × Nat :=
  if kind = 0 ∨ kind = 1 then
    let leaves := es.map fun e =>
      if kind = 1 then (⟨arithTo 0xA .rne (vMul (decodeFlt fp32 e) (decodeFlt fp32 e)), 0⟩ : Acc) else ⟨e, 0⟩
    let r := (canonTree (accAdd int) leaves).getD ⟨0, 0⟩
    (if int then r.bits else arithTo 0xA .rne (decodeFlt fp32 r.bits), 0, r.sats)
  else
    let ps := (List.zip es (List.range es.length)).map fun x => (x.1, idx x.2)
    match ps with
    | [] => (0, 0, 0)
    | a :: t => let r := t.foldl (redPick int (kind == 3)) (redPick int (kind == 3) a a); (r.1, r.2, 0)

/-- The value of an element in FP32 or INT32 bits. -/
def widen (fs e : Nat) : Nat := if fltFmt fs = none then ofSigned 32 (match decodeElem fs e with | .fin x => Int.fdiv (x.sNum) 1 | _ => 0) else arithTo 0xA .rne (decodeElem fs e)

end Sys2Proof.Machine
end

