-- ==== Sys2Proof/Machine/VectorUnit.lean ====
section
/-! DEFINITION. Issue of the vector instructions: what each reads, computes and writes, with palettes, records, blocks and tags (spec/08_instruction_reference.md R185 to R191). -/
namespace Sys2Proof.Machine

/-- Bytes of m packed elements of a format code. -/
def opLen (fmt : BitVec 4) (m : Nat) : Nat := packedLen (fmtBits fmt.toNat) m

/-- Plain source ranges of a vector instruction, before any scale record (R185 to R190). -/
def vecSources (k : VecKind) (q : QI) (f : VecF) (m : Nat) : List (Nat × Nat) :=
  match k with
  | .add | .mul | .max | .min => [(q.addr f.rs1, opLen f.fs m), (q.addr f.rs2, opLen f.fs m)]
  | .fma => [(q.addr f.rs1, opLen f.fs m), (q.addr f.rs2, opLen f.fs m), (q.addr f.rx, opLen f.fs m)]
  | .sclPush | .sclPushAdvance | .sclMerge => []
  | _ => [(q.addr f.rs1, opLen f.fs m)]

/-- VCVT's sub bits and VSTAT's channel form (R188, R190). -/
def vfPal (f : VecF) : Bool := f.sub.getLsbD 0
/-- rec of VCVT. -/
def vfRec (f : VecF) : Bool := f.sub.getLsbD 1
/-- deq of VCVT. -/
def vfDeq (f : VecF) : Bool := f.sub.getLsbD 2
/-- Stream of a VCVT with deq. -/
def vfStream (f : VecF) : Nat := f.sub.toNat / 8

/-- Address of the palette that an instruction uses, where it uses one (R188 to R190). -/
def palAddr (k : VecKind) (q : QI) (f : VecF) : List Nat :=
  match k with
  | .cvt => if (vfPal f) then [q.addr f.rs2] else []
  | .sclConvert => if f.sub.getLsbD 3 then [q.addr f.rs2] else []
  | .sclDerive | .sclPush | .sclPushAdvance => [q.addr f.rs2]
  | .sclMerge => [q.addr f.rd, q.addr f.rs1]
  | .stat => if f.sub.getLsbD 0 then [] else [q.addr f.rs2]
  | _ => []

/-- Palette i of an instruction as it stood at its issue (R108, R120). -/
def Run.palette (r : Run) (i : Nat) : Pal := palOf ((r.pal.drop (192 * i)).take 192)

/-- The tensor identifier of stochastic rounding (R120, R477): that of the palette as it stood at issue. -/
def roundTensor (k : VecKind) (q : QI) (f : VecF) (p : Pal) : Nat :=
  match palAddr k q f with
  | _ :: _ => p.tensorId
  | [] => (q.reg (f.rc.toNat + 3)).toNat

/-- What the palette converts to UINT8 with (log entry 6): no field of R105 holds a zero point. -/
def palZero (p : Pal) : Nat := if p.fmt = 2 then (Config.paletteZeroPoint p.tensorId).toNat else 0

/-- Count a .jit pass (R113). -/
def Fx.jitPass (x : Fx) (on : Bool) : Fx := if on then x.map fun c => (c.count rJitPass 1).sum 0x0331 1 [] else x

/-- The group of each of m elements under a group field (R188): one group for 3. -/
def groupsOf (c : Coord) (group m : Nat) : List Nat :=
  if group = 3 then List.replicate m 0 else groupsAlong c (groupLen group) m

/-- How many groups m elements meet under a group field. -/
def groupCount (c : Coord) (group m : Nat) : Nat := if group = 3 then 1 else groupsMet c (groupLen group) m

/-- VCVT once its source and record are read (R188); `p` is its palette as it stood at issue. -/
def doCvt (x : Fx) (q : QI) (f : VecF) (seed m : Nat) (co : Option Coord) (p : Pal) (src : List Byte) (rec : Option ScaleRec) : VOut :=
  let fd := f.fd.toNat
  let c := co.getD ⟨0, 0, m + 1⟩
  let vs := sourceVals f.fs.toNat (elems f.fs.toNat m src) (groupsOf c ((rec.map (·.group)).getD 3) m) rec
  let rnd := rndOf f.rnd seed (roundTensor .cvt q f p) co
  if (vfPal f) then
    let pa := q.addr f.rs2
    let zp := if fd = 2 then palZero p else 0
    let r := palConvert p f.jit fd zp (groupCount c p.group m) rnd (List.zip vs (groupsOf c p.group m))
    let jit := r.newScale.isSome
    let rec' := recBytes (outRec f.tag p (if fd = 2 then some zp else none) jit r.scales)
    ⟨(x.addStats pa r.stats r.newScale).jitPass jit, pieces (some f.tag) false (q.addr f.rd) (outBytes f.sp fd c.w (r.es.map (·.bits)))
          ++ (if (vfRec f) then pieces (some f.tag) false (q.addr f.rx) rec' else [])⟩
  else
    let bits := (List.zip (List.range m) vs).map fun v => (convTo fd 0 (rnd v.1) v.2.v).bits
    ⟨x, pieces (some f.tag) false (q.addr f.rd) (outBytes f.sp fd c.w bits)⟩

/-- The entries of an E8M0 record whose groups a conversion writes with a NaN or an infinity take the NaN scale (R28). DEDUCED (log entry 67): the group's scale is the entry of the explicit record, so it is written there, in place. -/
def nanEntries (c : Cell) (a : Nat) (r : ScaleRec) (gs : List Nat) (vs : List Val) : Cell :=
  if r.sfmt = 0 then
    (List.range r.count).foldl (fun c g => if (List.zip gs vs).any (fun x => x.1 == g && !x.2.isFin) then c.put (a + 8 + g) [0xFF] else c) c
  else c

/-- VSCL form 0 once its source and its record are read (R28, R189). -/
def doScl (x : Fx) (q : QI) (f : VecF) (seed m : Nat) (co : Option Coord) (p : Pal) (src : List Byte) (r : ScaleRec) : VOut :=
  let c := co.getD ⟨0, 0, m + 1⟩
  let gs := groupsOf c r.group m
  let vs := (elems f.fs.toNat m src).map (decodeElem f.fs.toNat)
  let rnd := rndOf f.rnd seed (roundTensor .sclConvert q f p) co
  let es := (List.zip (List.range m) (List.zip vs gs)).map fun v =>
    let s := r.at v.2.2
    convElem f.fd.toNat (if f.fd = 2 then s.2.1 else 0) (rnd v.1) s.1 v.2.1
  let x := if f.sub.getLsbD 3 then x.addStats (q.addr f.rs2) (statsSum es) else x
  ⟨x.map fun c => nanEntries c (q.addr f.rx) r gs vs, pieces (some f.tag) false (q.addr f.rd) (outBytes f.sp f.fd.toNat c.w (es.map (·.bits)))⟩

/-- VSTAT on a palette (R112, R190): statistics as if converted to the palette's target. -/
def doStat (x : Fx) (q : QI) (f : VecF) (m : Nat) (co : Option Coord) (p : Pal) (src : List Byte) : VOut :=
  let c := co.getD ⟨0, 0, m + 1⟩
  let vs := sourceVals f.fs.toNat (elems f.fs.toNat m src) [] none
  let r := palConvert p false p.fmt (palZero p) (groupCount c p.group m) (fun _ => .rne) (List.zip vs (groupsOf c p.group m))
  ⟨x.addStats (q.addr f.rs2) r.stats, []⟩

/-- Entry ranges of VSTAT's channel form: first channel and count (R190). -/
def channelRanges (c : Coord) (m : Nat) : List (Nat × Nat) :=
  if c.k + m ≤ c.w then [(c.k, m)]
  else if c.w ≤ m then [(0, c.w)]
  else [(0, c.k + m - c.w), (c.k, c.w - c.k)]

/-- The larger of an FP32 entry and a magnitude; an entry that holds a NaN stays (R190). -/
def channelMax (entry : Nat) (v : Val) : Nat :=
  match v with
  | .fin _ => if !(decodeFlt fp32 entry).isNaN && vLt (decodeFlt fp32 entry) (decodeFlt fp32 v.mag) then v.mag else entry
  | _ => entry

/-- Byte ranges of the entries of VSTAT's channel form (R190). -/
def channelBytes (q : QI) (f : VecF) (c : Coord) (m : Nat) : List (Nat × Nat) :=
  (channelRanges c m).map fun r => (q.addr f.rd + 4 * r.1, 4 * r.2)

/-- VSTAT's channel form (R190), from its entries as read. -/
def doChannel (x : Fx) (q : QI) (f : VecF) (m : Nat) (c : Coord) (src : List Byte) (entries : List (List Byte)) : VOut :=
  let vk := (List.zip (List.range m) (elems f.fs.toNat m src)).map fun e => (decodeElem f.fs.toNat e.2, (c.at e.1).2)
  let wr := (List.zip (channelRanges c m) entries).flatMap fun rb =>
    let old := (chunks 4 rb.2).map leNat
    let new := (List.zip (List.range old.length) old).map fun o =>
      (vk.filter fun v => v.2 == rb.1.1 + o.1).foldl (fun e v => channelMax e v.1) o.2
    pieces (some f.tag) false (q.addr f.rd + 4 * rb.1.1) (new.flatMap (leBytes 4))
  ⟨x, wr⟩

/-- Pack 2-bit indices as R127 packs them. -/
def packIdx (l : List Nat) : List Byte :=
  (chunks 4 l).map fun c => BitVec.ofNat 8 (c.foldr (fun i a => i + 4 * a) 0)

/-- A kept value in the output format (R140). DESIGN CHOICE (log entry 68): no rule says how a value changes format here; it rounds to nearest even, goes to infinity past the finite range of FP32, BF16, FP16 and E5M2, takes the limits of R27 in the other formats, and a UINT8 output has the zero point 0. A NaN is the canonical NaN (R26). -/
def pruneVal (fs fd e : Nat) : Nat :=
  let v := decodeElem fs e
  if fs = fd then (if v.isNaN then canonNaN fd else e) else toFmt fd v

/-- VPRUNE24 (R140, R190). -/
def doPrune (x : Fx) (q : QI) (f : VecF) (m : Nat) (c : Coord) (src : List Byte) : VOut :=
  let gs := pruneGroups c (elems f.fs.toNat m src)
  let keep := gs.map fun g => (g, pruneKeep (g.map (decodeElem f.fs.toNat)))
  let conv := pruneVal f.fs.toNat f.fd.toNat
  let vals := keep.flatMap fun g => [conv (g.1.getD g.2.1 0), conv (g.1.getD g.2.2 0)]
  let masks := keep.map fun g => 2 ^ g.2.1 + 2 ^ g.2.2
  ⟨x, pieces (some f.tag) false (q.addr f.rd) (pack (fmtBits f.fd.toNat) vals)
      ++ pieces (some f.tag) false (q.addr f.rx) (packIdx (keep.flatMap fun g => [g.2.1, g.2.2]))
      ++ pieces (some f.tag) false (q.addr f.rs2) (pack 4 masks)⟩

/-- VHAD (R114, R190). -/
def doHad (x : Fx) (q : QI) (f : VecF) (seed m : Nat) (src : List Byte) : VOut :=
  let logN := 5 + field f.sub.toNat 0 2
  let vs := (elems f.fs.toNat m src).map (decodeElem f.fs.toNat)
  let out := (chunks (2 ^ logN) vs).flatMap (hadRun logN (f.sub.getLsbD 2) seed (q.reg f.rs2.toNat).toNat)
  ⟨x, pieces (some f.tag) false (q.addr f.rd) (pack (fmtBits f.fd.toNat) (out.map (toFmt f.fd.toNat)))⟩

/-- VRED (R190). -/
def doRed (x : Fx) (q : QI) (f : VecF) (m : Nat) (c : Coord) (src : List Byte) : VOut :=
  let es := (elems f.fs.toNat m src).map (widen f.fs.toNat)
  let r := vecRed (field f.sub.toNat 0 2) (f.fd == 0xB) es (fun e => if f.sub.getLsbD 2 then (c.at e).1 else (c.at e).2)
  ⟨x.saturated r.2.2, pieces (some f.tag) false (q.addr f.rd) (leBytes 4 r.1 ++ leBytes 4 r.2.1)⟩

/-- What a vector instruction does once its operands are read: their bytes in order, the entries of VSTAT's channel form after them. -/
def vecDo (x : Fx) (r : Run) (k : VecKind) (f : VecF) (seed m : Nat) (srcs : List (List Byte)) (rec : Option ScaleRec) : VOut :=
  let q := r.qi
  let co := q.coord f.rc m
  let p := r.palette 0
  let a := srcs.getD 0 []
  let b := srcs.getD 1 []
  let out := fun (l : List Byte) => (⟨x, pieces (some f.tag) false (q.addr f.rd) l⟩ : VOut)
  match k with
  | .add | .mul | .fma | .max | .min => out (vecArith k f seed (q.reg (f.rc.toNat + 3)).toNat m co a b (srcs.getD 2 b))
  | .exp2 | .rcp | .rsq => out (pack (fmtBits f.fd.toNat) ((elems f.fs.toNat m a).map fun e => vecFun k f.fd.toNat (decodeElem f.fs.toNat e)))
  | .cvt => doCvt x q f seed m co p a rec
  | .had => doHad x q f seed m a
  | .sclConvert => match rec with
    | some rec => doScl x q f seed m co p a rec
    | none => ⟨x, []⟩
  | .sclDerive =>
    let vs := (elems f.fs.toNat m a).map (decodeElem f.fs.toNat)
    ⟨x.map fun c => c.setPal (q.addr f.rs2) ((c.pal (q.addr f.rs2)).derive (amaxOf vs)), []⟩
  | .sclPush => ⟨x.map fun c => c.setPal (q.addr f.rs2) ((c.pal (q.addr f.rs2)).push false), []⟩
  | .sclPushAdvance => ⟨x.map fun c => c.setPal (q.addr f.rs2) ((c.pal (q.addr f.rs2)).push true), []⟩
  | .sclMerge =>
    let p := x.c.pal (q.addr f.rd)
    let o := x.c.pal (q.addr f.rs1)
    let x := x.map fun c => c.setPal (q.addr f.rd) (p.merge o)
    ⟨if p.saturates o.stats then x.palSaturated (q.addr f.rd) else x, []⟩
  | .stat => if f.sub.getLsbD 0 then doChannel x q f m (co.getD ⟨0, 0, 1⟩) a (srcs.drop 1) else doStat x q f m co p a
  | .prune24 => doPrune x q f m (co.getD ⟨0, 0, 1⟩) a
  | .red => doRed x q f m (co.getD ⟨0, 0, 1⟩) a

/-- Write the pieces that remain, up to a tag block (R205). -/
def writeOn (x : Fx) (r : Run) : Fx × Run :=
  let w := x.c.writePieces r.wr
  let x : Fx := { x with c := w.1 }
  match w.2.2 with
  | some b => (x, { r with wr := w.2.1, blocked := some b })
  | none => (x, { r with wr := [] }.finish)

/-- Every piece lies within what a local operand may name (R174, R193). -/
def piecesOk (lead : Bool) (ps : List Piece) : Bool := ps.all fun p => localOk lead p.addr p.data.length

/-- Byte ranges that a vector instruction reads in order (R185 to R190): its sources, then the entries of VSTAT's channel form. -/
def vecReads (k : VecKind) (q : QI) (f : VecF) (m : Nat) : List (Nat × Nat) :=
  vecSources k q f m
    ++ (match k with
        | .stat => if f.sub.getLsbD 0 then
            (match q.coord f.rc m with
              | some c => channelBytes q f c m
              | none => [])
            else []
        | _ => [])

/-- Slots and frame pieces that a vector instruction reads. -/
def vecNeeds (k : VecKind) (q : QI) (f : VecF) (m : Nat) : List Nat := (vecReads k q f m).flatMap fun r => slotsOf r.1 r.2

/-- Largest block of W elements of a format, in bytes of slots (R137, R138). -/
def blockMax (fmt w : Nat) : Nat := 64 * ceilDiv (8 + 8 * ceilDiv w 64 + packedLen (fmtBits fmt) w) 64

/-- Destination ranges of a vector instruction (R185 to R190), `n` the bytes of a record that it writes. The extent of an output in blocks depends on its data: with `sure` the range that it takes at least, else the largest. -/
def vecDests (sure : Bool) (k : VecKind) (q : QI) (f : VecF) (m n : Nat) : List (Nat × Nat) :=
  let co := q.coord f.rc m
  let w := (co.map (·.w)).getD 1
  let main := (q.addr f.rd, if f.sp then (if sure then 64 * ceilDiv m w else ceilDiv m w * blockMax f.fd.toNat (min w 256)) else opLen f.fd m)
  match k with
  | .cvt => main :: (if vfRec f then [(q.addr f.rx, n)] else [])
  | .prune24 =>
    let g := groupsMet (co.getD ⟨0, 0, 1⟩) 4 m
    [(q.addr f.rd, opLen f.fd (2 * g)), (q.addr f.rx, ceilDiv g 2), (q.addr f.rs2, ceilDiv g 2)]
  | .red => [(q.addr f.rd, 8)]
  | .stat => if f.sub.getLsbD 0 then (match co with | some c => channelBytes q f c m | none => []) else []
  | .sclDerive | .sclPush | .sclPushAdvance | .sclMerge => []
  | _ => [main]

/-- The first bytes of a record that a VCVT writes are sure: header, entries and zero points (R116, R188). -/
def outRecLen (f : VecF) (p : Pal) (n : Nat) : Nat := 8 + 8 * ceilDiv (n * entryLen p.sfmt + (if f.fd = 2 then n else 0)) 8

/-- Perform a vector instruction whose operands are read; `got` holds their bytes. -/
def vecTake (lead : Bool) (x : Fx) (r : Run) (k : VecKind) (f : VecF) (seed m : Nat) (got : SMap (List Byte)) (rec : Option ScaleRec) : Fx × Run :=
  let r := { r with got := [] }
  let v := vecDo x r k f seed m ((vecReads k r.qi f m).map fun s => gather got s.1 s.2) rec
  if !piecesOk lead v.wr then (v.x.outOfRange, r.finish)
  else
    match v.wr.find? fun w => v.x.c.bankDown w.addr 1 with
    | some w => (v.x.refused w.addr, r.finish)
    | none => writeOn v.x { r with wr := lastWrites v.wr }

/-- Judge the explicit record of VSCL form 0 (R119, R174, R189, R219): it is read without a tag and not consumed, once the data block is there. -/
def sclGo (lead : Bool) (seed : Nat) (x : Fx) (r : Run) (f : VecF) (m : Nat) : Fx × Run :=
  let q := r.qi
  let slots := vecNeeds .sclConvert q f m
  match x.c.firstEmpty slots with
  | some e => (x, r.block e false)
  | none =>
    let a := q.addr f.rx
    let x := x.checkSlots (slotsOf a 8)
    let n := recLen (leNat (memRead x.c.mem a 8))
    if !localOk lead a n then (x.outOfRange, r.finish)
    else if x.c.bankDown a n then (x.refused a, r.finish)
    else
      let x := x.checkSlots ((slotsOf a n).drop 1)
      let l := memRead x.c.mem a n
      let sr := recOf l
      match (if sr.group = 3 then some 1 else (q.coord f.rc m).map fun c => groupCount c sr.group m) with
      | none => (x.outOfRange, r.finish)
      | some met =>
        if !recOk l sr.group met then (x.desync (x.c.tagOf (q.addr f.rs1 / 64)) sr.tag true 2, r.finish)
        else
          let rd := x.takeSlots [] slots
          vecTake lead rd.1 r .sclConvert f seed m rd.2.1 (some sr)

/-- Judge and take a dequantised source with its record (R118, R188). -/
def deqGo (lead : Bool) (seed : Nat) (x : Fx) (r : Run) (f : VecF) (m : Nat) : Fx × Run :=
  let q := r.qi
  let slots := vecNeeds .cvt q f m
  let s := x.c.mr.stream (vfStream f) q.seq
  let x := x.peekRec s
  match x.c.judge slots s (fun g n => if g = 3 then n == 1 else
      match q.coord f.rc m with
      | some c => n == groupCount c g m
      | none => true) with
  | .empty e => (x, r.block e false true)
  | .desync t h b => (x.desync t h b 2, r.finish)
  | .ok none => (x, r.finish)
  | .ok (some rec) =>
    if rec.group ≠ 3 ∧ (q.coord f.rc m).isNone then (x.outOfRange, r.finish)
    else
      let rd := x.takeSlots [] slots
      vecTake lead (rd.1.takeRec (vfStream f) q.seq) r .cvt f seed m rd.2.1 (some rec)

/-- Read a vector instruction's operands and perform it, or block (R205): a scaled source is taken whole with its record, any other slot by slot. -/
def vecRead (lead : Bool) (seed : Nat) (x : Fx) (r : Run) (k : VecKind) (f : VecF) : Fx × Run :=
  let m := (r.qi.count f.rn).getD 0
  if k = .cvt ∧ (vfDeq f) then deqGo lead seed x r f m
  else if k = .sclConvert then sclGo lead seed x r f m
  else
    let rd := x.takeSlots r.got (vecNeeds k r.qi f m)
    match rd.2.2 with
    | some e => (rd.1, { r with got := rd.2.1 }.block e false)
    | none => vecTake lead rd.1 r k f seed m rd.2.1 none

/-- An instruction that takes no count (R189). -/
def noCount : VecKind → Bool
  | .sclPush | .sclPushAdvance | .sclMerge => true
  | _ => false

/-- What only the palette decides of an instruction's operands (R175, R188): a palette with groups needs the coordinate group, and a record of more than 256 entries, or one that leaves the range, is out of range. -/
def palRangeBad (lead : Bool) (k : VecKind) (q : QI) (f : VecF) (m : Nat) (p : Pal) : Bool :=
  match k with
  | .cvt =>
    vfPal f && ((p.group != 3 && (q.coord f.rc m).isNone)
      || (vfRec f && (let n := groupCount ((q.coord f.rc m).getD ⟨0, 0, m + 1⟩) p.group m
                      Nat.blt 256 n || !localOk lead (q.addr f.rx) (outRecLen f p n))))
  | .stat => !f.sub.getLsbD 0 && p.group != 3 && (q.coord f.rc m).isNone
  | _ => false

/-- Issue of a vector instruction: its checks before any effect, its palettes as they stand (R106, R108, R173, R201), then its operands. -/
def vecGo (lead : Bool) (seed : Nat) (x : Fx) (r : Run) (k : VecKind) (f : VecF) : Fx × Run :=
  let q := r.qi
  let m := (q.count f.rn).getD 0
  if !noCount k && m == 0 then (x, r.finish)
  else
    let pas := palAddr k q f
    let x := pas.foldl (fun x a => x.peek a 192) x
    match pas.find? fun a => !x.c.palOk a with
    | some a => (x.palMisuse q.word a, r.finish)
    | none =>
      let p := match pas with
        | a :: _ => x.c.pal a
        | [] => palOf []
      match (pas.map (fun (a : Nat) => ((a, 192) : Nat × Nat)) ++ vecReads k q f m ++ vecDests true k q f m 8).find? fun (s : Nat × Nat) => x.c.bankDown s.1 s.2 with
      | some s => (x.refused s.1, r.finish)
      | none =>
        if palRangeBad lead k q f m p then (x.outOfRange, r.finish)
        else
          let x := pas.foldl Fx.checkPal x
          vecRead lead seed x { r with begun := true, pal := pas.flatMap fun a => memRead x.c.mem a 192 } k f

/-- Issue a vector instruction. -/
def issueVector (lead : Bool) (seed : Nat) (x : Fx) (q : QI) : Fx × Run :=
  match q.op with
  | .vec k f => vecGo lead seed x (Run.start q) k f
  | _ => (x, (Run.start q).finish)

/-- Go on with a vector instruction whose tag block is released (R205). -/
def resumeVector (lead : Bool) (seed : Nat) (x : Fx) (r : Run) : Fx × Run :=
  let r := { r with blocked := none }
  match r.qi.op with
  | .vec k f => if r.wr.isEmpty then vecRead lead seed x r k f else writeOn x r
  | _ => (x, r.finish)

/-! The accumulator path (R88, R91, R184). -/

/-- Tile misuses of the accumulator instructions (R91, R102, R184). -/
def accMisuseOf (lead : Bool) (c : Cell) (q : QI) : Bool :=
  let fr := fun t => c.frame (q.map.resolve t)
  match q.op with
  | .aclr t _ => t == 2 && !lead
  | .adrain f =>
    (f.tile == 2 && !lead) || (fr f.tile).treeOpen
      || Nat.ble (seqCols (shapeO (fr f.tile).shape)) (f.first.toNat + f.countM1.toNat)
  | .amov s d => ((s == 2 || d == 2) && !lead) || s == d || (fr s).treeOpen || (fr d).treeOpen
  | _ => false

/-- The tile that a misuse record names. -/
def accTile : CellOp → Nat
  | .aclr t _ => t.toNat
  | .adrain f => f.tile.toNat
  | .amov s _ => s.toNat
  | _ => 0

/-- APROMO of one column of the tile named A (R91). -/
def promoCol (x : Fx) (fa fb o v : Nat) : Fx :=
  let fr := x.c.frame fa
  let col := fr.cols.getD v ⟨0, false, false⟩
  if !col.opened || col.done then x
  else
    let levels := (List.range 6).filter fun j => bitAt col.c.toNat j
    let x := (levels.flatMap fun j => slotsOf (frameBase fb + 0x400 * j + 4 * (v * o)) (4 * o)).foldl Fx.checkFrame x
    let r := (List.range o).foldl (fun (cs : Cell × Nat) e =>
      let off := 4 * (v * o + e)
      match promoEntry fr.int cs.1 (frameBase fb) off col.c.toNat 6 0 none with
      | some y => (cs.1.setWord (frameBase fa + off) y.bits, cs.2 + y.sats)
      | none => cs) (x.c, 0)
    ({ x with c := r.1.setFrame fa { fr with cols := setAt fr.cols v { col with done := true } } } : Fx).saturated r.2

/-- What an ADRAIN reads and writes (R85, R184): the first byte in the frame and the length. -/
def drainRange (c : Cell) (q : QI) (f : AdrainF) : Nat × Nat :=
  let fr := q.map.resolve f.tile
  let o := shapeO (c.frame fr).shape
  (frameBase fr + 4 * o * f.first.toNat, 4 * o * (f.countM1.toNat + 1))

/-- Issue an accumulator instruction (R184). -/
def issueAcc (lead : Bool) (x : Fx) (q : QI) : Fx × Run :=
  let r := Run.start q
  if accMisuseOf lead x.c q then (x.accMisuse q.word (accTile q.op), r.finish)
  else
    match q.op with
    | .aclr t int =>
      let f := q.map.resolve t
      (x.map fun c => { c with mem := memZero c.mem (frameBase f) (frameBase f + 0x2000), errs := mapDrop (fun p => p / 128 == frameBase f / 0x2000) c.errs, frames := setAt c.frames f { Frame.reset with int := int } }, r.finish)
    | .apromo =>
      let fa := q.map.a.toNat
      let o := shapeO (x.c.frame fa).shape
      ((List.range (treeCols o)).foldl (fun x v => promoCol x fa q.map.b.toNat o v) x, r.finish)
    | .adrain f =>
      let a := drainRange x.c q f
      if !localOk lead (q.addr f.rd) a.2 then (x.outOfRange, r.finish)
      else if x.c.bankDown (q.addr f.rd) a.2 then (x.refused (q.addr f.rd), r.finish)
      else
        let rd := x.readRange a.1 a.2
        writeOn rd.1 { r with begun := true, wr := pieces none false (q.addr f.rd) rd.2.1 }
    | .amov s d =>
      let fs := q.map.resolve s
      let fd := q.map.resolve d
      let rd := x.readRange (frameBase fs) 0x2000
      (rd.1.map fun c => { c.put (frameBase fd) rd.2.1 with frames := setAt c.frames fd (c.frame fs) }, r.finish)
    | _ => (x, r.finish)

/-- Go on with an ADRAIN whose destination was full (R205). -/
def resumeAcc (x : Fx) (r : Run) : Fx × Run := writeOn x { r with blocked := none }

/-- AROT at its dispatch (R88): rotate or exchange; a misuse outside lead cells and while A holds an open tree. -/
def arot (lead : Bool) (x : Fx) (word : DWord) (form : BitVec 1) : Fx :=
  let m := x.c.map
  if !lead || (x.c.frame m.a.toNat).treeOpen then x.accMisuse word 0
  else x.map fun c => { c with map := if form = 0 then ⟨m.w, m.a, m.b⟩ else ⟨m.w, m.b, m.a⟩ }

end Sys2Proof.Machine
end

