-- ==== Sys2Proof/Machine/Ops.lean ====
section
/-! DEFINITION. Named operations over the state: units by number, jobs, ticks, fault records, flights (spec/18_faults_fencing.md R409 to R413; spec/11_prompt_books_epochs.md R252). -/
namespace Sys2Proof.Machine

/-- The outcome of a command. -/
abbrev Res := Host.Outcome State Fault Refusal

/-- Number of a cell. -/
def cellKey (i : CellId) : Nat := (i.r.val * 150 + i.b.val) * 128 + i.c.val
/-- Number of a block. -/
def blkKey (r b : Nat) : Nat := r * 150 + b
/-- Block number of a cell number. -/
def cellBlk (k : Nat) : Nat := k / 128
/-- Region of a cell number. -/
def cellRgn (k : Nat) : Nat := k / 128 / 150
/-- Block within its region of a cell number. -/
def cellBlkNo (k : Nat) : Nat := k / 128 % 150
/-- Cell within its block. -/
def cellNo (k : Nat) : Nat := k % 128

/-- A cell by number. -/
def State.cell (s : State) (k : Nat) : Cell := mapGet Cell.reset s.cells k
/-- Replace a cell. -/
def State.setCell (s : State) (k : Nat) (c : Cell) : State := { s with cells := mapPut s.cells k c }
/-- Change a cell. -/
def State.modCell (s : State) (k : Nat) (f : Cell → Cell) : State := s.setCell k (f (s.cell k))
/-- A block by number. -/
def State.blk (s : State) (k : Nat) : Block := mapGet Block.reset s.blocks k
/-- Change a block. -/
def State.modBlk (s : State) (k : Nat) (f : Block → Block) : State := { s with blocks := mapPut s.blocks k (f (s.blk k)) }
/-- A region by number. -/
def State.rgn (s : State) (r : Nat) : Region := mapGet Region.reset s.regions r
/-- Change a region. -/
def State.modRgn (s : State) (r : Nat) (f : Region → Region) : State := { s with regions := mapPut s.regions r (f (s.rgn r)) }
/-- A cue by number. -/
def State.cue (s : State) (i : Nat) : Cue := mapGet Cue.reset s.cues i
/-- Replace a cue. -/
def State.setCue (s : State) (i : Nat) (c : Cue) : State := { s with cues := mapPut s.cues i c }
/-- Change the hub. -/
def State.modHub (s : State) (f : Hub → Hub) : State := { s with hub := f s.hub }
/-- Send something out of the block. -/
def State.emit (s : State) (o : Out) : State := { s with out := s.out ++ [o] }

/-- Add to an RC counter of a map of counters. -/
def bump (m : SMap Word) (reg n : Nat) : SMap Word := mapSet 0 m reg (satAdd32 (mapGet 0 m reg) n)

/-! Jobs. -/

/-- A job by number. -/
def State.job (s : State) (id : Word) : Option Job := s.jobs.find? fun j => j.id == id
/-- Change a job. -/
def State.modJob (s : State) (id : Word) (f : Job → Job) : State :=
  { s with jobs := s.jobs.map fun j => if j.id = id then f j else j }
/-- The job that holds a region. -/
def State.jobOf (s : State) (r : Nat) : Option Job :=
  match (s.rgn r).owner with
  | some id => s.job id
  | none => none
/-- Regions of a job in ascending order. -/
def Job.rgns (j : Job) : List Nat := (List.range 16).filter fun r => j.regions.getLsbD r
/-- A region is assigned to a job that runs: state 5 (R239). -/
def Region.assigned (r : Region) : Bool := r.state == 5

/-- The job's tick on this module: the counter of its first region (R252). -/
def State.jobTick (s : State) (j : Job) : Nat := (s.rgn (j.rgns.headD 0)).tick
/-- Deadline D(e) of the present epoch (R253). -/
def Job.deadline (j : Job) : Nat := j.sTick + epochLen j.img j.epoch
/-- Boundary B(e) with the hold steps taken (R259). -/
def Job.boundary (j : Job) : Nat := j.deadline + 256 * j.kSteps
/-- A tick boundary lies in a hold interval of the job (R262). -/
def Job.inHold (j : Job) (t : Nat) : Bool :=
  j.begun && ((Nat.blt j.deadline t && Nat.ble t j.boundary) || j.chg.isSome)

/-- A region is Failed: state 7 (R239). -/
def Region.failed (r : Region) : Bool := r.state == 7

/-- Failed physical cells of a block, in order (R225, R226). -/
def Block.failedCells (b : Block) (bk : Nat) : List Nat := (Config.shippedCells bk).map (·.toNat) ++ b.badCells
/-- A block is fenced: by its fence bit, or with more than four failed cells (R226). -/
def Block.isFenced (b : Block) (bk : Nat) : Bool := b.fenced || Config.shippedFence bk || Nat.blt 4 (b.failedCells bk).length
/-- The module offers a cell (R19): its region has not failed and its block is not fenced. -/
def State.offers (s : State) (k : Nat) : Bool := !(s.rgn (cellRgn k)).failed && !(s.blk (cellBlk k)).isFenced (cellBlk k)

/-- A cue number that no longer exists (R423): its place in the host region's array serves cues 0 to 127. -/
def State.cueGone (s : State) (i : Nat) : Bool := s.hub.hostRgn != 0 && !s.hub.takeover && i / 512 == s.hub.hostRgn && Nat.blt (i % 512) 128
/-- A cue that the module does not offer (R19, R423): its region has failed, the stores of the failed host region have not moved yet, or its number is gone. -/
def State.cueLost (s : State) (i : Nat) : Bool :=
  if i < 128 then s.hub.takeover || (s.rgn s.hub.hostRgn).failed else (s.rgn (i / 512)).failed || s.cueGone i

/-! Fault records (R409 to R413). -/

/-- The tick that a record of a region carries (R410). -/
def State.recTick (s : State) (r : Nat) : Nat :=
  if (s.rgn r).owner.isSome && (s.rgn r).assigned then (s.rgn r).tick else s.hub.tick

/-- Class and detail of an event, an injected one under class 0x0F00 plus its low byte (R412). -/
def evClass (e : Ev) : BitVec 16 × List Byte :=
  if e.injected then (BitVec.ofNat 16 (0x0F00 + e.cls % 256), leBytes 2 e.cls ++ e.detail) else (BitVec.ofNat 16 e.cls, e.detail)

/-- A record of a cell's event. -/
def State.cellRec (s : State) (k : Nat) (e : Ev) : Rec :=
  { tick := s.recTick (cellRgn k), cls := (evClass e).1, level := 0, summary := false, phys := false, persistent := false, lostBefore := false, ext := false,
    region := cellRgn k, block := cellBlkNo k, cell := cellNo k, port := 0xFF, count := 1, detail := (evClass e).2 }

/-- A record of a block, region or module event with the "none" values of R409 where a location does not apply. -/
def State.unitRec (s : State) (level cls : Nat) (r b : Option Nat) (detail : List Byte) : Rec :=
  { tick := match r with | some r => s.recTick r | none => s.hub.tick, cls := BitVec.ofNat 16 cls, level := level, summary := false, phys := false,
    persistent := false, lostBefore := false, ext := false, region := r.getD 0xFF, block := b.getD 0xFFFF, cell := 0xFF, port := 0xFF, count := 1, detail := detail }

/-- Put a record on its way to its block's aggregator (R413). -/
def State.toBlock (s : State) (bk : Nat) (r : Rec) : State := s.modBlk bk fun b => { b with transit := b.transit ++ [r] }
/-- Put a record on its way to its region's aggregator (R413). -/
def State.toRegion (s : State) (rg : Nat) (r : Rec) : State := s.modRgn rg fun g => { g with transit := g.transit ++ [r] }

/-- Detail bytes that a record keeps itself where it needs a continuation (R411): those up to byte 7 of a packet header, or twelve. -/
def Rec.ownDetail (r : Rec) : Nat :=
  let c := r.cls.toNat
  if c = 0x0504 ∨ c = 0x0532 then 9 else if c = 0x0506 ∨ c = 0x0531 then 8 else 12

/-- A record as it stands in the log: with a continuation record of class 0 where its detail needs one (R411). -/
def Rec.parts (r : Rec) : List Rec :=
  if r.detail.length ≤ 12 then [r]
  else [{ r with ext := true, detail := r.detail.take r.ownDetail }, { r with cls := 0, detail := r.detail.drop r.ownDetail }]

/-- The 32 bytes of a record of the log (R409, R411). -/
def faultBytes (r : Rec) : List Byte :=
  if r.cls = 0 then leBytes 8 r.tick ++ leBytes 2 0 ++ slice r.detail 0 22
  else leBytes 8 r.tick ++ leBytes 2 r.cls.toNat
    ++ [BitVec.ofNat 8 (r.level % 8 + 8 * b2n r.summary + 16 * b2n r.phys + 32 * b2n r.persistent + 64 * b2n r.ext + 128 * b2n r.lostBefore)]
    ++ leBytes 1 r.region ++ leBytes 2 r.block ++ leBytes 1 r.cell ++ leBytes 1 r.port ++ leBytes 4 (min r.count 0xFFFFFFFF) ++ slice r.detail 0 12

/-- Place one record in the ring (R417). -/
def FltLog.push1 (l : FltLog) (r : Rec) : FltLog :=
  let ring := l.ring ++ [(l.next, r)]
  let above := Nat.blt 16384 ring.length
  { l with ring := if above then ring.drop 1 else ring, next := (l.next + 1) % 2 ^ 32,
           oldest := if above then ((ring.drop 1).head?.map (·.1)).getD l.oldest else if l.ring.isEmpty then l.next else l.oldest,
           wrapped := l.wrapped || above }

/-- Place a record in the module log, its continuation after it (R411, R417). -/
def FltLog.push (l : FltLog) (r : Rec) : FltLog := r.parts.foldl FltLog.push1 l

/-- Log a record that the hub itself forms. -/
def State.log (s : State) (r : Rec) : State := { s with flt := s.flt.push r }
/-- Log a module-level event. -/
def State.logHub (s : State) (cls : Nat) (detail : List Byte) : State := s.log (s.unitRec 3 cls none none detail)
/-- Log a fabric-level event of a port. -/
def State.logPort (s : State) (cls port : Nat) (detail : List Byte) : State :=
  s.log { s.unitRec 4 cls none none detail with port := port }

/-- Take a cell's changes and put its events on their way (R413). -/
def State.put (s : State) (k : Nat) (x : Fx) : State :=
  x.ev.foldl (fun s e => s.toBlock (cellBlk k) (s.cellRec k e)) (s.setCell k x.c)

/-- Apply an operation with events to a cell. -/
def State.fx (s : State) (k : Nat) (f : Fx → Fx) : State := s.put k (f (Fx.of (s.cell k)))

/-! Activity (R395). -/

/-- Power control of a region. -/
def State.rpwr (s : State) (r : Nat) : RgnPwr := mapGet RgnPwr.reset s.hub.pwr.rgns r
/-- The array's compute track or the vector unit is occupied. -/
def Cell.active (c : Cell) : Bool := c.units.comp.isSome || c.units.vec.isSome
/-- Active cells of a region. -/
def State.activeIn (s : State) (r : Nat) : Nat := (s.cells.filter fun c => cellRgn c.1 == r && c.2.active).length
/-- A cell may be active within its region's allowance. -/
def State.rampRoom (s : State) (k : Nat) : Bool := (s.cell k).active || Nat.blt (s.activeIn (cellRgn k)) (s.rpwr (cellRgn k)).allowance

/-! Programmable counters (R457). -/

/-- Events that a counter's control selects in a block, in all so far. -/
def State.pctrTotal (s : State) (bk : Nat) (ctrl : Word) : Nat :=
  let v := ctrl.toNat
  if 14 ≤ field v 0 5 then 0
  else ((s.cells.filter fun c => cellBlk c.1 == bk && (bitAt v 12 || cellNo c.1 == field v 5 7)).map fun c => mapGet 0 c.2.events (field v 0 5)).sum

/-- Bring counter `n` of a block up to date: it takes the events since it last did, if it is enabled. -/
def State.settlePctr (s : State) (bk n : Nat) : State :=
  let ctrl := mapGet 0 (s.blk bk).pctr n
  let t := s.pctrTotal bk ctrl
  s.modBlk bk fun b =>
    { b with cnt := if bitAt ctrl.toNat 14 then bump b.cnt (0x140 + 4 * n) (t - mapGet 0 b.pseen n) else b.cnt, pseen := mapPut b.pseen n t }

/-- Bring every counter of a block up to date. -/
def State.settleAll (s : State) (bk : Nat) : State := ((s.blk bk).pctr.map (·.1)).foldl (fun s n => s.settlePctr bk n) s

/-- Write a counter's control: it counts the events from now on. -/
def State.setPctr (s : State) (bk n : Nat) (v : Word) : State :=
  (((s.settlePctr bk n).modBlk bk fun b => { b with pctr := mapPut b.pctr n v })).modBlk bk fun b => { b with pseen := mapPut b.pseen n (s.pctrTotal bk v) }

/-- Clear a counter (R7, R457). -/
def State.clearPctr (s : State) (bk n : Nat) : State :=
  (s.settlePctr bk n).modBlk bk fun b => { b with cnt := mapSet 0 b.cnt (0x140 + 4 * n) 0 }

/-! Local addresses (R197). -/

/-- Cell number and window offset of a local address in the cell range (R197). -/
def cellAddr (a : Nat) : Option (Nat × Nat) :=
  let r := field a 32 12
  let b := field a 24 8
  let c := field a 16 8
  if a / 2 ^ 44 = 1 ∧ r < 16 ∧ b < 150 ∧ c < 128 then some ((r * 150 + b) * 128 + c, field a 0 16) else none

/-- A local address lies in populated HBM of regions 0 to 15 (R197, R215). -/
def isHbm (a : Nat) : Bool := Nat.blt a 0x10000000000 && Nat.blt (a % 2 ^ 36) 0xC00000000
/-- Region of an HBM address. -/
def hbmRgn (a : Nat) : Nat := a / 2 ^ 36
/-- Region of the cell or of the HBM that a local address names. -/
def unitRgn (a : Nat) : Nat := match cellAddr a with | some (t, _) => cellRgn t | none => hbmRgn a

/-! Routes between regions (R238). -/

/-- A number lies between two others, in either order. -/
def between (x a b : Nat) : Bool := Nat.ble (min a b) x && Nat.ble x (max a b)

/-- Regions that a packet crosses from one region to another with no region failed (R238): along its grid row to the destination column, then along that column. -/
def gridRoute (a b : Nat) : List Nat :=
  ((List.range 4).filter fun c => between c (a % 4) (b % 4)).map (4 * (a / 4) + ·) ++ ((List.range 4).filter fun r => between r (a / 4) (b / 4)).map (4 * · + b % 4)

/-- Traffic between two regions crosses a failed region that the tables in force do not avoid yet (R238). The ways of up-down tables already in force are not stated: they are taken to cross it (log entry 71). -/
def State.crossesFailed (s : State) (a b : Nat) : Bool :=
  a != b && (List.range 16).any fun q => s.hub.detourDue.getLsbD q && q != a && q != b && ((s.rgn a).detour || (gridRoute a b).contains q)

/-- New route tables need a change hold of a job (R238). -/
def State.needsDetour (s : State) (j : Job) : Bool :=
  j.begun && !j.faulted && j.rgns.any fun a => j.rgns.any fun b => s.crossesFailed a b

/-- Firmware applies the rebuilt route tables once every job whose traffic crossed a failed region is in a change hold (R238). -/
def State.applyTables (s : State) : State :=
  if s.hub.detourDue = 0 || s.jobs.any fun j => s.needsDetour j && j.chg.isNone then s
  else ((List.range 16).foldl (fun s q => s.modRgn q fun g => { g with detour := true }) s).modHub fun h => { h with detourDue := 0 }

/-! Flights. -/

/-- Region of this module that traffic comes from; 16 where another module sent it. -/
def State.srcRgn (s : State) : Flight → Nat
  | .write w => if w.srcModule = (s.rgn (cellRgn w.src)).ident ∨ w.srcModule = 0xFFF then cellRgn w.src else 16
  | .getReq k _ _ _ _ _ => cellRgn k
  | .getData k _ _ _ _ _ _ => cellRgn k
  | .hbmRead k _ _ _ _ => cellRgn k
  | .hbmWrite k _ _ _ _ _ _ => cellRgn k
  | .ack k _ => cellRgn k

/-- Region that traffic goes to. -/
def Flight.dstRgn : Flight → Nat
  | .write w => unitRgn w.addr
  | .getReq _ _ a _ _ _ => unitRgn a
  | .getData k _ _ _ _ _ _ => cellRgn k
  | .hbmRead _ _ a _ _ => unitRgn a
  | .hbmWrite _ _ a _ _ _ _ => unitRgn a
  | .ack k _ => cellRgn k

/-- Launch traffic. -/
def State.launch (s : State) (f : Flight) : State := { s with flights := s.flights ++ [(s.nextId, f)], nextId := s.nextId + 1 }
/-- The traffic of a number. -/
def State.flight (s : State) (id : Nat) : Option Flight := (s.flights.find? fun x => x.1 == id).map (·.2)
/-- The traffic of a number that can arrive: what crosses a failed region waits in its buffers for the new tables (R238). -/
def State.arriving (s : State) (id : Nat) : Option Flight :=
  match s.flight id with
  | some f => if s.crossesFailed (s.srcRgn f) f.dstRgn && Nat.blt (s.srcRgn f) 16 then none else some f
  | none => none
/-- Remove traffic that has arrived. -/
def State.land (s : State) (id : Nat) : State := { s with flights := mapDrop (· == id) s.flights }

/-! HBM (R215 to R219). -/

/-- Poison bit of a block. -/
def Hbm.isPoison (h : Hbm) (blk : Nat) : Bool := mapGet 0 h.poison blk != 0

/-- Write within one 64-byte block of HBM: data, tag, poison (R217, R219). -/
def Hbm.write (h : Hbm) (a : Nat) (data : List Byte) (tag : Option Byte) (poison : Bool) : Hbm :=
  let blk := a / 64
  { mem := memWrite h.mem a data,
    tags := match tag with | some t => mapSet 0 h.tags blk t | none => h.tags,
    poison := mapSet 0 h.poison blk (if poison then 1 else if data.length = 64 then 0 else mapGet 0 h.poison blk),
    errs := mapSet [] h.errs blk ((mapGet [] h.errs blk).filter fun f =>
      !(Nat.ble (a % 64) (f.bit / 8) && Nat.blt (f.bit / 8) (a % 64 + data.length))) }

/-- Bits flip in a block of HBM, and stand (R218). -/
def Hbm.flip (h : Hbm) (blk : Nat) (l : List Nat) : Hbm :=
  if l.isEmpty then h
  else { h with mem := flipBits h.mem (64 * blk) l, errs := mapSet [] h.errs blk (mapGet [] h.errs blk ++ l.map fun b => ⟨b, false⟩) }

/-- What the controller's check of a block finds (R219): nothing; single-bit errors corrected, real and injected ones; an uncorrectable error, and whether it is injected. -/
inductive HbmFound where
  | clean
  | corrected (real injected : Nat)
  | bad (injected : Bool)
  deriving DecidableEq, Repr

/-- The controller's check of a block at a read or the patrol (R218, R219): corrected, or poisoned. -/
def Hbm.check (h : Hbm) (blk : Nat) : Hbm × HbmFound :=
  let fs := mapGet [] h.errs blk
  let l := flipBitsOf fs
  let inj := (fs.filter (·.injected)).length
  if l.isEmpty then (h, .clean)
  else if flipsMax 64 l ≤ 1 then ({ h with mem := flipBits h.mem (64 * blk) l, errs := mapSet [] h.errs blk [] }, .corrected (l.length - inj) inj)
  else ({ h with errs := mapSet [] h.errs blk [], poison := mapSet 0 h.poison blk 1 }, .bad (inj != 0))

/-- The corrections of a check in the region's summary of the interval (R219). -/
def State.hbmCounted (s : State) (r : Nat) : HbmFound → State
  | .corrected n i => s.modRgn r fun g => { g with hbmCorr := g.hbmCorr + n, hbmCorrInj := g.hbmCorrInj + i }
  | _ => s

/-- Check one block at a read by a unit other than a cell, or by the patrol: corrections are counted, a block that cannot be corrected is poisoned and recorded by its region (R218, R219). -/
def State.checkBlock (s : State) (blk : Nat) : State :=
  let c := s.hbm.check blk
  let r := hbmRgn (64 * blk)
  let s := ({ s with hbm := c.1 }).hbmCounted r c.2
  match c.2 with
  | .bad inj => s.toRegion r (s.unitRec 2 (if inj then 0x0F14 else 0x0114) (some r) none ((if inj then leBytes 2 0x0114 else []) ++ leBytes 8 (64 * blk)))
  | _ => s

/-- The controller's checks at a read of a range by a unit other than a cell (R218, R219). -/
def State.checkHbm (s : State) (a n : Nat) : State :=
  (s.hbm.errs.filter fun e => Nat.ble (a / 64) e.1 && Nat.blt (64 * e.1) (a + n)).foldl (fun s e => s.checkBlock e.1) s

end Sys2Proof.Machine
end

