-- ==== Sys2Proof/Machine/Fabric.lean ====
section
/-! DEFINITION. Rinmen links: packets, flits, sending, receiving, link states, routing, losses (spec/12_rinmen_fabric.md R272 to R297). -/
namespace Sys2Proof.Machine

/-! Packets (R283, R284). -/

/-- Type of a header. -/
def hType (h : DWord) : Nat := field h.toNat 0 4
/-- Virtual channel named in a header. -/
def hVc (h : DWord) : Nat := field h.toNat 4 2
/-- Poison bit of a header. -/
def hPoison (h : DWord) : Bool := h.getLsbD 6
/-- Data units of a header. -/
def hLen (h : DWord) : Nat := field h.toNat 8 8
/-- Destination module. -/
def hDst (h : DWord) : Nat := field h.toNat 16 12
/-- Source module. -/
def hSrc (h : DWord) : Nat := field h.toNat 28 12
/-- Source cell, by number. -/
def hCell (h : DWord) : Nat := (field h.toNat 55 4 * 150 + field h.toNat 47 8) * 128 + field h.toNat 40 7
/-- Source region. -/
def hRegion (h : DWord) : Nat := field h.toNat 55 4
/-- Hops. -/
def hHops (h : DWord) : Nat := field h.toNat 59 5

/-- A header word 0 (R283). -/
def mkH0 (ty vc len dst src cell : Nat) (poison : Bool) : DWord :=
  BitVec.ofNat 64 (ty + 2 ^ 4 * vc + 2 ^ 6 * b2n poison + 2 ^ 8 * len + 2 ^ 16 * dst + 2 ^ 28 * src
    + 2 ^ 40 * cellNo cell + 2 ^ 47 * cellBlkNo cell + 2 ^ 55 * cellRgn cell)

/-- The 24 header bytes. -/
def pktHeader (k : Packet) : List Byte := leBytes 8 k.h0.toNat ++ leBytes 8 k.h1.toNat ++ leBytes 8 k.h2.toNat
/-- The bytes of a packet in its stream. -/
def pktBytes (k : Packet) : List Byte := pktHeader k ++ k.data
/-- A packet from its bytes. -/
def packetOf (l : List Byte) : Packet :=
  ⟨BitVec.ofNat 64 (leAt l 0 8), BitVec.ofNat 64 (leAt l 8 8), BitVec.ofNat 64 (leAt l 16 8), l.drop 24⟩

/-- Virtual channel of a type (R284). -/
def vcOf (ty : Nat) : Nat :=
  match ty with
  | 1 => 0 | 2 => 0 | 3 => 2 | 4 => 1 | 5 => 1 | 6 => 2 | 7 => 2 | _ => 3

/-- The length range of a type (R284). -/
def lenOk (ty len : Nat) : Bool :=
  match ty with
  | 1 => Nat.ble 1 len && Nat.ble len 64
  | 2 => Nat.ble 1 len && Nat.ble len 64
  | 4 => Nat.ble 1 len && Nat.ble len 64
  | 5 => Nat.ble 1 len && Nat.ble len 64
  | 9 => Nat.ble len 64
  | _ => len == 0

/-- Count-cell bytes of a WRITE or ACCW are in use: an HBM destination with cnt_en (R284). -/
def countCellUsed (h1 : DWord) : Bool := Nat.blt (field h1.toNat 0 48) 0x100000000000 && bitAt h1.toNat 56

/-- Reserved bits and bytes that must be zero (R283, R284, R292, R305, R307). -/
def zerosOk (k : Packet) : Bool :=
  let a := k.h1.toNat
  let b := k.h2.toNat
  !k.h0.getLsbD 7 &&
  (match hType k.h0 with
   | 1 => field a 61 3 == 0 && (if countCellUsed k.h1 then field b 19 45 == 0 else b == 0)
   | 2 => field a 63 1 == 0 && (if countCellUsed k.h1 then field b 19 45 == 0 else b == 0)
   | 3 => field a 13 19 == 0 && field b 32 32 == 0
   | 4 => field a 12 4 == 0 && field b 20 12 == 0 && field b 44 4 == 0 && field b 50 14 == 0
   | 5 => field a 12 4 == 0 && field b 20 12 == 0 && field b 44 4 == 0 && field b 50 14 == 0
   | 6 => field b 18 14 == 0
   | 7 => field a 8 24 == 0
   | 8 => field b 12 4 == 0 && field b 22 2 == 0 && field b 25 7 == 0
   | 9 => field a 8 24 == 0
   | _ => true)

/-- The reason for which a packet is malformed (R286), if it is. -/
def badReason (k : Packet) : Option Nat :=
  let ty := hType k.h0
  let sub := field k.h1.toNat 0 8
  if 0xA ≤ ty ∨ (ty = 7 ∧ 3 ≤ sub) ∨ (ty = 9 ∧ (sub = 0 ∨ 4 ≤ sub)) then some 1
  else if hVc k.h0 ≠ vcOf ty then some 2
  else if !lenOk ty (hLen k.h0) then some 3
  else if !zerosOk k then some 4
  else if (ty = 1 ∨ ty = 2) ∧ field k.h1.toNat 0 48 % 64 ≠ 0 then some 5
  else if (hDst k.h0 = 0xFFF ∨ hSrc k.h0 = 0xFFF) ∧ ty ≠ 8 ∧ ty ≠ 9 then some 6
  else none

/-- A packet that a job sends (R297): WRITE to TIME. -/
def isJobType (h : DWord) : Bool := Nat.ble 1 (hType h) && Nat.ble (hType h) 7

/-- A lost packet may be answered (R286, R297): not a NAK, not an UNREACHABLE, not link-local. -/
def answerable (h0 h1 : DWord) : Bool :=
  !(hType h0 == 9 && (field h1.toNat 0 8 == 1 || field h1.toNat 0 8 == 2)) && hDst h0 != 0xFFF && hSrc h0 != 0xFFF

/-- Job identifier of a REDUCE or BCAST (R312). -/
def pktJob (k : Packet) : Word := BitVec.ofNat 32 (field k.h1.toNat 32 32)

/-- Job identifier that a packet carries (R284, R312), where its type has one. -/
def jobIdOf (k : Packet) : Option Word :=
  match hType k.h0 with
  | 3 => some (BitVec.ofNat 32 (field k.h2.toNat 0 32))
  | 4 => some (pktJob k)
  | 5 => some (pktJob k)
  | _ => none

/-- A job is in a change hold. -/
def inChange (j : Option Job) : Bool := match j with | some j => j.chg.isSome | none => false

/-- An outgoing job packet other than HOLD, TIME and MGMT waits at its port during a change hold of its job (R265). -/
def heldOut (s : State) (k : Packet) : Bool :=
  match jobIdOf k with
  | some id => inChange (s.job id)
  | none => (hType k.h0 == 1 || hType k.h0 == 2) && hSrc k.h0 == s.hub.fab.moduleId.toNat && inChange (s.jobOf (hRegion k.h0))

/-! Ports. -/

/-- A logical port. -/
def State.port (s : State) (p : Nat) : Port := mapGet Port.reset s.hub.fab.ports p
/-- Change the fabric. -/
def State.modFab (s : State) (f : Fabric → Fabric) : State := s.modHub fun h => { h with fab := f h.fab }
/-- Replace a port. -/
def State.setPort (s : State) (p : Nat) (x : Port) : State := s.modFab fun f => { f with ports := mapPut f.ports p x }
/-- Change a port. -/
def State.modPort (s : State) (p : Nat) (f : Port → Port) : State := s.setPort p (f (s.port p))
/-- The physical port of a logical port is split (R272). -/
def State.isSplit (s : State) (p : Nat) : Bool := (s.port (p % 24)).split
/-- Region of a logical port (R14). -/
def portRegion (p : Nat) : Nat := [0, 1, 2, 3, 4, 7, 8, 11, 12, 13, 14, 15].getD (p % 24 / 2) 0
/-- Logical port p exists (R272), and its region offers it (R19, R281). -/
def State.portExists (s : State) (p : Nat) : Bool := (Nat.blt p 24 || s.isSplit p) && !(s.rgn (portRegion p)).failed
/-- Receive buffer of a virtual channel in flits (R280). -/
def State.bufSize (s : State) (p vc : Nat) : Nat :=
  (if vc < 2 then 2048 else 256) / (if s.isSplit p then 2 else 1)
/-- A port is Up. -/
def Port.up (x : Port) : Bool := x.state == 3
/-- A port carries flits: Up, or Blocked with VC3 only (R274). -/
def Port.live (x : Port) : Bool := x.state == 3 || x.state == 6
/-- Count on an RC counter of a port (R299). -/
def Port.count (x : Port) (reg n : Nat) : Port := { x with cnt := bump x.cnt reg n }
/-- Change a receiving side. -/
def Port.modRx (x : Port) (vc : Nat) (f : VcRx → VcRx) : Port := { x with rx := modAt f x.rx vc }
/-- Change a sending side. -/
def Port.modTx (x : Port) (vc : Nat) (f : VcTx → VcTx) : Port := { x with tx := modAt f x.tx vc }
/-- A receiving side. -/
def Port.rxOf (x : Port) (vc : Nat) : VcRx := x.rx.getD vc .reset
/-- A sending side. -/
def Port.txOf (x : Port) (vc : Nat) : VcTx := x.tx.getD vc .reset

/-! Sending (R277 to R282). -/

/-- A virtual channel has a body ready: the rest of a packet, or one that nothing holds back. -/
def VcTx.ready (held : Packet → Bool) (v : VcTx) : Bool :=
  !v.rest.isEmpty || (match v.wait with | [] => false | t :: _ => !held t.k)

/-- What the cutting of one body yields: the body, whether it begins with a header, the headers that begin in it, the channel, and the instructions whose packets have now entered the replay buffer. -/
structure Cut where
  body : List Byte
  sop : Bool
  heads : List DWord
  v : VcTx
  done : List (Nat × Nat)
  deriving DecidableEq, Repr

/-- The packet as it leaves: one that is forwarded has made a hop more (R288), and a TIME align packet takes up the time it has spent inside (R295). -/
def TxPkt.leaving (t : TxPkt) (now : Nat) : Packet :=
  let k := if t.src.isSome then { t.k with h0 := t.k.h0 + BitVec.ofNat 64 (2 ^ 59) } else t.k
  if hType k.h0 = 7 ∧ field k.h1.toNat 0 8 = 0 then { k with h2 := k.h2 + BitVec.ofNat 64 (64 * (now - t.tick)) } else k

/-- Fill a body from a channel's stream (R282). -/
def cutF (held : Packet → Bool) (now : Nat) : Nat → Cut → Cut
  | 0, c => c
  | n + 1, c =>
    let room := 56 - c.body.length
    if room = 0 then c
    else if c.v.rest.isEmpty then
      match c.v.wait with
      | [] => c
      | t :: ts =>
        let k := t.leaving now
        if held t.k then c
        else
          cutF held now n { c with
            sop := c.sop || c.body.isEmpty, heads := if answerable k.h0 k.h1 then c.heads ++ [k.h0] else c.heads,
            v := { c.v with wait := ts, rest := pktBytes k, origin := t.origin } }
    else
      let rest := c.v.rest.drop room
      cutF held now n { c with
        body := c.body ++ c.v.rest.take room, done := if rest.isEmpty then c.done ++ c.v.origin.toList else c.done,
        v := { c.v with rest := rest, origin := if rest.isEmpty then none else c.v.origin } }

/-- The next body of a channel, padded with zeros (R282). -/
def cutBody (held : Packet → Bool) (now : Nat) (v : VcTx) : Cut :=
  let c := cutF held now 8 ⟨[], false, [], v, []⟩
  { c with body := c.body ++ List.replicate (56 - c.body.length) 0 }

/-- The channel of the next flit (R281), if any is ready. -/
def chooseVc (held : Packet → Bool) (x : Port) : Option Nat :=
  let ok := fun vc => (x.txOf vc).ready held && Nat.ble 1 (x.txOf vc).credits && (x.up || vc == 3)
  let bulk := ok 0 || ok 1
  if ok 2 && (!(bulk || ok 3) || Nat.ble 3 x.since2) then some 2
  else if ok 3 && (!(bulk || ok 2) || Nat.ble 15 x.since3) then some 3
  else if ok 0 && (!ok 1 || !x.lastVc0) then some 0
  else if ok 1 then some 1
  else if ok 2 then some 2
  else none

/-- Some channel has a body ready and no credit (R280). -/
def creditStarved (held : Packet → Bool) (x : Port) : Bool := (List.range 4).any fun vc => (x.txOf vc).ready held && (x.txOf vc).credits == 0

/-- Send one flit with the given body; the link word carries the acknowledgement, a nak that is due and credits (R277, R278). -/
def sendFlit (s : State) (p : Nat) (seq vc : Nat) (idle sop : Bool) (body : List Byte) : State :=
  let x := s.port p
  let cv := x.txCount % 4
  let n := min 7 (x.rxOf cv).owed
  let w := seq + 2 ^ 12 * x.rxSeq + 2 ^ 24 * vc + 2 ^ 26 * b2n x.nakDue + 2 ^ 27 * b2n idle + 2 ^ 28 * b2n sop + 2 ^ 29 * n
  let l := leBytes 4 w ++ body
  let x := x.modRx cv fun r => { r with owed := r.owed - n }
  (s.setPort p { x with txCount := x.txCount + 1, nakDue := false, since2 := if vc = 2 ∧ idle = false then 0 else x.since2 + 1,
                        since3 := if vc = 3 ∧ idle = false then 0 else x.since3 + 1 }).emit (.flit p (l ++ leBytes 4 (crc32 l)))

/-- An idle flit. -/
def sendIdle (s : State) (p : Nat) : State := sendFlit s p 0 0 true false (List.replicate 56 0)

/-- Instructions whose packets have entered the replay buffer (R157). -/
def finishSends (s : State) (l : List (Nat × Nat)) : State :=
  l.foldl (fun s o => s.modCell o.1 fun c =>
    { c with units := { c.units with outst := (c.units.outst.map fun x => if x.seq = o.2 then { x with left := x.left - 1 } else x).filter fun x => x.left != 0 } }) s

/-- Send what a port may send now (R279 to R281). -/
def pumpF (p : Nat) : Nat → State → State
  | 0, s => s
  | n + 1, s =>
    let x := s.port p
    if !x.live || x.resume || Nat.ble 2048 x.replay.length then s
    else
      match chooseVc (heldOut s) x with
      | none => s
      | some vc =>
        let c := cutBody (heldOut s) s.hub.tick (x.txOf vc)
        let seq := x.txSeq
        let x := { x.modTx vc fun _ => { c.v with credits := c.v.credits - 1 } with
          txSeq := (seq + 1) % 4096, replay := x.replay ++ [⟨seq, vc, c.sop, c.body, 1, c.heads⟩],
          lastVc0 := if vc = 0 then true else if vc = 1 then false else x.lastVc0 }
        pumpF p n (finishSends (sendFlit (s.setPort p x) p seq vc false c.sop c.body) c.done)

/-- Send what a port may send now. -/
def pump (s : State) (p : Nat) : State := pumpF p (2048 - (s.port p).replay.length) s

/-- Send what every port may send now. -/
def pumpAll (s : State) : State := (s.hub.fab.ports.map (·.1)).foldl pump s

/-- Queue a packet at a port. -/
def enqueueAt (s : State) (p : Nat) (t : TxPkt) : State :=
  pump (s.modPort p fun x => x.modTx (hVc t.k.h0) fun v => { v with wait := v.wait ++ [t] }) p

/-- Queue a packet that no routing table governs: IDENT, link-local MGMT. -/
def sendLocal (s : State) (p : Nat) (k : Packet) : State := enqueueAt s p ⟨k, none, none, none, s.hub.tick⟩

/-! Routing (R287 to R290). -/

/-- Where an entry sends a packet: none, this module, or a port. -/
inductive Route where
  | none
  | here
  | port (p : Nat)
  deriving DecidableEq, Repr

/-- One of the two ports of an entry. -/
def routeVia (s : State) (valid : Bool) (p : Nat) : Route :=
  if !valid then .none else if p = 63 then .here else if Nat.blt p 48 && s.portExists p && (s.port p).up then .port p else .none

/-- The port that an entry chooses now (R287). -/
def pick (s : State) (e : Word) : Route :=
  match routeVia s (e.getLsbD 6) (field e.toNat 0 6) with
  | .none => routeVia s (e.getLsbD 14) (field e.toNat 8 6)
  | r => r

/-- A packet takes its place among those that a port has received for this module (R287). -/
def arriveHere (s : State) (p : Nat) (k : Packet) : State :=
  s.modPort p fun x => { x with arrived := x.arrived ++ [⟨k, 0, 0, 0, true, s.hub.tick⟩] }

/-- A fault of the job that holds a region falls due (R261, R297). -/
def dueFault (s : State) (r : Nat) (c : Rec) : State :=
  match s.jobOf r with
  | some j => s.modJob j.id fun j => { j with faultDue := j.faultDue.or (if j.faulted then none else some c) }
  | none => s

/-- A record of the fabric with a packet header (R300). -/
def State.headRec (s : State) (cls port : Nat) (reason : Option Nat) (head : List Byte) : Rec :=
  { s.unitRec 4 cls none none ((match reason with | some r => [BitVec.ofNat 8 r] | none => []) ++ head) with port := port }

/-- An originated job packet is lost (R297): class 0x0507, and its job faults. -/
def lostOwn (s : State) (port : Nat) (reason : Nat) (h0 : DWord) : State :=
  if isJobType h0 then
    let c := s.headRec 0x0507 port (some reason) (leBytes 8 h0.toNat)
    dueFault (s.log c) (hRegion h0) c
  else s

/-- A MGMT packet of this module about a packet that came wrong (R286). -/
def mgmtAbout (s : State) (sub dst reason : Nat) (h0 : DWord) : Packet :=
  ⟨mkH0 9 3 0 dst s.hub.fab.moduleId.toNat 0 false, BitVec.ofNat 64 (sub + 2 ^ 32 * reason), h0, []⟩

/-- Send a MGMT packet by the injection table; without a route it is dropped and recorded (R288). -/
def sendMgmt (s : State) (k : Packet) : State :=
  match pick s (mapGet 0 s.hub.fab.table (hDst k.h0)) with
  | .port p => enqueueAt s p ⟨k, none, some (mapGet 0 s.hub.fab.table (hDst k.h0)), none, s.hub.tick⟩
  | .here => arriveHere s 0 k
  | .none => s.log (s.headRec 0x0506 0xFF none (pktHeader k))

/-- Answer a lost packet with UNREACHABLE (R288, R297). -/
def unreachable (s : State) (port reason : Nat) (h0 : DWord) : State :=
  let own := s.hub.fab.moduleId.toNat
  if own = 0xFFF then s
  else if hSrc h0 = own then lostOwn s port reason h0
  else sendMgmt s (mgmtAbout s 2 (hSrc h0) reason h0)

/-- Drop a packet for want of a route or of hops (R288). -/
def dropPacket (s : State) (port : Option Nat) (reason : Nat) (k : Packet) : State :=
  let s := match port with
    | some p => s.modPort p fun x => x.count 0x54 1
    | none => s
  let s := s.log (s.headRec 0x0506 (port.getD 0xFF) none (pktHeader k))
  if answerable k.h0 k.h1 then unreachable s (port.getD 0xFF) reason k.h0 else s

/-- Route a packet by an entry. -/
def routeBy (s : State) (t : TxPkt) (e : Word) : State :=
  match pick s e with
  | .port p => enqueueAt s p { t with entry := some e }
  | .here => finishSends (arriveHere s (t.src.getD 0) t.k) t.origin.toList
  | .none => finishSends (dropPacket s t.src 0x10 t.k) t.origin.toList

/-- Send a packet that this module originates (R287, R290). -/
def inject (s : State) (k : Packet) (origin : Option (Nat × Nat)) : State :=
  let t : TxPkt := ⟨k, origin, none, none, s.hub.tick⟩
  if s.hub.fab.moduleId = 0xFFF then finishSends (dropPacket s none 0x10 k) origin.toList
  else if hDst k.h0 = s.hub.fab.moduleId.toNat then finishSends (arriveHere s 0 k) origin.toList
  else routeBy s t (mapGet 0 s.hub.fab.table (hDst k.h0))

/-- The routing entry of a packet at its arrival port (R287): the one in force when its header came (R289). -/
def State.entryOf (s : State) (p : Nat) (k : Packet) : Word :=
  match (s.port p).arrived.find? fun a => a.k == k && !a.here with
  | some a => a.entry
  | none => mapGet 0 (s.port p).table (hDst k.h0)

/-- A packet is for this module (R287). -/
def forHere (s : State) (p : Nat) (k : Packet) : Bool :=
  let own := s.hub.fab.moduleId.toNat
  own != 0xFFF && (hDst k.h0 == own || (s.port p).arrived.any (fun a => a.k == k && a.here)
    || pick s (s.entryOf p k) == .here)

/-! Link states (R274, R275, R292, R297). -/

/-- Packets of the waiting queues that a routing entry governs, and the port without them. -/
def takeWaiting (x : Port) : List TxPkt × Port :=
  (x.tx.flatMap fun v => v.wait.filter fun t => t.entry.isSome,
   { x with tx := x.tx.map fun v => { v with wait := v.wait.filter fun t => t.entry.isNone } })

/-- Waiting packets are routed again by their entry when their port leaves Up (R287). -/
def reroute (s : State) (p : Nat) : State :=
  let w := takeWaiting (s.port p)
  w.1.foldl (fun s t => routeBy s t (t.entry.getD 0)) (s.setPort p w.2)

/-- Header words of packets that are lost with a port (R297). -/
def lostHeads (x : Port) : List DWord :=
  x.replay.flatMap (·.heads) ++ x.rx.filterMap fun v =>
    let k := packetOf v.bytes
    if 24 ≤ v.bytes.length ∧ answerable k.h0 k.h1 = true then some k.h0 else none

/-- What a fence or a block loses (R297). -/
def losePackets (s : State) (p : Nat) : State :=
  let x := s.port p
  let heads := lostHeads x
  let done := x.tx.flatMap fun v => v.origin.toList
  let x := { x with replay := [], tx := x.tx.map fun v => { v with rest := [], origin := none },
                    rx := x.rx.map fun v => { v with bytes := [], entry := none, occ := v.occ - v.held, owed := v.owed + v.held, held := 0, skip := true } }
  heads.foldl (fun s h => unreachable s p 0x12 h) (finishSends (s.setPort p x) done)

/-- FCLK leaves its source (R294): class 0x0510. -/
def holdoverEnter (s : State) : State :=
  let f := s.hub.fab
  if f.srcPort = 63 || f.freewheel then s
  else (s.modFab fun f => { f with freewheel := true, freewheelSeen := true, locked := false }).logPort 0x0510 f.srcPort.toNat []

/-- A port has left Up: FCLK goes to holdover where it was the designated one (R294). -/
def sourceLost (s : State) (p : Nat) : State := if s.hub.fab.srcPort.toNat = p then holdoverEnter s else s

/-- A port is fenced (R275). -/
def fencePort (s : State) (p : Nat) : State :=
  let s := (s.modPort p fun x => { x with state := 5 }).logPort 0x0503 p []
  reroute (losePackets (sourceLost s p) p) p

/-- Entries into Retrain that still count (R275). -/
def recentRetrains (now : Nat) (l : List Nat) : List Nat := l.filter fun t => Nat.blt now (t + 100000000)

/-- A port enters Retrain from Up (R275): cause 1 eight sends, 2 no acknowledgement, 3 credit violation, 4 partner, 5 command. A Blocked port stays Blocked (R292). -/
def enterRetrain (s : State) (p cause : Nat) : State :=
  let x := s.port p
  let now := s.hub.tick
  let l := recentRetrains now x.retrains ++ [now]
  if !x.up then s
  else
    let x := ({ x with state := 4, before := if x.peerValid then some (x.peerSerial, x.peerIdent) else x.before, retrained := true, retrains := l }).count 0x50 1
    let s := (sourceLost (s.setPort p x) p).logPort 0x0502 p [BitVec.ofNat 8 cause]
    if 32 ≤ l.length then fencePort s p else reroute s p

/-- A training or retrain attempt fails (R275). -/
def trainFailed (s : State) (p : Nat) (cause : Byte) : State :=
  let x := s.port p
  let n := x.fails + 1
  let s := (s.setPort p { x with state := 1, fails := n, trainFail := true }).logPort 0x0501 p [cause]
  if 4 ≤ n then fencePort s p else s

/-- The IDENT of this module on a port (R292). -/
def identOf (s : State) (p : Nat) : Packet :=
  ⟨mkH0 8 3 0 0xFFF s.hub.fab.moduleId.toNat 0 false, Config.fuseSerial,
   BitVec.ofNat 64 (s.hub.fab.moduleId.toNat + 2 ^ 16 * p + 2 ^ 24 * b2n (s.isSplit p) + 2 ^ 32 * 0x4C4D + 2 ^ 48 * 0x0307), []⟩

/-- The lanes can form a link (R273): partners of one width, at most 40 ns of skew, no misconnection but a complete reversal. -/
def State.lanesFit (s : State) (p : Nat) (t : TrainResult) : Bool := t.half == s.isSplit p && Nat.ble t.skew 40 && !t.misconnected

/-- Free receive buffers of a port, per virtual channel (R280). -/
def State.freeBufs (s : State) (p : Nat) : List Nat := (List.range 4).map fun vc => s.bufSize p vc - ((s.port p).rxOf vc).occ

/-- Training or a retrain ends (R273, R274, R279, R280, R292): the attempt fails where the lanes do not fit; else free buffers are advertised and the partner's taken as credits, IDENT is sent, and kept flits wait for the partner's acknowledgement. -/
def trainDone (s : State) (p : Nat) (t : TrainResult) : State :=
  if !s.lanesFit p t then trainFailed s p t.cause else
  let x := s.port p
  let y := { x with
    state := 3, reversed := t.reversed, delay := t.delay, fails := 0, peerValid := false, rxCount := 0, txCount := 0, rxDiscard := false, codeLost := false, nakDue := false,
    before := if x.state = 4 then x.before else none, resume := !x.replay.isEmpty, replay := x.replay.map fun f => { f with sends := 0 },
    rx := x.rx.map fun v => { v with owed := 0 },
    tx := (List.range 4).map fun i => { x.txOf i with credits := t.credits.getD i 0, adv := t.credits.getD i 0 } }
  sendLocal (sendIdle ((s.setPort p y).emit (.advertise p (s.freeBufs p))) p) p (identOf s p)

/-! Receiving (R277 to R282, R296). -/

/-- Read the packets that a channel's bytes complete (R282): whole packets, malformed headers (which end the stream up to the next sop), padding. The routing table is read as the header comes (R289). -/
def parseF (now vc : Nat) (table : SMap Word) : Nat → VcRx × List Arr → VcRx × List Arr
  | 0, r => r
  | n + 1, (v, l) =>
    let k := packetOf v.bytes
    let e := v.entry.getD (mapGet 0 table (hDst k.h0))
    if v.bytes.isEmpty then (v, l)
    else if hType k.h0 = 0 ∧ 8 ≤ v.bytes.length then ({ v with bytes := [], occ := v.occ - v.held, owed := v.owed + v.held, held := 0 }, l)
    else if v.bytes.length < 24 then (v, l)
    else
      let len := 24 + 64 * hLen k.h0
      if (badReason { k with data := [] }).isSome then
        ({ v with bytes := [], entry := none, skip := true, held := 0 }, l ++ [⟨{ k with data := [] }, vc, v.held, e, false, now⟩])
      else if v.bytes.length < len then ({ v with entry := some e }, l)
      else
        let rest := v.bytes.drop len
        let more := !rest.isEmpty && hType (packetOf rest).h0 != 0
        let held := if more then v.held - 1 else v.held
        parseF now vc table n ({ v with bytes := if more then rest else [], entry := none, held := if more then 1 else 0 },
          l ++ [⟨packetOf (v.bytes.take len), vc, held, e, false, now⟩])

/-- A body is accepted into its channel (R280, R282, R296). -/
def takeBody (now vc : Nat) (sop : Bool) (body : List Byte) (x : Port) : Port :=
  let v := x.rxOf vc
  if v.skip && !sop then x.modRx vc fun v => { v with owed := v.owed + 1 }
  else if !x.up && vc != 3 then x.modRx vc fun v => { v with owed := v.owed + 1 }
  else
    let v := if v.skip then { v with skip := false, bytes := [], entry := none } else v
    let r := parseF now vc x.table 4 ({ v with bytes := v.bytes ++ body, held := v.held + 1, occ := v.occ + 1 }, [])
    { x.modRx vc fun _ => r.1 with arrived := x.arrived ++ r.2 }

/-- Flits that an acknowledgement leaves in the replay buffer (R278). -/
def ackReplay (ack : Nat) (l : List TxFlit) : List TxFlit :=
  match l.findIdx? fun f => f.seq == ack with
  | some i => l.drop (i + 1)
  | none => l

/-- Send the replay buffer again in order (R278); a flit sent eight times puts the port in Retrain (R275). -/
def resend (s : State) (p : Nat) : State :=
  let x := s.port p
  if x.replay.any fun f => Nat.ble 8 f.sends then enterRetrain s p 1
  else
    let n := x.replay.length
    let y := { (x.count 0x4C n) with replay := x.replay.map fun f => { f with sends := f.sends + 1 },
                                     sums := modAt (· + n) x.sums 2 }
    x.replay.foldl (fun s f => sendFlit s p f.seq f.vc false f.sop f.body) (s.setPort p y)

/-- A flit is lost: nak once (R278). -/
def Port.gap (x : Port) : Port := { x with nakDue := x.nakDue || !x.rxDiscard, rxDiscard := true }

/-- The body of a good flit (R278, R280): accepted in order, discarded otherwise; none where the buffer is full. -/
def takeFlit (size now w : Nat) (body : List Byte) (x : Port) : Option Port :=
  let vc := field w 24 2
  if field w 0 12 ≠ (x.rxSeq + 1) % 4096 then some x.gap
  else if size ≤ (x.rxOf vc).occ then none
  else some (takeBody now vc (bitAt w 28) body { x with rxSeq := field w 0 12, rxDiscard := false })

/-- Answer after a flit: what is ready, or an idle flit that carries the acknowledgement. -/
def answerFlit (s : State) (p : Nat) : State :=
  if !(s.port p).live then s
  else
    let t := pump s p
    if (t.port p).txCount = (s.port p).txCount then sendIdle t p else t

/-- A flit begins a codeword (R276): ten flits, of which up to 16 wrong symbols are corrected, and none is delivered where there are more. -/
def Port.codeword (x : Port) (symbols : Nat) : Port :=
  if x.rxCount % 10 ≠ 0 then x
  else if 16 < symbols then { (x.count 0x44 1) with codeLost := true }
  else if symbols = 0 then { x with codeLost := false }
  else { (x.count 0x40 1) with codeLost := false, sums := modAt (· + 1) x.sums 0 }

/-- FLIT_RECEIVE (R276 to R280): `symbols` are wrong in the codeword that the flit begins. -/
def receiveFlit (s : State) (p : Nat) (symbols : Nat) (flit : List Byte) : State :=
  let x := s.port p
  if !(s.portExists p && x.live) then s
  else
    let cv := x.rxCount % 4
    let x := { x.codeword symbols with rxCount := x.rxCount + 1 }
    if x.codeLost || flit.length != 64 || crc32 (flit.take 60) != leAt flit 60 4 then
      answerFlit (s.setPort p { ((x.count 0x48 1).gap) with sums := modAt (· + 1) x.sums 1 }) p
    else
      let w := leAt flit 0 4
      let n := field w 29 3
      let t := x.txOf cv
      let x := { x with replay := ackReplay (field w 12 12) x.replay }
      if t.adv < t.credits + n then enterRetrain (s.setPort p x) p 3
      else
        let x := x.modTx cv fun v => { v with credits := v.credits + n }
        let again := x.resume || bitAt w 26
        let x := { x with resume := false }
        let y := if bitAt w 27 then some x else takeFlit (s.bufSize p (field w 24 2)) s.hub.tick w ((flit.drop 4).take 56) x
        match y with
        | none => enterRetrain (s.setPort p x) p 3
        | some y =>
          let s := s.setPort p y
          answerFlit (if again then resend s p else s) p

/-- Remove a received packet and free its buffers (R280). -/
def takeArrived (s : State) (p : Nat) (k : Packet) : State :=
  let x := s.port p
  match x.arrived.find? fun a => a.k == k with
  | some a =>
    let x := x.modRx a.vc fun v => { v with occ := v.occ - a.bodies, owed := v.owed + a.bodies }
    pump (s.setPort p { x with arrived := x.arrived.eraseP fun a => a.k == k }) p
  | none => s

/-- A port can have delivered a packet: Up, or Blocked with VC3 only. -/
def State.carries (s : State) (p : Nat) (k : Packet) : Bool :=
  s.portExists p && ((s.port p).up || ((s.port p).state == 6 && hVc k.h0 == 3) || (s.port p).arrived.any fun a => a.k == k)

/-- The packet is well formed: its header, and as many data bytes as len says. -/
def goodPacket (k : Packet) : Bool := (badReason k).isNone && hType k.h0 != 0 && k.data.length == 64 * hLen k.h0

/-- The guard of a packet row: of a type, for this module, well formed, from a live port. -/
def packetFor (s : State) (p : Nat) (k : Packet) (ty : Nat) : Bool :=
  hType k.h0 == ty && s.carries p k && goodPacket k && forHere s p k

end Sys2Proof.Machine
end

