-- ==== Sys2Proof/Machine/Bucket.lean ====
section
/-! DEFINITION. Gradient buckets: descriptors, the tree across modules, widening and narrowing, streams, failure, digests (spec/13_gradient_reduction.md R301 to R322); cross-module writes of cells as packets (spec/12_rinmen_fabric.md R284, R285). -/
namespace Sys2Proof.Machine

/-- A fabric descriptor (R301). -/
structure FabDesc where
  fmt : Nat
  mib : Nat
  startCue : Nat
  doneCue : Nat
  src : Nat
  dst : Nat
  srcScale : Nat
  dstScale : Nat
  tag : Byte
  parts : Nat
  zeros : Bool
  deriving DecidableEq, Repr

/-- The fabric descriptor at an offset of the image (R301). -/
def fabDescAt (img : List Byte) (o : Nat) : FabDesc :=
  let sh := imgAt img (o + 4) 4
  { fmt := field sh 0 2, mib := field sh 8 6 + 1, startCue := imgAt img (o + 8) 4 % 8192, doneCue := imgAt img (o + 0xC) 4 % 8192,
    src := imgAt img (o + 0x10) 8, dst := imgAt img (o + 0x18) 8, srcScale := imgAt img (o + 0x20) 8, dstScale := imgAt img (o + 0x28) 8,
    tag := BitVec.ofNat 8 (imgAt img (o + 0x30) 1), parts := imgAt img (o + 0x80) 512,
    zeros := allZero ((img.drop (o + 1)).take 3) && field sh 2 6 == 0 && field sh 14 18 == 0 && Nat.blt (imgAt img (o + 8) 4) 8192
      && Nat.blt (imgAt img (o + 0xC) 4) 8192 && allZero ((img.drop (o + 0x31)).take 0x4F)
      && (field sh 0 2 == 2 || (imgAt img (o + 0x20) 8 == 0 && imgAt img (o + 0x28) 8 == 0)) }

/-- The fabric descriptor of a bucket, if its index names one. -/
def fabDesc (img : List Byte) (b : Nat) : Option FabDesc :=
  match treeOff img b with
  | some o => if imgAt img o 1 = 3 then some (fabDescAt img o) else none
  | none => none

/-- Data units of a bucket. -/
def FabDesc.units (d : FabDesc) : Nat := d.mib * 2 ^ 14
/-- Element bytes of a bucket. -/
def FabDesc.bytes (d : FabDesc) : Nat := d.mib * 2 ^ 20
/-- Positions that take part, in ascending order. -/
def FabDesc.members (d : FabDesc) (modules : Nat) : List Nat := (List.range modules).filter fun j => bitAt d.parts j

/-! The tree (R306, R307). -/

/-- Largest power of two below n, for n of 2 or more. -/
def halfBelow (n : Nat) : Nat := 2 ^ Nat.log2 (n - 1)

/-- Leaves whose streams leaf `a` takes, in order, in the tree of `n` leaves from `lo`. -/
def treeKids (a : Nat) : Nat → Nat → Nat → List Nat
  | 0, _, _ => []
  | f + 1, lo, n =>
    if n ≤ 1 then []
    else
      let m := halfBelow n
      if a < lo + m then treeKids a f lo m ++ (if a = lo then [lo + m] else []) else treeKids a f (lo + m) (n - m)

/-- The leaf to which leaf `a` sends its sum; none for leaf 0. -/
def treeParent (a : Nat) : Nat → Nat → Nat → Option Nat
  | 0, _, _ => none
  | f + 1, lo, n =>
    if n ≤ 1 then none
    else
      let m := halfBelow n
      if a = lo + m then some lo else if a < lo + m then treeParent a f lo m else treeParent a f (lo + m) (n - m)

/-- Positions of the children of a position. -/
def kidPositions (ms : List Nat) (pos : Nat) : List Nat :=
  (treeKids (ms.findIdx (· == pos)) 16 0 ms.length).map fun i => ms.getD i 0

/-- Position of the parent of a position. -/
def parentPosition (ms : List Nat) (pos : Nat) : Option Nat :=
  (treeParent (ms.findIdx (· == pos)) 16 0 ms.length).map fun i => ms.getD i 0

/-! Widening, summing, narrowing (R308 to R310). -/

/-- A value to FP32 under R308: the largest finite value where it lies above, counted. -/
def widenF32 (v : Val) : Nat × Nat :=
  match v with
  | .nan => (canonNaN 0xA, 0)
  | .inf n => (fp32.infBits n, 0)
  | .fin x =>
    if x.num = 0 then (fp32.encode x.neg 0 0, 0)
    else
      let r := roundMag .rne fp32.mb fp32.emin x.num x.den x.ex
      if fp32.overflows r.1 r.2 then (fp32.maxBits x.neg, 1) else (fp32.encode x.neg r.1 r.2, 0)

/-- Element bytes and format code. -/
def bktFmt (fmt : Nat) : Nat × Nat := if fmt = 0 then (4, 0xA) else if fmt = 1 then (2, 8) else (1, 7)

/-- widen (R308): FP32 values, and the saturations. -/
def bktWiden (fmt : Nat) (d : BktData) : List Nat × Nat :=
  if fmt = 0 then ((chunks 4 d.1).map leNat, 0)
  else if fmt = 1 then ((chunks 2 d.1).map fun b => 2 ^ 16 * leNat b, 0)
  else
    let r := (List.zip (chunks 32 d.1) d.2).flatMap fun g => g.1.map fun b => widenF32 (scaleMul (decodeElem 7 b.toNat) (scaleVal 0 g.2.toNat))
    (r.map (·.1), (r.map (·.2)).sum)

/-- Narrow one group to E5M2 (R309): elements, scale, saturations. -/
def narrowGroup (xs : List Nat) : List Byte × Byte × Nat :=
  let vs := xs.map (decodeFlt fp32)
  let a := amaxOf (xs.map (decodeFlt fp32))
  let sc := scaleFromPresent 0 7 0 a
  let cs := vs.map fun v => (match scaleVal 0 sc, v with
    | .pos k e, .fin x => convTo 7 0 .rne (.fin (qDiv x ⟨false, k, 1, e⟩))
    | _, w => convTo 7 0 .rne w)
  (cs.map fun c => BitVec.ofNat 8 c.bits, if vs.all Val.isFin then BitVec.ofNat 8 sc else 0xFF, (cs.map fun c => b2n c.sat).sum)

/-- narrow (R309), and the saturations. -/
def bktNarrow (fmt : Nat) (xs : List Nat) : BktData × Nat :=
  if fmt = 0 then ((xs.flatMap (leBytes 4), []), 0)
  else if fmt = 1 then
    let cs := xs.map fun x => convTo 8 0 .rne (decodeFlt fp32 x)
    ((cs.flatMap fun c => leBytes 2 c.bits, []), (cs.map fun c => b2n c.sat).sum)
  else
    let gs := (chunks 32 xs).map narrowGroup
    ((gs.flatMap (·.1), gs.map (·.2.1)), (gs.map (·.2.2)).sum)

/-- Indices of the non-finite elements (R310). -/
def nonfinites (fmt : Nat) (d : BktData) : List Nat :=
  let w := bktFmt fmt
  let es := (chunks w.1 d.1).map fun b => (decodeElem w.2 (leNat b)).isFin
  (List.range es.length).filter fun i => !es.getD i true || (fmt == 2 && d.2.getD (i / 32) 0 == 0xFF)

/-- x of R306 over the streams in order: FP32 sums, and the saturations of the widening. -/
def sumStreams (fmt : Nat) (own : BktData) (kids : List BktData) : List Nat × Nat :=
  kids.foldl (fun acc k =>
    let w := bktWiden fmt k
    (List.zipWith f32Add acc.1 w.1, acc.2 + w.2)) (bktWiden fmt own)

/-! Streams as units (R312, R313). -/

/-- The units of a tensor. -/
def unitsOf (fmt : Nat) (d : BktData) : List BktUnit :=
  if fmt = 2 then List.zip (chunks 64 d.1) (chunks 2 d.2) else (chunks 64 d.1).map fun b => (b, [])

/-- The tensor of units in order. -/
def unitsData (us : List BktUnit) : BktData := (us.flatMap (·.1), us.flatMap (·.2))

/-- The digest of a stream (R318). -/
def digestOf (d : BktData) : Nat := crc64 (d.1 ++ d.2)

/-- The units that a packet carries, from its first (R313). -/
def packetUnits (fmt : Nat) (k : Packet) : List BktUnit :=
  if fmt = 2 then
    let n := hLen k.h0 - ceilDiv (hLen k.h0) 33
    let sc := 64 * ceilDiv n 32
    List.zip (chunks 64 (k.data.drop sc)) (chunks 2 (k.data.take (2 * n)))
  else (chunks 64 k.data).map fun b => (b, [])

/-- Bucket identifier of a REDUCE or BCAST (R312). -/
def pktBucket (k : Packet) : Nat := field k.h1.toNat 0 12
/-- Instance number. -/
def pktInst (k : Packet) : Nat := field k.h1.toNat 16 16
/-- Offset of the first data unit. -/
def pktOffset (k : Packet) : Nat := field k.h2.toNat 0 20
/-- Sender's module position. -/
def pktSender (k : Packet) : Nat := field k.h2.toNat 32 12
/-- Element format. -/
def pktFmt (k : Packet) : Nat := field k.h2.toNat 48 2

/-- Data bytes of a packet of units (R313). -/
def unitBytes (fmt : Nat) (us : List BktUnit) : List Byte :=
  if fmt = 2 then padTo 64 (us.flatMap (·.2)) ++ us.flatMap (·.1) else us.flatMap (·.1)

/-- A REDUCE (type 4) or BCAST (type 5) of units (R312). -/
def bktPacket (ty own dst cell fmt : Nat) (i : BktInst) (pos off : Nat) (us : List BktUnit) : Packet :=
  let data := unitBytes fmt us
  ⟨mkH0 ty 1 (data.length / 64) dst own cell false, BitVec.ofNat 64 (i.bucket + 2 ^ 16 * i.num + 2 ^ 32 * i.job.toNat),
   BitVec.ofNat 64 (off + 2 ^ 32 * pos + 2 ^ 48 * fmt), data⟩

/-- The offsets and units of the packets that a stream is cut into (R313). -/
def cutUnits (fmt : Nat) (us : List BktUnit) : List (Nat × List BktUnit) :=
  let n := if fmt = 2 then 62 else 64
  let cs := chunks n us
  List.zip ((List.range cs.length).map (n * ·)) cs

/-! Instances. -/

/-- Change the combine units. -/
def State.modBkt (s : State) (f : Buckets → Buckets) : State := s.modHub fun h => { h with bkt := f h.bkt }

/-- An outstanding instance. -/
def State.inst (s : State) (job : Word) (b n : Nat) : Option BktInst :=
  s.hub.bkt.insts.find? fun i => i.job == job && i.bucket == b && i.num == n

/-- Change an instance. -/
def State.modInst (s : State) (i : BktInst) (f : BktInst → BktInst) : State :=
  s.modBkt fun b => { b with insts := b.insts.map fun x => if x.job = i.job ∧ x.bucket = i.bucket ∧ x.num = i.num then f x else x }

/-- Remove an instance. -/
def State.dropInst (s : State) (i : BktInst) : State :=
  s.modBkt fun b => { b with insts := b.insts.filter fun x => !(x.job == i.job && x.bucket == i.bucket && x.num == i.num) }

/-- Logical ports of edge regions, as they stand (R303). -/
def State.edgePorts (s : State) (regions : BitVec 16) : List Nat :=
  (List.range 48).filter fun p => s.portExists p && regions.getLsbD (portRegion p)

/-- Home combine unit of a bucket of a job (R303). -/
def Job.home (j : Job) (b : Nat) : Nat := j.homePorts.getD (b % max 1 j.homePorts.length) 0

/-- The source that packets of a home unit name: a cell number of its region. -/
def homeCell (j : Job) (b : Nat) : Nat := portRegion (j.home b) * 150 * 128

/-- Detail of bucket records: job, bucket, instance (R322); a record with a header names them by the header's bytes 8 to 15. -/
def bktDetail (job : Word) (b n : Nat) (more : List Byte) : List Byte := leBytes 4 job.toNat ++ leBytes 2 b ++ leBytes 2 n ++ more

/-- A record of the buckets. -/
def State.bktRec (s : State) (cls : Nat) (job : Word) (b n : Nat) (more : List Byte) : Rec :=
  s.unitRec 4 cls none none (bktDetail job b n more)

/-- A fault of a job falls due (R261). -/
def dueJob (s : State) (job : Word) (c : Rec) : State :=
  s.modJob job fun j => { j with faultDue := j.faultDue.or (if j.faulted then none else some c) }

/-- Count on an RC counter of the buckets (R321). -/
def Buckets.count (b : Buckets) (reg n : Nat) : Buckets := { b with cnt := bump b.cnt reg n }

/-- Units that have come, as a tensor in order of offset. -/
def cameData (m : SMap BktUnit) : BktData := unitsData (m.map (·.2))

/-- Indices in the bucket of the non-finite elements of the units that have come (R310). -/
def cameNonfinites (fmt : Nat) (m : SMap BktUnit) : List Nat := m.flatMap fun e => (nonfinites fmt e.2).map (64 / (bktFmt fmt).1 * e.1 + ·)

/-- A digest entry (R319). -/
def digestEntry (s : State) (j : Job) (d : FabDesc) (i : BktInst) (failed : Bool) : List Byte :=
  let ms := d.members (bookModules j.img)
  let res := i.result.getD (cameData i.got)
  let nf := match i.result with | some r => nonfinites d.fmt r | none => cameNonfinites d.fmt i.got
  let optD := fun (x : Option BktData) => (match x with | some v => digestOf v | none => 0)
  leBytes 8 (s.jobTick j) ++ leBytes 4 i.job.toNat ++ leBytes 4 (i.bucket + 2 ^ 12 * b2n failed + 2 ^ 16 * i.num)
    ++ leBytes 8 (optD i.contrib) ++ leBytes 8 (optD i.up) ++ leBytes 8 ((i.kids.map fun k => digestOf (cameData k.2)).foldl nxor 0)
    ++ leBytes 8 (digestOf res) ++ leBytes 4 nf.length ++ leBytes 4 (nf.headD 0xFFFFFFFF)
    ++ leBytes 4 ((match i.contrib with | some c => nonfinites d.fmt c | none => []).length)
    ++ leBytes 4 ((parentPosition ms j.pos).getD 0xFFF + 2 ^ 12 * i.kids.length + 2 ^ 16 * min i.sat 0xFFFF)

/-- Write a digest entry at the head (R319). -/
def Buckets.addEntry (b : Buckets) (e : List Byte) : Buckets :=
  { b with log := mapPut b.log b.head.toNat e, head := b.head + 1, wrapped := b.wrapped || b.head == 4095 }

/-- An instance fails on this module (R316): digest with status 1, class 0x0530 with the cause. -/
def failInst (s : State) (i : BktInst) (cause : Nat) : State :=
  let s := match s.job i.job with
    | some j => (match fabDesc j.img i.bucket with
      | some d => s.modBkt fun b => b.addEntry (digestEntry s j d i true)
      | none => s)
    | none => s
  ((s.dropInst i).modBkt fun b => { b.count 0x8048 1 with failed := true }).log (s.bktRec 0x0530 i.job i.bucket i.num (leBytes 2 cause))

/-- An instance fails of its own, and its job faults (R316). -/
def failOwn (s : State) (i : BktInst) (cause : Nat) : State :=
  dueJob (failInst s i cause) i.job (s.bktRec cause i.job i.bucket i.num [])

/-- Every outstanding instance of a job fails with the job (R261, R316). -/
def bucketDrop (s : State) (job : Word) (cause : Nat) : State :=
  (s.hub.bkt.insts.filter fun i => i.job == job).foldl (fun s i => failInst s i cause) s

/-- Write result units at their places (R307): the descriptor's tag, no poison. -/
def writeUnits (s : State) (d : FabDesc) (off : Nat) (us : List BktUnit) : State :=
  { s with hbm := ((List.range us.length).foldl (fun h i => h.write (d.dst + 64 * (off + i)) ((us.getD i ([], [])).1) (some d.tag) false) s.hbm) }

/-- Write the scales of a whole result (R307). -/
def writeScales (s : State) (d : FabDesc) (sc : List Byte) : State :=
  let cs := chunks 64 sc
  { s with hbm := ((List.range cs.length).foldl (fun h i => h.write (d.dstScale + 64 * i) (cs.getD i []) (some d.tag) false) s.hbm) }

/-- Send units to positions, packet by packet. -/
def sendUnits (s : State) (j : Job) (d : FabDesc) (i : BktInst) (ty : Nat) (tos : List Nat) (us : List BktUnit) (off : Nat) : State :=
  (cutUnits d.fmt us).foldl (fun s c =>
    tos.foldl (fun s t => inject s (bktPacket ty s.hub.fab.moduleId.toNat (bookIdent j.img t) (homeCell j i.bucket) d.fmt i j.pos (off + c.1) c.2) none) s) s

/-- All streams of an instance have come. -/
def BktInst.ready (i : BktInst) (d : FabDesc) : Bool := i.up.isNone && i.contrib.isSome && i.kids.all fun k => k.2.length == d.units

/-- The sum of an instance, once everything has come (R306): sent to the parent, or written and broadcast by leaf 0. -/
def progress (s : State) (j : Job) (d : FabDesc) (job : Word) (b n : Nat) : State :=
  match s.inst job b n with
  | none => s
  | some i =>
    if !i.ready d then s
    else
      let own := i.contrib.getD ([], [])
      let r : BktData × Nat :=
        if i.kids.isEmpty then (own, 0)
        else
          let x := sumStreams d.fmt own (i.kids.map fun k => cameData k.2)
          let y := bktNarrow d.fmt x.1
          (y.1, x.2 + y.2)
      let ms := d.members (bookModules j.img)
      let i' := { i with up := some r.1, sat := i.sat + r.2 }
      let s := (s.modInst i fun _ => i').modBkt fun x => { x.count 0x804C r.2 with sats := if r.2 = 0 then x.sats else x.sats ++ [(job, b, n, r.2)] }
      match parentPosition ms j.pos with
      | some p => sendUnits s j d i' 4 [p] (unitsOf d.fmt r.1) 0
      | none =>
        let s := s.modInst i fun _ => { i' with result := some r.1 }
        let s := writeScales (writeUnits s d 0 (unitsOf d.fmt r.1)) d r.1.2
        sendUnits s j d i' 5 (kidPositions ms j.pos) (unitsOf d.fmt r.1) 0

/-- The reason for which a REDUCE or BCAST is malformed against its descriptor (R314): 1 format, 2 past the end, 3 sender, 4 a unit a second time. -/
def bktBad (j : Job) (d : FabDesc) (i : BktInst) (k : Packet) : Option Nat :=
  let us := packetUnits d.fmt k
  let off := pktOffset k
  let ms := d.members (bookModules j.img)
  let have_ := if hType k.h0 = 4 then ((i.kids.find? fun x => x.1 == pktSender k).map (·.2)).getD [] else i.got
  if pktFmt k ≠ d.fmt then some 1
  else if d.units < off + us.length then some 2
  else if (if hType k.h0 = 4 then !(i.kids.any fun x => x.1 == pktSender k) else parentPosition ms j.pos != some (pktSender k)) then some 3
  else if (List.range us.length).any fun t => have_.any fun h => h.1 == off + t then some 4
  else none

/-- Add units to a stream. -/
def addUnits (m : SMap BktUnit) (off : Nat) (us : List BktUnit) : SMap BktUnit :=
  (List.range us.length).foldl (fun m t => mapPut m (off + t) (us.getD t ([], []))) m

/-- A malformed bucket packet (R314, R316, R322). -/
def badBucketPacket (s : State) (job : Word) (b n reason : Nat) (k : Packet) : State :=
  let c := s.unitRec 4 0x0532 none none (BitVec.ofNat 8 reason :: pktHeader k)
  let s := dueJob ((s.modBkt fun x => { x with malformed := true }).log c) job c
  match s.inst job b n with
  | some i => failInst s i 0x0532
  | none => s

/-- Take a REDUCE or BCAST into its instance (R306, R307, R314). Poison fails the instance and enters nothing (R311, R316, R419). -/
def takeBucketPacket (s : State) (j : Job) (d : FabDesc) (i : BktInst) (k : Packet) : State :=
  match bktBad j d i k with
  | some r => badBucketPacket s i.job i.bucket i.num r k
  | none =>
    if hPoison k.h0 then failOwn s i 0x0530
    else
    let us := packetUnits d.fmt k
    let off := pktOffset k
    if hType k.h0 = 4 then
      progress (s.modInst i fun i => { i with kids := i.kids.map fun x => if x.1 = pktSender k then (x.1, addUnits x.2 off us) else x }) j d i.job i.bucket i.num
    else
      let ms := d.members (bookModules j.img)
      let got := addUnits i.got off us
      let whole := decide (got.length = d.units)
      let i' := { i with got := got, result := if whole then some (cameData got) else none }
      let s := writeUnits (s.modInst i fun _ => i') d off us
      let s := if whole then writeScales s d (cameData got).2 else s
      sendUnits s j d i' 5 (kidPositions ms j.pos) us off

/-- A packet names an instance that has started before and is over: its number lies behind the bucket's count (R304). -/
def startedBefore (j : Job) (b n : Nat) : Bool :=
  let next := mapGet 0 j.nextInst b
  Nat.blt 0 next && Nat.blt ((next - 1 + 65536 - n) % 65536) (min next 32768)

/-- Bytes that a combine unit's early store holds. -/
def earlyBytes (b : Buckets) (unit : Nat) : Nat := ((b.early.filter fun e => e.unit == unit).map fun e => e.k.data.length).sum

/-- Hold a packet in the early store of a combine unit (R315). False where the store is full. -/
def holdEarly (s : State) (p unit : Nat) (k : Packet) : State × Bool :=
  if 2 ^ 21 < earlyBytes s.hub.bkt unit + k.data.length then (s, false)
  else (s.modBkt fun x => { x.count 0x8054 1 with early := x.early ++ [⟨k, p, unit, 0⟩] }, true)

/-- A packet that names an instance which is over (R314, R316): one that completed has had every unit, so a unit comes a second time;
one that failed takes nothing more. A job whose fault is due or taken has failed its instances. DESIGN CHOICE (log entry 73). -/
def latePacket (s : State) (j : Job) (k : Packet) : State :=
  if j.faulted || j.faultDue.isSome then s else badBucketPacket s j.id (pktBucket k) (pktInst k) 4 k

/-- The home unit takes a REDUCE or BCAST of a job, or holds it (R314, R315). -/
def homeTake (s : State) (p : Nat) (j : Job) (k : Packet) : State × Bool :=
  match s.inst j.id (pktBucket k) (pktInst k), fabDesc j.img (pktBucket k) with
  | some i, some d => (takeBucketPacket s j d i k, true)
  | _, _ => if startedBefore j (pktBucket k) (pktInst k) then (latePacket s j k, true) else holdEarly s p (j.home (pktBucket k)) k

/-- A REDUCE or BCAST reaches its home unit (R314, R315), but for a change hold, in which it waits at its port (R265, R315). False where it waits. -/
def bucketArrive (s : State) (p : Nat) (k : Packet) : State × Bool :=
  match s.job (pktJob k) with
  | none => holdEarly s p p k
  | some j => if j.chg.isSome then (s, false) else homeTake s p j k

/-- The home unit takes a packet that the early store held (R315). -/
def takeHeld (s : State) (e : Early) : State :=
  match s.job (pktJob e.k) with
  | some j => (homeTake s e.port j e.k).1
  | none => s

/-- Packets of the early store that an instance claims as it starts (R315). They are in the home unit, so a change hold does not keep them. -/
def claimEarly (s : State) (job : Word) (b n : Nat) : State :=
  let mine := fun (e : Early) => pktJob e.k == job && pktBucket e.k == b && pktInst e.k == n
  (s.hub.bkt.early.filter mine).foldl takeHeld (s.modBkt fun x => { x with early := x.early.filter fun e => !mine e })

/-- Start one instance of a bucket (R304, R305). -/
def startInst (s : State) (j : Job) (b : Nat) (d : FabDesc) : State :=
  let n := mapGet 0 j.nextInst b % 65536
  let i : BktInst := ⟨j.id, b, n, none, (kidPositions (d.members (bookModules j.img)) j.pos).map fun k => (k, []), none, [], none, 0⟩
  let open_ := (s.hub.bkt.insts.filter fun x => x.job == j.id).length
  let s := (s.modJob j.id fun j => { j with nextInst := mapPut j.nextInst b (mapGet 0 j.nextInst b + 1) }).modBkt fun x => { x.count 0x8040 1 with insts := x.insts ++ [i] }
  if 16 ≤ open_ then
    failOwn ((s.modBkt fun x => { x with limit := true }).log (s.bktRec 0x0534 j.id b n [])) i 0x0534
  else claimEarly s j.id b n

/-- A bucket cue fires (R304): one instance of every descriptor that names it, in ascending identifier. -/
def bucketStart (s : State) (r cue : Nat) : State :=
  match s.jobOf r with
  | none => s
  | some j =>
    if j.faulted then s else
    (List.range (imgAt j.img (secOff j.img 7) 4)).foldl (fun s b =>
      match s.job j.id, fabDesc j.img b with
      | some j, some d => if d.startCue = cue ∧ bitAt d.parts j.pos = true ∧ secLen j.img 7 ≠ 0 then startInst s j b d else s
      | _, _ => s) s

/-- The home unit has read a contribution (R306, R310, R311). -/
def contribRead (s : State) (job : Word) (b n : Nat) : State :=
  match s.job job, s.inst job b n with
  | some j, some i =>
    match fabDesc j.img b with
    | none => s
    | some d =>
      if i.contrib.isSome then s
      else
        let s := s.checkHbm d.src d.bytes
        let s := if d.fmt = 2 then s.checkHbm d.srcScale (d.bytes / 32) else s
        let scs := if d.fmt = 2 then memRead s.hbm.mem d.srcScale (d.bytes / 32) else []
        let bad := (s.hbm.poison.any fun e => e.2 != 0 && Nat.ble (d.src / 64) e.1 && Nat.blt e.1 (d.src / 64 + d.units))
          || (d.fmt == 2 && s.hbm.poison.any fun e => e.2 != 0 && Nat.ble (d.srcScale / 64) e.1 && Nat.blt (64 * e.1) (d.srcScale + d.bytes / 32))
        if bad then failOwn s i 0x0530
        else progress (s.modInst i fun i => { i with contrib := some (memRead s.hbm.mem d.src d.bytes, scs) }) j d job b n
  | _, _ => s

/-- Everything of a visible result but the cue (R307, R310, R319): the counts, the record, the digest entry. None while the result is not whole. -/
def resultVisible (s : State) (job : Word) (b n : Nat) : Option (State × Nat) :=
  match s.job job, s.inst job b n with
  | some j, some i =>
    match fabDesc j.img b, i.result with
    | some d, some r =>
      if i.contrib.isNone then none
      else
        let nf := nonfinites d.fmt r
        let s' := (s.modBkt fun x => (x.addEntry (digestEntry s j d i false)).count 0x8044 1).dropInst i
        let s' := s'.modBkt fun x => x.count 0x8050 nf.length
        let s' := if nf.isEmpty then s' else s'.log (s'.bktRec 0x0533 job b n (leBytes 4 nf.length ++ leBytes 4 (nf.headD 0)))
        some (s', d.doneCue)
    | _, _ => none
  | _, _ => none

/-- A packet that the early store has held for 100,000 ticks that count (R315). -/
def Early.expired (e : Early) (k : Packet) : Bool := e.k == k && Nat.ble 100000 e.age

/-- An early packet is dropped once its time is over (R315). -/
def earlyTimeout (s : State) (k : Packet) : State :=
  if !(s.hub.bkt.early.any fun e => e.expired k) then s
  else
    let c := s.unitRec 4 0x0531 none none (pktHeader k)
    let s := (s.modBkt fun x => { x with early := x.early.eraseP fun e => e.expired k, earlyDrop := true }).log c
    match s.job (pktJob k) with
    | some _ => dueJob s (pktJob k) c
    | none => s

/-! Load checks (R302). -/

/-- A range lies inside one extent of the HBM layout. -/
def inExtent (img : List Byte) (a n : Nat) : Bool :=
  (bookExtents img).any fun e => e.1 == hbmRgn a && Nat.ble e.2.1 a && Nat.ble (a + n) (e.2.1 + e.2.2.1)

/-- Reserved fields and encodings of a level-3 descriptor (R9, R301), on a module that it names: any other ignores it (R302). -/
def fabZeros (img : List Byte) (pos : Option Nat) (o : Nat) : Bool :=
  let d := fabDescAt img o
  match pos with
  | some p => !bitAt d.parts p || (d.zeros && d.fmt != 3)
  | none => true

/-- A descriptor of level 3 may be loaded on this module (R302); one that does not name it is ignored. -/
def fabOk (s : State) (img : List Byte) (pos : Nat) (regions : BitVec 16) (hbmOk : Nat → Nat → Bool) (o : Nat) : Bool :=
  let d := fabDescAt img o
  let rng := fun (a n al : Nat) => a % al == 0 && hbmOk a n && inExtent img a n
  let action := fun (c : Nat) => ((bookCues img).find? fun x => x.cue == c).map (·.action)
  let mine := fun (c : Nat) => Nat.ble 128 c && regions.getLsbD (c / 512)
  !bitAt d.parts pos || (Nat.blt d.parts (2 ^ bookModules img) &&
      (rng d.src d.bytes 4096 && rng d.dst d.bytes 4096 && (d.src == d.dst || apart d.src d.bytes d.dst d.bytes)
        && (d.fmt != 2 || (rng d.srcScale (d.bytes / 32) 64 && rng d.dstScale (d.bytes / 32) 64
          && (d.srcScale == d.dstScale || apart d.srcScale (d.bytes / 32) d.dstScale (d.bytes / 32))))
        && action d.startCue == some 2 && mine d.startCue && mine d.doneCue && !(s.edgePorts regions).isEmpty))

/-! What cells send to other modules (R159, R284, R285). -/

/-- A CUE packet of a cell (R159, R284). -/
def sendCuePacket (s : State) (k : Nat) (m : BitVec 12) (cue : Nat) (n : Word) : State :=
  let job := ((s.rgn (cellRgn k)).owner.getD 0).toNat
  inject s ⟨mkH0 3 2 0 m.toNat s.hub.fab.moduleId.toNat k false, BitVec.ofNat 64 (cue + 2 ^ 32 * n.toNat), BitVec.ofNat 64 job, []⟩ none

/-- A WRITE or ACCW packet of a cell (R284): the slots of one packet in address order. -/
def sendWrites (s : State) (dst : Nat) (ws : List RemoteWrite) : State :=
  match ws with
  | [] => s
  | w :: _ =>
    let data := ws.flatMap (·.data)
    let ty := match w.acc with | none => 1 | some _ => 2
    let b15 := (match w.ctr with | some c => 1 + 2 * c.toNat | none => 0) + 2 ^ 5 * (w.acc.getD 0).toNat
    inject s ⟨mkH0 ty 0 ws.length dst s.hub.fab.moduleId.toNat w.src (ws.any (·.poison)),
      BitVec.ofNat 64 (w.addr + 2 ^ 48 * w.tag.toNat + 2 ^ 56 * b15), BitVec.ofNat 64 (w.countCell.getD 0), data⟩ (some (w.src, w.seq))

end Sys2Proof.Machine
end

