-- ==== Sys2Proof/Machine/Time.lean ====
section
/-! DEFINITION. Ticks that pass: counters of the hub and of every region, the waits that R208 and R315 count in ticks, starved flit times, pauses, and the end of Releasing (spec/11_prompt_books_epochs.md R252, R262; spec/09_scratchpad_hbm.md R208; spec/13_gradient_reduction.md R315; spec/12_rinmen_fabric.md R280; spec/18_faults_fencing.md R424). -/
namespace Sys2Proof.Machine

/-- The wait of a blocked access grows by `n` ticks. -/
def TagBlock.older (n : Nat) (b : TagBlock) : TagBlock := { b with age := b.age + n }
/-- The wait of an instruction grows by `n` ticks. -/
def Run.older (n : Nat) (r : Run) : Run := { r with blocked := r.blocked.map (TagBlock.older n), idle := r.idle + n }

/-- The waits of a cell grow by `n` ticks (R208). -/
def Cell.older (n : Nat) (c : Cell) : Cell :=
  let u := c.units
  { c with
    units := { u with comp := u.comp.map (Run.older n), wload := u.wload.map (Run.older n), acc := u.acc.map (Run.older n), vec := u.vec.map (Run.older n),
                      mem := u.mem.map (Run.older n), outst := u.outst.map fun o => { o with block := o.block.map fun b => (b.1, b.2.older n) },
                      port := u.port.map fun h => { h with block := h.block.older n } },
    seq := { c.seq with wait := match c.seq.wait with | some (.ctr i k a) => some (.ctr i k (a + n)) | w => w } }

/-- Of the `n` tick boundaries after tick t, those that lie in a hold interval of the job (R262). -/
def Job.heldTicks (j : Job) (t n : Nat) : Nat :=
  if !j.begun then 0
  else if j.chg.isSome then n
  else min (t + n) j.boundary - max t j.deadline

/-- Of the next `n` tick boundaries of a region, those at which its waits advance (R208, R262). -/
def State.waitTicks (s : State) (r n : Nat) : Nat :=
  match s.jobOf r with
  | some j => n - j.heldTicks (s.rgn r).tick n
  | none => n

/-- Waits of cells that are not debug-halted advance over `n` ticks, but for those in holds (R208). -/
def agesPass (n : Nat) (s : State) : State :=
  { s with cells := s.cells.map fun c => if c.2.seq.dbgHalt then c else (c.1, c.2.older (s.waitTicks (cellRgn c.1) n)) }

/-- An early packet of a job ages over `n` ticks, but for those in holds (R315). -/
def Early.older (s : State) (n : Nat) (e : Early) : Early :=
  match s.job (pktJob e.k) with
  | some j => { e with age := e.age + (n - j.heldTicks (s.jobTick j) n) }
  | none => { e with age := e.age + n }

/-- Packets of the early store age (R315). -/
def earlyPass (n : Nat) (s : State) : State := s.modBkt fun b => { b with early := b.early.map (Early.older s n) }

/-- Tick counters: the hub's and every region's (R252, R410). -/
def countPass (n : Nat) (s : State) : State :=
  (List.range 16).foldl (fun s r => s.modRgn r fun g => { g with tick := (g.tick + n) % 2 ^ 64 }) (s.modHub fun h => { h with tick := (h.tick + n) % 2 ^ 64 })

/-- Pauses run down: a period of FCLK is 125 quarters of a quantum (R323). -/
def pausePass (n : Nat) (s : State) : State := s.modHub fun h => { h with eth := { h.eth with pause := h.eth.pause.map fun p => p - 125 * n } }

/-- Flit times of a port in the `n` ticks after tick t (R276): 421.6 GB/s are 527 flits in 8 ticks, half as many on a half-port. -/
def flitTimes (half : Bool) (t n : Nat) : Nat :=
  let d := if half then 16 else 8
  527 * (t + n) / d - 527 * t / d

/-- Flit times in which a channel has a body ready and no credit (R280, R299). -/
def creditPass (n : Nat) (s : State) : State :=
  ((s.hub.fab.ports.map (·.1)).filter fun p => s.portExists p && (s.port p).live && creditStarved (heldOut s) (s.port p)).foldl (fun s p =>
    s.modPort p fun x => x.count 0x58 (flitTimes (s.isSplit p) s.hub.tick n)) s

/-- A released region has left Releasing at the next tick (R424): what R424 does in order is done. DESIGN CHOICE (log entry 70). -/
def releasePass (s : State) : State :=
  ((List.range 16).filter fun r => (s.rgn r).state == 6).foldl (fun s r => s.modRgn r fun g => { g with state := 2 }) s

/-- `n` ticks pass everywhere. -/
def State.passTicks (s : State) (n : Nat) : State :=
  if n = 0 then s else releasePass (pausePass n (countPass n (creditPass n (earlyPass n (agesPass n s)))))

/-- Ticks pass until a job's tick is t, where it is earlier: a command that happens at a tick of the job finds the counters there (log entry 1). -/
def State.jobTickTo (s : State) (j : Job) (t : Nat) : State := s.passTicks (t - s.jobTick j)

end Sys2Proof.Machine
end

