-- ==== Sys2Proof/Machine/Events.lean ====
section
/-! DEFINITION. What the hub sends on queue pairs: message headers, sends, events (spec/15_pyerly_mailboxes.md R345, R351, R359; spec/14_ethernet_port.md R328, R331; spec/17_power_thermal.md R405). -/
namespace Sys2Proof.Machine

/-- A message header (R345). -/
def msgHeader (flags code status seq session len epoch job : Nat) : List Byte :=
  leBytes 2 0x4D42 ++ [1] ++ leBytes 1 flags ++ leBytes 2 code ++ leBytes 2 status ++ leBytes 4 seq ++ leBytes 4 session ++ leBytes 4 len ++ leBytes 4 0
    ++ leBytes 8 epoch ++ leBytes 4 job ++ leBytes 12 0

/-- A queue pair by its index. -/
def State.qp (s : State) (q : Nat) : Qp := mapGet Qp.reset s.hub.eth.qps q
/-- Change the Ethernet port. -/
def State.modEth (s : State) (f : Eth → Eth) : State := s.modHub fun h => { h with eth := f h.eth }
/-- Change a queue pair. -/
def State.modQp (s : State) (q : Nat) (f : Qp → Qp) : State := s.modEth fun e => { e with qps := mapPut e.qps q (f (mapGet Qp.reset e.qps q)) }
/-- Change mailboxes and sessions. -/
def State.modMail (s : State) (f : Mail → Mail) : State := s.modHub fun h => { h with mail := f h.mail }
/-- Change power control. -/
def State.modPwr (s : State) (f : Power → Power) : State := s.modHub fun h => { h with pwr := f h.pwr }

/-- The marks of a RoCEv2 packet that answers or follows a tag (R323, R326, R328): the tag's VLAN with the PCP of ETH_QOS, DSCP or cnp_dscp, ECT(0), ICRC. -/
def Eth.mark (e : Eth) (tag : VlanTag) (cnp : Bool) : RoceMark :=
  let pcp := e.qos.extractLsb' 0 3
  ⟨tag.map fun t => pcp ++ t.extractLsb' 0 13, pcp, e.qos.extractLsb' (if cnp then 9 else 3) 6, true, true⟩

/-- A RoCEv2 packet leaves on a queue pair. -/
def State.emitQp (s : State) (q : Nat) (o : RdmaOut) : State := s.emit (.rdma q (s.hub.eth.mark (s.qp q).tag (o == .cnp)) o)

/-- Energy of packets on a queue pair (R405): 20 pJ a payload byte and 5 nJ a packet. -/
def State.qpEnergy (s : State) (q bytes packets : Nat) : State :=
  s.modPwr fun p => { p with qp := mapPut p.qp q ((mapGet 0 p.qp q + 20 * bytes + 5000 * packets) % 2 ^ 64) }

/-- SEND Only on a queue pair; it stays unacknowledged until the partner answers (R328, R331). -/
def sendOn (s : State) (q : Nat) (bytes : List Byte) : State :=
  let x := s.qp q
  if x.state != .connected then s
  else
    ((s.modQp q fun x => { x with txPsn := x.txPsn + 1, unacked := x.unacked ++ [(x.txPsn, bytes)] }).qpEnergy q bytes.length 1).emitQp q
      (.send x.txPsn bytes)

/-! Events (R359). -/

/-- A session by number. -/
def State.session (s : State) (n : Word) : Option Session := s.hub.mail.sessions.find? fun x => x.num == n
/-- Change a session. -/
def State.modSession (s : State) (n : Word) (f : Session → Session) : State :=
  s.modMail fun m => { m with sessions := m.sessions.map fun x => if x.num = n then f x else x }

/-- The connected event queue pair of a session (R329). -/
def State.eventQp (s : State) (n : Word) : Option Nat :=
  (List.range 64).find? fun q => (s.qp q).state == .connected && (s.qp q).kind == .event && (s.qp q).session == n

/-- Send the oldest event that waits, if nothing is pending on the event queue pair; it waits until its acknowledgement. -/
def pumpEvents (s : State) (n : Word) : State :=
  match s.session n, s.eventQp n with
  | some x, some q =>
    match x.events with
    | [] => s
    | e :: _ =>
      if !(s.qp q).unacked.isEmpty then s
      else sendOn s q (msgHeader 2 e.code.toNat (min x.dropped 0xFFFF) x.count.toNat n.toNat e.payload.length 0 e.job.toNat ++ e.payload)
  | _, _ => s

/-- The event that was sent has been delivered: it leaves the queue, and the next one follows. -/
def eventDelivered (s : State) (n : Word) : State :=
  pumpEvents (s.modSession n fun x => { x with events := x.events.drop 1, count := x.count + 1, dropped := 0 }) n

/-- Events that wait for the jobs of a session that has closed. -/
def closedWaiting (s : State) (n : Word) : Nat := ((s.jobs.filter fun j => j.session == n).map fun j => j.events.length).sum

/-- Queue an event of a session (R359); class 0x0613 once for each burst of drops. -/
def queueEvent (s : State) (n : Word) (e : Event) : State :=
  match s.session n with
  | some x =>
    if 256 ≤ x.events.length then
      let s' := s.modSession n fun x => { x with dropped := x.dropped + 1, burst := true }
      if x.burst then s' else s'.logHub 0x0613 (leBytes 4 n.toNat ++ leBytes 4 1)
    else pumpEvents (s.modSession n fun x => { x with events := x.events ++ [e], burst := false }) n
  | none => s

/-- Queue an event about a job, for its session or, while that is closed, for the session that claims it (R351, R359). -/
def jobEvent (s : State) (id : Word) (code : Nat) (payload : List Byte) : State :=
  match s.job id with
  | none => s
  | some j =>
    let e : Event := ⟨BitVec.ofNat 16 code, id, payload⟩
    if (s.session j.session).isSome then queueEvent s j.session e
    else if 256 ≤ closedWaiting s j.session then
      let s' := s.modJob id fun j => { j with lostEvents := j.lostEvents + 1 }
      if j.lostEvents = 0 then s'.logHub 0x0613 (leBytes 4 j.session.toNat ++ leBytes 4 1) else s'
    else s.modJob id fun j => { j with events := j.events ++ [e] }

/-- HOST_CUE of a firing of a cue with action 3 (R359): the cue's value and its firing count since epoch 0. -/
def hostCueEvent (s : State) (r i : Nat) (value : Word) (count : Nat) : State :=
  match s.jobOf r with
  | some j => jobEvent s j.id 0x8002 (leBytes 4 j.id.toNat ++ leBytes 2 i ++ leBytes 2 0 ++ leBytes 4 value.toNat ++ leBytes 4 count)
  | none => s

/-- The region that holds the firmware area and cues 0 to 127 (R423). -/
def State.hostRegion (s : State) : Nat := s.hub.hostRgn

end Sys2Proof.Machine
end

