-- ==== Sys2Proof/Machine/Cues.lean ====
section
/-! DEFINITION. Cues: increments, thresholds, actions (spec/11_prompt_books_epochs.md R255 to R257; spec/07_cell_execution.md R158 to R160). -/
namespace Sys2Proof.Machine

/-- A cue value has reached a target (R160). -/
def reached (value target : Word) : Bool := !(value - target).getLsbD 31

/-- Repeat an operation. -/
def iter {α : Type} (f : α → α) : Nat → α → α
  | 0, x => x
  | n + 1, x => iter f n (f x)

/-- Firings of a cue whose value has just changed (R256): each passed threshold fires once. -/
def Cue.firings (c : Cue) : Nat :=
  if !c.armed || !(c.action == 1 || c.action == 2 || c.action == 3) || !reached c.value c.thresh then 0
  else if c.step = 0 then 1
  else (c.value - c.thresh).toNat / c.step.toNat + 1

/-- The cue after its firings (R256). -/
def Cue.afterFire (c : Cue) (n : Nat) : Cue :=
  if n = 0 then c
  else { c with fired := c.fired + BitVec.ofNat 32 n, armed := c.step != 0, thresh := c.thresh + BitVec.ofNat 32 (n * c.step.toNat) }

/-- Region whose array holds a cue, in its own numbering (R255, R423). -/
def cueRgn (i : Nat) : Nat := i / 512

/-- Epochs that a module has completed (R257): the least firing count of its epoch-done cues. -/
def completions (j : Job) : Nat :=
  (((bookCues j.img).filter fun c => c.action == 1 && j.regions.getLsbD (c.cue / 512)).map fun c => mapGet 0 j.fired c.cue).min?.getD 0

/-- A module has completed its present epoch (R257). -/
def epochDone (j : Job) : Bool := Nat.blt j.epoch (completions j)

/-- Credit firings of an epoch-done cue, and note the tick of each epoch that they complete (R257, R393). -/
def creditEpoch (j : Job) (cue k tick : Nat) : Job :=
  let n := completions j
  let j := { j with fired := mapPut j.fired cue (mapGet 0 j.fired cue + k) }
  { j with doneAt := (List.range (completions j - n)).foldl (fun m i => mapPut m (n + i) tick) j.doneAt }

/-- HOST_CUE at each firing (R256, R359): firing counts rise from the one before. -/
def hostFirings (s : State) (i : Nat) (value : Word) (before : Word) (k : Nat) : State :=
  (List.range k).foldl (fun s t => hostCueEvent s (cueRgn i) i value (before.toNat + t + 1)) s

/-- Add to a cue and carry out its firings (R256, R257). A cue that the module does not offer takes nothing (R19, R240). -/
def addCue (s : State) (i : Nat) (n : Word) : State :=
  if s.cueLost i then s else
  let c : Cue := s.cue i
  let c : Cue := { c with value := c.value + n }
  let k := c.firings
  let s := s.setCue i (c.afterFire k)
  if k = 0 then s
  else if c.action = 1 then
    match s.jobOf (cueRgn i) with
    | some j => s.modJob j.id fun j => creditEpoch j i k (s.jobTick j)
    | none => s
  else if c.action = 2 then iter (fun s => bucketStart s (cueRgn i) i) k s
  else hostFirings s i c.value c.fired k

/-- Cues that a job's cells may name (R178): its own regions' cues other than 0 to 127. -/
def jobCue (j : Job) (cue : Nat) : Bool := Nat.ble 128 cue && j.regions.getLsbD (cue / 512)

end Sys2Proof.Machine
end

