-- ==== Sys2Proof/Machine/CombineUnit.lean ====
section
/-! DEFINITION. Combine networks of blocks and regions (spec/10_blocks_regions.md R228 to R233). -/
namespace Sys2Proof.Machine

/-- Members mask of a descriptor (R228). -/
def descMembers (d : List Byte) : Nat := leAt d 0 16
/-- Channel of a descriptor. -/
def descChan (d : List Byte) : Nat := field (leAt d 16 1) 0 2
/-- Level of a descriptor. -/
def descLevel (d : List Byte) : Nat := field (leAt d 16 1) 2 2
/-- Tree index of a descriptor. -/
def descTree (d : List Byte) : Nat := leAt d 18 2
/-- Element count of a descriptor. -/
def descCount (d : List Byte) : Nat := leAt d 20 4

/-- A descriptor is malformed (R228). -/
def descBad (img : List Byte) (d : List Byte) (m : Nat) : Bool :=
  field (leAt d 16 1) 4 4 != 0 || leAt d 17 1 != 0 || !allZero ((d.drop 24).take 8) || descLevel d == 3
    || (descLevel d == 0 && descTree d != 0)
    || (descLevel d != 0 && (match treeDesc img (descTree d) with | some t => t.level != descLevel d | none => true))
    || descCount d != m

/-- Bytes of one element: a value, or a pair of value and index (R228). -/
def combElem (op : BitVec 2) : Nat := if op = 0 then 4 else 8
/-- 64-byte groups of m elements. -/
def combGroups (op : BitVec 2) (m : Nat) : Nat := ceilDiv (m * combElem op) 64
/-- Groups that a combine passes on: one that holds nothing for m = 0 (R229). -/
def combPasses (op : BitVec 2) (m : Nat) : Nat := max 1 (combGroups op m)

/-- What a combine unit passes on: a NaN as the canonical NaN, also where one participant makes it the result (R26, R99). -/
def combPass (int : Bool) (v : Nat) : Nat := if !int && (decodeFlt fp32 v).isNaN then canonNaN 0xA else v

/-- One level of combining over the participants' groups in order (R230): the group and its saturations. -/
def combGroup (op : BitVec 2) (int : Bool) (gs : List (List Byte)) : List Byte × Nat :=
  if op = 0 then
    let cols := transposeL 16 (gs.map fun g => (chunks 4 g).map fun b => (⟨leNat b, 0⟩ : Acc))
    let r := cols.map fun c => (canonTree (accAdd int) c).getD ⟨0, 0⟩
    (r.flatMap fun x => leBytes 4 (combPass int x.bits), (r.map (·.sats)).sum)
  else
    let cols := transposeL 8 (gs.map fun g => (chunks 8 g).map fun b => (leAt b 0 4, leAt b 4 4))
    let r := cols.map fun c => (canonTree (redPick int (op == 2)) c).getD (0, 0)
    (r.flatMap fun x => leBytes 4 (combPass int x.1) ++ leBytes 4 x.2, 0)

/-- The present operand of a participant: its first in the channel (R229). -/
def Chan.first (c : Chan) (who : Nat) : Option Sub := c.subs.find? fun s => s.who == who

/-- Two operands of one combine agree (R229). -/
def Sub.agrees (a b : Sub) : Bool := a.desc == b.desc && a.op == b.op && a.int == b.int && a.m == b.m

/-- Members of a combine in ascending number. -/
def membersOf (mask n : Nat) : List Nat := (List.range n).filter fun i => bitAt mask i

/-- Remove the first operand of each participant: the combine has ended. -/
def Chan.finish (c : Chan) (who : List Nat) : Chan :=
  { c with subs := who.foldl (fun l w => l.eraseP fun s => s.who == w) c.subs, adv := 0 }

/-- The combine of a block's channel that is next to advance: its operands. -/
def Chan.current (c : Chan) : List Sub := c.subs.filter fun s => s.idx == c.ended

/-- The present combine of a block's channel ends. -/
def Chan.close (c : Chan) : Chan :=
  { c with subs := c.subs.filter (fun s => s.idx != c.ended), adv := 0, ended := c.ended + 1,
           roots := c.roots.filter (fun s => s.idx != c.ended),
           past := if Nat.ble c.recv c.ended then c.past ++ c.current.take 1 else c.past }

/-- Present a CSEND (R229): its place among the channel's combines, and whether it disagrees. -/
def Chan.present (c : Chan) (u : Sub) : Chan × Bool :=
  let i := mapGet 0 c.sent u.who
  let u := { u with idx := i }
  ({ c with subs := c.subs ++ [u], sent := mapPut c.sent u.who (i + 1) },
    u.malformed || Nat.blt i c.ended || (c.subs ++ c.roots).any fun o => o.idx == i && !o.agrees u)

/-- Present a CRECV (R229). -/
def Chan.presentRoot (c : Chan) (u : Sub) : Chan × Bool :=
  let u := { u with idx := c.recv }
  ({ c with recv := c.recv + 1, roots := if Nat.blt c.recv c.ended then c.roots else c.roots ++ [u],
            past := c.past.filter fun o => o.idx != u.idx },
    u.malformed || (c.subs ++ c.past).any fun o => o.idx == u.idx && !o.agrees u)

/-- Groups of a member in its leaf buffer (R231). -/
def Chan.held (c : Chan) (who : Nat) : Nat := ((c.subs.filter fun s => s.who == who).map fun s => s.groups.length).sum

/-- The newest operand of a participant. -/
def Chan.newest (c : Chan) (who : Nat) : Option Nat := (List.range c.subs.length).reverse.find? fun i => ((c.subs[i]?).map fun s => s.who) == some who

/-- Take one group from each participant's first operand. -/
def Chan.take (c : Chan) (who : List Nat) : Chan :=
  { c with adv := c.adv + 1,
           subs := who.foldl (fun l w =>
             match l.findIdx? fun s => s.who == w with
             | some i => modAt (fun s => { s with groups := s.groups.drop 1, sats := s.sats.drop 1 }) l i
             | none => l) c.subs }

/-- Change a channel of a block. -/
def Block.modChan (b : Block) (ch : Nat) (f : Chan → Chan) : Block := { b with chans := modAt f b.chans ch }
/-- A channel of a block. -/
def Block.chan (b : Block) (ch : Nat) : Chan := b.chans.getD ch .reset
/-- A channel of a region combine unit. -/
def Region.chan (g : Region) (ch : Nat) : Chan := g.chans.getD ch .reset
/-- Change a channel of a region combine unit. -/
def Region.modChan (g : Region) (ch : Nat) (f : Chan → Chan) : Region := { g with chans := modAt f g.chans ch }

/-- The channel of a running CSEND or CRECV. -/
def runChan (r : Run) : Nat := r.value % 4

/-- The descriptor of a running CSEND or CRECV. -/
def runDesc (r : Run) : List Byte := leBytes 24 r.at_

/-- The combines that a descriptor may name among those of its channel: their level, and 4 times their tree. The results of one such kind come in the order of the combines (R229). -/
def combKey (d : List Byte) : Nat := descLevel d + 4 * descTree d

/-- Whether the run is a CSEND or CRECV on a channel. -/
def onChan (r : Run) (ch : Nat) : Bool :=
  match r.qi.op with
  | .csend _ => r.begun && runChan r == ch
  | .crecv _ => r.begun && runChan r == ch
  | _ => false

/-- End a cell's CSEND or CRECV on a failed channel (R232). -/
def endComb (ch : Nat) (c : Cell) : Cell :=
  match c.units.mem with
  | some r => if onChan r ch then c.setUnits fun u => { u with mem := some r.finish } else c
  | none => c

/-- Fail a block's channel (R232): the cells given stop at their next cue wait, with a record of the class each unless a unit records it. A cell being reset is left out. -/
def failBlockChan (s : State) (bk ch cls : Nat) (cells : List Nat) (quiet : Bool) (skip : Option Nat) : State :=
  let s := s.modBlk bk fun b => { (b.modChan ch fun _ => { Chan.reset with failed := true }) with
    mismatch := b.mismatch || cls == 0x0430, timeout := b.timeout || cls == 0x0431, abandoned := b.abandoned || cls == 0x0432 }
  (cells.filter fun c => skip != some (bk * 128 + c)).foldl (fun s c => s.fx (bk * 128 + c) fun x =>
    let x := x.map (endComb ch)
    if quiet then x.faultQuiet cls else x.fault cls []) s

/-- Blocks of a level-1 or level-2 tree, as block numbers over all member regions (R233, R249). -/
def treeBlocks (r : Nat) (t : TreeDesc) : List Nat :=
  (if t.level = 1 then [r] else membersOf t.regions 16).flatMap fun g => (membersOf t.blocks 150).map fun b => blkKey g b

/-- The root block of a level-1 or level-2 tree (R233). -/
def treeRoot (r : Nat) (t : TreeDesc) : Nat := blkKey (if t.level = 1 then r else t.rootRegion) t.rootBlock

/-- The tree of a combine over blocks or regions; none at level 0, and none where the descriptor names no tree of its level (R228). -/
def combTree (img d : List Byte) : Option TreeDesc :=
  if descLevel d = 0 then none else (treeDesc img (descTree d)).filter fun t => t.level == descLevel d

/-- Descriptors presented on a channel and not ended. -/
def Chan.descs (c : Chan) : List (List Byte) := (c.subs ++ c.roots).map (·.desc)

/-- Fail a channel on which a descriptor is at fault (R228, R232, R233): in its block, and in every block and unit of the trees that the operands presented on it name. Members are those of every operand presented. Without a tree each cell records it, or the block under class 0x0432; with one the regions record it. -/
def failComb (s : State) (bk ch cls : Nat) (img d : List Byte) (skip : Option Nat) : State :=
  let r := bk / 150
  let ds := d :: ((s.blk bk).chan ch).descs
  let trees := ds.filterMap (combTree img)
  let blocks := (bk :: trees.flatMap (treeBlocks r) ++ trees.map (treeRoot r)).eraseDups
  let rootHere := fun (b : Nat) => (b == bk && ds.any fun x => (combTree img x).isNone) || trees.any fun t => treeRoot r t == b
  let cells := fun (s : State) (b : Nat) => (List.range 128).filter fun c =>
    (c == 0 && rootHere b) || (ds ++ ((s.blk b).chan ch).descs).any fun x => bitAt (descMembers x) c
  let s := blocks.foldl (fun s b => failBlockChan s b ch cls (cells s b) (!trees.isEmpty || cls == 0x0432) skip) s
  if trees.isEmpty then (if cls = 0x0432 then s.toBlock bk (s.unitRec 1 cls (some r) (some (bk % 150)) []) else s)
  else
    let rgs := (r :: trees.flatMap fun t => if t.level = 1 then [r] else membersOf t.regions 16).eraseDups
    rgs.foldl (fun s g => (s.modRgn g fun x => x.modChan ch fun _ => { Chan.reset with failed := true }).toRegion g (s.unitRec 2 cls (some g) none [])) s

/-- Descriptors of the combines open on a channel that a block takes part in (R232, R233): presented in the block, waiting at its root, or under way in the region combine units. -/
def State.openDescs (s : State) (bk ch : Nat) (img : List Byte) : List (List Byte) :=
  let cn := (s.blk bk).chan ch
  let root := match (s.cell (bk * 128)).units.mem with
    | some r => if onChan r ch && !r.done then [runDesc r] else []
    | none => []
  let far := ((List.range 16).filter fun r => (s.rgn r).owner == (s.rgn (bk / 150)).owner).flatMap fun r =>
    (((s.rgn r).chan ch).subs.map (·.desc)).filter fun d => match combTree img d with | some t => (treeRoot r t :: treeBlocks r t).contains bk | none => false
  cn.descs ++ root ++ (if cn.out.isEmpty then [] else cn.past.map (·.desc)) ++ far

/-- Bring the leaf buffer of a running CSEND up to eight groups (R231): reads stop at an empty slot or a full buffer. -/
def feedF (who ch : Nat) (f : CombF) : Nat → Cell × Block → Fx × Run → (Fx × Run) × Block
  | 0, (_, b), xr => (xr, b)
  | k + 1, (c, b), (x, r) =>
    let m := (r.qi.count f.rn).getD 0
    let tot := combGroups f.op m
    match (b.chan ch).newest who with
    | none => ((x, r.finish), b)
    | some i =>
      if tot ≤ r.next then ((x, r.finish), b)
      else if 8 ≤ (b.chan ch).held who then ((x, { r with blocked := none }), b)
      else
        let a := r.qi.addr f.ra + 64 * r.next
        let n := min 64 (m * combElem f.op - 64 * r.next)
        match x.c.firstEmpty (slotsOf a n) with
        | some e => ((x, r.block e false), b)
        | none =>
          let rd := x.readRange a n
          let g := rd.2.1 ++ List.replicate (64 - n) 0
          let b := b.modChan ch fun cn =>
            { cn with subs := modAt (fun s => { s with groups := s.groups ++ [g], given := s.given + 1 }) cn.subs i }
          feedF who ch f k (c, b) (rd.1, { r with next := r.next + 1, blocked := none, idle := 0 })

/-- Go on feeding a CSEND of a cell (R231). -/
def feedSend (s : State) (k : Nat) : State :=
  let c := s.cell k
  match c.units.mem with
  | some r =>
    match r.qi.op with
    | .csend f =>
      if r.done || !r.begun then s
      else
        let p := feedF (cellNo k) (runChan r) f 9 (c, s.blk (cellBlk k)) (Fx.of c, { r with blocked := none })
        let s := s.modBlk (cellBlk k) fun _ => p.2
        s.put k (p.1.1.map (Cell.setUnits fun u => { u with mem := some p.1.2 }))
    | _ => s
  | none => s

/-- The tree of a level-1 or level-2 combine names this cell as root (R95, R233); level 0: lead cell 0. -/
def isRoot (img d : List Byte) (k : Nat) : Bool :=
  cellNo k == 0 &&
    (match descLevel d with
     | 0 => true
     | 1 => (match treeDesc img (descTree d) with | some t => t.rootBlock == cellBlkNo k | none => true)
     | 2 => (match treeDesc img (descTree d) with | some t => t.rootBlock == cellBlkNo k && t.rootRegion == cellRgn k | none => true)
     | _ => true)

/-- Write the next group of the combine that the root's CRECV belongs to (R229, R231): blocks on a full destination slot. -/
def deliverRoot (s : State) (bk ch : Nat) : State :=
  let k := bk * 128
  let c := s.cell k
  let cn := (s.blk bk).chan ch
  match c.units.mem with
  | some r =>
    match r.qi.op, cn.out.find? fun o => o.key == combKey (runDesc r) with
    | .crecv f, some o =>
      if r.done || r.blocked.isSome || !onChan r ch then s
      else
        let m := (r.qi.count f.rn).getD 0
        let n := min 64 (m * combElem f.op - 64 * r.next)
        let x := (Fx.of c).saturated o.sats
        let w := writeOn x { r with wr := pieces none false (r.qi.addr f.ra + 64 * r.next) (o.data.take n) }
        let nxt := r.next + 1
        let run := if w.2.blocked.isSome then { w.2 with next := nxt, idle := 0 } else
          { r with next := nxt, wr := [], idle := 0, done := decide (combGroups f.op m ≤ nxt) }
        (s.modBlk bk fun b => b.modChan ch fun cn => { cn with out := cn.out.erase o, roots := if Nat.ble (combGroups f.op m) nxt then [] else cn.roots }).put k
          (w.1.map (Cell.setUnits fun u => { u with mem := some run }))
    | _, _ => s
  | none => s

/-- A group of a block goes to its region combine unit (R233); operands of one combine that disagree fail it (R229), and a failed channel takes none (R232). Participant 1000 + r is region r. -/
def toRegionUnit (s : State) (r who : Nat) (sub : Sub) (g : List Byte × Nat) (img : List Byte) (bk : Nat) : State :=
  let ch := descChan sub.desc
  let tot := combPasses sub.op sub.m
  let cn := (s.rgn r).chan ch
  if cn.failed then s
  else
    match (List.range cn.subs.length).reverse.find? fun i => let x := cn.subs.getD i sub; x.who == who && x.desc == sub.desc && Nat.blt x.given tot with
    | some i => s.modRgn r fun rg => rg.modChan ch fun c =>
        { c with subs := modAt (fun x => { x with groups := x.groups ++ [g.1], sats := x.sats ++ [g.2], given := x.given + 1 }) c.subs i }
    | none =>
      let p := cn.present ⟨who, sub.desc, sub.op, sub.int, sub.m, [g.1], [g.2], 1, false, 0⟩
      if p.2 then failComb s bk ch 0x0430 img sub.desc none
      else s.modRgn r fun rg => rg.modChan ch fun _ => p.1

/-- The operands of the combine that is next to advance on a channel, in ascending member number, once every member's next group is present (R231). -/
def Chan.ready (c : Chan) : Option (List Sub) :=
  match c.current with
  | [] => none
  | sub :: _ =>
    let ms := membersOf (descMembers sub.desc) 128
    let firsts := ms.filterMap fun w => c.current.find? fun x => x.who == w
    if c.failed || firsts.length != ms.length || !(firsts.all fun x => !x.groups.isEmpty) then none else some firsts

/-- The channel that the network serves next: the first ready one in ascending number after the one served last (R231). -/
def Block.nextChan (b : Block) : Option Nat := ((List.range 4).map fun i => (b.served + 1 + i) % 4).find? fun ch => (b.chan ch).ready.isSome

/-- One group of the combine that is next to advance, if it is ready (R231): to the root's output, or to the region combine unit (R233). -/
def advanceOne (s : State) (img : List Byte) (r b ch : Nat) : State :=
  let bk := blkKey r b
  let cn := (s.blk bk).chan ch
  match cn.ready with
  | none => s
  | some firsts =>
    match firsts with
    | [] => s
    | sub :: _ =>
      let ms := firsts.map (·.who)
      let g := combGroup sub.op sub.int (firsts.map fun x => x.groups.headD [])
      let tot := combPasses sub.op sub.m
      let lvl := descLevel sub.desc
      let s := s.modBlk bk fun blk => blk.modChan ch fun c =>
        let c := c.take ms
        let c := if lvl = 0 then { c with out := c.out ++ [⟨combKey sub.desc, g.1, g.2⟩] } else c
        if tot ≤ c.adv then c.close else c
      let s := if lvl = 0 then s else toRegionUnit s r b sub g img bk
      ms.foldl (fun s w => feedSend s (bk * 128 + w)) (if sub.m = 0 then s else s.modCell (bk * 128) fun c => c.tally 12 1)

/-- Combines of m = 0 that every member has presented end at once, and a waiting CRECV of one completes (R229). -/
def settleZero (img : List Byte) (r b ch : Nat) : Nat → State → State
  | 0, s => s
  | n + 1, s =>
    match ((s.blk (blkKey r b)).chan ch).current with
    | sub :: _ => if sub.m = 0 then settleZero img r b ch n (deliverRoot (advanceOne s img r b ch) (blkKey r b) ch) else s
    | [] => s

/-- One group of a ready channel advances, when its turn has come (R231). -/
def advanceGroup (s : State) (img : List Byte) (r b ch : Nat) : State :=
  if (s.blk (blkKey r b)).nextChan = some ch then
    let s := advanceOne (s.modBlk (blkKey r b) fun x => { x with served := ch }) img r b ch
    settleZero img r b ch ((s.blk (blkKey r b)).chan ch).subs.length s
  else s

/-- Present a CSEND on its channel (R229). -/
def presentSend (s : State) (k ch : Nat) (img : List Byte) (sub : Sub) : State :=
  let bk := cellBlk k
  let p := ((s.blk bk).chan ch).present sub
  let s := s.modBlk bk fun b => b.modChan ch fun _ => p.1
  if p.2 then failComb s bk ch 0x0430 img sub.desc none
  else if sub.m = 0 then settleZero img (cellRgn k) (cellBlkNo k) ch p.1.subs.length s
  else s

/-- What a region combine unit can do for an operand (R233): its tree, whether it is the final one over the member regions, and the participants, all of whose next groups are present. -/
def Chan.stepFor (cn : Chan) (img : List Byte) (r : Nat) (sub : Sub) : Option (TreeDesc × Bool × List Nat) :=
  match combTree img sub.desc with
  | none => none
  | some t =>
    let have_ := fun (who : List Nat) => !who.isEmpty && who.all fun w => (match cn.first w with | some x => x.desc == sub.desc && !x.groups.isEmpty | none => false)
    let rgs := (membersOf t.regions 16).map (· + 1000)
    let blocks := membersOf t.blocks 150
    if t.level = 2 ∧ r = t.rootRegion ∧ have_ rgs = true then some (t, true, rgs)
    else if have_ blocks then some (t, false, blocks)
    else none

/-- One step of a region combine unit (R233): the final tree of the root region over member regions, or the tree over member blocks. The saturations of the groups go along with the result to the root (R230). -/
def regionStep (s : State) (img : List Byte) (r ch : Nat) : State :=
  let cn := (s.rgn r).chan ch
  match (if cn.failed then none else cn.subs.findSome? fun sub => (cn.stepFor img r sub).map fun x => (sub, x)) with
  | none => s
  | some (sub, t, final, who) =>
    let firsts := who.filterMap cn.first
    let h := combGroup sub.op sub.int (firsts.map fun x => x.groups.headD [])
    let g := (h.1, h.2 + (firsts.map fun x => x.sats.headD 0).sum)
    let tot := combPasses sub.op sub.m
    let s := s.modRgn r fun g => g.modChan ch fun c =>
      let c := c.take who
      let gone := who.all fun w => (match c.first w with | some x => x.groups.isEmpty && Nat.ble tot x.given | none => true)
      { (if gone then c.finish who else c) with adv := 0 }
    let root := treeRoot r t
    if t.level = 2 ∧ final = false then toRegionUnit s t.rootRegion (1000 + r) sub g img root
    else deliverRoot (s.modBlk root fun b => b.modChan ch fun c => if c.failed then c else { c with out := c.out ++ [⟨combKey sub.desc, g.1, g.2⟩] }) root ch

/-- Issue of CSEND (R229, R231, R232). -/
def issueSend (s : State) (k : Nat) (img : List Byte) (x : Fx) (q : QI) (f : CombF) : State :=
  let r := Run.start q
  let a := q.addr f.rt
  let fin := fun (x : Fx) (r : Run) => s.put k (x.map (Cell.setUnits fun u => { u with mem := some r }))
  match x.c.firstEmpty (slotsOf a 32) with
  | some e => fin x (r.block e false)
  | none =>
    let rd := x.readRange a 32
    let d := rd.2.1
    let m := (q.count f.rn).getD 0
    let ch := descChan d
    if !bitAt (descMembers d) (cellNo k) then
      (fin (rd.1.fault 0x0430 []) r.finish).modBlk (cellBlk k) fun b => { b with mismatch := true }
    else if ((s.blk (cellBlk k)).chan ch).failed then fin rd.1 r.finish
    else
      let r := { r with begun := true, value := ch + 4 * descLevel d, at_ := leNat (d.take 24), blocked := none, idle := 0, done := decide (m = 0) }
      let s := fin rd.1 r
      let s := presentSend s k ch img ⟨cellNo k, d.take 24, f.op, f.int, m, if m = 0 then [[]] else [], [], if m = 0 then 1 else 0, descBad img d m, 0⟩
      feedSend s k

/-- Issue of CRECV (R195, R229, R232). -/
def issueRecv (s : State) (k : Nat) (img : List Byte) (x : Fx) (q : QI) (f : CombF) : State :=
  let r := Run.start q
  let a := q.addr f.rt
  let fin := fun (x : Fx) (r : Run) => s.put k (x.map (Cell.setUnits fun u => { u with mem := some r }))
  match x.c.firstEmpty (slotsOf a 32) with
  | some e => fin x (r.block e false)
  | none =>
    let rd := x.readRange a 32
    let d := rd.2.1
    let m := (q.count f.rn).getD 0
    let ch := descChan d
    let bk := cellBlk k
    let cn := (s.blk bk).chan ch
    if !isRoot img d k then fin rd.1.outOfRange r.finish
    else if cn.failed then fin rd.1 r.finish
    else
      let r := { r with begun := true, value := ch + 4 * descLevel d, at_ := leNat (d.take 24), blocked := none, idle := 0 }
      let p := cn.presentRoot ⟨cellNo k, d.take 24, f.op, f.int, m, [], [], 0, descBad img d m, 0⟩
      let s := (fin rd.1 r).modBlk bk fun b => b.modChan ch fun _ => p.1
      if p.2 then failComb s bk ch 0x0430 img (d.take 24) none
      else if m = 0 then deliverRoot s bk ch
      else s

end Sys2Proof.Machine
end

