-- ==== Sys2Proof/Machine/Stage2.lean ====
section
/-! DEFINITION. What dispatch asks of an instruction before it may go to its unit: the registers it names, the formats of its role, the ranges of its operands, the frames it makes busy (spec/08_instruction_reference.md R173 to R195; spec/04_accumulation_order.md R100). -/
namespace Sys2Proof.Machine

/-- The unit that executes an instruction (R146); none for control, scalar and AROT. -/
def unitOf : CellOp → Option CellUnit
  | .wload _ | .mvm _ _ | .swatch | .slotinv _ => some .array
  | .aclr _ _ | .apromo | .adrain _ | .amov _ _ => some .acc
  | .vec _ _ => some .vector
  | .ld _ _ _ | .st _ | .put _ | .accw _ _ | .get _ | .hbmrd _ | .hbmwr _ | .tagset _ _ _ | .csend _ | .crecv _ => some .memory
  | _ => none

/-- Instructions whose coordinate group their word makes necessary (R175). -/
def wordCoord (k : VecKind) (f : VecF) : Bool :=
  match k with
  | .add | .max => f.rnd || f.sub.getLsbD 0
  | .mul | .min | .fma => f.rnd
  | .cvt => f.rnd || f.sp
  | .sclConvert => f.rnd || f.sp
  | .had | .prune24 | .red => true
  | .stat => f.sub.getLsbD 0
  | _ => false

/-- Instructions whose palette or record may make a coordinate group necessary (R188, R189, R190). -/
def mayCoord (k : VecKind) (f : VecF) : Bool :=
  match k with
  | .cvt => vfPal f || vfDeq f
  | .sclConvert => true
  | .stat => true
  | _ => false

/-- A registers that a vector instruction names. -/
def vecRegs (k : VecKind) (f : VecF) : List AReg :=
  let third := match k with
    | .fma | .sclConvert | .prune24 => [f.rx]
    | .cvt => if vfRec f then [f.rx] else []
    | _ => []
  let second := match k with
    | .add | .mul | .fma | .max | .min | .sclDerive | .sclPush | .sclPushAdvance | .prune24 => [f.rs2]
    | .cvt => if vfPal f then [f.rs2] else []
    | .sclConvert => if f.sub.getLsbD 3 then [f.rs2] else []
    | .had => if f.sub.getLsbD 2 then [f.rs2] else []
    | .stat => if f.sub.getLsbD 0 then [] else [f.rs2]
    | _ => []
  let first := match k with
    | .sclPush | .sclPushAdvance => []
    | .sclMerge => [f.rd, f.rs1]
    | .sclDerive => [f.rs1, f.rn]
    | .stat => if f.sub.getLsbD 0 then [f.rd, f.rs1, f.rn] else [f.rs1, f.rn]
    | _ => [f.rd, f.rs1, f.rn]
  let group := if wordCoord k f || mayCoord k f then [f.rc, f.rc + 1, f.rc + 2] else []
  let tensor := if f.rnd then [f.rc + 3] else []
  first ++ second ++ third ++ group ++ tensor

/-- A registers that an instruction reads or writes (R154). -/
def regsOf : CellOp → List AReg
  | .loop f => if f.src then [f.ra] else []
  | .brp ra => [ra]
  | .cuewait f => [f.ra]
  | .cuesig f => (if f.remote then [f.rm] else []) ++ (if f.src then [f.rc] else [])
  | .waitc f => if f.src then [f.ra] else []
  | .setcfg f => if f.src then [f.ra] else []
  | .li rd _ => [rd]
  | .alu _ rd ra rb => [rd, ra, rb]
  | .addi rd ra _ => [rd, ra]
  | .shift _ f => [f.rd, f.ra] ++ (if f.i then [] else [f.rb])
  | .cmp f => f.ra :: (if f.i then [] else [f.rb])
  | .wload f => f.ra :: (if f.palEn then [f.rp] else [])
  | .mvm _ f => f.ra :: ((if f.skipEn then [f.rk] else []) ++ (if f.palEn then [f.rp] else []))
  | .adrain f => [f.rd]
  | .vec k f => vecRegs k f
  | .ld rd ra _ => [rd, ra]
  | .st f => if f.form then [f.rd, f.rn] else [f.rd, f.ra, f.rn]
  | .put f => [f.rd, f.rd + 1, f.ra, f.rn] ++ (if f.cntEn then [f.rk] else [])
  | .accw f _ => [f.rd, f.rd + 1, f.ra, f.rn] ++ (if f.cntEn then [f.rk] else [])
  | .get f => [f.rd, f.ra, f.ra + 1, f.rn]
  | .hbmrd f => [f.rd, f.ra, f.ra + 1, f.rn]
  | .hbmwr f => [f.rd, f.rd + 1, f.ra, f.rn]
  | .tagset _ ra rn => [ra, rn]
  | .csend f => [f.ra, f.rn, f.rt]
  | .crecv f => [f.ra, f.rn, f.rt]
  | _ => []

/-- An instruction names a pending A register (R154). -/
def Seq.pends (q : Seq) (op : CellOp) : Bool := (regsOf op).any fun r => q.pendingA.getLsbD r.toNat

/-- Formats that a vector instruction may not name (R23, R186 to R190). -/
def vecFormatBad (k : VecKind) (f : VecF) : Bool :=
  let fs := f.fs.toNat
  let fd := f.fd.toNat
  match k with
  | .add | .mul | .fma | .max | .min => !((fs == 11 && fd == 11) || (arithRole fs && arithRole fd))
  | .exp2 | .rcp | .rsq => !(arithRole fs && arithRole fd)
  | .cvt | .sclConvert => !(vectorRole fs && vectorRole fd && (!f.sp || inputRole fd))
  | .had | .prune24 => !(vectorRole fs && vectorRole fd)
  | .sclDerive | .stat => !vectorRole fs
  | .sclPush | .sclPushAdvance | .sclMerge => false
  | .red =>
    let intIn := fltFmt fs == none
    !vectorRole fs || !(if fd == 11 then intIn && field f.sub.toNat 0 2 != 1 else fd == 10 && !intIn)

/-- A format outside the role of R23 or of the instruction (R24, R173). -/
def formatBad : CellOp → Bool
  | .wload f => !slotRole f.fmt.toNat
  | .mvm _ f => !inputRole f.fmt.toNat
  | .vec k f => vecFormatBad k f
  | _ => false

/-! Ranges (R174, R175, R178, R179, R193). -/

/-- A byte count of the slot-wise memory instructions (R193). -/
def xferOk (n : Nat) : Bool := n % 64 == 0 && Nat.ble 64 n && Nat.ble n 32768

/-- A local operand of the slot-wise memory instructions. -/
def localXfer (lead : Bool) (a n : Nat) : Bool := a % 64 == 0 && localOk lead a n

/-- Module field of a fabric-global address (R198). -/
def gaModule (g : Nat) : Nat := g / 2 ^ 52
/-- Local physical address of a fabric-global address. -/
def gaLocal (g : Nat) : Nat := field g 0 48
/-- The address names the module `ident`. -/
def gaOwn (ident : BitVec 12) (g : Nat) : Bool := gaModule g == 0xFFF || gaModule g == ident.toNat
/-- Bits [51:48] are zero (R198). -/
def gaOk (g : Nat) : Bool := field g 48 4 == 0

/-- Local address of a cell's window offset (R197). -/
def cellBase (k : Nat) : Nat := 0x100000000000 + cellRgn k * 2 ^ 32 + cellBlkNo k * 2 ^ 24 + cellNo k * 2 ^ 16

/-- The firmware area: the highest GiB of the host region's stack (R215, R423). -/
def inFirmware (host a n : Nat) : Bool :=
  Nat.blt (host * 2 ^ 36 + 0xBC0000000) (a + n) && Nat.blt a (host * 2 ^ 36 + 0xC00000000)

/-- What a cell may name on another module, as far as the offset tells (R193, R200, R201). -/
def remoteShape (a n : Nat) : Bool :=
  match cellAddr a with
  | some (k, off) => Nat.ble (off + n) (if isLead (cellNo k) then 0xE000 else 0xC000)
  | none => isHbm a && isHbm (a + n - 1)

/-- A taken PUT or ACCW is out of range (R193). -/
def putBad (lead : Bool) (ident : BitVec 12) (q : QI) (f : PutF) : Bool :=
  let n := (q.count f.rn).getD 0
  let g := q.pair f.rd
  let far := !gaOwn ident g
  !xferOk n || !localXfer lead (q.addr f.ra) n || !gaOk g || gaLocal g % 64 != 0
    || (far && !remoteShape (gaLocal g) n)
    || (far && f.cntEn && isHbm (gaLocal g) && (q.reg f.rk.toNat).toNat / 2 ^ 19 != 0)

/-- A GET, HBMRD or HBMWR is out of range (R193): local side, pair. -/
def xferBad (lead : Bool) (ident : BitVec 12) (q : QI) (loc pair rn : AReg) : Bool :=
  let n := (q.count rn).getD 0
  let g := q.pair pair
  !xferOk n || !localXfer lead (q.addr loc) n || !gaOk g || !gaOwn ident g || gaLocal g % 64 != 0

/-- A vector instruction's operands lie in their ranges (R174, R175, R185, R188 to R190). -/
def vecRangeBad (lead : Bool) (c : Cell) (q : QI) (k : VecKind) (f : VecF) : Bool :=
  match (if noCount k then some 0 else q.count f.rn) with
  | none => true
  | some 0 => false
  | some m =>
    let co := q.coord f.rc m
    let w := (co.map (·.w)).getD 1
    let kk := (co.map (·.k)).getD 0
    let n := 32 * 2 ^ field f.sub.toNat 0 2
    (wordCoord k f && co.isNone)
      || (vecReads k q f m ++ vecDests true k q f m 16).any (fun s => !localOk lead s.1 s.2)
      || (f.sp && (Nat.blt 256 w || m % w != 0 || q.addr f.rd % 64 != 0))
      || (match k with
          | .cvt => (vfDeq f && !(c.mr.stream (vfStream f) q.seq).conf) || (vfRec f && q.addr f.rx % 64 != 0)
          | .sclConvert => q.addr f.rx % 64 != 0 || !localOk lead (q.addr f.rx) 8
          | .had => kk % n != 0 || w % n != 0 || m % n != 0
          | .prune24 => kk % 4 != 0
          | _ => false)

/-- A scale stream ring lies wholly within the scratchpad, in a tagged window (R179). -/
def ringOk (c : Cell) (first len : Nat) : Bool :=
  Nat.ble 1 len && Nat.ble (first + len) 512
    && c.mr.win.any fun w => winMode w != 0 && Nat.ble (winBase w) first && Nat.ble (first + len) (winBase w + winLen w)

/-- The value of a SETCFG (R177). -/
def setcfgVal (q : QI) (f : SetcfgF) : Nat := if f.src then (q.reg f.ra.toNat).toNat else f.imm.toNat

/-- Bytes of an element of a combine: a value, with an index for MAX and MIN (R98, R228). -/
def combBytes (op : BitVec 2) : Nat := if op = 0 then 4 else 8

/-- The second decoding stage (R173): some operand lies outside its range. -/
def rangeBad (lead : Bool) (ident : BitVec 12) (job : Option Job) (c : Cell) (q : QI) : Bool :=
  let end_ := c.seq.imgAt + c.seq.imgLen
  let ownCue := fun (n : Nat) => (match job with | some j => jobCue j n | none => false)
  match q.op with
  | .loop f => (!f.src && f.imm == 0) || Nat.ble end_ (c.seq.pc.toNat + 8 * f.dist.toNat)
  | .brp ra => (q.reg ra.toNat).toNat % 8 != 0
  | .cuewait f => !(Nat.blt f.cue.toNat 128 || ownCue f.cue.toNat)
  | .cuesig f => !f.remote && !ownCue f.cue.toNat
  | .setcfg f =>
    let v := setcfgVal q f
    if f.sel = 1 ∨ f.sel = 2 then false
    else !(Nat.ble 0x10 f.sel.toNat && Nat.ble f.sel.toNat 0x13 && Nat.blt v (2 ^ 19) && ringOk c (field v 0 9) (field v 9 10))
  | .wload f => f.scaled && !(c.mr.stream f.stream.toNat q.seq).conf
  | .mvm _ f =>
    (f.scaled && !(c.mr.stream f.stream.toNat q.seq).conf)
      || (f.skipEn && (q.addr f.rk % 32 != 0 || Nat.blt 0x8000 (q.addr f.rk + 32))) || (f.sp && q.addr f.ra % 64 != 0)
  | .adrain f => !localOk lead (q.addr f.rd) (if c.units.accQ.isEmpty && c.units.acc.isNone then (drainRange c q f).2 else 128 * (f.countM1.toNat + 1))
  | .vec k f => vecRangeBad lead c q k f
  | .ld _ ra imm => let a := (q.reg ra.toNat + imm.zeroExtend 32).toNat % 2 ^ 16; a % 4 != 0 || !localOk lead a 4
  | .st f =>
    if f.form then
      let a := (q.reg f.rd.toNat + f.imm.zeroExtend 32).toNat % 2 ^ 16
      a % 4 != 0 || !localOk lead a 4
    else
      let n := (q.count f.rn).getD 0
      !xferOk n || !localXfer lead (q.addr f.ra) n || !localXfer lead (q.addr f.rd) n
  | .put f => putBad lead ident q f
  | .accw f _ => putBad lead ident q f
  | .get f => xferBad lead ident q f.rd f.ra f.rn
  | .hbmrd f => xferBad lead ident q f.rd f.ra f.rn
  | .hbmwr f => xferBad lead ident q f.ra f.rd f.rn
  | .tagset _ ra rn =>
    match q.count rn with
    | some n => n == 0 || Nat.blt 512 n || q.addr ra % 64 != 0 || Nat.blt 0x8000 (q.addr ra + 64 * n)
    | none => true
  | .csend f =>
    match q.count f.rn with
    | some m => q.addr f.rt % 32 != 0 || !localOk lead (q.addr f.rt) 32 || !localOk lead (q.addr f.ra) (combBytes f.op * m)
    | none => true
  | .crecv f =>
    match q.count f.rn with
    | some m => q.addr f.rt % 32 != 0 || !localOk lead (q.addr f.rt) 32 || !localOk lead (q.addr f.ra) (combBytes f.op * m)
    | none => true
  | _ => false

/-! Frames (R100). -/

/-- A frame as a mask. -/
def frameBit (f : Nat) : BitVec 3 := 1#3 <<< f

/-- Frames that an instruction names, or addresses by address (R100). An extent that its data fix is taken at its largest. -/
def framesOf (c : Cell) (q : QI) : BitVec 3 :=
  let range := fun (l : List (Nat × Nat)) => l.foldl (fun m r => m ||| framesIn r.1 r.2) 0#3
  match q.op with
  | .wload f => framesIn (q.addr f.ra) (tileLen f.fmt.toNat f.s24)
  | .mvm t f =>
    let len := mvmLen t (c.slot f.slot.toNat)
    let one := if f.sp then blockMax f.fmt.toNat len else 64 * ceilDiv (packedLen (fmtBits f.fmt.toNat) len) 64
    frameBit (q.map.resolve f.tile) ||| (if f.tree then frameBit q.map.b.toNat else 0) ||| framesIn (q.addr f.ra) (one * (f.countM1.toNat + 1))
  | .aclr t _ => frameBit (q.map.resolve t)
  | .apromo => frameBit q.map.a.toNat ||| frameBit q.map.b.toNat
  | .adrain f => frameBit (q.map.resolve f.tile) ||| framesIn (q.addr f.rd) (drainRange c q f).2
  | .amov s d => frameBit (q.map.resolve s) ||| frameBit (q.map.resolve d)
  | .vec k f =>
    let m := (q.count f.rn).getD 0
    if m = 0 then 0 else range (vecReads k q f m ++ vecDests false k q f m 1320)
  | .ld _ ra imm => framesIn ((q.reg ra.toNat + imm.zeroExtend 32).toNat % 2 ^ 16) 4
  | .st f =>
    if f.form then framesIn ((q.reg f.rd.toNat + f.imm.zeroExtend 32).toNat % 2 ^ 16) 4
    else let n := (q.count f.rn).getD 0; range [(q.addr f.ra, n), (q.addr f.rd, n)]
  | .put f => framesIn (q.addr f.ra) ((q.count f.rn).getD 0)
  | .accw f _ => framesIn (q.addr f.ra) ((q.count f.rn).getD 0)
  | .get f => framesIn (q.addr f.rd) ((q.count f.rn).getD 0)
  | .hbmrd f => framesIn (q.addr f.rd) ((q.count f.rn).getD 0)
  | .hbmwr f => framesIn (q.addr f.ra) ((q.count f.rn).getD 0)
  | .csend f => range [(q.addr f.ra, combBytes f.op * (q.count f.rn).getD 0), (q.addr f.rt, 32)]
  | .crecv f => range [(q.addr f.ra, combBytes f.op * (q.count f.rn).getD 0), (q.addr f.rt, 32)]
  | _ => 0

/-- Instructions that a unit holds: its queue, then what it executes. -/
def Units.of (u : Units) : CellUnit → List QI
  | .array => u.arrQ ++ (u.comp.map (·.qi)).toList ++ (u.wload.map (·.qi)).toList
  | .acc => u.accQ ++ (u.acc.map (·.qi)).toList
  | .vector => u.vecQ ++ (u.vec.map (·.qi)).toList
  | .memory => u.memQ ++ (u.mem.map (·.qi)).toList

/-- Every instruction that the units hold. -/
def Units.all (u : Units) : List QI := u.of .array ++ u.of .acc ++ u.of .vector ++ u.of .memory

/-- Frames that a unit keeps busy. -/
def Cell.busyBy (c : Cell) (u : CellUnit) : BitVec 3 :=
  let m := (c.units.of u).foldl (fun m q => m ||| framesOf c q) 0#3
  if u = .memory then c.units.outst.foldl (fun m o => m ||| o.frames) m else m

/-- Frames that any unit keeps busy (R101). -/
def Cell.busyFrames (c : Cell) : BitVec 3 := c.busyBy .array ||| c.busyBy .acc ||| c.busyBy .vector ||| c.busyBy .memory

/-- Frames that units other than `u` keep busy (R100). -/
def Cell.busyOthers (c : Cell) (u : CellUnit) : BitVec 3 :=
  [CellUnit.array, .acc, .vector, .memory].foldl (fun m v => if v = u then m else m ||| c.busyBy v) 0#3

/-- The queue of a unit. -/
def Units.queue (u : Units) : CellUnit → List QI
  | .array => u.arrQ
  | .acc => u.accQ
  | .vector => u.vecQ
  | .memory => u.memQ

/-- Replace the queue of a unit. -/
def Units.setQueue (u : Units) (v : CellUnit) (l : List QI) : Units :=
  match v with
  | .array => { u with arrQ := l }
  | .acc => { u with accQ := l }
  | .vector => { u with vecQ := l }
  | .memory => { u with memQ := l }

end Sys2Proof.Machine
end

