-- ==== Sys2Proof/Machine/MemUnit.lean ====
section
/-! DEFINITION. The memory engine of a cell and the arrivals at cells and HBM (spec/09_scratchpad_hbm.md R200 to R219; spec/08_instruction_reference.md R192 to R194). -/
namespace Sys2Proof.Machine

/-- Identifier of this module as the cells of a region hold it (CELL_MEM_IDENT, R222). -/
def State.identOf (s : State) (k : Nat) : BitVec 12 := (s.rgn (cellRgn k)).ident

/-- The prompt-book image of a cell's job. -/
def State.imgOf (s : State) (k : Nat) : List Byte := ((s.jobOf (cellRgn k)).map (·.img)).getD []

/-- A cell lies in a region that the job of cell `k` holds here, and the module offers it (R19, R200). -/
def State.jobCell (s : State) (k t : Nat) : Bool :=
  match (s.rgn (cellRgn k)).owner with
  | some id => (s.rgn (cellRgn t)).owner == some id && s.offers t
  | none => false

/-- A PUT, GET or ACCW of cell `k` may reach a range of its own module (R200, R201). -/
def State.cellRange (s : State) (k a n : Nat) : Bool :=
  match cellAddr a with
  | some (t, off) => s.jobCell k t && localOk (isLead (cellNo t)) off n && !(s.cell t).bankDown off n
  | none => false

/-- An HBMRD or HBMWR of cell `k` may reach a range (R200). -/
def State.hbmRange (s : State) (k a n : Nat) : Bool :=
  isHbm a && isHbm (a + n - 1) && hbmRgn a == hbmRgn (a + n - 1) && !inFirmware s.hostRegion a n
    && (match (s.rgn (cellRgn k)).owner with
        | some id => (s.rgn (hbmRgn a)).owner == some id && !(s.rgn (hbmRgn a)).failed
        | none => false)

/-- Fence level of a destination (R157): 1 the block, 2 the region or its own stack, 3 the module. -/
def levelOf (k a : Nat) : Nat :=
  match cellAddr a with
  | some (t, _) => if cellBlk t = cellBlk k then 1 else if cellRgn t = cellRgn k then 2 else 3
  | none => if hbmRgn a = cellRgn k then 2 else 3

/-- Set what the memory engine executes. -/
def Cell.setMem (r : Option Run) (c : Cell) : Cell := c.setUnits fun u => { u with mem := r }
/-- Record an instruction that has left its unit. -/
def Cell.addOutst (o : Outst) (c : Cell) : Cell := c.setUnits fun u => { u with outst := u.outst ++ [o] }

/-- One access of an outstanding instruction is complete (R146, R157). -/
def Cell.outstDone (c : Cell) (seq : Nat) : Cell :=
  c.setUnits fun u => { u with outst := (u.outst.map fun o => if o.seq = seq then { o with left := o.left - 1 } else o).filter fun o => o.left != 0 }

/-- An arrival counter rises by one (R210, R211). -/
def Fx.arrive (x : Fx) (ctr : Nat) : Fx :=
  let a := x.c.mr.arrival.getD ctr (0, false)
  if a.1 = 0xFFFF then
    (x.map (Cell.setMr fun r => { r with ctrOvf := true, arrival := setAt r.arrival ctr (a.1, true) })).fault 0x0413 (leBytes 4 ctr)
  else x.map (Cell.setMr fun r => { r with arrival := setAt r.arrival ctr (a.1 + 1, a.2) })

/-- Count on a counter where the instruction names one. -/
def Fx.arriveOpt (x : Fx) (ctr : Option (BitVec 4)) : Fx :=
  match ctr with
  | some c => x.arrive c.toNat
  | none => x

/-! Copies out of the cell, slot by slot (R205, R206, R219). -/

/-- ST form 0 from slot `i` on (R192, R206): blocks on an empty source and on a full destination. -/
def copyF (tag : Byte) (src dst n : Nat) : Nat → Fx × Run → Fx × Run
  | 0, s => s
  | k + 1, (x, r) =>
    if n ≤ 64 * r.next then (x, r.finish)
    else
      let a := src + 64 * r.next
      let d := dst + 64 * r.next
      match x.c.firstEmpty [a / 64] with
      | some e => (x, r.block e false)
      | none =>
        if x.c.blocksWrite (d / 64) then (x, r.block (d / 64) true)
        else
          let rd := x.readRange a 64
          copyF tag src dst n k (rd.1.map fun c => c.writePiece ⟨d, rd.2.1, some tag, rd.2.2, true⟩, { r with next := r.next + 1, blocked := none })

/-- Where the slots of a PUT, ACCW or HBMWR go. -/
inductive SlotSend where
  | put (f : PutF) (acc : Option (BitVec 2)) (far : Bool)
  | hbm (f : XferF)
  deriving DecidableEq, Repr

/-- Count cell of a PUT or ACCW into HBM of another module (R210). -/
def countCellOf (q : QI) (f : PutF) : Option Nat :=
  if f.cntEn then some ((q.reg f.rk.toNat).toNat % 2 ^ 19) else none

/-- One more access of an outstanding instruction is under way. -/
def Cell.outstMore (c : Cell) (seq : Nat) : Cell :=
  c.setUnits fun u => { u with outst := u.outst.map fun o => if o.seq = seq then { o with left := o.left + 1 } else o }

/-- A slot of a PUT or ACCW (R206, R210). -/
def slotWrite (s : State) (k : Nat) (q : QI) (f : PutF) (acc : Option (BitVec 2)) (far : Bool) (g : Nat) (p : Piece) : RemoteWrite :=
  ⟨s.identOf k, k, q.seq, p.addr, p.data, f.tag, p.poison, acc, if f.cntEn then some f.ctr else none,
    if far && isHbm (gaLocal g) then countCellOf q f else none⟩

/-- Send the slots that a run has gathered for one packet (R285). -/
def flushFar (s : State) (k : Nat) (r : Run) (f : PutF) (acc : Option (BitVec 2)) (g : Nat) : State :=
  sendWrites (s.modCell k fun c => c.outstMore r.qi.seq) (gaModule g) (r.wr.map fun p => slotWrite s k r.qi f acc true g p)

/-- Send one slot that has been read (R206, R210): at once on the module, gathered into packets of 64 for another module (R285). -/
def sendSlot (s : State) (k : Nat) (r : Run) (d : SlotSend) (g n : Nat) (data : List Byte) (tag : Byte) (poison : Bool) : State × Run :=
  let p : Piece := ⟨gaLocal g + 64 * r.next, data, some tag, poison, false⟩
  let r := { r with next := r.next + 1, blocked := none }
  let s := match d with | .put _ _ _ => s.modCell k fun c => c.tally 6 1 | .hbm _ => s
  let out := fun (fl : Flight) => ((s.modCell k fun c => c.outstMore r.qi.seq).launch fl, r)
  match d with
  | .put f acc far =>
    if far then
      let r := { r with wr := r.wr ++ [p] }
      if 64 ≤ r.wr.length ∨ n ≤ 64 * r.next then (flushFar s k r f acc g, { r with wr := [] }) else (s, r)
    else out (.write (slotWrite s k r.qi f acc false g p))
  | .hbm f => out (.hbmWrite k r.qi.seq p.addr data tag poison (if f.cntEn then some f.ctr else none))

/-- Send the slots of a source from the run's position on (R205): blocks on an empty slot. -/
def sendF (k : Nat) (d : SlotSend) (src g n : Nat) : Nat → State × Run → State × Run
  | 0, s => s
  | fuel + 1, (s, r) =>
    if n ≤ 64 * r.next then (s, r.finish)
    else
      let a := src + 64 * r.next
      let x := Fx.of (s.cell k)
      match x.c.firstEmpty [a / 64] with
      | some e => (s, r.block e false)
      | none =>
        let rd := x.readRange a 64
        let tag := if a / 64 < 512 then x.c.tagOf (a / 64) else 0
        sendF k d src g n fuel (sendSlot (s.put k rd.1) k r d g n rd.2.1 tag rd.2.2)

/-- Go on sending (R146, R157): the instruction is outstanding from its first access on, with one count of its own until its last slot has left; then the unit is free. -/
def sendGo (s : State) (k : Nat) (r : Run) (d : SlotSend) (src g n level : Nat) : State :=
  let s := if r.begun then s else s.modCell k fun c => c.addOutst ⟨r.qi.seq, level, 1, 0, true, none⟩
  let p := sendF k d src g n (n / 64 + 1) (s, { r with blocked := none, begun := true })
  if p.2.done then p.1.modCell k fun c => (c.setMem none).outstDone r.qi.seq
  else p.1.modCell k (Cell.setMem (some p.2))

/-- PUT and ACCW (R192, R201). -/
def putGo (s : State) (k : Nat) (r : Run) (f : PutF) (acc : Option (BitVec 2)) : State :=
  let q := r.qi
  let n := (q.count f.rn).getD 0
  let g := q.pair f.rd
  let far := !gaOwn (s.identOf k) g
  sendGo s k r (.put f acc far) (q.addr f.ra) g n (if far then 4 else levelOf k (gaLocal g))

/-- HBMWR (R192, R216). -/
def hbmwrGo (s : State) (k : Nat) (r : Run) (f : XferF) : State :=
  let q := r.qi
  let n := (q.count f.rn).getD 0
  sendGo s k r (.hbm f) (q.addr f.ra) (gaLocal (q.pair f.rd)) n (levelOf k (gaLocal (q.pair f.rd)))

/-- LD (R192, R194): the word waits in the run for its register. -/
def ldGo (x : Fx) (r : Run) (a : Nat) : Fx × Run :=
  match x.c.firstEmpty (slotsOf a 4) with
  | some e => (x, r.block e false)
  | none =>
    let rd := x.readRange a 4
    (rd.1, { r with value := leNat rd.2.1, blocked := none }.finish)

/-- TAGSET and TAGCLR (R205): only slots of tagged windows change. -/
def tagSet (c : Cell) (full : Bool) (a n : Nat) : Cell :=
  (List.range' (a / 64) n).foldl (fun c i => if c.tagged i then { c with full := setBit c.full i full } else c) c

/-- The address that a memory instruction's check refuses, if any (R200, R201). -/
def memRefused (s : State) (k : Nat) (q : QI) : Option Nat :=
  let c := s.cell k
  let down := fun (a n : Nat) => if c.bankDown a n then some (cellBase k + a) else none
  let ident := s.identOf k
  match q.op with
  | .ld _ ra imm => down ((q.reg ra.toNat + imm.zeroExtend 32).toNat % 2 ^ 16) 4
  | .st f =>
    if f.form then down ((q.reg f.rd.toNat + f.imm.zeroExtend 32).toNat % 2 ^ 16) 4
    else (down (q.addr f.ra) ((q.count f.rn).getD 0)).or (down (q.addr f.rd) ((q.count f.rn).getD 0))
  | .put f =>
    let n := (q.count f.rn).getD 0
    let g := q.pair f.rd
    (down (q.addr f.ra) n).or (if gaOwn ident g && !s.cellRange k (gaLocal g) n then some (gaLocal g) else none)
  | .accw f _ =>
    let n := (q.count f.rn).getD 0
    let g := q.pair f.rd
    (down (q.addr f.ra) n).or (if gaOwn ident g && !s.cellRange k (gaLocal g) n then some (gaLocal g) else none)
  | .get f =>
    let n := (q.count f.rn).getD 0
    (down (q.addr f.rd) n).or (if s.cellRange k (gaLocal (q.pair f.ra)) n then none else some (gaLocal (q.pair f.ra)))
  | .hbmrd f =>
    let n := (q.count f.rn).getD 0
    (down (q.addr f.rd) n).or (if s.hbmRange k (gaLocal (q.pair f.ra)) n then none else some (gaLocal (q.pair f.ra)))
  | .hbmwr f =>
    let n := (q.count f.rn).getD 0
    (down (q.addr f.ra) n).or (if s.hbmRange k (gaLocal (q.pair f.rd)) n then none else some (gaLocal (q.pair f.rd)))
  | .tagset _ ra rn => down (q.addr ra) (64 * (q.count rn).getD 0)
  | .csend f => (down (q.addr f.ra) (combElem f.op * (q.count f.rn).getD 0)).or (down (q.addr f.rt) 32)
  | .crecv f => (down (q.addr f.ra) (combElem f.op * (q.count f.rn).getD 0)).or (down (q.addr f.rt) 32)
  | _ => none

/-- Begin or resume a memory instruction whose check has passed. -/
def memGo (s : State) (k : Nat) (r : Run) : State :=
  let c := s.cell k
  let q := r.qi
  let keep := fun (p : Fx × Run) => s.put k (p.1.map (Cell.setMem (some p.2)))
  let ctr := fun (f : XferF) => if f.cntEn then some f.ctr else none
  match q.op with
  | .ld _ ra imm => keep (ldGo (Fx.of c) r ((q.reg ra.toNat + imm.zeroExtend 32).toNat % 2 ^ 16))
  | .st f =>
    if f.form then
      let a := (q.reg f.rd.toNat + f.imm.zeroExtend 32).toNat % 2 ^ 16
      keep (writeOn (Fx.of c) { r with begun := true, blocked := none, wr := [⟨a, leBytes 4 (q.reg f.rn.toNat).toNat, none, false, true⟩] })
    else
      let n := (q.count f.rn).getD 0
      keep (copyF f.tag (q.addr f.ra) (q.addr f.rd) n (n / 64 + 1) (Fx.of c, { r with blocked := none }))
  | .put f => putGo s k r f none
  | .accw f acc => putGo s k r f (some acc)
  | .get f =>
    let n := (q.count f.rn).getD 0
    (s.modCell k fun c => (c.setMem none).addOutst ⟨q.seq, 0, n / 64, framesIn (q.addr f.rd) n, true, none⟩).launch
      (.getReq k q.seq (gaLocal (q.pair f.ra)) (q.addr f.rd) n (ctr f))
  | .hbmrd f =>
    let n := (q.count f.rn).getD 0
    let s := s.modCell k fun c => (c.setMem none).addOutst ⟨q.seq, 0, n / 64, framesIn (q.addr f.rd) n, true, none⟩
    (List.range (n / 64)).foldl (fun s i => s.launch (.hbmRead k q.seq (gaLocal (q.pair f.ra) + 64 * i) (q.addr f.rd + 64 * i) (ctr f))) s
  | .hbmwr f => hbmwrGo s k r f
  | .tagset full ra rn => keep ((Fx.of c).map fun c => tagSet c full (q.addr ra) ((q.count rn).getD 0), r.finish)
  | .csend f => issueSend s k (s.imgOf k) (Fx.of c) q f
  | .crecv f => issueRecv s k (s.imgOf k) (Fx.of c) q f
  | _ => s

/-- Issue a memory instruction (R201): a refused access is not executed. -/
def issueMem (s : State) (k : Nat) (q : QI) : State :=
  match memRefused s k q with
  | some a => s.put k (((Fx.of (s.cell k)).refused a).map (Cell.setMem (some (Run.start q).finish)))
  | none => memGo s k (Run.start q)

/-- Go on with a memory instruction whose tag block is released (R205). -/
def resumeMem (s : State) (k : Nat) (r : Run) : State :=
  match r.qi.op with
  | .csend f => if r.begun then feedSend s k else issueSend s k (s.imgOf k) (Fx.of (s.cell k)) r.qi f
  | .crecv f =>
    if r.begun then
      let p := writeOn (Fx.of (s.cell k)) { r with blocked := none }
      let m := (r.qi.count f.rn).getD 0
      let run := if p.2.blocked.isSome then p.2 else { p.2 with done := Nat.ble (combGroups f.op m) p.2.next }
      deliverRoot (s.put k (p.1.map (Cell.setMem (some run)))) (cellBlk k) (runChan r)
    else issueRecv s k (s.imgOf k) (Fx.of (s.cell k)) r.qi f
  | _ => memGo s k r

/-! Arrivals. -/

/-- Add the elements of an ACCW slot (R213): the bytes and the saturated elements. -/
def accwAdd (acc : BitVec 2) (old new : List Byte) : List Byte × Nat :=
  if acc = 2 then
    ((List.zip (chunks 2 old) (chunks 2 new)).flatMap fun p => leBytes 2 (vecFloat .add 8 .rne (decodeElem 8 (leNat p.1)) (decodeElem 8 (leNat p.2)) (decodeElem 8 0)), 0)
  else
    let r := (List.zip (chunks 4 old) (chunks 4 new)).map fun p => accAdd (acc == 1) ⟨leNat p.1, 0⟩ ⟨leNat p.2, 0⟩
    (r.flatMap fun y => leBytes 4 y.bits, (r.map (·.sats)).sum)

/-- An acknowledgement goes back to a writer of this module (R157). -/
def ackBack (s : State) (w : RemoteWrite) : State :=
  if w.srcModule = s.identOf w.src ∨ w.srcModule = 0xFFF then s.launch (.ack w.src w.seq) else s

/-- A PUT or ACCW slot lands in a cell: data, tag, poison, counter, acknowledgement (R206, R210, R213). -/
def landCell (s : State) (t off : Nat) (w : RemoteWrite) : State :=
  let x := Fx.of (s.cell t)
  let x := match w.acc with
    | none => x.map fun c => c.writePiece ⟨off, w.data, some w.tag, w.poison, true⟩
    | some acc =>
      let x := x.checkSlots [off / 64]
      let r := accwAdd acc (memRead x.c.mem off 64) w.data
      let was := Nat.blt (off / 64) 512 && x.c.isPoison (off / 64)
      x.map fun c => (c.writePiece ⟨off, r.1, some w.tag, w.poison || was, false⟩).count rAccwSat r.2
  ackBack (s.put t ((x.map fun c => c.tally 7 1).arriveOpt w.ctr)) w

/-- A PUT or ACCW slot of another module lands in HBM (R210, R213, R217). The controller checks a block that an ACCW reads; no cell of this module requested that read, so the region records what it finds (log entry 31). -/
def landHbm (s : State) (w : RemoteWrite) : State :=
  let s := match w.acc with
    | none => { s with hbm := s.hbm.write w.addr w.data (some w.tag) w.poison }
    | some acc =>
      let s := s.checkBlock (w.addr / 64)
      { s with hbm := s.hbm.write w.addr (accwAdd acc (memRead s.hbm.mem w.addr 64) w.data).1 (some w.tag) (w.poison || s.hbm.isPoison (w.addr / 64)) }
  match w.countCell, w.ctr with
  | some cc, some ctr =>
    let t := (field cc 15 4 * 150 + field cc 7 8) * 128 + field cc 0 7
    ackBack (s.fx t fun x => x.arrive ctr.toNat) w
  | _, _ => ackBack s w

/-- What keeps a slot from landing in a cell: a busy frame, or a full slot of a tagged window (R101, R206). -/
inductive LandBlock where
  | free
  | frame (f : BitVec 2)
  | full (slot : Nat)
  deriving DecidableEq, Repr

/-- The frame of a window offset. -/
def frameAt (off : Nat) : BitVec 2 := BitVec.ofNat 2 ((off - 0x8000) / 0x2000)

/-- Whether a remote write may land at an offset of a cell. -/
def landBlock (c : Cell) (off : Nat) (acc : Bool) : LandBlock :=
  if 0x8000 ≤ off then (if c.busyFrames &&& framesIn off 64 ≠ 0 then .frame (frameAt off) else .free)
  else if !acc && c.blocksWrite (off / 64) then .full (off / 64) else .free

/-- A remote write reaches its destination on this module (R101, R205, R206): it lands, or the inbound port of the cell holds it. A write behind a held one waits. -/
def arriveWrite (s : State) (id : Nat) (w : RemoteWrite) : State :=
  match cellAddr w.addr with
  | none => landHbm (s.land id) w
  | some (t, off) =>
    let c := s.cell t
    if (s.rgn (cellRgn t)).owner.isNone then ackBack (s.land id) w
    else
      match c.units.port with
      | some _ => s
      | none =>
        match landBlock c off w.acc.isSome with
        | .free => landCell (s.land id) t off w
        | .frame f =>
          s.modCell t fun c => ((c.count rTileConflict 1).sum 0x0322 1 []).setUnits fun u => { u with port := some ⟨id, ⟨off / 64, true, 0, false⟩, some f⟩ }
        | .full slot => s.modCell t (Cell.setUnits fun u => { u with port := some ⟨id, ⟨slot, true, 0, false⟩, none⟩ })

/-- The held arrival of a cell's inbound port lands once nothing blocks it (R101, R205). -/
def releasePort (s : State) (t : Nat) : State :=
  match (s.cell t).units.port with
  | none => s
  | some h =>
    match s.flight h.flight with
    | some (.write w) =>
      match cellAddr w.addr with
      | some (_, off) =>
        match landBlock (s.cell t) off w.acc.isSome with
        | .free => landCell ((s.modCell t (Cell.setUnits fun u => { u with port := none })).land h.flight) t off w
        | _ => s
      | none => s
    | _ => s.modCell t (Cell.setUnits fun u => { u with port := none })

/-- GET data or HBM read data reach the issuing cell's slot (R206, R217): written and counted, or blocked on a full slot. -/
def arriveData (s : State) (id k seq dst : Nat) (data : List Byte) (tag : Byte) (poison : Bool) (ctr : Option (BitVec 4)) : State :=
  let c := s.cell k
  if !(c.units.outst.any fun o => o.seq == seq) then s.land id
  else if c.units.outst.any fun o => (match o.block with | some b => b.1 != id | none => false) then s
  else if Nat.blt dst 0x8000 && c.blocksWrite (dst / 64) then
    s.setCell k (c.setUnits fun u => { u with outst := u.outst.map fun o =>
      if o.seq = seq then { o with block := some ((o.block.getD (id, ⟨dst / 64, true, 0, false⟩))) } else o })
  else
    let c := c.setUnits fun u => { u with outst := u.outst.map fun o => if o.seq = seq then { o with block := none } else o }
    ((s.land id).put k (((Fx.of c).map fun c => (c.writePiece ⟨dst, data, some tag, poison, true⟩).tally 7 1).arriveOpt ctr)).modCell k fun c => c.outstDone seq

/-- A GET request reads its source slots without tag checks (R206); the remote cell meets what their protection finds, and a slot already poisoned (R219, log entry 31). -/
def serveGet (s : State) (id k seq addr dst n : Nat) (ctr : Option (BitVec 4)) : State :=
  match cellAddr addr with
  | none => s.land id
  | some (t, off) =>
    (List.range (n / 64)).foldl (fun s i =>
      let a := off + 64 * i
      let slot := a / 64
      let x := (Fx.of (s.cell t)).checkSlots [slot]
      let tag := if slot < 512 then x.c.tagOf slot else 0
      (s.put t (x.map fun c => c.tally 6 1)).launch (.getData k seq (dst + 64 * i) (memRead x.c.mem a 64) tag (Nat.blt slot 512 && x.c.isPoison slot) ctr)) (s.land id)

/-- Traffic of one memory engine to one stack, by cell and region (R216). -/
def hbmOrder (f : Flight) : Option (Nat × Nat) :=
  match f with
  | .hbmRead k _ a _ _ => some (k, hbmRgn a)
  | .hbmWrite k _ a _ _ _ _ => some (k, hbmRgn a)
  | _ => none

/-- No earlier request of the same memory engine to the same stack is on its way (R156, R216). -/
def State.hbmFirst (s : State) (id : Nat) (f : Flight) : Bool :=
  !(s.flights.any fun g => Nat.blt g.1 id && hbmOrder g.2 == hbmOrder f)

/-- HBM read data return (R217, R219): the block's tag and poison come with it; an uncorrectable error stops the requester. `upset` are bits of the block that have flipped since it was written or last corrected. -/
def hbmReadArrive (s : State) (id k seq addr dst : Nat) (ctr : Option (BitVec 4)) (upset : List Nat) : State :=
  if !s.hbmFirst id (.hbmRead k seq addr dst ctr) then s
  else
    let c := (s.hbm.flip (addr / 64) upset).check (addr / 64)
    let s := { s.modCell k (fun c => c.tally 8 1) with hbm := c.1 }.hbmCounted (hbmRgn addr) c.2
    let s := match c.2 with
      | .bad inj => s.fx k fun x => x.fault 0x0114 (leBytes 8 addr) inj
      | _ => s
    let f := Flight.getData k seq dst (memRead s.hbm.mem addr 64) (mapGet 0 s.hbm.tags (addr / 64)) (s.hbm.isPoison (addr / 64)) ctr
    arriveData { s with flights := mapPut s.flights id f } id k seq dst (memRead s.hbm.mem addr 64) (mapGet 0 s.hbm.tags (addr / 64))
      (s.hbm.isPoison (addr / 64)) ctr

/-- An HBM write block reaches the ordering point and is acknowledged (R216, R217, R210). -/
def hbmWriteArrive (s : State) (id k seq addr : Nat) (data : List Byte) (tag : Byte) (poison : Bool) (ctr : Option (BitVec 4)) : State :=
  if !s.hbmFirst id (.hbmWrite k seq addr data tag poison ctr) then s
  else
    let s := { s.land id with hbm := s.hbm.write addr data (some tag) poison }
    (s.fx k fun x => x.arriveOpt ctr).modCell k fun c => (c.outstDone seq).tally 8 1

end Sys2Proof.Machine
end

