-- ==== Sys2Proof/Machine/Sequencer.lean ====
section
/-! DEFINITION. The sequencer: dispatch, issue, completion, loops, waits, signals, stops (spec/07_cell_execution.md R145 to R167; spec/08_instruction_reference.md R173, R177 to R180). -/
namespace Sys2Proof.Machine

/-- Seed of the job of a cell (R40, R245). -/
def State.seedOf (s : State) (k : Nat) : Nat :=
  match s.jobOf (cellRgn k) with
  | some j => bookSeed j.img
  | none => 0

/-- A cell may dispatch (R145, R157, R164, R167, R265): its region runs a begun job without a change hold, and the sequencer runs and neither waits nor is halted. -/
def State.mayDispatch (s : State) (k : Nat) : Bool :=
  let q := (s.cell k).seq
  (s.rgn (cellRgn k)).assigned && (match s.jobOf (cellRgn k) with | some j => j.begun && j.chg.isNone | none => false)
    && q.running && q.wait.isNone && !q.dbgHalt

/-! Small steps of the sequencer. -/

/-- Go to an instruction offset; one outside the store is met when it is fetched (R165). -/
def Fx.goto (x : Fx) (p : Nat) : Fx := x.map (Cell.setSeq fun q => { q with pc := BitVec.ofNat 17 p, pcOut := Nat.ble 0x20000 p })

/-- Go to the next instruction. -/
def Fx.next (x : Fx) : Fx := x.goto (x.c.seq.pc.toNat + 8)

/-- Write an A register (R180). -/
def Seq.setA (q : Seq) (r : AReg) (v : Word) : Seq := { q with a := setAt q.a r.toNat v }
/-- An A register. -/
def Seq.reg (q : Seq) (r : AReg) : Word := q.a.getD r.toNat 0

/-- The predicate of an instruction (R153): P0 always reads 1. -/
def Seq.holds (q : Seq) (p : Pred) : Bool := (p.psel == 0 || q.p.getLsbD p.psel.toNat) != p.pneg

/-- The instruction at the PC dispatches from the loop buffer (R151): it lies in the captured body, and the first iteration is over. -/
def Seq.inBuf (q : Seq) : Bool :=
  q.captured && !q.pcOut && (match q.buf with | some b => Nat.ble b.2.1 q.pc.toNat && Nat.ble q.pc.toNat b.2.2 | none => false)

/-- Empty the loop buffer where it belongs to a loop that is no longer open (R151). -/
def Seq.dropBuf (q : Seq) : Seq :=
  match q.buf with
  | some b => if (q.loops.getD b.1.toNat ⟨false, 0, 0⟩).opened then q else { q with buf := none, captured := false }
  | none => q

/-- Close the loops that a taken branch leaves, and empty the loop buffer of a captured one (R150, R151). -/
def Seq.leave (q : Seq) (target : Nat) : Seq :=
  let shut := fun (l : LoopRec) => if l.opened && !(Nat.ble l.start target && Nat.ble target l.stop) then { l with opened := false } else l
  Seq.dropBuf { q with loops := q.loops.map shut }

/-- A taken branch (R151, R178); a target below the store lies outside it as one above does. -/
def Fx.branch (x : Fx) (target : Int) : Fx :=
  if target < 0 then x.map (Cell.setSeq fun q => { q.leave 0x20000 with pc := BitVec.ofInt 17 target, pcOut := true })
  else (x.map (Cell.setSeq fun q => q.leave target.toNat)).goto target.toNat

/-- LOOP (R150, R151). -/
def loopStep (x : Fx) (f : LoopF) : Fx :=
  let q := x.c.seq
  let n := if f.src then q.reg f.ra else f.imm.zeroExtend 32
  let pc := q.pc.toNat
  let stop := pc + 8 * f.dist.toNat
  if (q.loops.getD f.ln.toNat ⟨false, 0, 0⟩).opened then x.faultNow 0x0353 []
  else
    let x := x.map (Cell.setSeq fun q => { q with l := setAt q.l f.ln.toNat n })
    if n = 0 then x.goto (stop + 8)
    else (x.map (Cell.setSeq fun q => { q with loops := setAt q.loops f.ln.toNat ⟨true, pc + 8, stop⟩,
                                               buf := if f.dist.toNat ≤ 64 then some (f.ln, pc + 8, stop) else q.buf,
                                               captured := q.captured && Nat.blt 64 f.dist.toNat })).next

/-- ENDLOOP (R150): the end of the first iteration of the body in the loop buffer ends its capture, and the end of the loop empties the buffer (R151). -/
def endloopStep (x : Fx) (ln : BitVec 2) : Fx :=
  let q := x.c.seq
  let l := q.loops.getD ln.toNat ⟨false, 0, 0⟩
  if !l.opened || l.stop != q.pc.toNat then x.faultNow 0x0353 []
  else
    let n := q.l.getD ln.toNat 0 - 1
    let x := x.map (Cell.setSeq fun q => { q with l := setAt q.l ln.toNat n })
    if n = 0 then (x.map (Cell.setSeq fun q => Seq.dropBuf { q with loops := setAt q.loops ln.toNat { l with opened := false } })).next
    else (x.map (Cell.setSeq fun q => { q with captured := q.captured || q.buf == some (ln, l.start, l.stop) })).goto l.start

/-- Register-to-register operation (R180). -/
def aluOp (k : AluKind) (a b : Word) : Word :=
  match k with
  | .add => a + b
  | .sub => a - b
  | .and => a &&& b
  | .or => a ||| b

/-- SHL and SHR (R180). -/
def shiftOp (right arith : Bool) (a : Word) (n : Nat) : Word :=
  if right then (if arith then a.sshiftRight n else a >>> n) else a <<< n

/-- The conditions of CMP (R180). -/
def cmpOp (cond : Nat) (a b : Word) : Bool :=
  match cond with
  | 0 => a == b
  | 1 => a != b
  | 2 => a.slt b
  | 3 => !a.slt b
  | 4 => a.ult b
  | 5 => !a.ult b
  | _ => false

/-- Write a predicate; a write to P0 is discarded (R152). -/
def Seq.setP (q : Seq) (pd : BitVec 3) (b : Bool) : Seq := if pd = 0 then q else { q with p := setBit q.p pd.toNat b }

/-- SETCFG (R148, R179). A stream's earlier ring stays for the instructions dispatched before. -/
def setcfgStep (c : Cell) (sel v : Nat) : Cell :=
  if sel = 1 then c.setRegs fun r => { r with threshold := BitVec.ofNat 8 v }
  else if sel = 2 then c.setRegs fun r => { r with forceDense := bitAt v 0 }
  else
    let i := sel - 0x10
    let idle : Bool := c.units.all.isEmpty
    c.setMr fun r => { r with streams := (r.streams.filter fun s => !idle || s.no != i) ++ [⟨i, c.seq.nextSeq, true, BitVec.ofNat 9 v, BitVec.ofNat 10 (v / 512), BitVec.ofNat 9 v⟩] }

/-! Completion and visibility (R146, R157, R158). -/

/-- Every instruction dispatched before number `n` has completed, and its writes are visible within a scope (R157). -/
def Cell.fenced (c : Cell) (scope n : Nat) : Bool :=
  (c.units.all.all fun q => Nat.ble n q.seq) && c.units.outst.all fun o => Nat.ble n o.seq || Nat.blt scope o.level

/-- Instructions that write nothing. -/
def writesNone : CellOp → Bool
  | .ld _ _ _ => true
  | .swatch => true
  | .slotinv _ => true
  | .tagset _ _ _ => true
  | _ => false

/-- Fence level of what an instruction writes (R157): that of its destination, for a CSEND that of its root. -/
def writeLevel (ident : BitVec 12) (k : Nat) (c : Cell) (q : QI) : Nat :=
  let put := fun (f : PutF) => if gaOwn ident (q.pair f.rd) then levelOf k (gaLocal (q.pair f.rd)) else 4
  match q.op with
  | .put f => put f
  | .accw f _ => put f
  | .hbmwr f => levelOf k (gaLocal (q.pair f.rd))
  | .csend f => descLevel (memRead c.mem (q.addr f.rt) 32) + 1
  | _ => 0

/-- Every write dispatched before number `n` whose destination lies within a scope is visible there (R158). -/
def Cell.visible (ident : BitVec 12) (k : Nat) (c : Cell) (scope n : Nat) : Bool :=
  (c.units.all.all fun q => Nat.ble n q.seq || writesNone q.op || Nat.blt scope (writeLevel ident k c q))
    && c.units.outst.all fun o => Nat.ble n o.seq || !o.write || Nat.blt scope o.level

/-- Scope of a signal's release (R158, R159): the region for a cue of the cell's own region, else the module. -/
def sigScope (k : Nat) (g : Sig) : Nat := if g.remote.isNone ∧ cueRgn g.cue = cellRgn k then 2 else 3

/-- The first signal of the queue leaves, once it may (R158, R159). -/
def releaseSig (s : State) (k : Nat) : State :=
  let c := s.cell k
  match c.seq.sigs with
  | [] => s
  | g :: t =>
    if g.rel && !c.visible (s.identOf k) k (sigScope k g) g.seq then s
    else
      let s := s.modCell k (Cell.setSeq fun q => { q with sigs := t })
      match g.remote with
      | none => addCue s g.cue g.count
      | some m => sendCuePacket s k m g.cue g.count

/-! Issue (R59, R146, R162). -/

/-- Instructions of the compute track (R59). -/
def onCompute : CellOp → Bool
  | .mvm _ _ => true
  | .swatch => true
  | _ => false

/-- The memory engine still waits for data that an earlier instruction reads from elsewhere (R155): instructions of one unit take effect in program order. -/
def Cell.awaitsData (c : Cell) : Bool := c.units.outst.any fun o => o.block.isSome || o.level == 0

/-- A unit issues the instruction at the head of its queue, once it may (R146, R155, R395). -/
def tryIssue (s : State) (k : Nat) (u : CellUnit) : State :=
  let c := s.cell k
  let lead := isLead (cellNo k)
  match c.units.queue u with
  | [] => s
  | q :: t =>
    let c' := c.setUnits fun v => v.setQueue u t
    match u with
    | .array =>
      if !c.arrayReady q || (onCompute q.op && !s.rampRoom k) then s
      else
        let r := issueArray lead (Fx.of c') q
        s.put k (r.1.map (Cell.setUnits fun v => if onCompute q.op then { v with comp := some r.2 } else { v with wload := some r.2 }))
    | .acc =>
      if c.units.acc.isSome then s
      else
        let r := issueAcc lead (Fx.of c') q
        s.put k (r.1.map (Cell.setUnits fun v => { v with acc := some r.2 }))
    | .vector =>
      if c.units.vec.isSome || !s.rampRoom k then s
      else
        let r := issueVector lead (s.seedOf k) (Fx.of c') q
        s.put k (r.1.map (Cell.setUnits fun v => { v with vec := some r.2 }))
    | .memory =>
      if c.units.mem.isSome || c.awaitsData then s
      else issueMem (s.setCell k c') k q

/-! Dispatch. -/

/-- What an instruction reads at dispatch (R147, R148). -/
def mkQI (c : Cell) (p : Pred) (op : CellOp) (seen : List MarginObs) : QI :=
  ⟨c.seq.nextSeq, op, c.seq.a, c.map, c.regs.threshold, c.regs.forceDense, encodeCell p op, seen⟩

/-- The instruction waits at dispatch (R100, R154): a wait for a busy frame counts once. -/
def holdAt (s : State) (k : Nat) (h : Held) (conflict : Bool) : State :=
  let first := conflict && !h.counted
  s.modCell k fun c =>
    (if first then (c.count rTileConflict 1).sum 0x0322 1 [] else c).setSeq fun q => { q with held := some { h with counted := h.counted || conflict } }

/-- Give an instruction its number and go to the next (R145). -/
def Fx.number (x : Fx) : Fx := (x.map (Cell.setSeq fun q => { q with nextSeq := q.nextSeq + 1 })).next

/-- A wait begins (R157, R160, R161). -/
def Fx.wait (x : Fx) (w : Wait) : Fx := x.number.map (Cell.setSeq fun q => if q.running then { q with wait := some w } else q)

/-- HALT (R163, R166). -/
def haltStep (s : State) (k : Nat) : State :=
  s.fx k fun x =>
    if x.c.seq.stopPending then x.stopPoint
    else
      let n := x.c.seq.nextSeq
      let x := x.number
      if x.c.fenced 0 n then x.map (Cell.setSeq fun q => { q with state := 2 })
      else x.map (Cell.setSeq fun q => { q with wait := some (.halt n) })

/-- CUEWAIT (R160, R163). -/
def cuewaitStep (s : State) (k : Nat) (q : QI) (f : CueWaitF) : State :=
  let target := q.reg f.ra.toNat + f.imm.zeroExtend 32
  let v := (s.cue f.cue.toNat).value
  s.fx k fun x =>
    if x.c.seq.stopPending then x.stopPoint
    else if reached v target then x.number
    else x.wait (.cue f.cue.toNat target)

/-- CUESIG (R158, R159): it waits for room in the signal queue; a relaxed one that finds the queue empty leaves at once. -/
def cuesigStep (s : State) (k : Nat) (q : QI) (h : Held) (f : CueSigF) : State :=
  let c := s.cell k
  if 4 ≤ c.seq.sigs.length then holdAt s k h false
  else
    let n := if f.src then q.reg f.rc.toNat else f.imm.zeroExtend 32
    let g : Sig := ⟨f.cue.toNat, n, f.rel, q.seq, if f.remote then some ((q.reg f.rm.toNat).setWidth 12) else none⟩
    let s' := s.fx k fun x => (x.map (Cell.setSeq fun q => { q with sigs := q.sigs ++ [g] })).number
    if c.seq.sigs.isEmpty && !f.rel then releaseSig s' k else s'

/-- A suppressed signal is a NOP (R163). -/
def suppressSig (s : State) (k : Nat) : State :=
  s.fx k fun x => (x.map fun c => (c.count rSigSuppress 1).setSeq fun q => { q with suppressed := q.suppressed + 1 }).next

/-- The count that a WAITC asks for (R177). -/
def waitcCount (q : QI) (f : WaitcF) : Nat := if f.src then (q.reg f.ra.toNat).toNat % 2 ^ 16 else f.imm.toNat

/-- Take `n` from an arrival counter (R161). -/
def Cell.takeCount (c : Cell) (ctr n : Nat) : Cell :=
  c.setMr fun r => let a := r.arrival.getD ctr (0, false); { r with arrival := setAt r.arrival ctr (a.1 - BitVec.ofNat 16 n, a.2) }

/-- An arrival counter's value. -/
def Cell.arrivals (c : Cell) (ctr : Nat) : Nat := (c.mr.arrival.getD ctr (0, false)).1.toNat

/-- WAITC (R161). -/
def waitcStep (s : State) (k : Nat) (q : QI) (f : WaitcF) : State :=
  let n := waitcCount q f
  s.fx k fun x =>
    if n ≤ x.c.arrivals f.ctr.toNat then (x.map fun c => c.takeCount f.ctr.toNat n).number
    else x.wait (.ctr f.ctr.toNat n 0)

/-- FENCE (R157). -/
def fenceStep (s : State) (k : Nat) (scope : BitVec 3) : State :=
  s.fx k fun x => if x.c.fenced scope.toNat x.c.seq.nextSeq then x.number else x.wait (.fence scope.toNat x.c.seq.nextSeq)

/-- A control or scalar instruction, or AROT, with its operands in range (R88, R177 to R180). -/
def controlStep (s : State) (k : Nat) (q : QI) (h : Held) : State :=
  let setA := fun (rd : AReg) (v : Word) => s.fx k fun x => (x.map (Cell.setSeq fun y => y.setA rd v)).number
  match q.op with
  | .nop => s.fx k Fx.number
  | .halt => haltStep s k
  | .loop f => s.fx k fun x => loopStep x f
  | .endloop ln => s.fx k fun x => endloopStep x ln
  | .br o => s.fx k fun x => x.branch (x.c.seq.pc.toNat + 8 * o.toInt)
  | .brp ra => s.fx k fun x => x.branch (q.reg ra.toNat).toNat
  | .cuewait f => cuewaitStep s k q f
  | .cuesig f => cuesigStep s k q h f
  | .waitc f => waitcStep s k q f
  | .fence scope => fenceStep s k scope
  | .setcfg f => s.fx k fun x => (x.map fun c => setcfgStep c f.sel.toNat (setcfgVal q f)).number
  | .li rd imm => setA rd imm
  | .alu o rd ra rb => setA rd (aluOp o (q.reg ra.toNat) (q.reg rb.toNat))
  | .addi rd ra imm => setA rd (q.reg ra.toNat + imm.signExtend 32)
  | .shift right f => setA f.rd (shiftOp right f.arith (q.reg f.ra.toNat) (if f.i then f.sh.toNat else (q.reg f.rb.toNat).toNat % 32))
  | .cmp f => s.fx k fun x => (x.map (Cell.setSeq fun y =>
      y.setP f.pd (cmpOp f.cond.toNat (q.reg f.ra.toNat) (if f.i then f.imm.signExtend 32 else q.reg f.rb.toNat)))).number
  | .arot form => s.fx k fun x => (arot (isLead (cellNo k)) x q.word form).number
  | _ => s

/-- Put an instruction into its unit's queue (R146); an LD marks its register pending (R152). -/
def enqueue (s : State) (k : Nat) (u : CellUnit) (q : QI) : State :=
  s.fx k fun x =>
    (x.map fun c => (c.setUnits fun v => v.setQueue u (v.queue u ++ [q])).setSeq fun y =>
      match q.op with
      | .ld rd _ _ => { y with pendingA := setBit y.pendingA rd.toNat true }
      | _ => y).number

/-- A signal of a cell with a stop pending is suppressed (R163). -/
def Seq.mutes (q : Seq) (op : CellOp) : Bool :=
  match op with
  | .cuesig _ => q.stopPending
  | _ => false

/-- Dispatch an instruction whose predicate is true, or let it wait (R100, R146, R154, R163, R173). -/
def attempt (s : State) (k : Nat) (h : Held) : State :=
  let s := s.modCell k (Cell.setSeq fun q => { q with held := none })
  let c := s.cell k
  let q := mkQI c h.p h.op h.seen
  if c.seq.mutes h.op then suppressSig s k
  else if c.seq.pends h.op then holdAt s k h false
  else if formatBad h.op then s.fx k fun x => (x.badFormat).next
  else if rangeBad (isLead (cellNo k)) (s.identOf k) (s.jobOf (cellRgn k)) c q then s.fx k Fx.outOfRange
  else
    match unitOf h.op with
    | none => controlStep s k q h
    | some u =>
      if 4 ≤ (c.units.queue u).length then holdAt s k h false
      else if framesOf c q &&& c.busyOthers u ≠ 0 then holdAt s k h true
      else tryIssue (enqueue s k u q) k u

/-- Stop a cell that fetches a bad line (R419). -/
def stopBadLine (x : Fx) : Fx :=
  (x.map (Cell.setSeq fun q => if q.stopPending then { q with later := q.later + 1 } else { q with firstCause := 0x0116 })).stop

/-- The PC lies outside the cell's program image or outside the block instruction store (R165). -/
def Seq.outside (q : Seq) : Bool := q.pcOut || Nat.blt q.pc.toNat q.imgAt || Nat.ble (q.imgAt + q.imgLen) q.pc.toNat

/-- The stop that the fetch of the instruction at the PC meets, if any (R165, R419); one in the loop buffer is not fetched (R151). -/
def State.fetchStop (s : State) (k : Nat) : Option (Fx → Fx) :=
  let q := (s.cell k).seq
  if q.inBuf then none
  else if q.outside then some fun x => x.faultNow 0x0351 []
  else if (s.blk (cellBlk k)).badLines.contains (q.pc.toNat / 64) then some stopBadLine
  else none

/-- The instruction at the PC reaches dispatch: its fetch, the first decoding stage, its predicate, then the rest (R149, R153, R165, R173, R419). -/
def arrive (s : State) (k : Nat) (p : Pred) (op : CellOp) (seen : List MarginObs) : State :=
  match s.fetchStop k with
  | some f => s.fx k f
  | none =>
    if !stage1 op then s.fx k Fx.outOfRange
    else if !(s.cell k).seq.holds p then s.fx k Fx.next
    else attempt s k ⟨p, op, seen, false⟩

/-- One instruction of a running cell (R145): nothing happens where the cell cannot dispatch it. -/
def dispatch (s : State) (k : Nat) (p : Pred) (op : CellOp) (seen : List MarginObs := []) : State :=
  if s.mayDispatch k && (s.cell k).seq.held.isNone then arrive s k p op seen else s

/-- A CUEWAIT or WAITC that waits is abandoned unsatisfied, and dispatches again later (R167, R265). -/
def Seq.abandonWait (q : Seq) : Seq :=
  match q.wait with
  | some (.cue _ _) => { q with wait := none, pc := q.pc - 8 }
  | some (.ctr _ _ _) => { q with wait := none, pc := q.pc - 8 }
  | _ => q

/-- What a change in the units releases at dispatch: a HALT that has waited, then an instruction that waits (R100, R154, R166). -/
def settle (s : State) (k : Nat) : State :=
  let q := (s.cell k).seq
  match q.wait with
  | some (.halt n) =>
    if (s.cell k).fenced 0 n then s.modCell k (Cell.setSeq fun q => { q with state := 2, wait := none }) else s
  | _ =>
    match q.held with
    | some h => if s.mayDispatch k then attempt s k h else s
    | none => s

/-! Completion (R146). -/

/-- Write one word of a slot through the slot view (R51): the bits written and their word's check bits are fresh; flips elsewhere in the row stand (log entry 69). -/
def viewStore (c : Cell) (slot off : Nat) (v : Word) : Cell :=
  let w := off % 32 / 8
  c.modSlot slot fun s =>
    { s with bits := memWrite s.bits off (wordBytes v),
             errs := mapSet [] s.errs (off / 32) ((mapGet [] s.errs (off / 32)).filter fun f =>
               !((Nat.ble (8 * (off % 32)) f.bit && Nat.blt f.bit (8 * (off % 32) + 32)) || (Nat.ble (256 + 8 * w) f.bit && Nat.blt f.bit (264 + 8 * w)))) }

/-- The slot-view writes that waited for the compute track land (R61). -/
def landViews (c : Cell) : Cell :=
  (c.units.view.foldl (fun c w => viewStore c w.1 w.2.1 w.2.2) c).setUnits fun u => { u with view := [] }

/-- A unit's instruction reaches its completion point (R146, R194). -/
def complete (s : State) (k : Nat) (u : CellUnit) : State :=
  let v := (s.cell k).units
  let isDone := fun (r : Option Run) => (match r with | some x => x.done | none => false)
  let off := fun (r : Option Run) => (match r with
    | some x => x.done && (match x.qi.op with | .wload _ => x.next == 1 | _ => true)
    | none => false)
  let upd := fun (f : Units → Units) => settle (s.modCell k (Cell.setUnits f)) k
  match u with
  | .array => if isDone v.comp then settle (s.modCell k fun c => landViews (c.setUnits fun v => { v with comp := none })) k else if off v.wload then upd fun v => { v with wload := none } else s
  | .acc => if isDone v.acc then upd fun v => { v with acc := none } else s
  | .vector => if isDone v.vec then upd fun v => { v with vec := none } else s
  | .memory =>
    match v.mem with
    | some r =>
      if !r.done then s
      else
        let c := (s.cell k).setMem none
        let c := match r.qi.op with
          | .ld rd _ _ => c.setSeq fun q => { q.setA rd (BitVec.ofNat 32 r.value) with pendingA := setBit q.pendingA rd.toNat false }
          | _ => c
        settle (s.setCell k c) k
    | none => s

/-- The last row of a slot write commits (R58). -/
def slotDone (s : State) (k : Nat) : State :=
  match (s.cell k).units.wload with
  | some r =>
    match r.qi.op with
    | .wload _ =>
      if r.done && r.next == 0 then
        settle (s.modCell k fun c => (c.tileDone (writesSlots r.qi.op)).setUnits fun v => { v with wload := none }) k
      else s
    | _ => s
  | none => s

/-! Waits that end (R157, R160, R161). -/

/-- Count the cycles of a wait at dispatch (R154, R157, R161). -/
def Cell.waited (c : Cell) (reg cycles : Nat) : Cell := (c.count reg cycles).count rDispatchStall cycles

/-- A waiting CUEWAIT finds its cue at the target (R160). -/
def cueSatisfied (s : State) (k cycles : Nat) : State :=
  match (s.cell k).seq.wait with
  | some (.cue cue target) =>
    if reached (s.cue cue).value target then
      s.modCell k fun c => (c.waited rSyncWait cycles).setSeq fun q => { q with wait := none }
    else s
  | _ => s

/-- A waiting WAITC finds its counter at n (R161). -/
def ctrSatisfied (s : State) (k cycles : Nat) : State :=
  match (s.cell k).seq.wait with
  | some (.ctr ctr n _) =>
    if n ≤ (s.cell k).arrivals ctr then
      s.modCell k fun c => ((c.takeCount ctr n).waited rSyncWait cycles).setSeq fun q => { q with wait := none }
    else s
  | _ => s

/-- Draw a free value (log entry 7). -/
def State.draw (s : State) : State × Word := ({ s with fresh := s.fresh + 1 }, Config.freeValue s.fresh)

/-- CELL_TAG_BLOCKED as a timeout latches it (R222). -/
def Cell.latchBlock (c : Cell) (slot kind unit src : Nat) : Cell :=
  c.setMr fun r => { r with blkSlot := BitVec.ofNat 9 slot, blkKind := BitVec.ofNat 2 kind, blkUnit := BitVec.ofNat 2 unit, blkSrc := BitVec.ofNat 12 src }

/-- The word of CELL_TAG_BLOCKED. -/
def MemRegs.blocked (r : MemRegs) : Nat := r.blkSlot.toNat + 2 ^ 9 * r.blkKind.toNat + 2 ^ 11 * r.blkUnit.toNat + 2 ^ 13 * r.blkSrc.toNat

/-- Ticks that a wait of a cell may last (R208). -/
def State.timeoutOf (s : State) (k : Nat) : Nat := (s.rgn (cellRgn k)).tagTimeout.toNat

/-- A waiting WAITC whose count exceeds the timeout ends (R161, R208, R209): class 0x0410 with the counter, n and its value; one whose counter holds n completes. The latched unit and source module are free (log entry 7). -/
def ctrTimeout (s : State) (k cycles : Nat) : State :=
  match (s.cell k).seq.wait with
  | some (.ctr ctr n age) =>
    if n ≤ (s.cell k).arrivals ctr then ctrSatisfied s k cycles
    else if age ≤ s.timeoutOf k then s
    else
      let d := s.draw
      d.1.fx k fun x =>
        let v := x.c.arrivals ctr
        (x.map fun c => ((c.latchBlock ctr 3 (d.2.toNat % 4) (d.2.toNat / 4)).waited rSyncWait cycles).setSeq fun q => { q with wait := none }).fault 0x0410
          (leBytes 4 ctr ++ leBytes 4 n ++ leBytes 4 v)
  | _ => s

/-- A waiting FENCE is satisfied (R157). -/
def fenceSatisfied (s : State) (k cycles : Nat) : State :=
  match (s.cell k).seq.wait with
  | some (.fence scope n) =>
    if (s.cell k).fenced scope n then s.modCell k fun c => (c.waited rFenceWait cycles).setSeq fun q => { q with wait := none } else s
  | _ => s

/-! Tag blocks (R205, R207 to R209). -/

/-- The block of a run no longer holds. -/
def Cell.unblocked (c : Cell) (b : TagBlock) : Bool :=
  if b.write then !c.blocksWrite b.slot else (c.firstEmpty [b.slot]).isNone

/-- A run whose block no longer holds. -/
def Cell.freed (c : Cell) (r : Option Run) : Option Run :=
  match r with
  | some x => (match x.blocked with | some b => if c.unblocked b then some x else none | none => none)
  | none => none

/-- Data that a full slot of the requester blocks (R206). -/
def Cell.blockedData (c : Cell) : Option (Nat × TagBlock) := c.units.outst.findSome? fun o => o.block

/-- The access of a unit or of the inbound port that a tag blocks and that could go on: its slot (R205). -/
def Cell.canGo (c : Cell) (b : Blocked) : Option TagBlock :=
  let free := fun (b : TagBlock) => if c.unblocked b then some b else none
  let run := fun (r : Option Run) => (c.freed r).bind (·.blocked)
  match b with
  | .port => c.units.port.bind fun h => if h.frame.isSome then none else free h.block
  | .unit .array => (run c.units.comp).or (run c.units.wload)
  | .unit .acc => run c.units.acc
  | .unit .vector => run c.units.vec
  | .unit .memory => (run c.units.mem).or (c.blockedData.bind fun d => free d.2)

/-- A blocked access of a unit goes on once its slot has changed (R205). -/
def releaseUnit (s : State) (k : Nat) (u : CellUnit) : State :=
  let c := s.cell k
  let lead := isLead (cellNo k)
  match u with
  | .array =>
    match c.freed c.units.comp with
    | some r =>
      let p := resumeArray lead (Fx.of c) r
      s.put k (p.1.map (Cell.setUnits fun v => { v with comp := some p.2 }))
    | none =>
      match c.freed c.units.wload with
      | some r =>
        let p := resumeArray lead (Fx.of c) r
        s.put k (p.1.map (Cell.setUnits fun v => { v with wload := some p.2 }))
      | none => s
  | .acc =>
    match c.freed c.units.acc with
    | some r =>
      let p := resumeAcc (Fx.of c) r
      s.put k (p.1.map (Cell.setUnits fun v => { v with acc := some p.2 }))
    | none => s
  | .vector =>
    match c.freed c.units.vec with
    | some r =>
      let p := resumeVector lead (s.seedOf k) (Fx.of c) r
      s.put k (p.1.map (Cell.setUnits fun v => { v with vec := some p.2 }))
    | none => s
  | .memory =>
    match c.freed c.units.mem with
    | some r => resumeMem s k r
    | none =>
      match c.blockedData with
      | some (id, _) =>
        match s.flight id with
        | some (.getData n seq dst data tag poison ctr) => arriveData s id n seq dst data tag poison ctr
        | _ => s
      | none => s

/-- The blocked access of a unit or of the port goes on. -/
def releaseAt (s : State) (k : Nat) : Blocked → State
  | .unit u => settle (releaseUnit s k u) k
  | .port => settle (releasePort s k) k

/-- Accesses that go on before one, where several blocked on a slot could (R207): the inbound port, the memory engine, the vector unit, the array engine. DESIGN CHOICE (log entry 70): the accumulator path, which R207 does not name, after them. -/
def goesBefore : Blocked → List Blocked
  | .port => []
  | .unit .memory => [.port]
  | .unit .vector => [.port, .unit .memory]
  | .unit .array => [.port, .unit .memory, .unit .vector]
  | .unit .acc => [.port, .unit .memory, .unit .vector, .unit .array]

/-- The cycles of a wait for a tag: CELL_TAG_WAIT (R223); for a scaled operand CELL_SCALE_STALL (R118, R123); on the compute track CELL_ARRAY_STARVE (R55). -/
def Cell.tagWaited (c : Cell) (b : Blocked) (t : TagBlock) (cycles : Nat) : Cell :=
  let c := c.count rTagWait cycles
  let c := if t.scale then c.count rScaleStall cycles else c
  if b == .unit .array && (c.units.comp.bind (·.blocked)) == some t then c.count rArrayStarve cycles else c

/-- TAG_BLOCK_RELEASE (R205, R207): a blocked access that could go on goes on, after those that come before it on the same slot; its wait counts (R223). -/
def releaseBlock (s : State) (k : Nat) (b : Blocked) (cycles : Nat) : State :=
  match (s.cell k).canGo b with
  | none => s
  | some t =>
    let s := s.modCell k fun c => c.tagWaited b t cycles
    let s := (goesBefore b).foldl (fun s h => if ((s.cell k).canGo h).map (·.slot) = some t.slot then releaseAt s k h else s) s
    releaseAt s k b

/-- Code of a unit in CELL_TAG_BLOCKED (R222). -/
def unitCode : CellUnit → Nat
  | .array => 0
  | .vector => 1
  | .memory => 2
  | .acc => 3

/-- Logical cell as R210 packs it: cell [6:0], block [14:7], region [18:15]. -/
def packCell (k : Nat) : Nat := cellNo k + 2 ^ 7 * cellBlkNo k + 2 ^ 15 * cellRgn k

/-- A local access times out (R209): latched, recorded with slot and unit; the cell stops at its next cue wait. The source module, which R222 gives for a PUT arrival alone, is free (log entry 7). -/
def Fx.tagTimeout (x : Fx) (u : CellUnit) (b : TagBlock) (src : Nat) : Fx :=
  (x.map fun c => (c.latchBlock b.slot (if b.write then 1 else 0) (unitCode u) src).setMr fun r =>
      if b.write then { r with timeoutWr := true } else { r with timeoutRd := true }).fault
    (if b.write then 0x0412 else 0x0411) (leBytes 2 b.slot ++ leBytes 1 (unitCode u))

/-- A PUT, ACCW or HBMWR that ends early is outstanding only for the slots that have left (R157, R209). -/
def Cell.endSend (c : Cell) : Cell :=
  match c.units.mem with
  | some r =>
    match r.qi.op with
    | .put _ => c.outstDone r.qi.seq
    | .accw _ _ => c.outstDone r.qi.seq
    | .hbmwr _ => c.outstDone r.qi.seq
    | _ => c
  | none => c

/-- The access of a unit or of the inbound port that a tag blocks (R205). -/
def Cell.blockOf (c : Cell) (b : Blocked) : Option TagBlock :=
  let run := fun (r : Option Run) => r.bind (·.blocked)
  match b with
  | .port => c.units.port.bind fun h => if h.frame.isSome then none else some h.block
  | .unit .array => (run c.units.comp).or (run c.units.wload)
  | .unit .acc => run c.units.acc
  | .unit .vector => run c.units.vec
  | .unit .memory => (run c.units.mem).or (c.blockedData.map (·.2))

/-- End the blocked run of a unit: it makes no further access and completes (R209). -/
def timeoutUnit (s : State) (k : Nat) (u : CellUnit) : State :=
  let c := s.cell k
  let isBlocked := fun (r : Option Run) => (r.bind (·.blocked)).isSome
  let d := s.draw
  match c.blockOf (.unit u) with
  | none => s
  | some b =>
    let stop := fun (f : Cell → Cell) => d.1.fx k fun x => (x.map f).tagTimeout u b d.2.toNat
    let ends := fun (f : Units → Units) => stop (Cell.setUnits f)
    match u with
    | .array =>
      if isBlocked c.units.comp then ends fun v => { v with comp := v.comp.map Run.finish }
      else
        let slots := ((c.units.wload.map fun r => writesSlots r.qi.op).getD [])
        stop fun c => (c.endWrite slots).setUnits fun v => { v with wload := v.wload.map fun r => { r with next := 1 }.finish }
    | .acc => ends fun v => { v with acc := v.acc.map Run.finish }
    | .vector => ends fun v => { v with vec := v.vec.map Run.finish }
    | .memory =>
      if isBlocked c.units.mem then (ends fun v => { v with mem := v.mem.map fun r => { r with wr := [] }.finish }).modCell k fun c => c.endSend
      else ends fun v => { v with outst := v.outst.filter fun o => o.block.isNone }

/-- A PUT arrival times out in the inbound port (R209): discarded, not counted; the port goes on. -/
def timeoutPort (s : State) (k : Nat) : State :=
  match (s.cell k).units.port with
  | some h =>
    match s.flight h.flight with
    | some (.write w) =>
      let s := (s.modCell k (Cell.setUnits fun v => { v with port := none })).land h.flight
      let s := s.fx k fun x => (x.map fun c => (c.latchBlock h.block.slot 2 3 w.srcModule.toNat).setMr fun r => { r with timeoutWr := true }).fault 0x0412
        (leBytes 2 w.srcModule.toNat ++ leBytes 4 (packCell w.src))
      ackBack s w
    | _ => s.modCell k (Cell.setUnits fun v => { v with port := none })
  | none => s

/-- TAG_WAIT_TIMEOUT (R208, R209): a blocked access whose count of ticks exceeds the timeout ends; its wait counts (R223). -/
def timeoutBlock (s : State) (k : Nat) (b : Blocked) (cycles : Nat) : State :=
  match (s.cell k).blockOf b with
  | none => s
  | some t =>
    if t.age ≤ s.timeoutOf k then s
    else
      let s := s.modCell k fun c => c.tagWaited b t cycles
      match b with
      | .unit u => settle (timeoutUnit s k u) k
      | .port => settle (timeoutPort s k) k

end Sys2Proof.Machine
end

