-- ==== Sys2Proof/Machine/ArrayCmds.lean ====
section
/-! DEFINITION. Meanings of the array and accumulator instructions (spec/03_cim_cell.md R56 to R67; spec/04_accumulation_order.md R84 to R91; spec/08_instruction_reference.md R181 to R184). -/
namespace Sys2Proof.Machine

/-- WLOAD (R58, R181). Writes an operand tile into a slot. -/
def execWload (c : CellId) (p : Pred) (f : WloadF) (s : State) : Res :=
  .next (dispatch s (cellKey c) p (.wload f))

/-- SLOT_WRITE_DONE (R58). The last row commits and the slot becomes valid. -/
def execSlotWriteDone (c : CellId) (s : State) : Res :=
  .next (slotDone s (cellKey c))

/-- MVM (R183). Streams vectors through a slot in forward mode. -/
def execMvm (c : CellId) (p : Pred) (f : MvmF) (seen : List MarginObs) (s : State) : Res :=
  .next (dispatch s (cellKey c) p (.mvm false f) seen)

/-- MVMT (R183). Streams vectors through a slot in transposed mode. -/
def execMvmt (c : CellId) (p : Pred) (f : MvmF) (seen : List MarginObs) (s : State) : Res :=
  .next (dispatch s (cellKey c) p (.mvm true f) seen)

/-- SWATCH (R67). The known-answer check of the swatch columns. -/
def execSwatch (c : CellId) (p : Pred) (seen : List MarginObs) (s : State) : Res :=
  .next (dispatch s (cellKey c) p .swatch seen)

/-- SLOTINV (R60). Clears the valid bit of a slot. -/
def execSlotinv (c : CellId) (p : Pred) (slot : BitVec 1) (s : State) : Res :=
  .next (dispatch s (cellKey c) p (.slotinv slot))

/-- ACLR (R184). Clears a frame. -/
def execAclr (c : CellId) (p : Pred) (tile : BitVec 2) (int : Bool) (s : State) : Res :=
  .next (dispatch s (cellKey c) p (.aclr tile int))

/-- APROMO (R91). Closes the open tree columns of tile A. -/
def execApromo (c : CellId) (p : Pred) (s : State) : Res :=
  .next (dispatch s (cellKey c) p .apromo)

/-- ADRAIN (R184). Copies vector columns of a frame to the scratchpad. -/
def execAdrain (c : CellId) (p : Pred) (f : AdrainF) (s : State) : Res :=
  .next (dispatch s (cellKey c) p (.adrain f))

/-- AMOV (R184). Copies one frame into another. -/
def execAmov (c : CellId) (p : Pred) (src dst : BitVec 2) (s : State) : Res :=
  .next (dispatch s (cellKey c) p (.amov src dst))

/-- AROT (R88). Rotates or exchanges the frame names of a lead cell. -/
def execArot (c : CellId) (p : Pred) (form : BitVec 1) (s : State) : Res :=
  .next (dispatch s (cellKey c) p (.arot form))

end Sys2Proof.Machine
end

