-- ==== Sys2Proof/Machine/Upsets.lean ====
section
/-! DEFINITION. Scrubbers and the errors they find: arrays, scratchpads, HBM, instruction stores (spec/03_cim_cell.md R61, R68, R69; spec/09_scratchpad_hbm.md R218 to R220; spec/18_faults_fencing.md R419). Errors of the hardware come as operands of the scrub commands; flips stand in the state until their word is rewritten (log entry 69). -/
namespace Sys2Proof.Machine

/-- The word of a row that a flip lies in (R47, R129): data words 0 to 3, then the words of the row's indices. -/
def slotWord (p : Nat) : Nat := if p < 256 then p / 64 else if p < 288 then (p - 256) / 8 else if p < 416 then 4 + (p - 288) / 64 else 4 + (p - 416) / 8

/-- Bytes of a row's indices (R127). -/
def Slot.idxLen (s : Slot) : Nat := if s.four then 16 else 8

/-- Words of a row that the scrubber reads: the four data words, and with a 2:4 tile those of its indices (R129). -/
def Slot.rowWords (s : Slot) : Nat := if s.sparse then 4 + s.idxLen / 8 else 4

/-- Bits of a row flip, forth or back, in the data and in the indices (R47, R129). -/
def Slot.flipRow (s : Slot) (row : Nat) (l : List Nat) : Slot :=
  { s with bits := flipBits s.bits (32 * row) (l.filter fun p => Nat.blt p 256),
           idx := flipBits s.idx (s.idxLen * row) ((l.filter fun p => Nat.ble 288 p && Nat.blt p 416).map (· - 288)) }

/-- Bits of a row flip, and stand (R68, R129). -/
def Slot.upset (s : Slot) (row : Nat) (l : List Nat) (injected : Bool := false) : Slot :=
  let l := l.filter fun p => Nat.blt (slotWord p) s.rowWords
  if l.isEmpty then s else { s.flipRow row l with errs := mapSet [] s.errs row (mapGet [] s.errs row ++ l.map fun p => ⟨p, injected⟩) }

/-- Flips standing in one word of a row. -/
def Slot.flipsOf (s : Slot) (row w : Nat) : List Flip := (mapGet [] s.errs row).filter fun f => slotWord f.bit == w

/-- Rewrite a row: every word with a single-bit error as the code corrects it (R48, R61, R68). -/
def Slot.fixRow (s : Slot) (row : Nat) : Slot :=
  let fix := ((List.range 6).map (s.flipsOf row)).filter (·.length == 1) |>.flatten
  { s.flipRow row (flipBitsOf fix) with errs := mapSet [] s.errs row ((mapGet [] s.errs row).filter fun f => !fix.contains f),
                                        rewrites := s.rewrites.filter (· != row) }

/-- Detail of class 0x0101: slot, row, bit-column, tick of the correction and of the last clean read (R68). -/
def eccDetail (slot row col t0 t1 : Nat) : List Byte :=
  leBytes 1 slot ++ leBytes 1 row ++ leBytes 2 col ++ leBytes 8 t1 ++ leBytes 8 t0

/-- Single-bit errors of a row (R68): counted and recorded one by one; the row is rewritten when its slot is not busy (R61). -/
def scrubCorrect (x : Fx) (slot row t : Nat) (l : List Flip) : Fx :=
  let last := mapGet 0 (x.c.slot slot).lastClean row
  let x := l.foldl (fun x f => x.note 0x0101 (eccDetail slot row f.bit last t) f.injected) (x.map fun c => c.count rEccCorr l.length)
  if l.isEmpty then x
  else x.map fun c =>
    if c.slotBusy slot then c.modSlot slot fun s => { s with rewrites := if s.rewrites.contains row then s.rewrites else s.rewrites ++ [row] }
    else c.modSlot slot fun s => s.fixRow row

/-- An uncorrectable word: the slot is poisoned; the cell stops if the running instruction reads it (R69). The word stays as it is. -/
def scrubPoison (x : Fx) (slot row : Nat) (inj : Bool) : Fx :=
  let d := leBytes 1 slot ++ leBytes 1 row
  let x := x.map fun c => c.modSlot slot fun s => { s with poison := true }
  if x.c.slotBusy slot then x.fault 0x0102 d inj else x.note 0x0102 d inj

/-- What a read of a row finds beyond correction, word by word (R48, R69). -/
def poisonWords (x : Fx) (slot row : Nat) (words : List Nat) : Fx :=
  words.foldl (fun x w => let l := (x.c.slot slot).flipsOf row w
    if l.length ≤ 1 then x else scrubPoison x slot row (l.any (·.injected))) x

/-- The array scrubber reads one row (R61, R68, R69, R129), in which the bits of `upset` have flipped. -/
def scrubArray (x : Fx) (slot row t : Nat) (upset : List Nat) : Fx :=
  if (x.c.slot slot).writing then x
  else
    let x := if x.c.slotBusy slot then x.map fun c => c.count rScrubSteal 1 else x
    let x := x.map fun c => c.modSlot slot fun s => s.upset row upset
    let s := x.c.slot slot
    if (mapGet [] s.errs row).isEmpty then x.map fun c => c.modSlot slot fun s => { s with lastClean := mapPut s.lastClean row t }
    else
      let one := ((List.range 6).map (s.flipsOf row)).filter (·.length == 1) |>.flatten
      scrubCorrect (poisonWords x slot row (List.range 6)) slot row t one

/-- Deferred rewrites of a slot that is not busy (R61). -/
def scrubRewrite (c : Cell) (slot : Nat) : Cell :=
  if c.slotBusy slot || (c.slot slot).writing then c
  else c.modSlot slot fun s => s.rewrites.foldl Slot.fixRow s

/-- A word of a slot as the slot view reads it (R48, R51): corrected where its 64-bit word holds one error, as it stands where it holds more. -/
def Slot.viewWord (s : Slot) (off : Nat) : Nat :=
  let l := s.flipsOf (off / 32) (off % 32 / 8)
  leNat (memRead (if l.length = 1 then (s.flipRow (off / 32) (flipBitsOf l)).bits else s.bits) off 4)

/-- What a slot-view read does (R48, R61, R69): it takes a cycle of a running vector, and a word that it cannot correct poisons the slot. -/
def viewRead (x : Fx) (slot off : Nat) : Fx :=
  let x := if x.c.slotBusy slot then x.map fun c => c.count rScrubSteal 1 else x
  poisonWords x slot (off / 32) [off % 32 / 8]

/-- The scratchpad scrubber comes to one slot, in which the bits of `upset` have flipped (R218 to R220): it reads a weight-class slot; in an activation-class slot or a frame piece the flips stand until a read. -/
def scrubSpm (x : Fx) (piece : Nat) (upset : List Nat) : Fx :=
  let x := x.map fun c => c.flip piece upset
  if piece < 512 ∧ x.c.weightClass piece = true then x.checkSlot piece else x

/-- The HBM controller patrols one block of its stack, in which the bits of `upset` have flipped (R219, R220). -/
def patrolHbm (s : State) (r blk : Nat) (upset : List Nat) : State :=
  if 0x30000000 ≤ blk then s
  else ({ s with hbm := s.hbm.flip (r * 2 ^ 30 + blk) upset }).checkBlock (r * 2 ^ 30 + blk)

/-- Correct or mark one line of an instruction store (R419): flips by bit of the line, standing ones keyed by instruction. -/
def checkLine (s : State) (bk line : Nat) (upset : List Nat) : State :=
  let b := s.blk bk
  if b.badLines.contains line then s
  else
    let inj := (List.range 8).map fun i => (i, mapGet [] b.istoreErrs (8 * line + i))
    let bad := (List.range 8).any fun i =>
      Nat.blt 1 ((mapGet [] b.istoreErrs (8 * line + i)).length + (upset.filter fun u => u / 64 == i).length)
    let n := (inj.map fun p => p.2.length).sum
    if n + upset.length = 0 then s
    else if bad then
      let s := s.modBlk bk fun b => { b with badLines := b.badLines ++ [line], istoreErrs := mapDrop (fun k => k / 8 == line) b.istoreErrs }
      s.toBlock bk (s.unitRec 1 (if n = 0 then 0x0116 else 0x0F16) (some (bk / 150)) (some (bk % 150))
        ((if n = 0 then [] else leBytes 2 0x0116) ++ leBytes 2 line))
    else
      s.modBlk bk fun b => { b with istore := inj.foldl (fun m p => flipBits m (64 * line + 8 * p.1) p.2) b.istore,
                                    istoreErrs := mapDrop (fun k => k / 8 == line) b.istoreErrs,
                                    icorr := b.icorr + upset.length, icorrInj := b.icorrInj + n }

/-- The lines of the fetch buffer that dispatch has still to come to: the PC's line and the next (R149). -/
def Seq.kept (q : Seq) : List Nat := q.lines.filter fun l => l == q.pc.toNat / 64 || l == q.pc.toNat / 64 + 1

/-- The line that a cell asks for (R149, R151): the one of its PC, else the next sequential line; none while it dispatches from the loop buffer, or outside its image. -/
def wantedLine (q : Seq) : Option Nat :=
  let cur := q.pc.toNat / 64
  let want := if q.kept.contains cur then cur + 1 else cur
  if !q.inBuf && !q.outside && !q.kept.contains want && Nat.blt (64 * want) (q.imgAt + q.imgLen) then some want else none

/-- A bank reads the line that a running cell asks for (R149, R419); the fetch of an instruction outside the image stops a cell that has come to it (R165). -/
def fetchLine (s : State) (k waited : Nat) : State :=
  let c := s.cell k
  if !(c.seq.running && (s.rgn (cellRgn k)).assigned) then s
  else
    match wantedLine c.seq with
    | none => if c.seq.outside && s.mayDispatch k && c.seq.held.isNone then s.fx k fun x => x.faultNow 0x0351 [] else s
    | some l =>
      let s := checkLine (s.modCell k fun c => (c.count rFetchWait waited).tally 9 1) (cellBlk k) l []
      if (s.blk (cellBlk k)).badLines.contains l then s.fx k stopBadLine
      else s.modCell k (Cell.setSeq fun q => { q with lines := q.kept ++ [l] })

/-- A word at dispatch (R165, R173): where it spells no instruction, the checks of the fetch come first and then the stop of class 0x0350. -/
def reservedStep (s : State) (k : Nat) (word : DWord) : State :=
  match decodeCell word with
  | some i => dispatch s k i.1 i.2
  | none =>
    if !(s.mayDispatch k && (s.cell k).seq.held.isNone) then s
    else s.fx k ((s.fetchStop k).getD Fx.outOfRange)

end Sys2Proof.Machine
end

