-- ==== Sys2Proof/Machine/Epoch.lean ====
section
/-! DEFINITION. Jobs in time: the job fault, holds, the heartbeat, the change hold, summaries of an interval (spec/11_prompt_books_epochs.md R252 to R270; spec/18_faults_fencing.md R414 to R416). -/
namespace Sys2Proof.Machine

/-- Numbers of the cells of a job that the state lists. -/
def State.cellsOf (s : State) (j : Job) : List Nat := (s.cells.map (·.1)).filter fun k => j.regions.getLsbD (cellRgn k)

/-- A record of a job on this module (R270). -/
def State.jobRec (s : State) (j : Job) (cls : Nat) (detail : List Byte) : Rec :=
  { s.unitRec 3 cls none none detail with tick := s.jobTick j }

/-! Packets between the modules of a job (R252, R263, R284, R285, R295). -/

/-- A HOLD packet. -/
def holdPacket (own dst : Nat) (job : Word) (epoch k : Nat) (fault change : Bool) : Packet :=
  ⟨mkH0 6 2 0 dst own 0 false, BitVec.ofNat 64 epoch, BitVec.ofNat 64 (min k 0xFFFF + 2 ^ 16 * b2n fault + 2 ^ 17 * b2n change + 2 ^ 32 * job.toNat), []⟩

/-- A TIME packet: subtype, job, time. -/
def timePacket (own dst sub : Nat) (job : Word) (time : Nat) : Packet :=
  ⟨mkH0 7 2 0 dst own 0 false, BitVec.ofNat 64 (sub + 2 ^ 32 * job.toNat), BitVec.ofNat 64 time, []⟩

/-- Job packets of the job itself name a cell of its lowest region, so that a loss finds the job (R297). -/
def ofJob (j : Job) (k : Packet) : Packet := { k with h0 := k.h0 + BitVec.ofNat 64 (2 ^ 55 * j.rgns.headD 0) }

/-- Positions of the module table other than the module's own, in ascending order. -/
def Job.others (j : Job) : List Nat := (List.range (bookModules j.img)).filter (· != j.pos)

/-- Position of the timebase root. -/
def Job.rootPos (j : Job) : Nat := (bookPosition j.img j.rootIdent.toNat).getD 0

/-- Send a packet to positions in ascending order. -/
def sendEach (s : State) (j : Job) (ps : List Nat) (f : Nat → Packet) : State :=
  ps.foldl (fun s p => inject s (ofJob j (f (bookIdent j.img p))) none) s

/-! The job fault (R261). -/

/-- A running cell stops at once with the fault's class as first cause (R164, R261). -/
def stopForFault (s : State) (cls : BitVec 16) (k : Nat) : State :=
  if (s.cell k).seq.running then s.fx k fun x => (x.map (Cell.setSeq fun q => { q with firstCause := cls })).stop else s

/-- The job faults on this module (R261): its running cells stop, its buckets fail, the host is told, and where the fault arose here a HOLD with the fault flag goes to every other module. -/
def faultJob (s : State) (id : Word) (c : Rec) (send : Bool) : State :=
  match s.job id with
  | none => s
  | some j =>
    if j.faulted then s
    else
      let s := (s.cellsOf j).foldl (fun s k => stopForFault s c.cls k) s
      let s := bucketDrop s id c.cls.toNat
      let s := (s.modJob id fun j => { j with faulted := true, cause := some c, faultDue := none, chg := none }).applyTables
      let s := if j.chg.isSome then pumpAll s else s
      let s := { s with flt := { s.flt with jobFault := true } }
      let s := if send then sendEach s j j.others fun d => holdPacket s.hub.fab.moduleId.toNat d id j.epoch 0 true false else s
      jobEvent s id 0x8001 (leBytes 4 id.toNat ++ leBytes 4 0 ++ faultBytes (c.parts.headD c))

/-- A record is logged and its job faults. -/
def faultWith (s : State) (id : Word) (c : Rec) : State := faultJob (s.log c) id c true

/-! Holds (R258 to R262). -/

/-- Count hold steps in RGN_HOLD_STEPS of every region of the job (R269). -/
def countSteps (s : State) (j : Job) (n : Nat) : State :=
  j.rgns.foldl (fun s r => s.modRgn r fun g => { g with cnt := bump g.cnt 0x140 n }) s

/-- A HOLD reaches a module (R259): from a module identifier, for an epoch, with a step count. -/
def holdReceive (s : State) (id : Word) (src e k : Nat) : State :=
  match s.job id with
  | none => s
  | some j =>
    if j.faulted || !j.begun then s
    else if e ≠ j.epoch then
      if k ≤ (mapGet (0, 0) j.kOf e).1 then s  -- of an epoch to come, or of one that has ended
      else if e < j.epoch then faultWith s id (s.jobRec j 0x0443 (leBytes 8 e ++ leBytes 2 src))
      else s.modJob id fun j => { j with kOf := mapPut j.kOf e (k, src) }
    else if k ≤ j.kSteps then s
    else if j.boundary ≤ s.jobTick j ∨ j.chg.isSome = true then faultWith s id (s.jobRec j 0x0443 (leBytes 8 e ++ leBytes 2 src))
    else countSteps (s.modJob id fun j => { j with kSteps := k, kSrc := src }) j (k - j.kSteps)

/-- Send HOLD(e, k) to every module of the job in ascending position, itself included (R258, R285). -/
def broadcastHold (s : State) (j : Job) (k : Nat) : State :=
  let own := s.hub.fab.moduleId.toNat
  (List.range (bookModules j.img)).foldl (fun s p =>
    if p = j.pos then holdReceive s j.id own j.epoch k
    else inject s (ofJob j (holdPacket own (bookIdent j.img p) j.id j.epoch k false false)) none) s

/-- EPOCH_CHECK (R258, R260): the check C(e, k) with the next k. -/
def epochCheck (s : State) (id : Word) : State :=
  match s.job id with
  | none => s
  | some j =>
    if !j.begun || j.faulted || j.chg.isSome then s
    else
      let k := j.checks
      let s := s.jobTickTo j (j.deadline + 256 * k - bookHoldLead j.img)
      if epochDone j then s
      else if bookHoldLimit j.img < k + 1 then faultWith s id (s.jobRec j 0x0442 (leBytes 8 j.epoch))
      else broadcastHold (s.modJob id fun j => { j with checks := k + 1, selfSteps := k + 1 }) j (k + 1)

/-! Heartbeat (R263). -/

/-- The next 65,536-tick mark at or after a tick. -/
def beatMark (t : Nat) : Nat := 65536 * ceilDiv t 65536

/-- HEARTBEAT_SEND (R263). -/
def heartbeatSend (s : State) (id : Word) : State :=
  match s.job id with
  | none => s
  | some j =>
    if !j.begun || j.faulted then s
    else
      let t := beatMark (s.jobTick j)
      sendEach (s.jobTickTo j t) j (if j.root then j.others else [j.rootPos]) fun d => timePacket s.hub.fab.moduleId.toNat d 2 id t

/-- A beat arrives from a module of the job. -/
def beatReceive (s : State) (id : Word) (src : Nat) : State :=
  match s.job id with
  | none => s
  | some j =>
    match bookPosition j.img src with
    | some p => s.modJob id fun j => { j with beats := mapPut j.beats p (s.jobTick j) }
    | none => s

/-- HEARTBEAT_TIMEOUT (R263): the root watches every other module, the others watch the root. -/
def heartbeatTimeout (s : State) (id : Word) (pos : Nat) : State :=
  match s.job id with
  | none => s
  | some j =>
    if !j.begun || j.faulted || !(if j.root then j.others.contains pos else pos == j.rootPos) then s
    else
      let s := s.jobTickTo j (mapGet (j.t0.getD 0) j.beats pos + 262144)
      faultWith s id (s.jobRec j 0x0445 (leBytes 2 (bookIdent j.img pos)))

/-! The start (R252, R354). -/

/-- EPOCH_START (R252): the counter reaches T0, and the cells of the job's images dispatch. -/
def epochStart (s : State) (id : Word) : State :=
  match s.job id with
  | none => s
  | some j =>
    match j.t0 with
    | none => s
    | some t =>
      if j.begun || j.faulted then s
      else
        let s := s.jobTickTo j t
        let s := j.rgns.foldl (fun s r => { s with cues := s.cues.map fun c => if c.1 / 512 = r ∧ 128 ≤ c.1 then (c.1, { c.2 with fired := 0 }) else c }) s
        s.modJob id fun j => { j with begun := true, epoch := 0, sTick := t, kSteps := 0, kSrc := 0, checks := 0, selfSteps := 0, fired := [], beats := [], doneAt := [] }

/-! Change holds (R265). -/

/-- A change that is applied under a change hold (R358): PALETTE_WRITE, ROUTE_COMMIT, POOL_SET. -/
def underHold (code : BitVec 16) : Bool := code == 0x030A || code == 0x0505 || code == 0x0602

/-- Changes of the job that are applied under the hold of the present boundary. -/
def Job.holds (j : Job) : List Staged := j.staged.filter fun c => c.epoch == j.epoch + 1 && underHold c.code

/-- A change hold would exceed its limit: class 0x0444 with the command of the change (R265, R270). -/
def changeLimit (s : State) (id : Word) : State :=
  match s.job id with
  | some j =>
    match j.chg with
    | some h =>
      if j.root && !j.faulted && Nat.ble (bookChangeLimit j.img) h.steps then
        faultWith s id (s.jobRec j 0x0444 (leBytes 8 j.epoch ++ leBytes 2 ((j.holds.head?.map (·.code.toNat)).getD 0)))
      else s
    | none => s
  | none => s

/-- CHANGE_HOLD_RESEND (R265): the root's next change-flagged HOLD, 256 ticks on. -/
def changeResend (s : State) (id : Word) : State :=
  match s.job id with
  | none => s
  | some j =>
    match j.chg with
    | none => s
    | some h =>
      if !j.root || j.faulted || h.released || Nat.ble (bookChangeLimit j.img) h.steps then s
      else
        let k := h.steps + 1
        let s := s.jobTickTo j (j.boundary + 256 * h.steps)
        let s := countSteps (s.modJob id fun j => { j with chg := some { h with steps := k } }) j 1
        sendEach s j j.others fun d => holdPacket s.hub.fab.moduleId.toNat d id j.epoch k false true

/-- A change-flagged HOLD reaches a module in its change hold: one more step (R265, R269). -/
def changeHold (s : State) (id : Word) (k : Nat) : State :=
  match s.job id with
  | some j =>
    match j.chg with
    | some h => if j.root then s else countSteps (s.modJob id fun j => { j with chg := some { h with steps := max h.steps k } }) j 1
    | none => s
  | none => s

/-- The root has an acknowledgement; once it has all it releases the hold (R265). -/
def changeAck (s : State) (id : Word) (pos : Nat) : State :=
  match s.job id with
  | some j =>
    match j.chg with
    | some h =>
      if !j.root || h.released || !Nat.blt pos (bookModules j.img) then s
      else
        let acked := if h.acked.contains pos then h.acked else h.acked ++ [pos]
        let all := (List.range (bookModules j.img)).all acked.contains
        let s := s.modJob id fun j => { j with chg := some { h with acked := acked, released := all } }
        if all then j.others.foldl (fun s p => s.emit (.changeRelease (bookIdent j.img p) id)) s else s
    | none => s
  | none => s

/-! Summaries (R414). -/

/-- Summary records of a cell, by class; a class of injected errors names the class it imitates (R412). -/
def cellSummaries (s : State) (k tick : Nat) : State :=
  let c := s.cell k
  if c.summ.isEmpty then s
  else
    (c.summ.foldl (fun s e =>
      let d := if e.1 = 0x0F01 then leBytes 2 0x0201 ++ e.2.2 else if e.1 / 256 = 0x0F then leBytes 2 (0x0100 + e.1 % 256) ++ e.2.2 else e.2.2
      if e.2.1 = 0 then s
      else s.toBlock (cellBlk k) { s.cellRec k ⟨e.1, d, false⟩ with tick := tick, summary := true, count := e.2.1 }) s).modCell k fun c => { c with summ := [] }

/-- Summary records of a block: corrected errors of its instruction store (R419). -/
def blockSummaries (s : State) (bk tick : Nat) : State :=
  let b := s.blk bk
  let mk := fun (cls n : Nat) (d : List Byte) (s : State) =>
    if n = 0 then s
    else s.toBlock bk { s.unitRec 1 cls (some (bk / 150)) (some (bk % 150)) d with tick := tick, summary := true, count := n }
  (mk 0x0F16 b.icorrInj (leBytes 2 0x0116) (mk 0x0116 b.icorr [] s)).modBlk bk fun b => { b with icorr := 0, icorrInj := 0 }

/-- Summary records of a region: corrected HBM errors (R219). -/
def regionSummaries (s : State) (r tick : Nat) : State :=
  let g := s.rgn r
  let mk := fun (cls n : Nat) (d : List Byte) (s : State) =>
    if n = 0 then s else s.toRegion r { s.unitRec 2 cls (some r) none d with tick := tick, summary := true, count := n }
  (mk 0x0F13 g.hbmCorrInj (leBytes 2 0x0113) (mk 0x0113 g.hbmCorr [] s)).modRgn r fun g => { g with hbmCorr := 0, hbmCorrInj := 0 }

/-- All summaries of a region that close at a tick (R414). -/
def closeInterval (s : State) (r tick : Nat) : State :=
  let cs := (s.cells.map (·.1)).filter fun k => cellRgn k == r
  let bs := (s.blocks.map (·.1)).filter fun b => b / 150 == r
  regionSummaries (bs.foldl (fun s b => blockSummaries s b tick) (cs.foldl (fun s k => cellSummaries s k tick) s)) r tick

/-- Summaries of bucket saturations of a job (R322): one per bucket with its count, naming the last of its instances that saturated in the epoch.
DESIGN CHOICE (log entry 73). -/
def bucketSummaries (s : State) (id : Word) (tick : Nat) : State :=
  let mine := s.hub.bkt.sats.filter fun x => x.1 == id
  let bs := (mine.map (·.2.1)).eraseDups
  (bs.foldl (fun s b =>
    let of := mine.filter fun x => x.2.1 == b
    s.log { s.bktRec 0x0535 id b ((of.map (·.2.2.1)).getLastD 0) [] with
      tick := tick, summary := true, count := (of.map (·.2.2.2)).sum }) s).modBkt fun b =>
    { b with sats := b.sats.filter fun x => x.1 != id }

/-- The records 0x0440 and 0x0441 at the end of an epoch (R262): own overrun, or another's. -/
def holdRecords (s : State) (j : Job) : State :=
  if j.selfSteps ≠ 0 then s.log (s.jobRec j 0x0440 (leBytes 8 j.epoch ++ leBytes 2 j.selfSteps))
  else if j.kSteps ≠ 0 then s.log (s.jobRec j 0x0441 (leBytes 8 j.epoch ++ leBytes 2 j.kSteps ++ leBytes 2 j.kSrc))
  else s

end Sys2Proof.Machine
end

