-- ==== Sys2Proof/Machine/BucketCmds.lean ====
section
/-! DEFINITION. Meanings of the events of the combine units at the ports (spec/13_gradient_reduction.md). -/
namespace Sys2Proof.Machine

/-- BUCKET_CONTRIB_READ (R306). The home unit has read the module's contribution. -/
def execBucketContribRead (job : Word) (bucket : BitVec 12) (inst : BitVec 16) (s : State) : Res :=
  .next (contribRead s job bucket.toNat inst.toNat)

/-- BUCKET_RESULT_VISIBLE (R307). The whole result is visible: the digest entry is written and the done cue rises. -/
def execBucketResultVisible (job : Word) (bucket : BitVec 12) (inst : BitVec 16) (s : State) : Res :=
  .next (match resultVisible s job bucket.toNat inst.toNat with | some r => addCue r.1 r.2 1 | none => s)

/-- EARLY_STORE_TIMEOUT (R315). An early packet that no instance has claimed is dropped. -/
def execEarlyStoreTimeout (k : Packet) (s : State) : Res :=
  .next (earlyTimeout s k)

end Sys2Proof.Machine
end

