-- ==== Sys2Proof/Machine/CombineCmds.lean ====
section
/-! DEFINITION. Meanings of CSEND and CRECV and of the combine networks' events (spec/10_blocks_regions.md R228 to R233). -/
namespace Sys2Proof.Machine

/-- The prompt-book image of the job that holds a region. -/
def State.rgnImg (s : State) (r : Nat) : List Byte := ((s.jobOf r).map (·.img)).getD []

/-- A CSEND or CRECV of a cell waits for its channel, not for a tag (R208, R232): its channel and descriptor. -/
def combWaits (s : State) (k : Nat) : Option (Nat × List Byte) :=
  match (s.cell k).units.mem with
  | some r =>
    if r.done || !r.begun || r.blocked.isSome then none
    else
      match r.qi.op with
      | .csend _ =>
        if 8 ≤ ((s.blk (cellBlk k)).chan (runChan r)).held (cellNo k) then some (runChan r, runDesc r) else none
      | .crecv _ => some (runChan r, runDesc r)
      | _ => none
  | none => none

/-- The channel of a CSEND or CRECV whose wait exceeds the wait of R208 fails (R232). -/
def combTimeout (s : State) (k : Nat) : State :=
  match combWaits s k, (s.cell k).units.mem with
  | some (ch, d), some r => if s.timeoutOf k < r.idle then failComb s (cellBlk k) ch 0x0431 (s.imgOf k) d none else s
  | _, _ => s

/-- CSEND (R195, R229). Presents elements to a combine channel. -/
def execCsend (c : CellId) (p : Pred) (f : CombF) (s : State) : Res :=
  .next (dispatch s (cellKey c) p (.csend f))

/-- CRECV (R195, R229). Receives the combined result at the root. -/
def execCrecv (c : CellId) (p : Pred) (f : CombF) (s : State) : Res :=
  .next (dispatch s (cellKey c) p (.crecv f))

/-- COMBINE_GROUP_ADVANCE (R231). One group of a ready channel advances. -/
def execCombineGroupAdvance (r : Fin 16) (b : Fin 150) (ch : Fin 4) (s : State) : Res :=
  .next (advanceGroup s (s.rgnImg r.val) r.val b.val ch.val)

/-- COMBINE_ROOT_DELIVERY (R231). A combined group is written by the root's CRECV. -/
def execCombineRootDelivery (r : Fin 16) (b : Fin 150) (ch : Fin 4) (s : State) : Res :=
  .next (deliverRoot s (blkKey r.val b.val) ch.val)

/-- REGION_COMBINE_STEP (R233). A region combine unit combines one group. -/
def execRegionCombineStep (r : Fin 16) (ch : Fin 4) (s : State) : Res :=
  .next (regionStep s (s.rgnImg r.val) r.val ch.val)

/-- COMBINE_TIMEOUT (R232). A CSEND blocked on a full buffer, or a waiting CRECV, fails its channel with class 0x0431. -/
def execCombineTimeout (c : CellId) (s : State) : Res :=
  .next (combTimeout s (cellKey c))

end Sys2Proof.Machine
end

