-- ==== Sys2Proof/Machine/ControlCmds.lean ====
section
/-! DEFINITION. Meanings of the control instructions and of the events of dispatch, fetch and issue (spec/07_cell_execution.md R145 to R167; spec/08_instruction_reference.md R173 to R179). -/
namespace Sys2Proof.Machine

/-- The head of a queue issues; an array instruction that waited for its slot or track counts the wait (R59, R73). -/
def issueWaited (s : State) (k : Nat) (u : CellUnit) (waited : Nat) : State :=
  let c := s.cell k
  let s := if u == .array && (match c.units.queue u with | q :: _ => c.arrayReady q | [] => false) then s.modCell k fun c => c.count rSlotWait waited else s
  settle (tryIssue s k u) k

/-- NOP (R176). Nothing but the next instruction. -/
def execNop (c : CellId) (p : Pred) (s : State) : Res :=
  .next (dispatch s (cellKey c) p .nop)

/-- HALT (R166). Dispatches no more; halts once every earlier instruction has completed. -/
def execHalt (c : CellId) (p : Pred) (s : State) : Res :=
  .next (dispatch s (cellKey c) p .halt)

/-- LOOP (R150). Opens a loop, or skips its body on a count of zero. -/
def execLoopw (c : CellId) (p : Pred) (f : LoopF) (s : State) : Res :=
  .next (dispatch s (cellKey c) p (.loop f))

/-- ENDLOOP (R150). Counts down and returns to the body while the counter is not zero. -/
def execEndloop (c : CellId) (p : Pred) (ln : BitVec 2) (s : State) : Res :=
  .next (dispatch s (cellKey c) p (.endloop ln))

/-- BR (R178). Branches by a signed offset. -/
def execBr (c : CellId) (p : Pred) (offset : BitVec 15) (s : State) : Res :=
  .next (dispatch s (cellKey c) p (.br offset))

/-- BRP (R178). Branches to the offset in a register. -/
def execBrp (c : CellId) (p : Pred) (ra : AReg) (s : State) : Res :=
  .next (dispatch s (cellKey c) p (.brp ra))

/-- CUEWAIT (R160). Holds later dispatch until the cue reaches its target. -/
def execCuewait (c : CellId) (p : Pred) (f : CueWaitF) (s : State) : Res :=
  .next (dispatch s (cellKey c) p (.cuewait f))

/-- CUEWAIT_SATISFIED (R160). The cue has reached the target: dispatch goes on. -/
def execCuewaitSatisfied (c : CellId) (cycles : Nat) (s : State) : Res :=
  .next (settle (cueSatisfied s (cellKey c) cycles) (cellKey c))

/-- CUESIG (R158). Puts a signal into the signal queue. -/
def execCuesig (c : CellId) (p : Pred) (f : CueSigF) (s : State) : Res :=
  .next (dispatch s (cellKey c) p (.cuesig f))

/-- CUE_SIGNAL_RELEASE (R158, R257). The oldest signal leaves and counts on its cue. -/
def execCueSignalRelease (c : CellId) (s : State) : Res :=
  .next (settle (releaseSig s (cellKey c)) (cellKey c))

/-- WAITC (R161). Holds later dispatch until an arrival counter holds n, then takes n from it. -/
def execWaitc (c : CellId) (p : Pred) (f : WaitcF) (s : State) : Res :=
  .next (dispatch s (cellKey c) p (.waitc f))

/-- WAITC_SATISFIED (R161). The arrival counter has reached n: n is taken and dispatch goes on. -/
def execWaitcSatisfied (c : CellId) (cycles : Nat) (s : State) : Res :=
  .next (settle (ctrSatisfied s (cellKey c) cycles) (cellKey c))

/-- WAITC_TIMEOUT (R161, R209). The WAITC completes without taking anything, with class 0x0410. -/
def execWaitcTimeout (c : CellId) (cycles : Nat) (s : State) : Res :=
  .next (settle (ctrTimeout s (cellKey c) cycles) (cellKey c))

/-- FENCE (R157). Holds later dispatch until earlier writes are visible within the scope. -/
def execFence (c : CellId) (p : Pred) (scope : BitVec 3) (s : State) : Res :=
  .next (dispatch s (cellKey c) p (.fence scope))

/-- FENCE_RELEASE (R157). The fence is satisfied: dispatch goes on. -/
def execFenceRelease (c : CellId) (cycles : Nat) (s : State) : Res :=
  .next (settle (fenceSatisfied s (cellKey c) cycles) (cellKey c))

/-- SETCFG (R179). Writes a configuration value, effective at dispatch. -/
def execSetcfg (c : CellId) (p : Pred) (f : SetcfgF) (s : State) : Res :=
  .next (dispatch s (cellKey c) p (.setcfg f))

/-- RESERVED_INSTRUCTION (R165, R173). A word without an instruction stops the cell with class 0x0350; a word that spells one is that instruction (log entry 21). -/
def execReservedInstruction (c : CellId) (word : DWord) (s : State) : Res :=
  .next (reservedStep s (cellKey c) word)

/-- INSTR_LINE_FETCH (R149). A bank reads the line that the cell asks for. -/
def execInstrLineFetch (c : CellId) (waited : Nat) (s : State) : Res :=
  .next (fetchLine s (cellKey c) waited)

/-- UNIT_ISSUE (R146). The head of a unit's queue issues, once it may. -/
def execUnitIssue (c : CellId) (u : CellUnit) (waited : Nat) (s : State) : Res :=
  .next (issueWaited s (cellKey c) u waited)

/-- UNIT_COMPLETION (R146). The unit's instruction reaches its completion point. -/
def execUnitCompletion (c : CellId) (u : CellUnit) (s : State) : Res :=
  .next (complete s (cellKey c) u)

end Sys2Proof.Machine
end

