-- ==== Sys2Proof/Machine/MailBase.lean ====
section
/-! DEFINITION. Mailboxes: the response to a request (spec/15_pyerly_mailboxes.md R342 to R346, R361). -/
namespace Sys2Proof.Machine

/-- A mailbox. -/
def State.mbx (s : State) (n : Nat) : Mbx := mapGet Mbx.reset s.hub.mail.mbx n
/-- Change a mailbox. -/
def State.modMbx (s : State) (n : Nat) (f : Mbx → Mbx) : State := s.modMail fun m => { m with mbx := mapPut m.mbx n (f (mapGet Mbx.reset m.mbx n)) }

/-- Mailboxes whose request is executing. -/
def State.executing (s : State) : List Nat :=
  (List.range 64).filter fun n => match (s.mbx n).req with | some r => r.executing | none => false

/-- The bytes of a response (R345, R346). -/
def responseBytes (code : BitVec 16) (m : Msg) (status : Nat) (payload : List Byte) : List Byte :=
  msgHeader 1 code.toNat status m.seq.toNat m.session.toNat payload.length m.applyAt.toNat m.job.toNat ++ payload

/-- Hand over the response of a mailbox's request (R343 to R346): it is kept, counted (R361, R362) and sent on the request's queue pair; that of a session which has closed is discarded (R351), and so is one whose queue pair is gone, but for its being kept (R332, R344). -/
def respond (s : State) (n status : Nat) (payload : List Byte) : State :=
  match (s.mbx n).req with
  | none => s
  | some r =>
    let bytes := responseBytes r.code r.m status payload
    let gone := n != 0 && (s.mbx n).session == 0
    let s := s.modMail fun m => { m with
      requests := if status / 8 = 0x0100 / 8 ∧ status ≤ 0x0105 then m.requests else satAdd32 m.requests 1,
      errors := if 0x0100 ≤ status then satAdd32 m.errors 1 else m.errors,
      rejected := if 0x0100 ≤ status ∧ status ≤ 0x0105 then m.rejected + 1 else m.rejected,
      waiting := m.waiting.filter (· != n) }
    if gone then s.modMbx n fun x => { x with req := none }
    else
      let s := s.modMbx n fun x => { x with req := none, kept := some ⟨r.code, r.m.seq, bytes⟩ }
      if r.lost then s else sendOn s r.m.q.val bytes

/-- The mailbox that executes a command of a code for a job. -/
def State.executingFor (s : State) (code : Nat) (job : Word) : Option Nat :=
  s.executing.find? fun n => match (s.mbx n).req with | some r => r.code.toNat == code && r.m.job == job | none => false

end Sys2Proof.Machine
end

