-- ==== Sys2Proof/Machine/Faults.lean ====
section
/-! DEFINITION. Fault records on their way to the log, judgements and repairs, region failure, release and scrub (spec/18_faults_fencing.md R413 to R427; spec/17_power_thermal.md R399, R400). -/
namespace Sys2Proof.Machine

/-! Repairs in force (R47, R62, R225, R226). -/

/-- The lowest understudy cell that is neither used nor failed. -/
def nextUnderstudy (gone : List Nat) : Option Nat := [128, 129, 130, 131].find? fun u => !gone.contains u

/-- One failed physical cell: the logical cell on it goes to the next understudy (R226). -/
def remapOne (x : SMap Nat × List Nat) (f : Nat) : SMap Nat × List Nat :=
  match (List.range 128).find? fun l => mapGet l x.1 l == f with
  | none => (x.1, x.2 ++ [f])
  | some l =>
    match nextUnderstudy x.2 with
    | some u => (mapPut x.1 l u, x.2 ++ [u])
    | none => x

/-- The remap of a block's failed cells. -/
def Block.remap (b : Block) (bk : Nat) : SMap Nat × List Nat := (b.failedCells bk).foldl remapOne ([], [])

/-- Physical cell of a logical cell; 0xFF where the block maps none (R225, R241). -/
def Block.phys (b : Block) (bk c : Nat) : Nat := if b.isFenced bk then 0xFF else mapGet c (b.remap bk).1 c

/-- Columns replaced in a physical cell, in the order of the understudies (R62). -/
def Block.cols (b : Block) (bk p : Nat) : List Nat := (Config.shippedCols (bk * 132 + p)).map (·.toNat) ++ mapGet [] b.badCols p

/-- The physical column that serves a column position: the understudy where it is replaced (R62). -/
def servedBy : List Nat → Nat → Nat → Nat
  | [], _, p => p
  | c :: t, n, p => servedBy t (n + 1) (if c = p then 576 + n else p)

/-! Judgements (R420, R422). -/

/-- A record of a repair or a judgement of a unit. -/
def State.repairRec (s : State) (level cls bk : Nat) (phys : Option Nat) (detail : List Byte) : Rec :=
  { s.unitRec level cls (some (bk / 150)) (some (bk % 150)) detail with phys := phys.isSome, cell := phys.getD 0xFF, tick := s.hub.tick }

/-- Put a block's fence into the repair list. -/
def judgeBlock (s : State) (bk : Nat) : State :=
  if s.hub.flashBlocks.contains bk || Config.shippedFence bk then s else s.modHub fun h => { h with flashBlocks := h.flashBlocks ++ [bk] }

/-- The repair list has no room for a further column or cell (R422): class 0x0134 once, and the block is fenced. -/
def listFull (s : State) (bk : Nat) : State :=
  let s := if s.hub.flashFull then s else (s.logHub 0x0134 []).modHub fun h => { h with flashFull := true }
  judgeBlock s bk

/-- Column and cell entries of the repair list: 65,536 (R422). -/
def State.listRoom (s : State) : Bool :=
  Nat.blt ((s.hub.flashCols.map fun e => e.2.length).sum + s.hub.flashCells.length + Config.shippedEntries) 65536

/-- A physical cell has failed (R420): the block is to be fenced when a fifth understudy is needed. -/
def judgeCell (s : State) (bk p : Nat) : State :=
  let old := (Config.shippedCells bk).map (·.toNat)
  let new := s.hub.flashCells.filter fun c => c / 132 == bk
  if old.contains p || new.contains (bk * 132 + p) then s
  else if !s.listRoom then listFull s bk
  else
    let s := s.modHub fun h => { h with flashCells := h.flashCells ++ [bk * 132 + p] }
    if 4 ≤ old.length + new.length then judgeBlock s bk else s

/-- A physical column has failed (R420): a seventeenth replacement fails the cell. -/
def judgeColumn (s : State) (bk p col : Nat) : State :=
  let key := bk * 132 + p
  let l := (Config.shippedCols key).map (·.toNat) ++ mapGet [] s.hub.flashCols key
  if l.contains col then s
  else if 16 ≤ l.length then judgeCell s bk p
  else if !s.listRoom then listFull s bk
  else s.modHub fun h => { h with flashCols := mapPut h.flashCols key (mapGet [] h.flashCols key ++ [col]) }

/-- Put the repairs of a physical cell's columns in force: class 0x0130 each. -/
def repairCols (s : State) (bk p : Nat) (cols : List Nat) : State :=
  let b := s.blk bk
  let new := cols.drop (mapGet [] b.badCols p).length
  let n := (b.cols bk p).length
  let s := s.modBlk bk fun b => { b with badCols := mapPut b.badCols p cols }
  (List.range new.length).foldl (fun s i => s.log (s.repairRec 0 0x0130 bk (some p) (leBytes 2 (new.getD i 0) ++ leBytes 1 (n + i)))) s

/-- Put the repair of one physical cell in force: class 0x0131 with its understudy. Where none is left the cell only counts as failed (R241): its block is fenced. -/
def repairCell (s : State) (bk p : Nat) : State :=
  if (s.blk bk).badCells.contains p then s
  else
    let t := s.modBlk bk fun b => { b with badCells := b.badCells ++ [p] }
    match nextUnderstudy ((s.blk bk).remap bk).2 with
    | some u => t.log (s.repairRec 0 0x0131 bk (some p) (leBytes 1 u))
    | none => t

/-- Put a fence in force: class 0x0132. -/
def repairBlock (s : State) (bk : Nat) : State :=
  if (s.blk bk).fenced then s else (s.modBlk bk fun b => { b with fenced := true }).log (s.repairRec 1 0x0132 bk none [])

/-- Put the repair list in force in a region, as the scrub before an assignment does (R62, R226, R421). -/
def applyRepairs (s : State) (r : Nat) : State :=
  let s := (s.hub.flashCols.filter fun e => e.1 / 132 / 150 == r).foldl (fun s e => repairCols s (e.1 / 132) (e.1 % 132) e.2) s
  let s := (s.hub.flashCells.filter fun c => c / 132 / 150 == r).foldl (fun s c => repairCell s (c / 132) (c % 132)) s
  (s.hub.flashBlocks.filter fun b => b / 150 == r).foldl repairBlock s

/-- The margin judgement of a physical cell (R420): two failures within 1 h. -/
def judgeMargin (s : State) (bk p : Nat) : State :=
  let now := s.hub.tick
  let key := bk * 132 + p
  let l := (s.hub.cellFails.filter fun e => Nat.blt now (e.2 + 360000000000)) ++ [(key, now)]
  let s := s.modHub fun h => { h with cellFails := l }
  if 2 ≤ (l.filter fun e => e.1 == key).length then judgeCell s bk p else s

/-- The corrected-error judgement of a physical column (R420): three within 24 h. -/
def judgeCorrected (s : State) (bk p col n : Nat) : State :=
  let now := s.hub.tick
  let key := bk * 132 + p
  let l := (s.hub.colErrs.filter fun e => Nat.blt now (e.2.2 + 8640000000000)) ++ List.replicate n (key, col, now)
  let s := s.modHub fun h => { h with colErrs := l }
  if 3 ≤ (l.filter fun e => e.1 == key && e.2.1 == col).length then judgeColumn s bk p col else s

/-! Guardbands (R399, R400). -/

/-- Change the power control of a region. -/
def State.modRpwr (s : State) (r : Nat) (f : RgnPwr → RgnPwr) : State :=
  s.modPwr fun p => { p with rgns := mapPut p.rgns r (f (mapGet RgnPwr.reset p.rgns r)) }

/-! Release (R240, R424). -/

/-- The windows of a job are invalidated (R337). -/
def dropWindows (s : State) (keep : Window → Bool) : State :=
  s.modEth fun e => { e with windows := e.windows.filter fun w => keep w.2 }

/-- Job slot of a job (R405). -/
def State.slotOf (s : State) (id : Word) : Option Nat := (List.range 16).find? fun i => let x := mapGet JobSlot.reset s.hub.pwr.slots i; x.live && x.job == id

/-- The channels of a block on which a combine is open fail with class 0x0432 on release (R232, R233); no channel of it stays failed then. -/
def abandonChans (s : State) (bk : Nat) : State :=
  let img := s.imgOf (bk * 128)
  let s := (List.range 4).foldl (fun s ch =>
    match s.openDescs bk ch img with
    | d :: _ => failComb s bk ch 0x0432 img d none
    | [] => s) s
  s.modBlk bk fun b => { b with chans := List.replicate 4 Chan.reset }

/-- A cell whose region is released: it runs no more, its dispatched work is gone, and its loaded fields hold what they hold at wake (R10, R424). -/
def Cell.released (c : Cell) : Cell :=
  { c with seq := { c.seq with state := 0, wait := none, held := none, sigs := [] }, units := Units.reset,
           mr := { c.mr with bankOff := 0, win := List.replicate 8 0 } }

/-- Traffic under way into a region, and that of its cells but for what has left them for other cells, is lost (R21, R424). -/
def State.dropTraffic (s : State) (r : Nat) : State :=
  { s with flights := s.flights.filter fun f => f.2.dstRgn != r && (match f.2 with | .write _ => true | g => s.srcRgn g != r) }

/-- A region without its job: its loaded fields hold what they hold at wake (R10), and no combine is open on it. -/
def Region.freed (ident : BitVec 12) (g : Region) : Region :=
  { g with owner := none, ident := ident, tagTimeout := 0x800000, chans := List.replicate 4 .reset }

/-- A job's region enters Releasing (R240, R424), and goes on to Scrubbing at the next tick (log entry 70); one that has not been loaded yet goes on as it was, without the job. -/
def releaseRegion (s : State) (r : Nat) : State :=
  let g := s.rgn r
  if g.state = 1 ∨ g.state = 2 ∨ g.state = 6 then s.modRgn r fun g => { g with owner := none, goal := .ready }
  else
    let s := ((s.blocks.map (·.1)).filter fun b => b / 150 == r).foldl abandonChans s
    let s := { s with cells := s.cells.map fun (c : Nat × Cell) => if cellRgn c.1 = r then (c.1, c.2.released) else c }
    (s.dropTraffic r).modRgn r fun g =>
      if g.failed then { g.freed s.hub.fab.moduleId with goal := .none }
      else { g.freed s.hub.fab.moduleId with state := 6, scrubPending := true, goal := .ready }

/-- JOB_RELEASED of the jobs whose regions have all left Releasing and Scrubbing (R359). -/
def noteReleased (s : State) : State :=
  let out := s.hub.mail.releasing.filter fun x => x.2.2.2 == 0
  out.foldl (fun s x => queueEvent s x.2.1 ⟨0x8004, x.1, leBytes 4 x.1.toNat ++ leBytes 2 x.2.2.1.toNat⟩)
    (s.modMail fun m => { m with releasing := m.releasing.filter fun x => x.2.2.2 != 0 })

/-- A region has reached Ready. -/
def regionReleased (s : State) (r : Nat) : State :=
  noteReleased (s.modMail fun m => { m with releasing := m.releasing.map fun x => (x.1, x.2.1, x.2.2.1, setBit x.2.2.2 r false) })

/-- A job leaves the module (R351, R405, R424): windows, buckets, early packets, staged changes; its regions go to Releasing. -/
def releaseJob (s : State) (id : Word) : State :=
  match s.job id with
  | none => s
  | some j =>
    let s := dropWindows s fun w => w.job != id
    let s := bucketDrop s id 0
    let s := s.modBkt fun b => { b with early := b.early.filter fun e => pktJob e.k != id, sats := b.sats.filter fun x => x.1 != id }
    let s := j.rgns.foldl releaseRegion s
    let s := match s.slotOf id with
      | some i => s.modPwr fun p =>
        let x := mapGet JobSlot.reset p.slots i
        { p with releases := p.releases + 1, slots := mapPut p.slots i { x with live := false, released := p.releases + 1 } }
      | none => s
    let left := (j.rgns.filter fun r => !(s.rgn r).failed).foldl (fun m r => setBit m r true) (0 : BitVec 16)
    let s := s.modMail fun m => { m with releasing := m.releasing ++ [(id, j.session, j.regions, left)] }
    noteReleased (State.applyTables { s with jobs := s.jobs.filter fun x => x.id != id })

/-- A load is abandoned (R240, R377, R423): the regions of the assignment are released, its staging space goes, and JOB_ASSIGN responds 0x0502. -/
def abandonLoad (s : State) (id : Word) : State :=
  let n := s.executingFor 0x0303 id
  let s := match s.job id with
    | some j => s.modSession j.session fun x => { x with staging := none }
    | none => s
  let s := releaseJob s id
  match n with
  | some n => respond s n 0x0502 []
  | none => s

/-! Region failure (R239, R416, R423). -/

/-- Jobs whose JOB_ASSIGN is still in execution. -/
def State.loading (s : State) : List Word := (s.jobs.map (·.id)).filter fun id => (s.executingFor 0x0303 id).isSome

/-- Abandon every book reservation and every staging in progress; a JOB_ASSIGN in execution responds 0x0502 (R423). -/
def abandonBooks (s : State) : State :=
  let s := s.loading.foldl abandonLoad s
  s.modMail fun m => { m with sessions := m.sessions.map fun x => { x with staging := none } }

/-- The lowest of regions 1 to 3 that has not failed (R423). -/
def State.nextHost (s : State) : Option Nat := [1, 2, 3].find? fun r => (s.rgn r).state != 7

/-- Links of a region that exist, in the order of RGN_D2D_STATUS, with the region at their other end: north (for row 0 the hub's), east, south, west (R15, R237). -/
def linkEnds (r : Nat) : List (Nat × Option Nat) :=
  (if r < 4 then [(0, none)] else [(0, some (r - 4))]) ++ (if r % 4 < 3 then [(1, some (r + 1))] else [])
    ++ (if r < 12 then [(2, some (r + 4))] else []) ++ (if 0 < r % 4 then [(3, some (r - 1))] else [])

/-- Links of a region that are trained (R241): both ends have not failed. -/
def State.linksOf (s : State) (r : Nat) : BitVec 4 :=
  BitVec.ofNat 4 (((linkEnds r).filter fun l => !(s.rgn r).failed && (match l.2 with | some q => !(s.rgn q).failed | none => true)).map (2 ^ ·.1)).sum

/-- A region has failed: the links to it are down, which its neighbours see as an error (R241). DESIGN CHOICE (log entry 71). -/
def dropLinks (s : State) (r : Nat) : State :=
  let s := s.modRgn r fun g => { g with linkUp := 0 }
  (linkEnds r).foldl (fun s l => match l.2 with
    | some q => s.modRgn q fun g => { g with linkUp := setBit g.linkUp ((l.1 + 2) % 4) false, linkErr := setBit g.linkErr ((l.1 + 2) % 4) true }
    | none => s) s

/-- A port of a failed region carries nothing (R19, R281): what it held is lost, what waited for it is routed again. It stands Disabled (log entry 71). -/
def dropPort (s : State) (p : Nat) : State :=
  let x := s.port p
  let t := losePackets (if x.up then sourceLost s p else s) p
  reroute ((x.arrived.filter fun a => answerable a.k.h0 a.k.h1).foldl (fun s a => unreachable s p 0x12 a.k.h0)
    (t.modPort p fun x => { x with state := 0, arrived := [] })) p

/-- A failed region offers no blocks, no HBM, no cues and no ports (R19, R240): traffic into and out of it is lost. -/
def withdrawRegion (s : State) (r : Nat) : State :=
  let s := { s with flights := s.flights.filter fun f => f.2.dstRgn != r && s.srcRgn f.2 != r }
  ((List.range 48).filter fun p => portRegion p == r).foldl dropPort (dropLinks s r)

/-- One region becomes Failed (R239, R422, R423): class 0x0133 with the cause; its job faults, and every job with the region that serves the module. New tables are built that avoid it (R238). -/
def failOne (s : State) (r cause : Nat) : State :=
  if (s.rgn r).state = 7 then s
  else
    let c := s.unitRec 2 0x0133 (some r) none (leBytes 2 cause)
    let owner := (s.rgn r).owner
    let s := regionReleased ((s.modRgn r fun g => { g with state := 7, scrubPending := true, heldReady := false, goal := .none }).log c) r
    let s := withdrawRegion (s.modHub fun h => { h with flashRgns := setBit h.flashRgns r true, detourDue := setBit h.detourDue r true }) r
    let s := match owner with
      | some id => if s.loading.contains id then abandonLoad s id else faultJob s id c true
      | none => s
    if r = s.hub.hostRgn then
      let s := abandonBooks s
      let s := s.jobs.foldl (fun s j => faultJob s j.id c true) s
      State.applyTables (s.modHub fun h => { h with takeover := true, hostRgn := s.nextHost.getD h.hostRgn })
    else s.applyTables

/-- Regions that the hub reaches through regions that have not failed, from regions 0 to 3 (R16), with fuel. -/
def State.reachF (s : State) : Nat → List Nat → List Nat
  | 0, l => l
  | n + 1, l => s.reachF n ((List.range 16).filter fun r => l.contains r || (!(s.rgn r).failed && (linkEnds r).any fun e => match e.2 with | some q => l.contains q | none => false))

/-- Regions that have not failed and that the hub has lost every path to (R16, R420, R423). -/
def State.cutOff (s : State) : List Nat :=
  let l := s.reachF 16 ((List.range 4).filter fun r => !(s.rgn r).failed)
  (List.range 16).filter fun r => !(s.rgn r).failed && !l.contains r

/-- A region becomes Failed, and with it every region that the hub has lost every path to (R16, R239, R420). -/
def failRegion (s : State) (r cause : Nat) : State :=
  let s := failOne s r cause
  s.cutOff.foldl (fun s q => failOne s q cause) s

/-- Raise a region's guard steps (R399): beyond 8 the top point is withdrawn, and with no point left the region fails (R400). -/
def raiseGuard (s : State) (r n : Nat) : State :=
  let x := s.rpwr r
  let g := x.guard + x.guardDue
  if g + n ≤ 8 then
    (s.log (s.unitRec 2 0x0720 (some r) none (leBytes 1 (g + n)))).modRpwr r fun x => { x with guardDue := x.guardDue + n }
  else if x.top = 0 then failRegion s r 0x0721
  else (s.modRpwr r fun x => { x with top := x.top - 1 }).log (s.unitRec 2 0x0721 (some r) none (leBytes 1 (x.top - 1)))

/-- The margin events that a summary reports (R399): more than 1,000 within 1 s raise the guard by one step. -/
def countMargins (s : State) (r n : Nat) : State :=
  let now := s.hub.tick
  let l := ((s.rpwr r).margins.filter fun e => Nat.blt now (e.1 + 100000000)) ++ [(now, n)]
  if 1000 < (l.map (·.2)).sum then raiseGuard (s.modRpwr r fun x => { x with margins := [] }) r 1
  else s.modRpwr r fun x => { x with margins := l }

/-! Records on their way (R413, R415). -/

/-- Two records merge (R413). -/
def Rec.merges (a b : Rec) : Bool :=
  a.cls == b.cls && a.level == b.level && a.summary == b.summary && a.phys == b.phys && a.region == b.region && a.block == b.block && a.cell == b.cell && a.port == b.port

/-- Put a record into an aggregator of 64: merged, held, or dropped (none). -/
def Aggr.add (a : Aggr) (r : Rec) : Option Aggr :=
  match a.recs.findIdx? fun h => h.merges r with
  | some i => some { a with recs := modAt (fun h => { h with count := h.count + r.count }) a.recs i }
  | none => if a.recs.length < 64 then some { a with recs := a.recs ++ [r] } else none

/-- Take the oldest record of an aggregator; it says whether records were lost ahead of it. -/
def Aggr.take (a : Aggr) : Option (Rec × Aggr) :=
  match a.recs with
  | [] => none
  | r :: t => some ({ r with lostBefore := r.lostBefore || a.lost }, { recs := t, lost := false })

/-- The record is of a cell stop (R415): class 0x0352 or an immediate stop. -/
def Rec.isStop (r : Rec) : Bool := r.level == 0 && (r.cls == 0x0352 || r.cls == 0x0350 || r.cls == 0x0351 || r.cls == 0x0353)

/-- A stop faults the cell's job (R415), whatever becomes of its record. -/
def stopFaults (s : State) (r : Rec) : State :=
  if r.isStop && (s.cell ((r.region * 150 + r.block) * 128 + r.cell)).seq.state == 3 then
    match (s.rgn r.region).owner with
    | some id => faultJob s id r true
    | none => s
  else s

/-- Count a drop (R413, R429). -/
def FltLog.drop1 (l : FltLog) : FltLog := { l with lost := true, lostCount := satAdd32 l.lostCount 1 }

/-- A record reaches its block's aggregator. -/
def blockArrival (s : State) (bk : Nat) : State :=
  match (s.blk bk).transit with
  | [] => s
  | r :: t =>
    let b := s.blk bk
    match b.aggr.add r with
    | some a => s.modBlk bk fun b => { b with transit := t, aggr := a }
    | none =>
      stopFaults ({ s.modBlk bk fun b => { b with transit := t, aggr := { b.aggr with lost := true }, cnt := bump b.cnt 0xE0 1 } with flt := s.flt.drop1 }) r

/-- A record is in the region aggregator's hands: merged, held or dropped; a stop takes the job fault (R415). -/
def regionTake (s : State) (g : Nat) (r : Rec) : State :=
  let s := match (s.rgn g).aggr.add r with
    | some a => s.modRgn g fun x => { x with aggr := a }
    | none => { s.modRgn g fun x => { x with aggr := { x.aggr with lost := true }, cnt := bump x.cnt 0x300 1 } with flt := s.flt.drop1 }
  stopFaults s r

/-- A record reaches its region's aggregator: one of the region itself first, else one of the block. -/
def regionArrival (s : State) (g bk : Nat) : State :=
  match (s.rgn g).transit with
  | r :: t => regionTake (s.modRgn g fun x => { x with transit := t }) g r
  | [] =>
    match (s.blk bk).aggr.take with
    | some (r, a) => regionTake (s.modBlk bk fun b => { b with aggr := a }) g r
    | none => s

/-- What firmware does with a record of a margin event, a margin failure or a corrected error (R399, R420). -/
def judgeRecord (s : State) (r : Rec) : State :=
  let bk := r.region * 150 + r.block
  let p := (s.blk bk).phys bk r.cell
  if r.level ≠ 0 then s
  else if r.cls = 0x0201 then countMargins s r.region r.count
  else if r.cls = 0x0202 ∨ r.cls = 0x0203 then raiseGuard (judgeMargin s bk p) r.region 2
  else if r.cls = 0x0101 then
    let col := leAt r.detail 0 1 * 288 + leAt r.detail 2 2
    judgeCorrected s bk p (servedBy ((s.blk bk).cols bk p) 0 col) r.count
  else s

/-- A record reaches the hub and is logged (R413, R417). -/
def hubArrival (s : State) (g : Nat) : State :=
  match (s.rgn g).aggr.take with
  | some (r, a) => judgeRecord ((s.modRgn g fun x => { x with aggr := a }).log r) r
  | none => s

/-! The scrub (R421, R425). -/

/-- A block after a scrub (R425): its instruction store and its combine channels are empty, and the bits that its combines latched are clear. -/
def Block.scrubbed (b : Block) : Block :=
  { b with pseen := [], istore := [], istoreErrs := [], badLines := [], chans := List.replicate 4 Chan.reset, mismatch := false, timeout := false, abandoned := false }

/-- Zero everything that a job can have written in a region (R425): what the scrub leaves is the state of R221. -/
def scrubbed (s : State) (r : Nat) : State :=
  let base := r * 2 ^ 36
  let stop := if r = s.hub.hostRgn then base + 0xBC0000000 else base + 0xC00000000
  let s := ((s.blocks.map (·.1)).filter fun b => b / 150 == r).foldl State.settleAll s
  { s with
    cells := s.cells.filter fun (c : Nat × Cell) => cellRgn c.1 != r,
    blocks := s.blocks.map fun (b : Nat × Block) => if b.1 / 150 = r then (b.1, b.2.scrubbed) else b,
    cues := s.cues.filter fun (c : Nat × Cue) => !(c.1 / 512 == r) || Nat.blt c.1 128,
    hbm := { mem := memZero s.hbm.mem base stop, tags := mapDrop (fun k => decide (base / 64 ≤ k) && decide (k < stop / 64)) s.hbm.tags,
             poison := mapDrop (fun k => decide (base / 64 ≤ k) && decide (k < stop / 64)) s.hbm.poison,
             errs := mapDrop (fun k => decide (base / 64 ≤ k) && decide (k < stop / 64)) s.hbm.errs } }

/-- One finding of the scrub's pattern test (R420, R421). -/
def applyFinding (s : State) (r : Nat) (f : TestFinding) : State :=
  match f with
  | .column b p col => judgeColumn s (blkKey r b.val) p.val col.val
  | .cell b p => judgeCell s (blkKey r b.val) p.val
  | .block b => judgeBlock s (blkKey r b.val)

/-- The scrub ends (R421, R425): judgements of its pattern test are repaired in it, everything is zero, and the region is Ready. -/
def endScrub (s : State) (r : Nat) (found : List TestFinding) : State :=
  let s := applyRepairs (found.foldl (fun s f => applyFinding s r f) s) r
  regionReleased ((scrubbed s r).modRgn r fun g => { g with state := 3, scrubPending := false }) r

end Sys2Proof.Machine
end

