-- ==== Sys2Proof/Machine/FabricOps.lean ====
section
/-! DEFINITION. What packets do when they reach this module, and link events (spec/12_rinmen_fabric.md R274, R275, R284 to R297, R300; spec/11_prompt_books_epochs.md R259, R263, R265). -/
namespace Sys2Proof.Machine

/-! Packets that wait. -/

/-- A packet that cannot be taken waits at its port (R265, R315). -/
def park (s : State) (p : Nat) (k : Packet) : State :=
  if (s.port p).arrived.any fun a => a.k == k then s else s.modPort p fun x => { x with arrived := x.arrived ++ [⟨k, 0, 0, s.entryOf p k, false, s.hub.tick⟩] }

/-- Tick at which a packet arrived. -/
def arrivedAt (s : State) (p : Nat) (k : Packet) : Nat := (((s.port p).arrived.find? fun a => a.k == k).map (·.tick)).getD s.hub.tick

/-- Region that a WRITE or ACCW names (R284). -/
def writeRgn (k : Packet) : Nat :=
  let a := field k.h1.toNat 0 48
  match cellAddr a with
  | some (t, _) => cellRgn t
  | none => if isHbm a then hbmRgn a else 16

/-- A job packet other than HOLD, TIME and MGMT waits at its port during a change hold of its job (R265). -/
def heldByChange (s : State) (k : Packet) : Bool :=
  match jobIdOf k with
  | some id => inChange (s.job id)
  | none => if hType k.h0 = 1 ∨ hType k.h0 = 2 then inChange (s.jobOf (writeRgn k)) else false

/-! Cross-module writes (R201, R210, R285). -/

/-- The job of a region names the source module and region (R200). -/
def fromJob (j : Job) (src region : Nat) : Bool :=
  match bookPosition j.img src with
  | some p => bitAt (bookMask j.img p) region
  | none => false

/-- A region may be written by a packet's source (R200, R201, R426). -/
def State.openTo (s : State) (r src region : Nat) : Bool :=
  match s.jobOf r with
  | some j => fromJob j src region && !(s.rgn r).scrubPending
  | none => false

/-- A slot of a packet may land at a local address (R200, R201, R210). -/
def slotOk (s : State) (a src region : Nat) (countCell : Option Nat) : Bool :=
  match cellAddr a with
  | some (t, off) => s.openTo (cellRgn t) src region && s.offers t && localOk (isLead (cellNo t)) off 64 && !(s.cell t).bankDown off 64
  | none =>
    isHbm a && !inFirmware s.hostRegion a 64 && s.openTo (hbmRgn a) src region && !(s.rgn (hbmRgn a)).failed
      && (match countCell with
          | some cc => Nat.blt (field cc 7 8) 150 && (s.rgn (field cc 15 4)).owner == (s.rgn (hbmRgn a)).owner && Nat.blt (field cc 0 7) 128
          | none => true)

/-- One slot of a WRITE or ACCW: on its way, or dropped (R201); the first drop of a packet is recorded, and the destination cell stops at its next cue wait. -/
def takeSlot (k : Packet) (x : State × Bool) (i : Nat) : State × Bool :=
  let s := x.1
  let h1 := k.h1.toNat
  let a := field h1 0 48 + 64 * i
  let cc := if countCellUsed k.h1 then some (field k.h2.toNat 0 19) else none
  if slotOk s a (hSrc k.h0) (hRegion k.h0) cc then
    let w : RemoteWrite :=
      ⟨BitVec.ofNat 12 (hSrc k.h0), hCell k.h0, 0, a, (k.data.drop (64 * i)).take 64, BitVec.ofNat 8 (field h1 48 8), hPoison k.h0,
       if hType k.h0 = 2 then some (BitVec.ofNat 2 (field h1 61 2)) else none, if bitAt h1 56 then some (BitVec.ofNat 4 (field h1 57 4)) else none, cc⟩
    (s.launch (.write w), x.2)
  else
    let d := leBytes 2 (hSrc k.h0) ++ leBytes 4 (packCell (hCell k.h0))
    match cellAddr a with
    | some (t, _) =>
      if (s.rgn (cellRgn t)).owner.isSome then
        (s.fx t fun y => let y := y.map (Cell.setMr fun r => { r with prot := true }); if x.2 then y.faultQuiet 0x0119 else y.fault 0x0119 d, true)
      else (if x.2 then s else s.logHub 0x0119 d, true)
    | none => (if x.2 then s else s.logHub 0x0119 d, true)

/-- A WRITE or ACCW arrives (R285). -/
def writePacket (s : State) (p : Nat) (k : Packet) (ty : Nat) : State :=
  if !packetFor s p k ty then s
  else if heldByChange s k then park s p k
  else ((List.range (hLen k.h0)).foldl (takeSlot k) (takeArrived s p k, false)).1

/-- A CUE packet arrives (R159, R296). -/
def cuePacket (s : State) (p : Nat) (k : Packet) : State :=
  if !packetFor s p k 3 then s
  else if heldByChange s k then park s p k
  else
    let s := takeArrived s p k
    let cue := field k.h1.toNat 0 13
    let n := BitVec.ofNat 32 (field k.h1.toNat 32 32)
    let id := BitVec.ofNat 32 (field k.h2.toNat 0 32)
    let ok := match s.job id with | some j => jobCue j cue | none => false
    if ok then addCue s cue n
    else s.log { s.unitRec 4 0x0420 none none (leBytes 2 cue ++ leBytes 2 (hSrc k.h0) ++ leBytes 4 n.toNat ++ leBytes 4 id.toNat) with port := p }

/-- A REDUCE or BCAST arrives (R307, R314, R315). -/
def bucketPacket (s : State) (p : Nat) (k : Packet) (ty : Nat) : State :=
  if !packetFor s p k ty then s
  else
    let r := bucketArrive s p k
    if r.2 then takeArrived r.1 p k else park r.1 p k

/-- A HOLD arrives (R259, R261, R265). The class of a fault that another module took is not in the packet: it is free (log entry 22). -/
def holdArrive (s : State) (p : Nat) (k : Packet) : State :=
  if !packetFor s p k 6 then s
  else
    let s := takeArrived s p k
    let b := k.h2.toNat
    let id := BitVec.ofNat 32 (field b 32 32)
    if bitAt b 16 then
      match s.job id with
      | some j =>
        if j.faulted then s
        else
          let d := s.draw
          faultJob d.1 id { d.1.jobRec j 0 (leBytes 2 (hSrc k.h0)) with cls := d.2.setWidth 16 } false
      | none => s
    else if bitAt b 17 then changeHold s id (field b 0 16)
    else holdReceive s id (hSrc k.h0) k.h1.toNat (field b 0 16)

/-- The job that a TIME packet names. -/
def timeJob (k : Packet) : Word := BitVec.ofNat 32 (field k.h1.toNat 32 32)

/-- A TIME align packet sets the counters of the job's regions, before epoch 0 (R252, R295): the port's delay and the time inside are added, and the value is rounded to the nearest tick. -/
def timeAlign (s : State) (p : Nat) (k : Packet) : State :=
  if !packetFor s p k 7 || field k.h1.toNat 0 8 != 0 then s
  else
    let v := k.h2.toNat + (s.port p).delay.toNat + 64 * (s.hub.tick - arrivedAt s p k)
    let s := takeArrived s p k
    match s.job (timeJob k) with
    | some j => if j.begun || j.root then s else j.rgns.foldl (fun s r => s.modRgn r fun g => { g with tick := (v + 32) / 64 }) s
    | none => s

/-- A TIME announce packet (R295): the module holds T0, and a JOB_START that waits for it responds (R354). -/
def timeAnnounce (s : State) (p : Nat) (k : Packet) : State :=
  if !packetFor s p k 7 || field k.h1.toNat 0 8 != 1 then s
  else
    let s := takeArrived s p k
    let id := timeJob k
    match s.job id with
    | some j =>
      if j.begun || j.root || j.faulted then s
      else
        let s := s.modJob id fun j => { j with t0 := some k.h2.toNat }
        (match s.executingFor 0x0304 id with | some n => respond s n 0 (leBytes 8 k.h2.toNat) | none => s)
    | none => s

/-- A TIME beat packet (R263). -/
def timeBeat (s : State) (p : Nat) (k : Packet) : State :=
  if !packetFor s p k 7 || field k.h1.toNat 0 8 != 2 then s
  else beatReceive (takeArrived s p k) (timeJob k) (hSrc k.h0)

/-! IDENT and MGMT (R286, R290 to R292). -/

/-- The guard of an IDENT or MGMT packet: link-local, or for this module. -/
def localFor (s : State) (p : Nat) (k : Packet) (ty : Nat) : Bool :=
  hType k.h0 == ty && s.carries p k && goodPacket k && (hDst k.h0 == 0xFFF || forHere s p k)

/-- A port is blocked (R292, R297): class 0x050B with the partner's IDENT. -/
def blockPort (s : State) (p : Nat) (k : Packet) : State :=
  let s := (s.modPort p fun x => { x with state := 6, blockedSeen := true }).logPort 0x050B p (leBytes 8 k.h1.toNat ++ leBytes 8 k.h2.toNat)
  reroute (losePackets (sourceLost s p) p) p

/-- An IDENT arrives (R292). -/
def identArrive (s : State) (p : Nat) (k : Packet) : State :=
  if !localFor s p k 8 then s
  else
    let s := takeArrived s p k
    let x := s.port p
    let b := k.h2.toNat
    let ident := BitVec.ofNat 12 b
    let changed := match x.before with | some v => v != (k.h1, ident) | none => false
    let bad := changed || (ident != 0xFFF && ident == s.hub.fab.moduleId) || field b 32 16 != 0x4C4D || field b 48 16 != 0x0307
    let s := s.setPort p { x with peerValid := true, peerSerial := k.h1, peerIdent := ident, peerPort := BitVec.ofNat 6 (field b 16 8),
                                  peerSplit := bitAt b 24, before := none }
    if bad && x.state == 3 then blockPort s p k else s

/-- A NAK arrives (R286): class 0x0505. -/
def nakArrive (s : State) (p : Nat) (k : Packet) : State :=
  if !localFor s p k 9 || field k.h1.toNat 0 8 != 1 then s
  else
    let s := takeArrived s p k
    s.log (s.headRec 0x0505 p (some (field k.h1.toNat 32 8)) (leBytes 8 k.h2.toNat))

/-- An UNREACHABLE arrives (R297): the job of a job packet of this module faults. -/
def unreachableArrive (s : State) (p : Nat) (k : Packet) : State :=
  if !localFor s p k 9 || field k.h1.toNat 0 8 != 2 then s
  else
    let s := takeArrived s p k
    if hSrc k.h2 = s.hub.fab.moduleId.toNat then
      let s := lostOwn s p (field k.h1.toNat 32 8) k.h2
      match s.jobOf (hRegion k.h2) with
      | some j => (match j.faultDue with | some c => faultJob s j.id c true | none => s)
      | none => s
    else s

/-- Change a job slot. -/
def State.modSlot (s : State) (i : Nat) (f : JobSlot → JobSlot) : State :=
  s.modPwr fun p => { p with slots := mapPut p.slots i (f (mapGet JobSlot.reset p.slots i)) }

/-- An allocation takes effect at the start of an epoch: a decrease in the one named, an increase in the next (R394). -/
def scheduleAlloc (s : State) (id : Word) (epoch units : Nat) : State :=
  match s.job id, s.slotOf id with
  | some j, some i =>
    let now := match j.allocDue.getLast? with | some a => a.2 | none => (mapGet JobSlot.reset s.hub.pwr.slots i).alloc
    s.modJob id fun j => { j with allocDue := j.allocDue ++ [(if units < now then epoch else epoch + 1, units)] }
  | _, _ => s

/-- What firmware does with a message of the root of a job (R265, R394). -/
def firmwareTake (s : State) (src : Nat) (f : FwMsg) : State :=
  match f with
  | .change id epoch code m =>
    match s.job id with
    | some j =>
      if src = j.rootIdent.toNat ∧ j.faulted = false ∧ j.epoch < epoch then s.modJob id fun j => { j with staged := j.staged ++ [⟨epoch, code, m⟩] } else s
    | none => s
  | .alloc id epoch units =>
    match s.job id with
    | some j => if src = j.rootIdent.toNat ∧ j.faulted = false then scheduleAlloc s id epoch units else s
    | none => s
  | .cancel id seq =>
    match s.job id with
    | some j => if src = j.rootIdent.toNat ∧ j.faulted = false then s.modJob id fun j => { j with staged := j.staged.filter fun c => !(c.m.seq == seq && underHold c.code && Nat.blt (j.epoch + b2n j.chg.isSome) c.epoch) } else s
    | none => s

/-- A FIRMWARE message is delivered to firmware (R286). -/
def firmwareArrive (s : State) (p : Nat) (k : Packet) : State :=
  if !localFor s p k 9 || field k.h1.toNat 0 8 != 3 then s
  else
    let s := (takeArrived s p k).modFab fun f => { f with inbox := f.inbox ++ [(p, k)] }
    match Config.firmwareMsg k.h1 k.h2 k.data with
    | some f => firmwareTake s (hSrc k.h0) f
    | none => s

/-- The IDENT that a port has of its partner (R292). -/
def Port.peerPacket (x : Port) : Packet :=
  ⟨mkH0 8 3 0 0xFFF x.peerIdent.toNat 0 false, x.peerSerial,
   BitVec.ofNat 64 (x.peerIdent.toNat + 2 ^ 16 * x.peerPort.toNat + 2 ^ 24 * b2n x.peerSplit + 2 ^ 32 * 0x4C4D + 2 ^ 48 * 0x0307), []⟩

/-- The module takes an identifier (R290): it shows in the cells of regions without a job (R10), every linked port says so, and a port whose partner has it is blocked (R292). -/
def setModuleId (s : State) (id : BitVec 12) : State :=
  if s.hub.fab.moduleId = id then s
  else
    let s := s.modFab fun f => { f with moduleId := id }
    let s := (List.range 16).foldl (fun s r => if (s.rgn r).owner.isNone then s.modRgn r fun g => { g with ident := id } else s) s
    (List.range 48).foldl (fun s p =>
      let x := s.port p
      if !x.live then s
      else
        let s := sendLocal s p (identOf s p)
        if x.up && x.peerValid && x.peerIdent == id && id != 0xFFF then blockPort s p x.peerPacket else s) s

/-- No job holds any region of the module (R290, R356). -/
def State.noJobs (s : State) : Bool := (List.range 16).all fun r => (s.rgn r).owner.isNone

/-- Names of assignment messages of the last second, which are discarded when they come again (R291); 4,096 names are kept for the replies. -/
def knownNames (s : State) : List (DWord × Word × Nat × Nat) := s.hub.fab.names.filter fun n => Nat.blt s.hub.tick (n.2.2.2 + 100000000)

/-- Keep a name (R291). -/
def keepName (s : State) (a : DWord) (n : Word) (p : Nat) : State :=
  s.modFab fun f => { f with names := (f.names ++ [(a, n, p, s.hub.tick)]).drop (f.names.length + 1 - 4096) }

/-- Send an assignment message on every linked port but one (R291). -/
def relayAssign (s : State) (from_ : Option Nat) (a : AssignMsg) : State :=
  (List.range 48).foldl (fun s p => if (s.port p).live && from_ != some p then s.emit (.assign p a) else s) s

/-- An assignment message arrives (R291). -/
def assignArrive (s : State) (p : Nat) (a : AssignMsg) : State :=
  if !(s.portExists p && (s.port p).live) then s
  else if (knownNames s).any fun n => n.1 == a.assigner && n.2.1 == a.number then s
  else
    let s := keepName s a.assigner a.number p
    if a.target = Config.fuseSerial then
      let ok := s.noJobs && a.ident != 0xFFF
      let s := if ok then setModuleId s a.ident else s
      s.emit (.assignReply p ⟨a.assigner, a.number, ok⟩)
    else if a.hops < 31 then relayAssign s (some p) { a with hops := a.hops + 1 }
    else s

/-! Packets that are not for this module, and malformed ones (R286 to R288, R296). -/

/-- A packet goes on by its arrival port's table (R287, R288). -/
def forwardPacket (s : State) (p : Nat) (k : Packet) : State :=
  if !(s.carries p k && goodPacket k) || forHere s p k || hType k.h0 == 8 || hDst k.h0 == 0xFFF then s
  else if heldByChange s k then park s p k
  else
    let t0 := arrivedAt s p k
    let e := s.entryOf p k
    let x := s.port p
    let s := takeArrived s p k
    if s.hub.fab.moduleId = 0xFFF then dropPacket s (some p) 0x10 k
    else if 31 ≤ hHops k.h0 then dropPacket s (some p) 0x11 k
    else
      let k := if hType k.h0 = 7 ∧ field k.h1.toNat 0 8 = 0 then { k with h2 := k.h2 + BitVec.ofNat 64 x.delay.toNat } else k
      routeBy s ⟨k, none, none, some p, t0⟩ e

/-- A NAK about a malformed packet goes to its source, or to the partner where the source is unusable (R296). -/
def sendNak (s : State) (p reason : Nat) (h0 : DWord) : State :=
  let k := mgmtAbout s 1 (hSrc h0) reason h0
  if s.hub.fab.moduleId = 0xFFF || hSrc h0 == 0xFFF || pick s (mapGet 0 s.hub.fab.table (hSrc h0)) == .none then
    sendLocal s p (mgmtAbout s 1 0xFFF reason h0)
  else sendMgmt s k

/-- A malformed packet is dropped, recorded and answered with at most one NAK per microsecond (R286, R296). -/
def malformedArrive (s : State) (p : Nat) (k : Packet) : State :=
  match badReason k with
  | none => s
  | some r =>
    if !(s.carries p k) || hType k.h0 == 0 then s
    else
      let s := (takeArrived s p k).modPort p fun x => { (x.count 0x54 1) with malformed := true }
      let s := s.log (s.headRec 0x0504 p (some r) (pktHeader k))
      let sub := field k.h1.toNat 0 8
      if hType k.h0 = 9 ∧ (sub = 1 ∨ sub = 2) then s
      else
        match (s.port p).lastNak with
        | some t => if s.hub.tick < t + 100 then s.modPort p fun x => x.count 0x54 1 else sendNak (s.modPort p fun x => { x with lastNak := some s.hub.tick }) p r k.h0
        | none => sendNak (s.modPort p fun x => { x with lastNak := some s.hub.tick }) p r k.h0

/-! Link events (R274, R275, R294, R300). -/

/-- FCLK follows its source again (R294): class 0x0511. -/
def holdoverEnd (s : State) : State :=
  let f := s.hub.fab
  if !f.freewheel then s
  else (s.modFab fun f => { f with freewheel := false, locked := true }).logPort 0x0511 f.srcPort.toNat []

/-- The designated port has locked again (R294): FCLK follows it once it is Up. -/
def holdoverExit (s : State) : State :=
  let p := s.hub.fab.srcPort.toNat
  if p = 63 || (s.portExists p && (s.port p).up) then holdoverEnd s else s

/-- The 0x0500 summary of a port (R300): corrected codewords, CRC errors, replays. -/
def portSummary (s : State) (p : Nat) : State :=
  let l := (s.port p).sums
  if l.sum = 0 then s
  else
    let s := s.modPort p fun x => { x with sums := [0, 0, 0] }
    s.log { s.unitRec 4 0x0500 none none (l.flatMap fun n => leBytes 4 n) with port := p, summary := true, count := l.sum }

end Sys2Proof.Machine
end

