-- ==== Sys2Proof/Machine/Boot.lean ====
section
/-! DEFINITION. Firmware images, key tables, the boot ROM and measurements (spec/19_measured_boot_attestation.md R431 to R442). -/
namespace Sys2Proof.Machine

/-- Extend a measurement register (R441). -/
def Sec.extend (x : Sec) (i : Nat) (d : List Byte) : Sec := { x with m := modAt (fun v => digestWord (digestBytes v ++ d)) x.m i }

/-- The anti-rollback counter (R436). -/
def Sec.counter (x : Sec) : Nat := min 64 (Config.fuseRollback.toNat + x.blown)

/-! Key tables (R438, R439). -/

/-- One entry of a key table: privileges, presence, three zero bytes, modulus. -/
def keyEntry (k : Option OpKey) : List Byte :=
  match k with
  | some k => leBytes 4 k.priv.toNat ++ [1, 0, 0, 0] ++ beBytes 384 k.modulus.toNat
  | none => leBytes 392 0

/-- The digest of the installed table: over its eight entries (log entry 23). -/
def Sec.keyDigest (x : Sec) : List Byte := sha256 (x.keys.flatMap keyEntry)

/-- An entry of a table in an image. -/
def readKey (l : List Byte) : Option OpKey :=
  if leAt l 4 1 = 1 then some ⟨BitVec.ofNat 3072 (beNat ((l.drop 8).take 384)), BitVec.ofNat 4 (leAt l 0 4)⟩ else none

/-- The table of an image's body at an offset: version, keys. -/
def tableKeys (t : List Byte) : List (Option OpKey) := (List.range 8).map fun i => readKey ((t.drop (8 + 392 * i)).take 392)

/-- A replacement table is accepted (R439): well formed, signed with the key of slot 0, of a higher version; the table that is installed already passes. -/
def Sec.tableOk (x : Sec) (t : List Byte) : Bool :=
  t.length == 3528 && leAt t 0 4 == 0x31544B4F
    && (List.range 8).all (fun i => let e := (t.drop (8 + 392 * i)).take 392
        Nat.blt (leAt e 0 4) 16 && Nat.ble (leAt e 4 1) 1 && leAt e 5 3 == 0)
    && ((leAt t 4 4 == x.tableVersion && tableKeys t == x.keys)
        || (Nat.blt x.tableVersion (leAt t 4 4)
            && match x.keys.headD none with
               | some k => pssVerify k.modulus.toNat (t.take 3144) (t.drop 3144)
               | none => false))

/-! Images (R432, R433). -/

/-- Body length of an image. -/
def fwBody (img : List Byte) : Nat := leAt img 0x14 4
/-- Offset of a key table in the body, 0 for none. -/
def fwTable (img : List Byte) : Nat := leAt img 0x1C 4
/-- The key table of an image. -/
def fwTableBytes (img : List Byte) : List Byte := (img.drop (512 + fwTable img)).take 3528
/-- The digest of an image's header and body. -/
def fwDigest (img : List Byte) : List Byte := sha256 (img.take (512 + fwBody img))

/-- Reason 0x01: magic, version, reserved fields, lengths. -/
def fwForm (img : List Byte) : Bool :=
  leAt img 0 4 == 0x31574650 && leAt img 4 4 == 1 && leAt img 0xE 2 == 0 && Nat.ble (leAt img 0x10 4) 64 && fwBody img % 64 == 0
    && Nat.ble (fwBody img) (48 * 2 ^ 20 - 896) && img.length == 512 + fwBody img + 384
    && (fwTable img == 0 || Nat.ble (fwTable img + 3528) (fwBody img)) && allZero ((img.drop 0x20).take 0x20) && allZero ((img.drop 0x1C0).take 0x40)

/-- The reason for which an image is not acceptable (R433), 0 for none, checked in the order of the table. -/
def Sec.imageReason (x : Sec) (img : List Byte) : Nat :=
  let modulus := (img.drop 0x40).take 384
  if !fwForm img then 1
  else if leAt img 8 4 ≠ 0x03074C4D ∨ leAt img 0xC 2 ≠ 0x010A then 2
  else if digestWord modulus ≠ Config.fuseKeyHash then 3
  else if !pssVerify (beNat modulus) (img.take (512 + fwBody img)) (img.drop (512 + fwBody img)) then 4
  else if leAt img 0x10 1 < x.counter then 5
  else if fwTable img ≠ 0 ∧ x.tableOk (fwTableBytes img) = false then 6
  else 0

/-- A flash slot by its letter. -/
def Sec.slot (x : Sec) (b : Bool) : FlashSlot := if b then x.slotB else x.slotA

/-- The reason for which a slot fails (R433): an image as shipped is good but for the counter (R475). -/
def Sec.slotReason (x : Sec) (b : Bool) : Nat :=
  if !(x.slot b).valid then 7
  else
    match (x.slot b).image with
    | none => if (Config.shippedSvn b).toNat < x.counter then 5 else 0
    | some img => x.imageReason img

/-- Digest, svn and version of a slot's image. -/
def Sec.slotDigest (x : Sec) (b : Bool) : List Byte :=
  match (x.slot b).image with
  | none => digestBytes (Config.shippedDigest b)
  | some img => fwDigest img
/-- The svn of a slot's image. -/
def Sec.slotSvn (x : Sec) (b : Bool) : Nat :=
  match (x.slot b).image with
  | none => (Config.shippedSvn b).toNat
  | some img => leAt img 0x10 1
/-- The version of a slot's image. -/
def Sec.slotVersion (x : Sec) (b : Bool) : Word :=
  match (x.slot b).image with
  | none => Config.shippedVersion b
  | some img => BitVec.ofNat 32 (leAt img 0x18 4)

/-- Start a slot (R434): M1 takes its digest and its letter. -/
def Sec.start (x : Sec) (b : Bool) : Sec :=
  { x.extend 1 (x.slotDigest b ++ [BitVec.ofNat 8 (b2n b)]) with bootedB := b, svn := x.slotSvn b, version := x.slotVersion b, other := 0 }

/-- The boot ROM (R434): none of both slots where both fail. -/
def Sec.boot (x : Sec) : Sec × Bool :=
  let x := { x with m := List.replicate 8 0, fellBack := false, failReason := 0 }
  let x := x.extend 0 (sha256 (digestBytes Config.fuseKeyHash) ++ [BitVec.ofNat 8 x.counter])
  let r := x.slotReason x.preferB
  if r = 0 then (x.start x.preferB, true)
  else
    let x := { x with fellBack := true, failReason := BitVec.ofNat 3 r }
    if x.slotReason (!x.preferB) = 0 then (x.start (!x.preferB), true) else (x, false)

/-- Change the security engine. -/
def State.modSec (s : State) (f : Sec → Sec) : State := s.modHub fun h => { h with sec := f h.sec }

/-- The image that firmware was started from carries a table that is not installed yet (R439): it is installed, M2 extended, class 0x0909 recorded. -/
def installTable (s : State) : State :=
  let x := s.hub.sec
  match (x.slot x.bootedB).image with
  | none => s
  | some img =>
    let t := fwTableBytes img
    if fwTable img = 0 ∨ leAt t 4 4 ≤ x.tableVersion then s
    else
      let s := s.modSec fun x => { x with keys := tableKeys t, tableVersion := leAt t 4 4 }
      (s.modSec fun x => x.extend 2 x.keyDigest).logHub 0x0909 (leBytes 4 (leAt t 4 4))

/-- What firmware does at hub ready for the measured boot (R435, R436, R438, R439). -/
def secureReady (s : State) : State :=
  let x := s.hub.sec
  let s := if x.fellBack then
      (s.modSec fun x => { x with preferB := x.bootedB }).logHub 0x0901 [BitVec.ofNat 8 (b2n (!x.bootedB)), BitVec.ofNat 8 x.failReason.toNat]
    else s
  let s := installTable (s.modSec fun x => x.extend 2 x.keyDigest)
  let x := s.hub.sec
  let r := x.slotReason (!x.bootedB)
  if r ≠ 0 then (s.modSec fun x => { x with other := 2 }).logHub 0x0901 [BitVec.ofNat 8 (b2n (!x.bootedB)), BitVec.ofNat 8 r]
  else
    let low := min (x.slotSvn true) (x.slotSvn false)
    let s := s.modSec fun x => { x with other := 1 }
    if x.counter < low then (s.modSec fun x => { x with blown := x.blown + (low - x.counter) }).logHub 0x0908 [BitVec.ofNat 8 low] else s

/-- The debug unlock ends (R446): class 0x0907 with the cause (0 validity, 1 session, 2 reset), and M5 is extended with the session. -/
def endDebug (s : State) (cause : Nat) : State :=
  match s.hub.sec.dbg with
  | none => s
  | some d =>
    (s.modSec fun x => { x.extend 5 (leBytes 4 d.session.toNat) with dbg := none }).logHub 0x0907 (leBytes 4 d.session.toNat ++ [BitVec.ofNat 8 cause])

end Sys2Proof.Machine
end

