-- ==== Sys2Proof/Machine/Reset.lean ====
section
/-! DEFINITION. Resets, blackout, clocks and start-up (spec/16_clocks_reset_startup.md R364 to R381; spec/21_electrical_mechanical.md R460 to R467). -/
namespace Sys2Proof.Machine

/-- Change clocks, resets and pins. -/
def State.modClk (s : State) (f : Clk → Clk) : State := s.modHub fun h => { h with clk := f h.clk }
/-- Clocks of a region. -/
def State.rclk (s : State) (r : Nat) : RgnClk := mapGet RgnClk.reset s.hub.clk.rgns r
/-- Change them. -/
def State.modRclk (s : State) (r : Nat) (f : RgnClk → RgnClk) : State :=
  s.modClk fun c => { c with rgns := mapPut c.rgns r (f (mapGet RgnClk.reset c.rgns r)) }
/-- Change the log. -/
def State.modFlt (s : State) (f : FltLog → FltLog) : State := { s with flt := f s.flt }

/-- Write a record into the persistent part, for the ring too once the hub runs (R418). -/
def FltLog.keep (l : FltLog) (r : Rec) : FltLog :=
  { l with persist := l.persist.drop (l.persist.length - 15) ++ [r], due := l.due ++ [r] }

/-! Outputs of the connector (R463, R466). -/

/-- The module is in blackout (R365, R403). -/
def Clk.blackout (c : Clk) : Bool := c.refFailed || c.sclkFailed || c.pllFailed || c.trip
/-- FAULT_N is asserted (R466). -/
def Clk.faultN (c : Clk) : Bool := c.blackout || c.stage == .bootFailed || c.refAbsent || (c.pwrEn && c.stage == .standby && !c.inRange)
/-- The conversion stages are up. -/
def Stage.powered : Stage → Bool
  | .off => false
  | .porHold => false
  | .standby => false
  | .rails => true
  | .waitRef => true
  | .waitPll => true
  | .boot => true
  | .bootFailed => true
  | .ready => true
/-- The hub is out of reset. -/
def Stage.hubRuns : Stage → Bool
  | .off => false
  | .porHold => false
  | .standby => false
  | .rails => false
  | .waitRef => false
  | .waitPll => true
  | .boot => true
  | .bootFailed => true
  | .ready => true

/-! What resets leave (R373). -/

/-- The regions after a reset that reaches the hub: asleep and scrub-pending, or Failed as flash says (R422); with one failed, every route table is an up-down one (R238). -/
def regionsAfter (flash : BitVec 16) : SMap Region :=
  if flash = 0 then [] else (List.range 16).map fun r => (r, { Region.reset with state := if flash.getLsbD r then 7 else 0, detour := true })

/-- Region that holds the module's stores, as flash leaves it (R423). -/
def hostAfter (flash : BitVec 16) : Nat := ([0, 1, 2, 3].find? fun r => !flash.getLsbD r).getD 0

/-- Power control after a reset that the supply has outlived (R405, R406): energies stay, and guardbands and top points stand in flash. -/
def Power.warm (p : Power) : Power :=
  { Power.reset with
    energy := p.energy, overhead := p.overhead, overheadFrac := p.overheadFrac, releases := p.releases, qp := p.qp,
    slots := p.slots.map fun x => (x.1, { x.2 with live := false }),
    rgns := p.rgns.map fun x => (x.1, { RgnPwr.reset with top := x.2.top, guard := x.2.guard + x.2.guardDue, energy := x.2.energy, frac := x.2.frac }) }

/-- Guardbands and top points alone (R400): a loss of power keeps what stands in flash. -/
def Power.cold (p : Power) : Power :=
  { Power.reset with rgns := p.rgns.map fun x => (x.1, { RgnPwr.reset with top := x.2.top, guard := x.2.guard + x.2.guardDue }) }

/-- The security engine after a reset: the stagings are gone; measurements stand until the boot ROM zeroes them (R441). -/
def Sec.after (x : Sec) : Sec := { x with dbg := none, fw := none, other := 0 }

/-- The hub after a warm or module reset (R373). -/
def Hub.warm (h : Hub) : Hub :=
  { Hub.reset with
    fab := { Fabric.reset with moduleId := h.fab.moduleId },
    bkt := { Buckets.reset with log := h.bkt.log, head := h.bkt.head, wrapped := h.bkt.wrapped },
    mail := { Mail.reset with opened := h.mail.opened, draws := h.mail.draws },
    pwr := h.pwr.warm, sec := h.sec.after, hostRgn := hostAfter h.flashRgns,
    clk := { h.clk with pclk := false, hubReady := false, alert := false, rgns := [] },
    flashCols := h.flashCols, flashCells := h.flashCells, flashBlocks := h.flashBlocks, flashRgns := h.flashRgns, flashFull := h.flashFull }

/-- Repairs in force stand in flash (R422): they are applied again at every reset, without a new record. -/
def blocksAfter (bs : SMap Block) : SMap Block :=
  bs.map fun b => (b.1, { Block.reset with badCols := b.2.badCols, badCells := b.2.badCells, fenced := b.2.fenced })

/-- Everything but the always-on domain is reset (R372, R373). -/
def hubDown (s : State) : State :=
  { s with cells := [], blocks := blocksAfter s.blocks, regions := regionsAfter s.hub.flashRgns, cues := [], hbm := ⟨s.hbm.mem, [], [], []⟩, flights := [], jobs := [], hub := s.hub.warm }

/-- Class 0x0811 of the operations that a reset of the module abandons (R377), by their row: 0 bucket instance, 1 load or staging, 2 scrub, 5 staged change. -/
def abandonRecords (s : State) : State :=
  let one := fun (op : Nat) (c : Bool) (s : State) => if c then s.logHub 0x0811 [BitVec.ofNat 8 op] else s
  one 5 (s.jobs.any fun j => !j.staged.isEmpty)
    (one 2 ((List.range 16).any fun r => (s.rgn r).state == 2)
      (one 1 (s.hub.mail.sessions.any (fun x => x.staging.isSome) || (List.range 16).any fun r => (s.rgn r).state == 4)
        (one 0 (!s.hub.bkt.insts.isEmpty) s)))

/-- A warm or module reset of a cause (R372, R382): the hub waits in reset. -/
def warmReset (s : State) (cause : BitVec 3) : State :=
  let s := hubDown (abandonRecords (endDebug s 2))
  s.modClk fun c => { c with stage := if c.stage.powered && c.stage != .rails then .waitRef else c.stage, nextCause := cause,
                             warmCount := if c.warmCount = 255 then 255 else c.warmCount + 1 }

/-- The record 0x0810 of a reset (R373): kind by its row in R372 (0 power-on, 1 warm, 2 module, 3 region, 4 block fence, 5 cell), and its cause. -/
def State.resetRec (s : State) (kind cause : Nat) : Rec := s.unitRec 3 0x0810 none none [BitVec.ofNat 8 kind, BitVec.ofNat 8 cause]

/-- Firmware faults every job of the module (R375, R381). -/
def faultAll (s : State) (c : Rec) : State := s.jobs.foldl (fun s j => faultJob s j.id c true) s

/-- A module reset by firmware (R357, R375). -/
def moduleReset (s : State) : State := warmReset (faultAll s (s.resetRec 2 3)) 3

/-- What stands in flash and fuses, pins and JTAG after a loss of power. -/
def Hub.cold (h : Hub) (stage : Stage) (inRange : Bool) : Hub :=
  { Hub.reset with
    pwr := h.pwr.cold,
    sec := { Sec.reset with slotA := h.sec.slotA, slotB := h.sec.slotB, preferB := h.sec.preferB, blown := h.sec.blown, keys := h.sec.keys, tableVersion := h.sec.tableVersion },
    hostRgn := hostAfter h.flashRgns,
    clk := { Clk.reset with stage := stage, inRange := inRange, rstLow := h.clk.rstLow, pulses := h.clk.pulses, jtag := { Jtag.reset with trst := h.clk.jtag.trst } },
    flashCols := h.flashCols, flashCells := h.flashCells, flashBlocks := h.flashBlocks, flashRgns := h.flashRgns, flashFull := h.flashFull }

/-- Power goes, or comes back with a power-on reset (R372, R461). -/
def coldState (s : State) (stage : Stage) (inRange : Bool) : State :=
  { State.reset with pending := s.pending, out := s.out, fresh := s.fresh, nextId := s.nextId, blocks := blocksAfter s.blocks, regions := regionsAfter s.hub.flashRgns, hub := s.hub.cold stage inRange }

/-! Blackout (R365, R366, R403). -/

/-- Blackout of a class: a record in the persistent part, and everything but the always-on domain goes down. -/
def enterBlackout (s : State) (cls : Nat) (detail : List Byte) : State :=
  let c := { s.unitRec 3 cls none none detail with persistent := true }
  let s := s.modFlt fun l => l.keep c
  let s := hubDown (abandonRecords s)
  s.modClk fun k => { k with
    stage := if k.stage.powered && k.stage != .rails then .waitRef else k.stage, goodWindows := 0, refAbsent := false,
    blackoutSeen := k.blackoutSeen || cls != 0x0712, tripSeen := k.tripSeen || cls == 0x0712 }

/-- The always-on domain changes over to REFCLK divided by 3, forced (R365, R369): class 0x0802 for the ring once the hub runs. -/
def aonToRef (s : State) : State :=
  let c := s.unitRec 3 0x0802 none none [1]
  (s.modFlt fun l => { l with due := l.due ++ [c] }).modClk fun k => { k with aonOnRef := true, forcedSeen := true }

/-- A watched clock is judged failed (R364, R365), stopped (0) or by its count (1): nothing changes while it has not been judged good before. -/
def clockFails (s : State) (how : Byte) (k : ClockName) : State :=
  let c := s.hub.clk
  match k with
  | .refclk =>
    if c.refOk then (enterBlackout s 0x0800 [how]).modClk fun k => { k with refOk := false, refFailed := true }
    else s.modClk fun k => { k with goodWindows := 0 }
  | .sclk =>
    if c.sclkOk && c.refOk then
      aonToRef ((enterBlackout s 0x0801 [how]).modClk fun k => { k with sclkOk := false, sclkFailed := true })
    else s.modClk fun k => { k with goodWindows := 0 }

/-- Every failed clock is good again (R366): a warm reset of cause 4. -/
def clockRestart (s : State) : State :=
  if s.hub.clk.blackout then s
  else s.modClk fun k => { k with nextCause := 4, warmCount := if k.warmCount = 255 then 255 else k.warmCount + 1 }

/-- A window of both counters ends (R364): counts within 10% of 3,200 and 1,024. -/
def judgeWindow (s : State) (ref sclk : Nat) : State :=
  let refOk := Nat.ble 2880 ref && Nat.ble ref 3520
  let sclkOk := Nat.ble 9216 (10 * sclk) && Nat.ble (10 * sclk) 11264
  if refOk && sclkOk then
    let n := s.hub.clk.goodWindows + 1
    let s := s.modClk fun k => { k with goodWindows := n }
    if n < 2 then s
    else
      let was := s.hub.clk.refFailed || s.hub.clk.sclkFailed
      let s := s.modClk fun k => { k with refOk := true, sclkOk := true, refFailed := false, sclkFailed := false, aonOnRef := false, refAbsent := false }
      if was then clockRestart s else s
  else
    let s := if refOk then s else clockFails s 1 .refclk
    if sclkOk then s else clockFails s 1 .sclk

/-! Regions that sleep and wake, PLLs (R240, R367 to R371). -/

/-- A region is awake: states 1 to 6. -/
def Region.awake (g : Region) : Bool := Nat.ble 1 g.state.toNat && Nat.ble g.state.toNat 6

/-- A region's interconnect changes over by force (R369): its packets are lost and answered with reason 0x12. -/
def forceRegion (s : State) (r : Nat) : State :=
  let s := (s.modRclk r fun c => { c with forced := true }).modClk fun k => { k with forcedSeen := true }
  let s := s.log (s.unitRec 2 0x0802 (some r) none [2])
  let here := fun (f : Nat × Flight) => s.srcRgn f.2 == r || f.2.dstRgn == r
  let t := { s with flights := s.flights.filter fun f => !here f }
  let s := (s.flights.filter here).foldl (fun t f =>
    if Nat.blt (s.srcRgn f.2) 16 then lostOwn t 0xFF 0x12 (mkH0 1 0 1 s.hub.fab.moduleId.toNat s.hub.fab.moduleId.toNat (s.srcRgn f.2 * 19200) false)
    else match f.2 with | .write w => unreachable t 0xFF 0x12 (mkH0 1 0 1 s.hub.fab.moduleId.toNat w.srcModule.toNat w.src false) | _ => t) t
  ((List.range 48).filter fun p => portRegion p == r).foldl (fun s p =>
    let w := takeWaiting (s.port p)
    w.1.foldl (fun s t => finishSends (unreachable s p 0x12 t.k.h0) t.origin.toList) (s.setPort p w.2)) s

/-- A region's compute PLL loses lock (R370): class 0x0803, its clocks are gated, its interconnect is forced to the standby clock, its job faults. -/
def regionPllLoss (s : State) (r : Nat) : State :=
  if !((s.rgn r).awake && (s.rclk r).pllLocked) then s
  else
    let c := s.unitRec 2 0x0803 (some r) none [0, 0]
    let s := (s.modRclk r fun k => { k with pllLocked := false, gated := true, lockLost := true, onNclk := false, attempts := 0 }).log c
    let s := match (s.rgn r).owner with
      | some id => faultJob s id c true
      | none => s
    forceRegion s r

/-- A relock attempt ends (R370): after the third failure the region is Failed. -/
def relockAttempt (s : State) (r : Nat) (ok : Bool) : State :=
  let c := s.rclk r
  if !c.gated then s
  else if ok then s.modRclk r fun k => { k with pllLocked := true, gated := false, onNclk := true, attempts := 0 }
  else
    let s := s.modRclk r fun k => { k with attempts := k.attempts + 1 }
    if 3 ≤ c.attempts + 1 then failRegion s r 0x0803 else s

/-- A sleeping region's standby PLL loses lock (R370): class 0x0803 with the standby flag, and the region is Failed. -/
def standbyLoss (s : State) (r : Nat) : State :=
  if (s.rgn r).state ≠ 0 then s
  else failRegion ((s.modRclk r fun k => { k with lockLost := true }).log (s.unitRec 2 0x0803 (some r) none [1, 0])) r 0x0803

/-! Region and cell resets (R368, R373, R376, R377). -/

/-- Local addresses of a region: its HBM, its cells, its registers (R197). -/
def addrRgn (a : Nat) : Nat := if a < 0x100000000000 then a / 2 ^ 36 else if a < 0x200000000000 then field a 32 12 else 16

/-- A region reset (R373, R377, R424): its job faults, and the region is released and scrubbed. -/
def regionReset (s : State) (r cause : Nat) : State :=
  let g := s.rgn r
  let c := { s.unitRec 2 0x0810 (some r) none [3, BitVec.ofNat 8 cause] with tick := s.hub.tick }
  if g.failed then s
  else
    let s := s.log c
    let s := s.modRclk r fun k => { k with debugClk := false }
    let s := dropWindows s fun w => addrRgn w.base != r
    match g.owner with
    | some id =>
      if g.state = 4 then (abandonLoad s id).log (s.unitRec 3 0x0811 none none [1])
      else if g.state = 5 then
        let s := releaseRegion (faultJob s id c true) r
        s.modJob id fun j => { j with regions := setBit j.regions r false }
      else s.modRgn r fun g => { g with scrubPending := true }
    | none =>
      if g.state = 3 then s.modRgn r fun g => { g with state := 2, scrubPending := true, goal := .ready }
      else if g.state = 2 then (s.modRgn r fun g => { g with scrubPending := true }).log (s.unitRec 3 0x0811 none none [2])
      else s.modRgn r fun g => { g with scrubPending := true }

/-- The debug unlock ends, and every region whose clocks the session wrote is reset (R368, R446). -/
def closeDebug (s : State) (cause : Nat) : State :=
  if s.hub.sec.dbg.isNone then s
  else
    let rs := (List.range 16).filter fun r => (s.rclk r).debugClk
    rs.foldl (fun s r => regionReset s r 0) (endDebug s cause)

/-- A cell reset (R376): dispatched work is discarded but for remote writes that have left, a combine open on one of its channels fails, and the cell runs from its entry. -/
def cellReset (s : State) (k : Nat) : State :=
  let bk := cellBlk k
  let s := s.log { s.unitRec 0 0x0810 (some (cellRgn k)) (some (cellBlkNo k)) [5, 0] with cell := cellNo k }
  let s := (List.range 4).foldl (fun s ch =>
    match (s.openDescs bk ch (s.imgOf k)).find? fun d => bitAt (descMembers d) (cellNo k) with
    | some d => failComb s bk ch 0x0432 (s.imgOf k) d (some k)
    | none => s) s
  let s := { s with flights := s.flights.filter fun f => match f.2 with
    | .getReq c _ _ _ _ _ => c != k
    | .getData c _ _ _ _ _ _ => c != k
    | .hbmRead c _ _ _ _ => c != k
    | _ => true }
  s.modCell k fun c =>
    let q := c.seq
    { c with
      seq := { Seq.reset with entry := q.entry, imgAt := q.imgAt, imgLen := q.imgLen, pc := BitVec.ofNat 17 q.entry, state := if q.imgLen = 0 then 0 else 1, nextSeq := q.nextSeq,
                              wait := if q.imgLen = 0 then none else some .epoch },
      frames := c.frames.map fun f => { f with cols := Frame.reset.cols },
      units := .reset, map := ⟨0, 1, 2⟩, slot0 := { c.slot0 with writing := false }, slot1 := { c.slot1 with writing := false },
      mr := { c.mr with arrival := List.replicate 16 (0, false) } }

end Sys2Proof.Machine
end

