-- ==== Sys2Proof/Machine/Power.lean ====
section
/-! DEFINITION. Power, droop and thermal control (spec/17_power_thermal.md R384 to R407; spec/21_electrical_mechanical.md R462, R466). -/
namespace Sys2Proof.Machine

/-! Operating points (R388 to R390). -/

/-- Clocks of a point as CLK_RGN_CTRL holds them (R382, R388): ACLK and MCLK in 25 MHz steps, and the divisor. -/
def pointClocks : Nat → BitVec 15
  | 0 => BitVec.ofNat 15 (20 + 2 ^ 9 * 10)
  | 1 => BitVec.ofNat 15 (28 + 2 ^ 8 + 2 ^ 9 * 9)
  | 2 => BitVec.ofNat 15 (36 + 2 ^ 8 + 2 ^ 9 * 12)
  | 3 => BitVec.ofNat 15 (44 + 2 ^ 8 + 2 ^ 9 * 14)
  | 4 => BitVec.ofNat 15 (52 + 2 ^ 8 + 2 ^ 9 * 17)
  | 5 => BitVec.ofNat 15 (60 + 2 ^ 8 + 2 ^ 9 * 20)
  | 6 => BitVec.ofNat 15 (68 + 2 ^ 8 + 2 ^ 9 * 22)
  | 7 => BitVec.ofNat 15 (76 + 2 ^ 8 + 2 ^ 9 * 25)
  | 8 => BitVec.ofNat 15 (84 + 2 ^ 9 * 40)
  | 9 => BitVec.ofNat 15 (92 + 2 ^ 9 * 40)
  | 10 => BitVec.ofNat 15 (100 + 2 ^ 9 * 40)
  | _ => BitVec.ofNat 15 (108 + 2 ^ 9 * 40)

/-- ACLK of a setting in 25 MHz steps. -/
def aclkOf (c : BitVec 15) : Nat := field c.toNat 0 8

/-- Rail setpoint of a point in mV (R389). -/
def setpointOf (r point guard : Nat) : Nat := (Config.fuseVoltage r point).toNat + 5 * guard

/-- The point that a region is to run at (R390). -/
def RgnPwr.target (x : RgnPwr) : Nat := min (min x.capPoint x.thermal) (min x.droopCeil x.top)

/-- Some droop detector of a region asserts (R396). -/
def State.drooping (s : State) (r : Nat) : Bool := s.blocks.any fun b => b.1 / 150 == r && b.2.droop != 0

/-- Set the target clocks of a region. -/
def setClocks (s : State) (r : Nat) (c : BitVec 15) : State := s.modRclk r fun k => { k with ctrl := c }

/-- A region starts its next one-point step, or abandons a step up that is no longer wanted (R389, R398). -/
def retarget (s : State) (r : Nat) : State :=
  let x := s.rpwr r
  if !(s.rgn r).awake || (s.rclk r).gated then s
  else
    match x.phase with
    | .idle =>
      if x.point < x.target then
        if s.drooping r then s.modRpwr r fun x => { x with deferred := true }
        else s.modRpwr r fun x => { x with deferred := false, phase := .rail (x.point + 1), setpoint := setpointOf r (x.point + 1) x.guard }
      else if x.target < x.point then
        (setClocks s r (pointClocks (x.point - 1))).modRpwr r fun x => { x with deferred := false, phase := .slew (x.point - 1) }
      else s.modRpwr r fun x => { x with deferred := false }
    | .rail dest =>
      if x.point < dest ∧ x.target ≤ x.point then
        s.modRpwr r fun x => { x with phase := .idle, halted := false, setpoint := setpointOf r x.point x.guard }
      else s
    | .slew dest =>
      if x.point < dest ∧ x.target ≤ x.point then
        (setClocks s r (pointClocks x.point)).modRpwr r fun x => { x with phase := .slew x.point, halted := false }
      else s

/-- The rail has settled at its setpoint (R389): the clocks of a step up move. -/
def railSettled (s : State) (r : Nat) : State :=
  let x := s.rpwr r
  match x.phase with
  | .rail dest =>
    if x.halted then s
    else if x.point < dest then (setClocks s r (pointClocks dest)).modRpwr r fun x => { x with phase := .slew dest }
    else retarget (s.modRpwr r fun x => { x with phase := .idle }) r
  | .idle => s
  | .slew _ => s

/-- The slew reaches its target (R367, R389): after a step down the rail follows; a write by a debug session only moves the clocks. -/
def slewDone (s : State) (r : Nat) : State :=
  let x := s.rpwr r
  if !(s.rgn r).awake || x.halted then s
  else
    let s := s.modRclk r fun k => { k with aclkNow := aclkOf k.ctrl }
    match x.phase with
    | .slew dest => retarget (s.modRpwr r fun x => { x with point := dest, phase := .idle, setpoint := setpointOf r dest x.guard }) r
    | .idle => s
    | .rail _ => s

/-- A guardband rise takes effect (R398, R399): the rail retrims, and a pending step up waits until it has settled. -/
def applyGuard (s : State) (r : Nat) : State :=
  let x := s.rpwr r
  if x.guardDue = 0 then s
  else
    let s := s.modRpwr r fun x => { x with guard := x.guard + x.guardDue, guardDue := 0 }
    if !(s.rgn r).awake then s
    else
      match x.phase with
      | .idle => s.modRpwr r fun x => { x with phase := .rail x.point, setpoint := setpointOf r x.point x.guard }
      | .rail dest => s.modRpwr r fun x => { x with setpoint := setpointOf r (max x.point dest) x.guard }
      | .slew dest => s.modRpwr r fun x => { x with setpoint := setpointOf r (max x.point dest) x.guard }

/-- A region that has woken runs at point 0 and steps up from there; its activity ramps from 600 (R395). -/
def powerWake (s : State) (r : Nat) : State :=
  let s := s.modRclk r fun k => { k with ctrl := pointClocks 0, aclkNow := aclkOf (pointClocks 0), pllLocked := true, onNclk := true, gated := false, attempts := 0 }
  s.modRpwr r fun x => { x with point := 0, setpoint := setpointOf r 0 x.guard, phase := .idle, deferred := false, halted := false, stretched := false, allowance := 600 }

/-- A region that has gone to sleep: point 0, no rail, the standby clock. -/
def powerSleep (s : State) (r : Nat) : State :=
  let s := s.modRclk r fun k => { k with ctrl := pointClocks 0, aclkNow := 0, pllLocked := false, onNclk := false, gated := false, attempts := 0 }
  s.modRpwr r fun x => { x with point := 0, setpoint := 0, phase := .idle, deferred := false, halted := false, stretched := false, power := 0, sum := (0, 0), mean := 0, dyn := [], temps := [] }

/-! Cap points (R390, R391). -/

/-- The region's cap point: that of its job's slot, or 5. -/
def capOf (s : State) (r : Nat) : Nat :=
  match (s.rgn r).owner with
  | some id => (match s.slotOf id with | some i => (mapGet JobSlot.reset s.hub.pwr.slots i).capPoint | none => 5)
  | none => 5

/-- Carry the cap points to the regions. -/
def syncCaps (s : State) : State := (List.range 16).foldl (fun s r => s.modRpwr r fun x => { x with capPoint := capOf s r }) s

/-- A job slot. -/
def State.slotNo (s : State) (i : Nat) : JobSlot := mapGet JobSlot.reset s.hub.pwr.slots i
/-- Slots whose job holds regions, ascending. -/
def State.liveSlots (s : State) : List Nat := (List.range 16).filter fun i => (s.slotNo i).live

/-- P_mod in mW (R387): the estimates and 0.1 kW for the hub, through a conversion of 0.93. -/
def modPower (est : List Nat) : Nat := (est.sum + 100000) * 100 / 93
/-- Estimates of the awake regions. -/
def State.estimates (s : State) : List Nat := ((List.range 16).filter fun r => (s.rgn r).awake).map fun r => (s.rpwr r).power
/-- The control figure P_ctl in mW (R387). -/
def State.ctlPower (s : State) : Nat := max (s.hub.pwr.inputs.headD 0) (modPower s.estimates)

/-- The cap that the loop uses, in mW (R391, R462). -/
def Power.capNow (p : Power) : Nat :=
  let low := match p.lowSample with | some n => Nat.blt p.samples (n + 80) | none => false
  25000 * (if low then min p.cap (p.mv * 390 / 25000) else p.cap)

/-- Power of the regions of a job's slot in mW, before conversion (R391). -/
def State.slotPower (s : State) (i : Nat) : Nat :=
  (((List.range 16).filter fun r => (s.rgn r).awake && (s.rgn r).owner == some (s.slotNo i).job).map fun r => (s.rpwr r).power).sum

/-- A job's power exceeds a share of its allocation, in percent; a job without a pool exceeds nothing. -/
def State.overAlloc (s : State) (i pct : Nat) : Bool :=
  let a := (s.slotNo i).alloc
  a != 0 && Nat.blt (25000 * a * 93 * pct) (s.slotPower i * 10000)

/-- A job is held by its ceilings: some region of it can go no higher (R390, R391). -/
def State.heldByCeiling (s : State) (i : Nat) : Bool :=
  (List.range 16).any fun r => (s.rgn r).owner == some (s.slotNo i).job &&
    Nat.ble (min (s.rpwr r).thermal (min (s.rpwr r).droopCeil (s.rpwr r).top)) (s.slotNo i).capPoint

/-- Step jobs down one point. -/
def stepDown (s : State) (l : List Nat) : State := l.foldl (fun s i => s.modSlot i fun x => { x with capPoint := x.capPoint - 1 }) s

/-- Slots in turn after the one raised last (R391). -/
def State.turns (s : State) : List Nat :=
  let n := s.hub.pwr.lastRaised
  (s.liveSlots.filter fun i => Nat.blt n i) ++ s.liveSlots.filter fun i => Nat.ble i n

/-- Step 4 of the cap loop: the activity allowance ceiling (R391). -/
def capFloor (s : State) (above under : Bool) : State :=
  let p := s.hub.pwr
  if above && s.liveSlots.all fun i => (s.slotNo i).capPoint == 0 then
    let s := s.modPwr fun p => { p with ceiling := max 1 (p.ceiling - 1), floorLimited := true }
    if p.floorLimited then s else s.logHub 0x0703 []
  else if under && Nat.blt p.ceiling 32 then
    s.modPwr fun p => { p with ceiling := p.ceiling + 1, floorLimited := Nat.blt (p.ceiling + 1) 32 }
  else s

/-- Steps 1 to 4 of the cap loop (R391). -/
def capSteps (s : State) : State :=
  let p := s.hub.pwr
  let cap := p.capNow
  let ctl := s.ctlPower
  let above := Nat.blt cap ctl
  let under := Nat.ble (100 * ctl) (98 * cap)
  let s := s.modPwr fun p => { p with quietCap := if under then p.quietCap + 1 else 0 }
  let s := s.liveSlots.foldl (fun s i => s.modSlot i fun x => { x with quiet := if s.overAlloc i 98 then 0 else x.quiet + 1 }) s
  if above then
    let l := s.liveSlots.filter fun i => (s.slotNo i).capPoint != 0
    if l.isEmpty then capFloor s above under else (stepDown s l).modPwr fun p => { p with capped := true }
  else
    let l := s.liveSlots.filter fun i => (s.slotNo i).capPoint != 0 && s.overAlloc i 100
    let s1 := if l.isEmpty then s else (stepDown s l).modPwr fun p => { p with capped := false }
    let up := s.turns.find? fun i => !l.contains i && !s.heldByCeiling i && Nat.ble 10 s.hub.pwr.quietCap && Nat.ble 10 (s.slotNo i).quiet && Nat.blt (s.slotNo i).capPoint 11
    let s2 := match up with
      | some i => if p.ceiling = 32 then (s1.modSlot i fun x => { x with capPoint := x.capPoint + 1 }).modPwr fun p => { p with capped := false, lastRaised := i } else s1
      | none => s1
    capFloor s2 above under

/-- The thermal ceiling of a region in one cap loop (R402): temperatures in 0.25 °C. -/
def thermalLoop (s : State) (r : Nat) : State :=
  let x := s.rpwr r
  let l := x.hbmTemp :: x.temps
  if l.any fun t => Nat.ble 420 t then
    let b := if 420 ≤ x.hbmTemp then 150 else (x.temps.findIdx? fun t => Nat.ble 420 t).getD 0
    let s := s.modRpwr r fun x => { x with thermal := x.thermal - 1, hot := true, coolLoops := 0 }
    if x.hot then s else s.log (s.unitRec 2 0x0711 (some r) none (leBytes 1 b))
  else if l.all fun t => Nat.blt t 400 then
    if 10 ≤ x.coolLoops + 1 then s.modRpwr r fun x => { x with thermal := min 11 (x.thermal + 1), hot := false, coolLoops := 0 }
    else s.modRpwr r fun x => { x with hot := false, coolLoops := x.coolLoops + 1 }
  else s.modRpwr r fun x => { x with coolLoops := 0 }

/-- The estimates of a region over the last 100 µs (R406). -/
def RgnPwr.average (x : RgnPwr) : RgnPwr := { x with mean := if x.sum.2 = 0 then x.power else x.sum.1 / x.sum.2, sum := (0, 0) }

/-- Some condition of ALERT_N holds (R466). -/
def State.alertCause (s : State) : Bool :=
  let p := s.hub.pwr
  p.floorLimited || ((List.range 16).any fun r => (s.rpwr r).warn || Nat.blt (s.rpwr r).thermal 11)
    || (Nat.blt 0 p.samples && (Nat.blt p.mv 40000 || Nat.blt 48000 p.mv))

/-- Firmware asserts ALERT_N (R466). -/
def driveAlert (s : State) : State := if s.hub.clk.hubReady && s.alertCause then s.modClk fun c => { c with alert := true } else s

/-- CAP_LOOP (R391, R402). -/
def capLoop (s : State) : State :=
  let awake := (List.range 16).filter fun r => (s.rgn r).awake
  let s := capSteps (awake.foldl (fun s r => s.modRpwr r RgnPwr.average) s)
  let s := syncCaps (awake.foldl thermalLoop s)
  driveAlert (awake.foldl retarget s)

/-! Samples and estimates (R385 to R387, R401). -/

/-- Mean of a list, 0 of none. -/
def meanOf (l : List Nat) : Nat := if l.isEmpty then 0 else l.sum / l.length

/-- A region's estimate in mW from dynamic and leakage power (R385). -/
def estimateOf (gain leak dyn lk : Nat) : Nat := (gain * dyn + leak * lk) / 16384

/-- ESTIMATOR_SAMPLE (R385): fused weights in nJ, so that a microsecond's sum is a power in mW. -/
def estimatorSample (s : State) (r b : Nat) (counts : List Nat) : State :=
  if !(s.rgn r).awake then s
  else
    let e := ((List.range 6).map fun i => Config.fuseWeight i * counts.getD i 0).sum
    s.modRpwr r fun x =>
      let dyn := mapPut x.dyn b e
      let p := estimateOf x.gain x.leak (dyn.map (·.2)).sum (1000 * Config.fuseLeak r (meanOf x.temps))
      { x with dyn := dyn, power := p, sum := (x.sum.1 + p, x.sum.2 + 1) }

/-- INPUT_SAMPLE (R387, R462). -/
def inputSample (s : State) (mv ma : Nat) : State :=
  if s.hub.clk.stage == .off then s
  else
    let bad := Nat.blt mv 40000 || Nat.blt 48000 mv
    let s := s.modPwr fun p =>
      { p with mv := mv, inputs := (mv * ma / 1000 :: p.inputs).take 8, samples := p.samples + 1, inputOor := p.inputOor || bad,
               lowSample := if mv < 40000 then some (p.samples + 1) else p.lowSample,
               extreme := if !bad then p.extreme
                 else match p.extreme with
                   | none => some mv
                   | some v => if (v - 48000) + (40000 - v) < (mv - 48000) + (40000 - mv) then some mv else some v }
    driveAlert (s.modClk fun c => { c with inRange := !bad })

/-- The warning of a region (R401): 95 °C sets it, and all below 93 °C clear it. -/
def judgeTemps (s : State) (r : Nat) : State :=
  let x := s.rpwr r
  let l := x.hbmTemp :: x.temps
  if !x.warn && l.any fun t => Nat.ble 380 t then
    let b := if 380 ≤ x.hbmTemp then 150 else (x.temps.findIdx? fun t => Nat.ble 380 t).getD 0
    let s := s.modRpwr r fun x => { x with warn := true }
    driveAlert (s.log (s.unitRec 2 0x0710 (some r) none (leBytes 1 b)))
  else if x.warn && l.all fun t => Nat.blt t 372 then s.modRpwr r fun x => { x with warn := false }
  else s

/-! Calibration and energy (R386, R404, R405). -/

/-- Sum of products. -/
def dot (a b : List Nat) : Nat := (List.zipWith (· * ·) a b).sum

/-- A quotient of integers in units of 2^-14, to nearest. -/
def q14 (n d : Int) : Int := (2 * 16384 * n + d) / (2 * d)

/-- The least-squares fit of gain and leakage factor (R386); none where the sub-windows do not determine it. -/
def fitOf (f : RegionFit) : Option (Int × Int) :=
  let dd : Int := dot f.dynamic f.dynamic
  let ll : Int := dot f.leak f.leak
  let dl : Int := dot f.dynamic f.leak
  let md : Int := dot f.measured f.dynamic
  let ml : Int := dot f.measured f.leak
  let det := dd * ll - dl * dl
  if det = 0 then none else some (q14 (md * ll - ml * dl) det, q14 (ml * dd - md * dl) det)

/-- Clamp to a range. -/
def clampTo (lo hi : Nat) (v : Int) : Nat := if v < lo then lo else if (hi : Int) < v then hi else v.toNat

/-- One region's fit (R386): clamped values are used, and a clamp records class 0x0701. -/
def calibrate (s : State) (f : RegionFit) : State :=
  let r := f.r.val
  let y : State × Int × Int := match fitOf f with
    | some v => (s, v)
    | none => ({ s with fresh := s.fresh + 1 }, ((Config.singularFit r s.fresh).1, (Config.singularFit r s.fresh).2))
  let g := clampTo 8192 32768 y.2.1
  let o := clampTo 13107 19661 y.2.2
  let s := y.1.modRpwr r fun x => { x with gain := g, leak := o }
  if (g : Int) = y.2.1 ∧ (o : Int) = y.2.2 then s
  else (s.modPwr fun p => { p with calibOor := true }).log (s.unitRec 2 0x0701 (some r) none (leBytes 2 g ++ leBytes 2 o))

/-- The estimated energy of a region in a window, in units of 156.25 µs times mW. -/
def windowEnergy (s : State) (f : RegionFit) : Nat :=
  ((List.range 64).map fun i => estimateOf (s.rpwr f.r.val).gain (s.rpwr f.r.val).leak (f.dynamic.getD i 0) (f.leak.getD i 0)).sum

/-- Add energy in units of 2^-32 µJ to a 64-bit counter and its fraction. -/
def addEnergy (e f n : Nat) : Nat × Nat := ((e + (f + n) / 2 ^ 32) % 2 ^ 64, (f + n) % 2 ^ 32)

/-- The share of a region: its counter and that of the job that holds it (R404). -/
def chargeRegion (s : State) (r share : Nat) : State :=
  let s := s.modRpwr r fun x => let y := addEnergy x.energy x.frac share; { x with energy := y.1, frac := y.2 }
  match (s.rgn r).owner with
  | some id => (match s.slotOf id with
    | some i => s.modSlot i fun x => let y := addEnergy x.energy x.frac share; { x with energy := y.1, frac := y.2 }
    | none => s)
  | none => s

/-- POWER_CALIBRATION (R386, R404): the window's energy is divided by the estimates made with the present factors, then the fits take effect. -/
def powerCalibration (s : State) (inputUj : Nat) (fits : List RegionFit) : State :=
  let fits := fits.filter fun f => (s.rgn f.r.val).awake
  let es := fits.map fun f => (f.r.val, windowEnergy s f)
  let total := (es.map (·.2)).sum + 64 * 100000
  let shares := es.map fun e => (e.1, inputUj * 2 ^ 32 * e.2 / total)
  let s := shares.foldl (fun s e => chargeRegion s e.1 e.2) s
  let s := s.modPwr fun p =>
    let y := addEnergy p.overhead p.overheadFrac (inputUj * 2 ^ 32 - (shares.map (·.2)).sum)
    { p with energy := (p.energy + inputUj) % 2 ^ 64, overhead := y.1, overheadFrac := y.2 }
  fits.foldl calibrate s

/-! Droop and activity (R395 to R398). -/

/-- A step up is in progress. -/
def RgnPwr.rising (x : RgnPwr) : Bool :=
  match x.phase with
  | .idle => false
  | .rail dest => Nat.blt x.point dest
  | .slew dest => Nat.blt x.point dest

/-- DROOP_ASSERT (R396 to R398). -/
def droopAssert (s : State) (r b d : Nat) (sustained : Bool) : State :=
  if !(s.rgn r).awake then s
  else
    let s := s.modBlk (blkKey r b) fun x => { x with droop := setBit x.droop d true }
    let s := s.modRpwr r fun x =>
      { x with stretched := true, halted := x.halted || x.rising, deferred := x.deferred || (x.phase == .idle && Nat.blt x.point x.target) }
    if sustained then
      let s := s.modRpwr r fun x => { x with droopCeil := x.droopCeil - 1 }
      retarget (s.log (s.unitRec 2 0x0704 (some r) none [])) r
    else s

/-- STRETCH_END (R396): the stretch is held while a detector asserts. -/
def stretchEnd (s : State) (r cycles : Nat) : State :=
  if s.drooping r || !(s.rpwr r).stretched then s
  else s.modRpwr r fun x => { x with stretched := false, stretchCnt := satAdd32 x.stretchCnt cycles }

/-- DROOP_QUIET (R398). -/
def droopQuiet (s : State) (r : Nat) : State :=
  if s.drooping r then s else retarget (s.modRpwr r fun x => { x with halted := false, deferred := false }) r

/-- ACTIVITY_RAMP_MARK (R395). -/
def rampMark (s : State) (r held : Nat) : State :=
  if !(s.rgn r).awake then s
  else s.modRpwr r fun x =>
    { x with allowance := min (600 * s.hub.pwr.ceiling) (s.activeIn r + 600), rampCnt := satAdd32 x.rampCnt held }

end Sys2Proof.Machine
end

