-- ==== Sys2Proof/Machine/FaultOps.lean ====
section
/-! DEFINITION. Records that reach the hub, summaries of the hub, and the move of the module's stores to another region (spec/18_faults_fencing.md R413 to R423; spec/14_ethernet_port.md R338; spec/15_pyerly_mailboxes.md R362). -/
namespace Sys2Proof.Machine

/-- A record takes its next hop (R413); guardbands that rise without a job take effect at once (R399). -/
def recordArrival (s : State) (st : FaultStage) : State :=
  match st with
  | .block r b => blockArrival s (blkKey r.val b.val)
  | .region r b => regionArrival s r.val (blkKey r.val b.val)
  | .hub r =>
    let s := hubArrival s r.val
    if (s.rgn r.val).owner.isNone then applyGuard s r.val else s

/-- SUMMARY_TIMER (R414, R419): the next 1,048,576-tick mark of the hub's counter. -/
def summaryTimer (s : State) : State :=
  let t := 1048576 * (s.hub.tick / 1048576 + 1)
  let s := s.passTicks (t - s.hub.tick)
  let s := ((List.range 16).filter fun r => !(s.rgn r).assigned).foldl (fun s r => closeInterval s r t) s
  if s.hub.sramCorr = 0 then s
  else
    (s.log { s.unitRec 3 0x011B none none [] with summary := true, count := s.hub.sramCorr }).modHub fun h => { h with sramCorr := 0 }

/-- HUB_SRAM_SCRUB (R419): corrected errors are counted; one that cannot be corrected leads to a module reset. -/
def sramScrub (s : State) (corrected : Nat) (lost : List Nat) : State :=
  let s := s.modHub fun h => { h with sramCorr := h.sramCorr + corrected }
  if lost.isEmpty then s else moduleReset (lost.foldl (fun s a => s.logHub 0x011B (leBytes 8 a)) s)

/-- HOST_REGION_TAKEOVER (R423 step 4): the host region takes the firmware area and cues 0 to 127. -/
def hostTakeover (s : State) : State :=
  let h := s.hub.hostRgn
  if !s.hub.takeover || (s.rgn h).owner.isSome || (s.rgn h).failed then s
  else
    { s with cues := s.cues.filter fun c => !(Nat.blt c.1 128 || (c.1 / 512 == h && Nat.blt (c.1 % 512) 128)) }.modHub fun x => { x with takeover := false }

/-- ONE_SECOND_SUMMARY: classes 0x0600 (R338), 0x0610 (R362) and 0x0702 (R387), each where something is to be said. -/
def secondSummary (s : State) : State :=
  let e := s.hub.eth.drops
  let m := s.hub.mail.rejected
  let s := if e = 0 then s else s.log { s.unitRec 3 0x0600 none none [] with summary := true, count := e }
  let s := if m = 0 then s else s.log { s.unitRec 3 0x0610 none none [] with summary := true, count := m }
  let s := match s.hub.pwr.extreme with
    | some mv => s.logHub 0x0702 (leBytes 4 mv)
    | none => s
  ((s.modEth fun e => { e with drops := 0 }).modMail fun m => { m with rejected := 0 }).modPwr fun p => { p with extreme := none }

/-- A job takes its fault (R261): the one that is due, else one of the class, which its own unit has recorded. -/
def takeFault (s : State) (id : Word) (cls : BitVec 16) : State :=
  match s.job id with
  | some j => faultJob s id (match j.faultDue with | some c => c | none => { s.jobRec j 0 [] with cls := cls }) true
  | none => s

/-- Cue 0 rises by 1 every 65,536 ticks of the hub's counter (R255); while the module's stores move it does not (R423). -/
def cueTimer (s : State) : State :=
  if !s.hub.clk.hubReady || s.hub.takeover then s
  else addCue (s.passTicks (65536 * (s.hub.tick / 65536 + 1) - s.hub.tick)) 0 1

end Sys2Proof.Machine
end

