-- ==== Sys2Proof/Machine/Registers.lean ====
section
/-! DEFINITION. The register map and what registers read (spec/00_scope.md R5 to R9; spec/09_scratchpad_hbm.md R197; and the register rules of each chapter: R72, R103, R122, R142, R168, R222, R241, R268, R298, R320, R339, R360, R382, R406, R428, R447, R456, R457). -/
namespace Sys2Proof.Machine

/-! Places in the local address space (R197, R199). -/

/-- What a local address names. -/
inductive Place where
  | hbm (a : Nat)
  /-- An offset in a cell window. -/
  | cell (k off : Nat)
  | istore (bk off : Nat)
  | blk (bk off : Nat)
  | rgn (r off : Nat)
  /-- Register n (0 to 3) of the i-th cue of a region's array. -/
  | cue (r i n : Nat)
  | hub (off : Nat)
  | unmapped
  deriving DecidableEq, Repr

/-- The place of a local address. -/
def place (a : Nat) : Place :=
  let r := field a 32 12
  let b := field a 24 8
  let o := field a 0 24
  match a / 2 ^ 44 with
  | 0 => if isHbm a then .hbm a else .unmapped
  | 1 => (match cellAddr a with | some (k, off) => .cell k off | none => .unmapped)
  | 2 => if 16 ≤ r ∨ 150 ≤ b then .unmapped else if o < 0x20000 then .istore (blkKey r b) o
    else if 0x100000 ≤ o ∧ o < 0x101000 then .blk (blkKey r b) (o - 0x100000) else .unmapped
  | 3 => if 16 ≤ r then .unmapped else if field a 0 32 < 0x1000 then .rgn r (field a 0 32)
    else if 0x100000 ≤ field a 0 32 ∧ field a 0 32 < 0x102000 then .cue r (field a 4 9) (field a 2 2) else .unmapped
  | 4 => if field a 0 44 < 0x800000 then .hub (field a 0 44) else .unmapped
  | _ => .unmapped

/-- Region of a place. -/
def Place.rgn? : Place → Option Nat
  | .hbm a => some (hbmRgn a)
  | .cell k _ => some (cellRgn k)
  | .istore bk _ => some (bk / 150)
  | .blk bk _ => some (bk / 150)
  | .rgn r _ => some r
  | .cue r _ _ => some r
  | .hub _ => none
  | .unmapped => none

/-- Number of the cue at a position of a region's array (R255, R423). -/
def State.cueAt (s : State) (r i : Nat) : Nat :=
  if r = s.hub.hostRgn ∧ i < 128 ∧ s.hub.takeover = false then i else 512 * r + i

/-! Small helpers. -/

/-- A value shown at one offset. -/
def at1 (off base v : Nat) : Option Nat := if off = base then some v else none
/-- A 64-bit value shown at two offsets, low word first (R6). -/
def at64 (off base v : Nat) : Option Nat := if off = base then some (v % 2 ^ 32) else if off = base + 4 then some (v / 2 ^ 32 % 2 ^ 32) else none
/-- An array of registers of consecutive words. -/
def atN (off base n : Nat) (f : Nat → Nat) : Option Nat :=
  if base ≤ off ∧ off < base + 4 * n ∧ off % 4 = 0 then some (f ((off - base) / 4)) else none
/-- The first of some values that is there. -/
def firstOf : List (Option Nat) → Option Nat
  | [] => none
  | some v :: _ => some v
  | none :: t => firstOf t

/-! Cells. -/

/-- Half of CELL_SLOT_STATUS. -/
def slotStatus (c : Cell) (i : Nat) : Nat :=
  let s := c.slot i
  b2n s.valid + 2 * b2n (c.slotBusy i) + 4 * b2n s.writing + 8 * b2n s.poison + 16 * s.fmt.toNat + 256 * b2n s.four + 512 * s.group.toNat + 2048 * b2n s.sparse

/-- One entry of CELL_COL_REMAP. -/
def colEntry (cols : List Nat) (u : Nat) : Nat := match cols[u]? with | some c => c + 2 ^ 15 | none => 0

/-- A tree column's byte of CELL_TREE_CHUNKS: zero beyond the tree shape (R85, R103). Once a sequential tile has begun on the frame every column reads zero: R103 does not say what the columns of the tree before it show (DESIGN CHOICE, log entry 72). -/
def treeByte (fr : Frame) (i : Nat) : Nat :=
  if fr.mode = .tree ∧ i < 8 / 2 ^ fr.shape.toNat then let t := fr.cols.getD i ⟨0, false, false⟩; t.c.toNat + 128 * b2n t.done else 0

/-- Wait kind of CELL_SEQ_STATUS. -/
def waitKind : Option Wait → Nat
  | some (.cue _ _) => 1
  | some (.ctr _ _ _) => 2
  | some (.fence _ _) => 3
  | _ => 0

/-- CELL_MEM_IDENT (R222): the module identifier as firmware set it at wake, at the load, or last in a region without a job (R10). -/
def memIdent (s : State) (k : Nat) : Nat :=
  let g := s.rgn (cellRgn k)
  g.ident.toNat + 2 ^ 12 * cellRgn k + 2 ^ 16 * cellBlkNo k + 2 ^ 24 * cellNo k + 2 ^ 31 * b2n (isLead (cellNo k))

/-- RC counters of a cell. -/
def cellCounter (off : Nat) : Bool :=
  [0xE240, 0xE244, 0xE248, 0xE24C, 0xE250, 0xE340, 0xE344, 0xE348, 0xE34C, 0xE440, 0xE444, 0xE540, 0xE544, 0xE548, 0xE54C,
   0xE680, 0xE684, 0xE688, 0xE68C, 0xE690, 0xE0C0, 0xE0C4, 0xE0C8, 0xE0CC].contains off

/-- Array registers (R72). -/
def arrayRegs (s : State) (k off : Nat) : Option Nat :=
  let c := s.cell k
  let g := c.regs
  let bk := cellBlk k
  let cols := (s.blk bk).cols bk ((s.blk bk).phys bk (cellNo k))
  firstOf [at1 off 0xE200 (slotStatus c 0 + 2 ^ 16 * slotStatus c 1), at1 off 0xE204 (b2n g.viewSel),
    at1 off 0xE208 (g.failCols.toNat + 2 ^ 8 * g.failQuarter.toNat + 2 ^ 10 * g.failPlane.toNat + 2 ^ 14 * b2n g.failSwatch),
    atN off 0xE210 8 fun n => colEntry cols (2 * n) + 2 ^ 16 * colEntry cols (2 * n + 1)]

/-- Accumulator registers (R103). -/
def accRegs (s : State) (k off : Nat) : Option Nat :=
  let c := s.cell k
  let g := c.regs
  let busy := c.busyFrames
  let fr := c.frame c.map.a.toNat
  let shape := fun i => 2 ^ (11 + 2 * i) * (c.frame i).shape.toNat
  let lead := isLead (cellNo k)
  let two := fun n => if lead then n else 0
  firstOf [at1 off 0xE300 (b2n (busy.getLsbD 0) + 2 * b2n (busy.getLsbD 1) + two (4 * b2n (busy.getLsbD 2)) + 8 * b2n (c.frame 0).int
      + 16 * b2n (c.frame 1).int + two (32 * b2n (c.frame 2).int) + 64 * b2n fr.treeOpen + 256 * b2n lead + 512 * b2n g.accSat + 1024 * b2n g.accMisuse
      + shape 0 + shape 1 + two (shape 2)),
    at1 off 0xE304 (c.map.a.toNat + 4 * c.map.b.toNat + 16 * c.map.w.toNat),
    atN off 0xE308 2 fun n => treeByte fr (4 * n) + 2 ^ 8 * treeByte fr (4 * n + 1) + 2 ^ 16 * treeByte fr (4 * n + 2) + 2 ^ 24 * treeByte fr (4 * n + 3)]

/-- Scale and sparsity registers (R122, R142). -/
def scaleRegs (s : State) (k off : Nat) : Option Nat :=
  let g := (s.cell k).regs
  firstOf [at1 off 0xE400 (b2n g.desync + 2 * b2n g.desyncBehind + 4 * b2n g.palSat + 8 * b2n g.palMisuse),
    at1 off 0xE404 (g.dataTag.toNat + 2 ^ 8 * g.scaleTag.toNat + 2 ^ 16 * g.operand.toNat),
    at1 off 0xE500 (g.threshold.toNat + 2 ^ 8 * b2n g.forceDense),
    at1 off 0xE504 (b2n g.lastSparse + 2 * b2n g.metaDrop + 4 * b2n g.hdrErr + 8 * b2n g.spMisuse)]

/-- Sequencer registers (R168). -/
def seqRegs (s : State) (k off : Nat) : Option Nat :=
  let q := (s.cell k).seq
  firstOf [at1 off 0xE600 (b2n q.dbgHalt),
    at1 off 0xE604 (q.state.toNat + 4 * b2n q.stopPending + 8 * b2n q.dbgHalt + 16 * waitKind q.wait + 2 ^ 16 * q.firstCause.toNat),
    at1 off 0xE608 (q.pc.toNat / 8 * 8), at1 off 0xE60C (q.p.toNat ||| 1),
    atN off 0xE610 4 fun n => (q.l.getD n 0).toNat, atN off 0xE620 16 fun n => (q.a.getD n 0).toNat]

/-- Memory registers (R222). -/
def memRegs (s : State) (k off : Nat) : Option Nat :=
  let c := s.cell k
  let m := c.mr
  let g := s.rgn (cellRgn k)
  firstOf [at1 off 0xE000 m.bankOff.toNat,
    at1 off 0xE004 (b2n m.timeoutRd + 2 * b2n m.timeoutWr + 4 * b2n m.ctrOvf + 8 * b2n m.spmUnc + 16 * b2n m.prot),
    at1 off 0xE008 (memIdent s k), at1 off 0xE00C g.tagTimeout.toNat,
    atN off 0xE010 8 fun n => (m.win.getD n 0).toNat, at1 off 0xE040 m.blocked,
    atN off 0xE080 16 fun n => let a := m.arrival.getD n (0, false); a.1.toNat + 2 ^ 16 * b2n a.2,
    atN off 0xE700 16 fun n => ((List.range 32).map fun i => 2 ^ i * b2n (c.tagged (32 * n + i) && c.isFull (32 * n + i))).sum,
    atN off 0xE740 16 fun n => ((List.range 32).map fun i => 2 ^ i * b2n (c.isPoison (32 * n + i))).sum,
    atN off 0xE800 128 fun n => leNat ((List.range 4).map fun i => c.tagOf (4 * n + i))]

/-- A register of a cell. -/
def cellReg (s : State) (k off : Nat) : Option Nat :=
  if cellCounter off then some (mapGet 0 (s.cell k).cnt off).toNat
  else firstOf [arrayRegs s k off, accRegs s k off, scaleRegs s k off, seqRegs s k off, memRegs s k off]

/-! Blocks, regions and cues. -/

/-- RC counters of a block. -/
def blkCounter (off : Nat) : Bool := off == 0xC0 || off == 0xE0 || (Nat.ble 0x140 off && Nat.blt off 0x180 && off % 4 == 0)

/-- A register of a block (R241, R382, R428, R457). -/
def blkReg (s : State) (bk off : Nat) : Option Nat :=
  let b := s.blk bk
  let ph := fun c => b.phys bk c
  let used := (b.remap bk).1.map (·.2)
  let open_ := fun (i : Nat) => !(s.openDescs bk i (s.imgOf (bk * 128))).isEmpty
  if blkCounter off then
    some (mapGet 0 ((if 0x140 ≤ off then (s.settlePctr bk ((off - 0x140) / 4)).blk bk else b).cnt) off).toNat
  else firstOf [at1 off 0 (b2n (b.isFenced bk) + 2 * min 7 (b.failedCells bk).length
      + (if b.isFenced bk then 0 else ((List.range 4).map fun i => 2 ^ (4 + i) * b2n (used.contains (128 + i))).sum)),
    at1 off 4 (((List.range 4).map fun i => 2 ^ i * b2n (open_ i) + 2 ^ (4 + i) * b2n (b.chans.getD i .reset).failed).sum
      + 2 ^ 8 * b2n b.mismatch + 2 ^ 9 * b2n b.timeout + 2 ^ 10 * b2n b.abandoned),
    atN off 0x10 32 fun n => ph (4 * n) + 2 ^ 8 * ph (4 * n + 1) + 2 ^ 16 * ph (4 * n + 2) + 2 ^ 24 * ph (4 * n + 3),
    atN off 0xD0 4 fun _ => 0, atN off 0x100 16 fun n => (mapGet 0 b.pctr n).toNat]

/-- RC counters of a region. -/
def rgnCounter (off : Nat) : Bool := [0x40, 0x44, 0x48, 0x140, 0x300].contains off

/-- RGN_JOB_STATUS of a job (R268). -/
def jobStatus (j : Job) : Nat :=
  bookProfile j.img + 4 * (if j.begun then (planAt (bookPlan j.img) 0 j.epoch).1 else 0) + 2 ^ 8 * b2n j.faulted + 2 ^ 9 * b2n j.root + 2 ^ 10 * j.pos

/-- A register of a region (R241, R268, R382). -/
def rgnReg (s : State) (r off : Nat) : Option Nat :=
  let g := s.rgn r
  let c := s.rclk r
  let ofJ := fun (f : Job → Nat) => match s.jobOf r with | some j => f j | none => 0
  let run := fun (f : Job → Nat) => ofJ fun j => if j.begun then f j else 0
  if rgnCounter off then some (mapGet 0 g.cnt off).toNat
  else firstOf [at1 off 0 (g.state.toNat + 8 * b2n g.scrubPending + 16 * b2n g.heldReady + 32 * b2n g.detour),
    at1 off 4 (g.linkUp.toNat + 16 * g.linkErr.toNat), at64 off 0x100 g.tick, at64 off 0x108 (ofJ fun j => j.epoch), at64 off 0x110 (run fun j => j.sTick),
    at64 off 0x118 (run fun j => j.boundary),
    at1 off 0x120 (run fun j => b2n (j.inHold g.tick) + 2 * b2n j.chg.isSome + 4 * b2n (j.selfSteps != 0) + 2 ^ 16 * min 0xFFFF j.kSteps),
    at1 off 0x124 (ofJ jobStatus), at1 off 0x200 c.ctrl.toNat,
    at1 off 0x204 ((if g.state = 0 then 0 else c.aclkNow) + 2 ^ 8 * b2n c.pllLocked + 2 ^ 9 * b2n c.onNclk + 2 ^ 10 * b2n c.lockLost + 2 ^ 11 * b2n c.forced + 2 ^ 12 * b2n c.debugClk)]

/-- A register of a cue (R268). -/
def cueReg (s : State) (r i n : Nat) : Nat :=
  let c := s.cue (s.cueAt r i)
  match n with
  | 0 => c.value.toNat
  | 1 => 0
  | 2 => c.thresh.toNat
  | _ => c.action.toNat + 8 * b2n c.armed + 16 * (c.fired.toNat % 4096) + 2 ^ 16 * c.step.toNat

/-! The hub. -/

/-- Identity and clock registers (R360, R382). -/
def identRegs (s : State) (off : Nat) : Option Nat :=
  let c := s.hub.clk
  firstOf [at1 off 0 (0x4C4D + 2 ^ 16 * 0x0307), at1 off 4 0xA1, at64 off 8 Config.fuseSerial.toNat,
    at1 off 0x20 (c.cause.toNat + 8 * b2n c.tripSeen + 16 * b2n c.blackoutSeen + 32 * b2n c.forcedSeen + 2 ^ 8 * c.warmCount.toNat),
    at1 off 0x24 (b2n c.refOk + 2 * b2n c.sclkOk + 4 * b2n c.pclk + 8 * b2n c.aonOnRef + 16 * b2n c.hubReady)]

/-- Mailbox registers (R360, R361). -/
def mbxRegs (s : State) (off : Nat) : Option Nat :=
  let m := s.hub.mail
  let st := fun n => let x := s.mbx n
    b2n (n == 0 || x.session != 0) + 2 * b2n x.req.isSome + 4 * b2n (match x.req with | some r => r.executing | none => false) + 8 * b2n x.kept.isSome
      + 16 * ((List.range 64).filter fun q => (s.qp q).state == .connected && (s.qp q).kind == .mailbox n).length
  firstOf [atN off 0 64 st, atN off 0x100 64 fun n => (s.mbx n).session.toNat, at1 off 0x200 m.requests.toNat, at1 off 0x204 m.errors.toNat]

/-- Security registers (R447). -/
def secRegs (s : State) (off : Nat) : Option Nat :=
  let x := s.hub.sec
  firstOf [at1 off 0 (b2n x.bootedB + 2 * b2n x.fellBack + 4 * x.failReason.toNat + 32 * x.other.toNat), at1 off 4 (x.counter + 2 ^ 7 * x.svn),
    at1 off 8 (match x.dbg with | some d => d.scope.toNat + 2 ^ 8 * (d.session.toNat % 2 ^ 24) | none => 0),
    atN off 0x100 64 fun n => leAt (digestBytes (x.m.getD (n / 8) 0)) (4 * (n % 8)) 4]

/-- A region's hottest sensor and its block, or 150 for the stack (R406). -/
def RgnPwr.hottest (x : RgnPwr) : Nat × Nat :=
  let t := x.temps.foldl max 0
  if t < x.hbmTemp then (x.hbmTemp, 150) else (t, (x.temps.findIdx? (· == t)).getD 0)

/-- A point change is in progress. -/
def RgnPwr.slewing (x : RgnPwr) : Bool :=
  match x.phase with
  | .idle => false
  | .rail dest => x.point != dest
  | .slew _ => true

/-- Watts of milliwatts, in 16 bits. -/
def watts (mw : Nat) : Nat := min 0xFFFF (mw / 1000)

/-- Power registers of a region (R406). -/
def pwrRgnReg (s : State) (r o : Nat) : Option Nat :=
  let x := s.rpwr r
  let asleep := (s.rgn r).state == 0
  firstOf [at1 o 0 ((if asleep then 0 else x.point) + 2 ^ 4 * x.capPoint + 2 ^ 8 * x.thermal + 2 ^ 12 * x.droopCeil + 2 ^ 16 * x.top + 2 ^ 20 * b2n x.slewing + 2 ^ 21 * b2n x.deferred),
    at1 o 4 (x.hottest.1 % 2 ^ 10 + 2 ^ 10 * x.hottest.2 + 2 ^ 18 * b2n x.warn + 2 ^ 19 * b2n (Nat.blt x.thermal 11)),
    at1 o 8 (x.guard + 2 ^ 4 * (x.setpoint % 2 ^ 12)), at1 o 0xC (watts x.mean + 2 ^ 16 * (x.gain % 2 ^ 16)), at64 o 0x10 x.energy,
    at1 o 0x18 x.stretchCnt.toNat, at1 o 0x1C x.rampCnt.toNat]

/-- Power registers of a job slot (R406). -/
def pwrJobReg (s : State) (i o : Nat) : Option Nat :=
  let x := s.slotNo i
  firstOf [at1 o 0 x.job.toNat, at1 o 4 (x.alloc + 2 ^ 16 * x.capPoint + 2 ^ 20 * b2n x.live), at64 o 8 x.energy]

/-- PWR_STATUS (R406). -/
def pwrStatus (s : State) : Nat :=
  let p := s.hub.pwr
  let any := fun (f : RgnPwr → Bool) => (List.range 16).any fun r => f (s.rpwr r)
  b2n p.capped + 2 * b2n p.floorLimited + 4 * b2n (any RgnPwr.warn) + 8 * b2n (any fun x => Nat.blt x.thermal 11) + 16 * b2n p.inputOor + 32 * b2n p.calibOor

/-- Power registers (R406). -/
def pwrRegs (s : State) (off : Nat) : Option Nat :=
  let p := s.hub.pwr
  if 0x100 ≤ off ∧ off < 0x300 then pwrRgnReg s ((off - 0x100) / 32) (off % 32)
  else if 0x400 ≤ off ∧ off < 0x500 then pwrJobReg s ((off - 0x400) / 16) (off % 16)
  else if 0x800 ≤ off ∧ off < 0xA00 then at64 (off % 8) 0 (mapGet 0 p.qp ((off - 0x800) / 8) / 1000000)
  else firstOf [at1 off 0 (pwrStatus s), at1 off 4 p.cap, at1 off 8 (min 0xFFFF p.mv), at1 off 0xC (watts (meanOf p.inputs)),
    at1 off 0x10 (watts (modPower (((List.range 16).filter fun r => (s.rgn r).awake).map fun r => (s.rpwr r).mean))),
    at64 off 0x18 p.energy, at64 off 0x20 p.overhead]

/-- RC counters of a port, by offset in its block (R299). -/
def portCounter (o : Nat) : Bool := Nat.ble 0x40 o && Nat.ble o 0x58 && o % 4 == 0

/-- Registers of a logical port (R298). -/
def portReg (s : State) (p o : Nat) : Option Nat :=
  let x := s.port p
  if portCounter o then some (mapGet 0 x.cnt o).toNat
  else firstOf [at1 o 0 (x.state.toNat + 8 * b2n (s.isSplit p) + 16 * b2n x.reversed + 32 * b2n x.peerValid + 64 * b2n (s.hub.fab.srcPort.toNat == p && Nat.blt p 48)
      + 2 ^ 7 * min 4 x.fails + 2 ^ 10 * b2n x.trainFail + 2 ^ 11 * b2n x.retrained + 2 ^ 12 * b2n x.malformed + 2 ^ 13 * b2n x.blockedSeen),
    at1 o 4 x.delay.toNat, at64 o 8 x.peerSerial.toNat, at1 o 0x10 (x.peerIdent.toNat + 2 ^ 12 * x.peerPort.toNat + 2 ^ 18 * b2n x.peerSplit)]

/-- RC counters of the combine units (R321). -/
def bktCounter (off : Nat) : Bool := Nat.ble 0x8040 off && Nat.ble off 0x8054 && off % 4 == 0

/-- Fabric and bucket registers (R298, R320). -/
def fabRegs (s : State) (off : Nat) : Option Nat :=
  let f := s.hub.fab
  let b := s.hub.bkt
  if 0x1000 ≤ off ∧ off < 0x4000 then portReg s ((off - 0x1000) / 0x100) (off % 0x100)
  else if bktCounter off then some (mapGet 0 b.cnt off).toNat
  else firstOf [at1 off 0 f.moduleId.toNat, at1 off 4 (f.srcPort.toNat + 64 * b2n f.freewheel + 128 * b2n f.locked + 256 * b2n f.freewheelSeen),
    at1 off 0x8000 (min 256 b.insts.length + 2 ^ 9 * b2n b.failed + 2 ^ 10 * b2n b.earlyDrop + 2 ^ 11 * b2n b.malformed + 2 ^ 12 * b2n b.limit),
    at1 off 0x8004 (b.head.toNat + 2 ^ 12 * b2n b.wrapped),
    atN off 0x10000 0x10000 fun n => leAt (mapGet [] b.log (n / 16)) (4 * (n % 16)) 4]

/-- RC counters of the Ethernet port (R340). -/
def ethCounter (off : Nat) : Bool := Nat.ble 0x40 off && Nat.ble off 0x50 && off % 4 == 0

/-- Ethernet registers (R339). -/
def ethRegs (s : State) (off : Nat) : Option Nat :=
  let e := s.hub.eth
  if ethCounter off then some (mapGet 0 e.cnt off).toNat
  else firstOf [at1 off 0 (b2n e.linkUp + 2 * b2n e.ipv4Valid + 4 * b2n e.dhcp + 8 * b2n e.ipv6Valid
      + 16 * ((List.range 64).filter fun q => (s.qp q).state == .connected).length + 2 ^ 11 * b2n e.linkChange),
    at1 off 4 e.qos.toNat, at64 off 8 Config.fuseMac.toNat, at1 off 0x10 (if e.ipv4Valid then e.ipv4.toNat else 0)]

/-- Registers of the test block (R456). -/
def testRegs (s : State) (off : Nat) : Option Nat :=
  let t := s.hub.tst
  let busy := s.cells.any fun c => c.2.forced != 0
  firstOf [at1 off 0 (b2n (s.hub.mail.sessions.any fun x => x.test) + 2 * b2n t.refused), at64 off 8 t.seed.toNat, at1 off 0x10 t.mask.toNat,
    at1 off 0x20 t.noc.toNat, at1 off 0x24 t.credit.toNat, at1 off 0x28 t.hbmLat.toNat, at1 off 0x2C t.mbxDelay.toNat, at1 off 0x30 t.stretch.toNat,
    at1 off 0x34 t.tagStall.toNat, at64 off 0x40 t.injAddr.toNat,
    at1 off 0x48 (t.injCtrl.toNat + 2 ^ 17 * b2n (t.pending.isSome || busy) + 2 ^ 18 * b2n (t.done && !busy))]

/-- The fault log and its registers (R428). -/
def fltRegs (s : State) (off : Nat) : Option Nat :=
  let l := s.flt
  let ringWord := fun n => match l.ring.find? fun e => e.1 % 16384 == n / 8 with | some e => leAt (faultBytes e.2) (4 * (n % 8)) 4 | none => 0
  let persWord := fun n => match l.persist[n / 8]? with | some r => leAt (faultBytes r) (4 * (n % 8)) 4 | none => 0
  firstOf [at1 off 0 (b2n l.wrapped + 2 * b2n l.lost + 4 * l.persist.length + 128 * b2n l.jobFault), at1 off 4 l.next, at1 off 8 l.oldest, at1 off 0xC l.lostCount.toNat,
    atN off 0x10000 0x20000 ringWord, atN off 0x90000 128 persWord]

/-- A register of the hub (R197). -/
def hubReg (s : State) (off : Nat) : Option Nat :=
  let o := off % 0x100000
  match off / 0x100000 with
  | 0 => identRegs s o
  | 1 => mbxRegs s o
  | 2 => secRegs s o
  | 3 => pwrRegs s o
  | 4 => fabRegs s o
  | 5 => ethRegs s o
  | 6 => testRegs s o
  | 7 => fltRegs s o
  | _ => none

/-! All registers. -/

/-- What a failed region no longer offers (R19, R240): its HBM, cells, blocks and cues; its own registers still show that it has failed. -/
def Place.withdrawn (s : State) : Place → Bool
  | .hbm a => (s.rgn (hbmRgn a)).failed
  | .cell k _ => (s.rgn (cellRgn k)).failed
  | .istore bk _ => (s.rgn (bk / 150)).failed
  | .blk bk _ => (s.rgn (bk / 150)).failed
  | .cue r i _ => s.cueLost (s.cueAt r i)
  | _ => false

/-- A word of a scratchpad or frame as a debug read delivers it: corrected in weight-class memory (R218). -/
def Cell.wordOf (c : Cell) (off : Nat) : Nat := leNat (memRead (if off < 0x8000 then ((Fx.of c).checkSlot (off / 64)).c else c).mem off 4)

/-- The value that a read of a word shows: a register, or memory that a debug session reads (R51, R200, R218). None where nothing is listed. -/
def wordAt (s : State) (p : Place) : Option Nat :=
  if p.withdrawn s then none else
  match p with
  | .hbm a => some (leNat (memRead (s.hbm.check (a / 64)).1.mem a 4))
  | .cell k off =>
    let c := s.cell k
    if off < 0xE000 then (if localOk (isLead (cellNo k)) off 4 && !c.bankDown off 4 then some (c.wordOf off) else none)
    else if 0xF000 ≤ off then some ((c.slot (b2n c.regs.viewSel)).viewWord (off - 0xF000))
    else cellReg s k off
  | .istore bk off => some (leNat (memRead (s.blk bk).istore off 4))
  | .blk bk off => blkReg s bk off
  | .rgn r off => rgnReg s r off
  | .cue r i n => some (cueReg s r i n)
  | .hub off => hubReg s off
  | .unmapped => none

/-- The place is an RC counter (R7). -/
def isCounter : Place → Bool
  | .cell _ off => cellCounter off
  | .blk _ off => blkCounter off
  | .rgn _ off => rgnCounter off
  | .hub off =>
    let o := off % 0x100000
    match off / 0x100000 with
    | 1 => o == 0x200 || o == 0x204
    | 3 => Nat.ble 0x100 o && Nat.blt o 0x300 && (o % 32 == 0x18 || o % 32 == 0x1C)
    | 4 => (Nat.ble 0x1000 o && Nat.blt o 0x4000 && portCounter (o % 0x100)) || bktCounter o
    | 5 => ethCounter o
    | 7 => o == 0xC
    | _ => false
  | _ => false

/-- The place is the low word of a 64-bit register (R6). -/
def isLow : Place → Bool
  | .rgn _ off => [0x100, 0x108, 0x110, 0x118].contains off
  | .hub off =>
    let o := off % 0x100000
    match off / 0x100000 with
    | 0 => o == 0 || o == 8
    | 3 => o == 0x18 || o == 0x20 || (Nat.ble 0x100 o && Nat.blt o 0x300 && o % 32 == 0x10) || (Nat.ble 0x400 o && Nat.blt o 0x500 && o % 16 == 8)
        || (Nat.ble 0x800 o && Nat.blt o 0xA00 && o % 8 == 0)
    | 4 => Nat.ble 0x1000 o && Nat.blt o 0x4000 && o % 0x100 == 8
    | 5 => o == 8
    | 6 => o == 8 || o == 0x40
    | _ => false
  | _ => false

/-- Clear an RC counter that has been read (R7). -/
def clearCounter (s : State) (p : Place) : State :=
  match p with
  | .cell k off => s.modCell k fun c => { c with cnt := mapSet 0 c.cnt off 0 }
  | .blk bk off => if 0x140 ≤ off then s.clearPctr bk ((off - 0x140) / 4) else s.modBlk bk fun b => { b with cnt := mapSet 0 b.cnt off 0 }
  | .rgn r off => s.modRgn r fun g => { g with cnt := mapSet 0 g.cnt off 0 }
  | .hub off =>
    let o := off % 0x100000
    match off / 0x100000 with
    | 1 => s.modMail fun m => if o = 0x200 then { m with requests := 0 } else { m with errors := 0 }
    | 3 => s.modRpwr ((o - 0x100) / 32) fun x => if o % 32 = 0x18 then { x with stretchCnt := 0 } else { x with rampCnt := 0 }
    | 4 => if o < 0x8000 then s.modPort ((o - 0x1000) / 0x100) fun x => { x with cnt := mapSet 0 x.cnt (o % 0x100) 0 }
      else s.modBkt fun b => { b with cnt := mapSet 0 b.cnt o 0 }
    | 5 => s.modEth fun e => { e with cnt := mapSet 0 e.cnt o 0 }
    | 7 => s.modFlt fun l => { l with lostCount := 0 }
    | _ => s
  | _ => s

/-! Rights (R200, R355, R445, R449). -/

/-- The region belongs to a job of the session. -/
def State.ownedBy (s : State) (r : Nat) (n : Word) : Bool := match s.jobOf r with | some j => j.session == n | none => false

/-- The place is the test block. -/
def Place.isTest : Place → Bool
  | .hub off => off / 0x100000 == 6
  | _ => false
/-- The place is CELL_SEQ_CTRL or BLK_CELL_RESET (R445, R382). -/
def Place.isSeqCtrl : Place → Bool
  | .cell _ off => off == 0xE600
  | .blk _ off => Nat.ble 0xD0 off && Nat.blt off 0xE0
  | _ => false
/-- The place is CLK_RGN_CTRL. -/
def Place.isClkCtrl : Place → Bool
  | .rgn _ off => off == 0x200
  | _ => false
/-- The place is a register: no memory, no slot view. -/
def Place.isReg : Place → Bool
  | .hbm _ => false
  | .cell _ off => Nat.ble 0xE000 off && Nat.blt off 0xF000
  | .istore _ _ => false
  | .unmapped => false
  | _ => true

/-- A session's own rights (R355). -/
def hostMay (s : State) (n : Word) (write : Bool) (p : Place) : Bool :=
  match s.session n with
  | none => false
  | some x =>
    p.isReg && (match p.rgn? with
      | some r => if write then s.ownedBy r n && !p.isSeqCtrl && !p.isClkCtrl else s.ownedBy r n || (s.rgn r).owner.isNone
      | none => if write then x.priv.getLsbD 1 && !p.isTest else true)

/-- What a debug unlock adds (R200, R445). -/
def debugMay (s : State) (n : Word) (write : Bool) (p : Place) : Bool :=
  match s.hub.sec.dbg with
  | none => false
  | some d =>
    let firmware := match p with | .hbm a => inFirmware s.hostRegion a 4 | _ => false
    d.session == n && (if write then
        (if p.isClkCtrl then d.scope.getLsbD 1 else if p.isSeqCtrl then d.scope.getLsbD 2 else d.scope.getLsbD 0 && !p.isTest && !firmware)
      else if firmware then d.scope.getLsbD 3 else d.scope.getLsbD 0)

/-- A requester may read or write a place. -/
def mayAccess (s : State) (q : Requester) (write : Bool) (p : Place) : Bool :=
  match q with
  | .firmware => true
  | .host n => hostMay s n write p
  | .debug n => hostMay s n write p || debugMay s n write p
  | .test n => p.isTest && (match s.session n with | some x => x.test | none => false)

/-- Who makes an access, as records name it: kind and session. -/
def requesterBytes : Requester → List Byte
  | .host n => 0 :: leBytes 4 n.toNat
  | .debug n => 1 :: leBytes 4 n.toNat
  | .test n => 2 :: leBytes 4 n.toNat
  | .firmware => 3 :: leBytes 4 0

/-- A refused access (R5): class 0x0615 with the address, the access and the requester. -/
def refuseAccess (s : State) (q : Requester) (write : Bool) (a : Nat) : State :=
  s.logHub 0x0615 (leBytes 6 a ++ [BitVec.ofNat 8 (b2n write)] ++ requesterBytes q)

/-- The place is a cell or a store that a scrub-pending region withholds (R426). -/
def scrubHeld (s : State) (q : Requester) (p : Place) : Bool :=
  let in_ := fun (r : Nat) => q != .firmware && (s.rgn r).scrubPending
  match p with
  | .hbm a => in_ (hbmRgn a)
  | .cell k _ => in_ (cellRgn k)
  | .istore bk _ => in_ (bk / 150)
  | _ => false

/-- The region of the place sleeps, and the place lies in its cells, blocks or clock control (R10). -/
def asleepHeld (s : State) (p : Place) : Bool :=
  match p with
  | .cell k _ => (s.rgn (cellRgn k)).state == 0
  | .istore bk _ => (s.rgn (bk / 150)).state == 0
  | .blk bk _ => (s.rgn (bk / 150)).state == 0
  | .rgn r off => (s.rgn r).state == 0 && off == 0x200
  | .hbm a => (s.rgn (hbmRgn a)).state == 0 && !inFirmware s.hostRegion a 4
  | _ => false

/-- Class 0x011A (R426). -/
def refuseScrub (s : State) (q : Requester) (p : Place) (a : Nat) : State :=
  s.log (s.unitRec 2 0x011A p.rgn? none (leBytes 6 a ++ requesterBytes q))

/-- The checks that a read of memory by the host or a debug session makes, block by block or slot by slot (R218, R219). -/
def hostCheck (s : State) (a n : Nat) : State :=
  match cellAddr a with
  | some (k, off) => (slotsOf off n).foldl (fun s i => s.fx k fun x => if i < 512 then x.checkSlot i else x.checkFrame i) s
  | none => s.checkHbm a n

/-- What a read does besides its value: an RC counter clears (R7), the low word of a 64-bit register latches the high word (R6), memory and the slot view make their checks (R48, R61, R69, R218). -/
def readEffect (s : State) (q : Requester) (a : Nat) (p : Place) : State :=
  let s := if isLow p then s.modHub fun h => { h with latch := some (q, a + 4, BitVec.ofNat 32 ((wordAt s (place (a + 4))).getD 0)) } else s
  if isCounter p then clearCounter s p
  else
    match p with
    | .hbm _ => hostCheck s a 4
    | .cell k off =>
      if 0xF000 ≤ off then s.fx k fun x => viewRead x (b2n x.c.regs.viewSel) (off - 0xF000) else if off < 0xE000 then hostCheck s a 4 else s
    | _ => s

/-- A read access (R5 to R7, R200, R355, R426): the value it returns. Only a read of the high word that directly follows the read of its low word, by the same requester, returns the latched value: after any other access in between, refused or not, it returns the present one (DESIGN CHOICE, log entry 72: R6 states no value there). -/
def readAccess (s : State) (q : Requester) (a size : Nat) : State × Word :=
  let p := place a
  if !s.hub.clk.hubReady then (s, 0)
  else
    let t := s.modHub fun h => { h with latch := none }
    match (if size = 4 ∧ a % 4 = 0 ∧ mayAccess s q false p = true then wordAt s p else none) with
    | none => (refuseAccess t q false a, 0)
    | some v =>
      if scrubHeld s q p then (refuseScrub t q p a, 0)
      else if asleepHeld s p then (t, 0)
      else
        match s.hub.latch with
        | some (lq, la, lv) => if lq = q ∧ la = a then (t, lv) else (readEffect t q a p, BitVec.ofNat 32 v)
        | none => (readEffect t q a p, BitVec.ofNat 32 v)

end Sys2Proof.Machine
end

