-- ==== Sys2Proof/Machine/RegWrite.lean ====
section
/-! DEFINITION. Writes to registers and to memory by sessions and firmware, debug halt and step, the test block and its injections (spec/00_scope.md R5, R7, R9; spec/03_cim_cell.md R51, R61; spec/07_cell_execution.md R166, R167; spec/16_clocks_reset_startup.md R367, R376; spec/20_perturbation_counters.md R449 to R457). -/
namespace Sys2Proof.Machine

/-! Cells. -/

/-- A slot-view write (R51, R61): it waits while the compute track reads the slot. -/
def viewWrite (s : State) (k off : Nat) (v : Word) : State :=
  s.modCell k fun c =>
    let i := b2n c.regs.viewSel
    if c.slotBusy i then c.setUnits fun u => { u with view := u.view ++ [(i, off, v)] } else viewStore c i off v

/-- A debug halt (R167): a CUEWAIT or WAITC that waits is abandoned unsatisfied and dispatches again later. -/
def debugHalt (s : State) (k : Nat) : State := s.modCell k (Cell.setSeq fun q => { q.abandonWait with dbgHalt := true })

/-- A debug halt ends (R167): a stop that fell due is taken, and dispatch goes on. -/
def debugResume (s : State) (k : Nat) : State :=
  let due := (s.cell k).seq.stopDue
  let s := s.modCell k (Cell.setSeq fun q => { q with dbgHalt := false, stopDue := false })
  if due && (s.cell k).seq.running then s.fx k Fx.stop else settle s k

/-- A write of dbg_halt (R167). -/
def debugSet (s : State) (k : Nat) (halt : Bool) : State :=
  if (s.cell k).seq.dbgHalt = halt then s else if halt then debugHalt s k else debugResume s k

/-- A write of step (R167): one instruction is dispatched while the cell is debug-halted. -/
def debugStep (s : State) (k : Nat) : State :=
  let q := (s.cell k).seq
  let run := match s.jobOf (cellRgn k) with | some j => j.begun && j.chg.isNone | none => false
  if !(q.dbgHalt && q.running && q.wait.isNone && !q.stopDue && run && (s.rgn (cellRgn k)).assigned) then s
  else
    match q.held with
    | some h => attempt s k h
    | none =>
      let pc := q.pc.toNat
      let s := if q.inBuf || q.outside then s else checkLine s (cellBlk k) (pc / 64) []
      match decodeCell (BitVec.ofNat 64 (leNat (memRead (s.blk (cellBlk k)).istore pc 8))) with
      | some i => arrive s k i.1 i.2 []
      | none => s.fx k ((s.fetchStop k).getD Fx.outOfRange)

/-- Writes to cell registers: RW fields take the value, W1C bits clear, everything else is ignored (R7). -/
def cellWrite (s : State) (k off : Nat) (v : Word) : State :=
  let bit := fun i => v.getLsbD i
  let regs := fun (f : CellRegs → CellRegs) => s.modCell k (Cell.setRegs f)
  if off = 0xE204 then regs fun r => { r with viewSel := bit 0 }
  else if off = 0xE208 then regs fun r => { r with failCols := r.failCols &&& ~~~(v.setWidth 8), failSwatch := r.failSwatch && !bit 14 }
  else if off = 0xE300 then regs fun r => { r with accSat := r.accSat && !bit 9, accMisuse := r.accMisuse && !bit 10 }
  else if off = 0xE400 then regs fun r => { r with desync := r.desync && !bit 0, palSat := r.palSat && !bit 2, palMisuse := r.palMisuse && !bit 3 }
  else if off = 0xE500 then regs fun r => { r with threshold := v.setWidth 8, forceDense := bit 8 }
  else if off = 0xE504 then regs fun r => { r with metaDrop := r.metaDrop && !bit 1, hdrErr := r.hdrErr && !bit 2, spMisuse := r.spMisuse && !bit 3 }
  else if off = 0xE004 then s.modCell k (Cell.setMr fun r =>
    { r with timeoutRd := r.timeoutRd && !bit 0, timeoutWr := r.timeoutWr && !bit 1, ctrOvf := r.ctrOvf && !bit 2, spmUnc := r.spmUnc && !bit 3, prot := r.prot && !bit 4 })
  else if off = 0xE600 then
    let s := debugSet s k (bit 0)
    if bit 1 then debugStep s k else s
  else s

/-! Blocks, regions, cues. -/

/-- The block's instruction store may be written (R166): every one of its 128 cells is halted or stopped, or the region holds no job. A cell of the job without a program is neither (log entry 27). -/
def istoreOpen (s : State) (bk : Nat) : Bool :=
  (s.rgn (bk / 150)).owner.isNone || (List.range 128).all fun c => let st := (s.cell (bk * 128 + c)).seq.state; st == 2 || st == 3

/-- A write to an instruction store (R166): refused with class 0x011D while cells may run. -/
def istoreWrite (s : State) (q : Requester) (bk off : Nat) (v : Word) : State :=
  if istoreOpen s bk then
    s.modBlk bk fun b => { b with istore := memWrite b.istore off (wordBytes v),
                                  istoreErrs := mapSet [] b.istoreErrs (off / 8) ((mapGet [] b.istoreErrs (off / 8)).filter fun i => i / 32 != off % 8 / 4) }
  else s.log (s.unitRec 1 0x011D (some (bk / 150)) (some (bk % 150)) (requesterBytes q))

/-- Cell resets of BLK_CELL_RESET_n (R376). -/
def cellResets (s : State) (bk n : Nat) (cells : Word) : State :=
  ((List.range 32).filter fun i => cells.getLsbD i).foldl (fun s i => cellReset s (bk * 128 + 32 * n + i)) s

/-- The control word of a programmable counter after a write: a reserved event keeps the event of before (R9, R457). -/
def pctrValue (old v : Word) : Word :=
  let e := if 14 ≤ field v.toNat 0 5 then field old.toNat 0 5 else field v.toNat 0 5
  BitVec.ofNat 32 (e + field v.toNat 5 10 * 2 ^ 5)

/-- Writes to block registers. -/
def blkWrite (s : State) (bk off : Nat) (v : Word) : State :=
  if off = 4 then s.modBlk bk fun b => { b with mismatch := b.mismatch && !v.getLsbD 8, timeout := b.timeout && !v.getLsbD 9, abandoned := b.abandoned && !v.getLsbD 10 }
  else if 0xD0 ≤ off ∧ off < 0xE0 then cellResets s bk ((off - 0xD0) / 4) v
  else if 0x100 ≤ off ∧ off < 0x140 then s.setPctr bk ((off - 0x100) / 4) (pctrValue (mapGet 0 (s.blk bk).pctr ((off - 0x100) / 4)) v)
  else s

/-- Target clocks after a write: a step outside its range keeps the field (R9, R382). -/
def clkValue (old : BitVec 15) (v : Word) : BitVec 15 :=
  let a := field v.toNat 0 8
  let m := field v.toNat 9 6
  BitVec.ofNat 15 ((if 16 ≤ a ∧ a ≤ 108 then a else field old.toNat 0 8) + 2 ^ 8 * field v.toNat 8 1 + 2 ^ 9 * (if 8 ≤ m ∧ m ≤ 40 then m else field old.toNat 9 6))

/-- A write of CLK_RGN_CTRL (R367, R368): a debug session's write is noted for the region reset at its end. -/
def clkWrite (s : State) (q : Requester) (r : Nat) (v : Word) : State :=
  s.modRclk r fun c => { c with ctrl := clkValue c.ctrl v, debugClk := c.debugClk || (match q with | .debug _ => true | _ => false) }

/-- Writes to region registers. -/
def rgnWrite (s : State) (q : Requester) (r off : Nat) (v : Word) : State :=
  if off = 4 then s.modRgn r fun g => { g with linkErr := g.linkErr &&& ~~~((v >>> 4).setWidth 4) }
  else if off = 0x200 then clkWrite s q r v
  else if off = 0x204 then s.modRclk r fun c => { c with lockLost := c.lockLost && !v.getLsbD 10, forced := c.forced && !v.getLsbD 11 }
  else s

/-! The test block (R449 to R456). -/

/-- Key slot of a session. -/
def State.slotOfSession (s : State) (n : Word) : Nat := match s.session n with | some x => x.slot | none => 8

/-- A test session may name a region in its mask (R450). -/
def maskOk (s : State) (n : Word) (r : Nat) : Bool :=
  let g := s.rgn r
  g.state == 0 || g.state == 3 || (match s.jobOf r with | some j => j.session == n || j.keySlot == s.slotOfSession n | none => false)

/-- Some region belongs to a job of another key slot (R450). -/
def otherKey (s : State) (n : Word) : Bool := s.jobs.any fun j => j.keySlot != s.slotOfSession n

/-- Change the test block. -/
def State.modTest (s : State) (f : Test → Test) : State := s.modHub fun h => { h with tst := f h.tst }

/-- No injection holds any swatch compare. -/
def dropForced (s : State) : State := { s with cells := s.cells.map fun (c : Nat × Cell) => (c.1, { c.2 with forced := 0 }) }

/-- What an injection of a kind may name (R454). -/
def injectTarget (s : State) (kind a : Nat) : Bool :=
  match place a with
  | .hbm x => Nat.ble kind 1 && !inFirmware s.hostRegion x 8
  | .cell k off =>
    let c := s.cell k
    if kind = 3 then true
    else if off < 0x8000 then !c.bankDown off 4 && (if kind = 2 then !c.weightClass (off / 64) else c.weightClass (off / 64))
    else if off < 0xE000 then kind == 2 && localOk (isLead (cellNo k)) off 4
    else Nat.ble 0xF000 off && Nat.ble kind 1
  | _ => false

/-- TST_INJ_CTRL is written (R454, R456): with go set the injection is armed, or refused where its target is not in a region of the mask. -/
def injectGo (s : State) (v : Word) : State :=
  let s := s.modTest fun t => { t with injCtrl := v.setWidth 16, done := t.done && !v.getLsbD 18 }
  if !v.getLsbD 16 then s
  else
    let t := s.hub.tst
    let a := t.injAddr.toNat
    let s := dropForced s
    if Nat.blt (addrRgn a) 16 && t.mask.getLsbD (addrRgn a) && injectTarget s (field v.toNat 0 2) a then
      s.modTest fun t => { t with pending := some ⟨t.injAddr, v.setWidth 2, field v.toNat 2 6, field v.toNat 8 8⟩ }
    else s.modTest fun t => { t with refused := true, pending := none }

/-- An injected flip in a list of standing flips: a second one in the same bit takes the first back. -/
def toggle (l : List Flip) (b : Nat) : List Flip := if l.any (·.bit == b) then l.filter (·.bit != b) else l ++ [⟨b, true⟩]

/-- Bits of its 64-bit word that an injection flips (R454). -/
def injectBits (i : Inject) : List Nat := if i.kind = 1 then [i.bit, (i.bit + 1) % 64] else [i.bit]

/-- Apply a flip to a word of a cell (R454): in the slot view, a weight-class slot, or as a wrong parity. -/
def injectCell (s : State) (k off : Nat) (i : Inject) : State :=
  s.modCell k fun c =>
    if 0xF000 ≤ off then
      let row := (off - 0xF000) / 32
      let l := (injectBits i).map fun b => 64 * (off % 32 / 8) + b
      c.modSlot (b2n c.regs.viewSel) fun v => { v.flipRow row l with errs := mapSet [] v.errs row (l.foldl toggle (mapGet [] v.errs row)) }
    else if i.kind = 2 then
      { c with errs := mapSet [] c.errs (off / 64) (toggle (mapGet [] c.errs (off / 64)) (32 * (off % 64 / 4) + i.bit % 32)) }
    else
      let l := (injectBits i).map fun b => 64 * (off % 64 / 8) + b
      { c with mem := flipBits c.mem (off / 64 * 64) l, errs := mapSet [] c.errs (off / 64) (l.foldl toggle (mapGet [] c.errs (off / 64))) }

/-- INJECTION_APPLY (R454): the flip is made once no write to the word is in progress; a swatch injection goes to its cell. -/
def injectApply (s : State) : State :=
  match s.hub.tst.pending with
  | none => s
  | some i =>
    let a := i.addr.toNat
    let spent := fun (s : State) => s.modTest fun t => { t with pending := none, done := true }
    match place a with
    | .hbm x =>
      let l := (injectBits i).map fun b => 64 * (x % 64 / 8) + b
      spent { s with hbm := { s.hbm with mem := flipBits s.hbm.mem (x / 64 * 64) l, errs := mapSet [] s.hbm.errs (x / 64) (l.foldl toggle (mapGet [] s.hbm.errs (x / 64))) } }
    | .cell k off =>
      let c := s.cell k
      if i.kind = 3 then spent (s.modCell k fun c => { c with forced := i.count })
      else if 0xF000 ≤ off ∧ (c.slot (b2n c.regs.viewSel)).writing = true then s
      else spent (injectCell s k off i)
    | _ => s

/-- A write to the test block by a test session (R450, R456). -/
def testWrite (s : State) (n : Word) (off : Nat) (v : Word) : State :=
  let x := v.toNat
  if off = 0 then s.modTest fun t => { t with refused := t.refused && !v.getLsbD 1 }
  else if off = 8 then s.modTest fun t => { t with seed := BitVec.ofNat 64 (t.seed.toNat / 2 ^ 32 * 2 ^ 32 + x) }
  else if off = 0xC then s.modTest fun t => { t with seed := BitVec.ofNat 64 (t.seed.toNat % 2 ^ 32 + 2 ^ 32 * x) }
  else if off = 0x10 then
    s.modTest fun t => { t with mask := BitVec.ofNat 16 (((List.range 16).filter fun r => v.getLsbD r && maskOk s n r).map (2 ^ ·)).sum }
  else if off = 0x20 then s.modTest fun t => { t with noc := BitVec.ofNat 32 (field x 0 11) }
  else if off = 0x24 then
    if otherKey s n then s.modTest fun t => { t with refused := true }
    else
      let p := field x 12 6
      s.modTest fun t => { t with credit := BitVec.ofNat 32 (field x 0 12 + 2 ^ 12 * (if p < 48 ∨ p = 63 then p else field t.credit.toNat 12 6) + 2 ^ 18 * field x 18 4) }
  else if off = 0x28 then s.modTest fun t => { t with hbmLat := BitVec.ofNat 32 (field x 0 12) }
  else if off = 0x2C then
    if otherKey s n then s.modTest fun t => { t with refused := true } else s.modTest fun t => { t with mbxDelay := BitVec.ofNat 32 (field x 0 14) }
  else if off = 0x30 then
    s.modTest fun t => { t with stretch := BitVec.ofNat 32 (field x 0 8 + 2 ^ 8 * (if field x 8 2 = 3 then field t.stretch.toNat 8 2 else field x 8 2)) }
  else if off = 0x34 then s.modTest fun t => { t with tagStall := BitVec.ofNat 32 (field x 0 24) }
  else if off = 0x40 then s.modTest fun t => { t with injAddr := BitVec.ofNat 48 (t.injAddr.toNat / 2 ^ 32 * 2 ^ 32 + x) }
  else if off = 0x44 then s.modTest fun t => { t with injAddr := BitVec.ofNat 48 (t.injAddr.toNat % 2 ^ 32 + 2 ^ 32 * x) }
  else if off = 0x48 then injectGo s v
  else s

/-- Every control is cleared and every pending injection withdrawn (R449). -/
def testClear (s : State) : State := (dropForced s).modTest fun _ => .reset

/-! The hub. -/

/-- Writes to hub registers (R7). -/
def hubWrite (s : State) (q : Requester) (off : Nat) (v : Word) : State :=
  let o := off % 0x100000
  let bit := fun i => v.getLsbD i
  match off / 0x100000 with
  | 0 => if o = 0x20 then s.modClk fun c => { c with tripSeen := bit 3, blackoutSeen := bit 4, forcedSeen := bit 5, warmCount := (v >>> 8).setWidth 8 } else s
  | 3 => if o = 0 then s.modPwr fun p => { p with inputOor := p.inputOor && !bit 4, calibOor := p.calibOor && !bit 5 } else s
  | 4 =>
    if o = 4 then s.modFab fun f => { f with freewheelSeen := f.freewheelSeen && !bit 8 }
    else if o = 0x8000 then s.modBkt fun b =>
      { b with failed := b.failed && !bit 9, earlyDrop := b.earlyDrop && !bit 10, malformed := b.malformed && !bit 11, limit := b.limit && !bit 12 }
    else if 0x1000 ≤ o ∧ o < 0x4000 ∧ o % 0x100 = 0 then s.modPort ((o - 0x1000) / 0x100) fun x =>
      { x with trainFail := x.trainFail && !bit 10, retrained := x.retrained && !bit 11, malformed := x.malformed && !bit 12, blockedSeen := x.blockedSeen && !bit 13 }
    else s
  | 5 => if o = 0 then s.modEth fun e => { e with linkChange := e.linkChange && !bit 11 } else s
  | 6 => (match q with | .test n => testWrite s n o v | _ => s)
  | 7 => if o = 0 then s.modFlt fun l => { l with lost := l.lost && !bit 1, jobFault := l.jobFault && !bit 7 } else s
  | _ => s

/-! All writes. -/

/-- The effect of a word written at a place. -/
def storeAt (s : State) (q : Requester) (p : Place) (v : Word) : State :=
  match p with
  | .hbm a => { s with hbm := s.hbm.write a (wordBytes v) none false }
  | .cell k off =>
    if off < 0xE000 then s.modCell k fun c => c.writePiece ⟨off, wordBytes v, none, false, false⟩
    else if 0xF000 ≤ off then viewWrite s k (off - 0xF000) v
    else cellWrite s k off v
  | .istore bk off => istoreWrite s q bk off v
  | .blk bk off => blkWrite s bk off v
  | .rgn r off => rgnWrite s q r off v
  | .cue r i n => if n = 1 then addCue s (s.cueAt r i) v else s
  | .hub off => hubWrite s q off v
  | .unmapped => s

/-- A write access (R5, R200, R355, R426). -/
def writeAccess (s : State) (q : Requester) (a size : Nat) (v : Word) : State :=
  let p := place a
  if !s.hub.clk.hubReady then s
  else
    let s := s.modHub fun h => { h with latch := none }
    if !(size == 4 && a % 4 == 0 && mayAccess s q true p && (wordAt s p).isSome) then refuseAccess s q true a
    else if scrubHeld s q p then refuseScrub s q p a
    else if asleepHeld s p then s
    else storeAt s q p v

/-- A read whose value leaves the block: the requester's answer (R5 to R7). -/
def readOut (s : State) (q : Requester) (a : Nat) : State :=
  let r := readAccess s q a 4
  r.1.emit (.value q a r.2)

end Sys2Proof.Machine
end

