-- ==== Sys2Proof/Machine/Jobs.lean ====
section
/-! DEFINITION. Epoch boundaries, staged changes, change holds and the rebalance of a power pool (spec/11_prompt_books_epochs.md R253, R254, R264, R265; spec/15_pyerly_mailboxes.md R358; spec/17_power_thermal.md R392 to R394). -/
namespace Sys2Proof.Machine

/-! Changes (R358). -/

/-- The requester that a session's own commands are: a debug session while it holds the debug unlock (R200, R446). -/
def State.requesterOf (s : State) (n : Word) : Requester :=
  match s.hub.sec.dbg with
  | some d => if d.session = n then .debug n else .host n
  | none => .host n

/-- Write the records of a PALETTE_WRITE into the cells it names (R358). -/
def paletteApply (s : State) (m : Msg) : State :=
  let p := m.payload
  let base := (leAt p 2 1 * 150 + leAt p 3 1) * 128
  let ps := (pieces none false (leAt p 20 2) ((p.drop 24).take (192 * leAt p 22 1))).map fun w => { w with last := false }
  ((List.range 128).filter (bitAt (leAt p 4 16))).foldl (fun s c => s.modCell (base + c) fun x => ps.foldl Cell.loadPiece x) s

/-- Replace the named routing tables with their shadows (R289, R356): bits 0 to 47 the ports, bit 63 injection. -/
def routeApply (s : State) (mask : Nat) : State :=
  let s := ((List.range 48).filter (bitAt mask)).foldl (fun s p => s.modPort p fun x => { x with table := x.shadow }) s
  if bitAt mask 63 then s.modFab fun f => { f with table := f.shadow } else s

/-- Allocation of a position when a pool is set (R392). -/
def poolShare (pool n pos : Nat) : Nat := pool / n + (if pos < pool % n then 1 else 0)

/-- Set a job's pool (R392): pool, floor and ceiling in units of 25 W. -/
def poolApply (s : State) (id : Word) (pool floor ceil : Nat) : State :=
  match s.job id with
  | none => s
  | some j =>
    let n := bookModules j.img
    let s := s.modJob id fun j => { j with
      pool := some (pool, floor, ceil), reports := [], allocDue := [],
      allocs := if j.root then (List.range n).map fun p => (p, poolShare pool n p) else [] }
    match s.slotOf id with
    | some i => s.modSlot i fun x => { x with alloc := poolShare pool n j.pos, quiet := 0 }
    | none => s

/-- Apply the effect of a change on this module (R358): a palette write or a route commit acts on the position it names. -/
def applyChange (s : State) (id : Word) (code : BitVec 16) (m : Msg) : State :=
  let p := m.payload
  match s.job id with
  | none => s
  | some j =>
    if code = 0x0702 then writeAccess s (s.requesterOf j.session) (leAt p 8 8) 4 (BitVec.ofNat 32 (leAt p 16 4))
    else if code = 0x0601 then s.modPwr fun w => { w with cap := leAt p 0 4 }
    else if code = 0x030A then (if leAt p 0 2 = j.pos then paletteApply s m else s)
    else if code = 0x0505 then (if leAt p 8 2 = j.pos then routeApply s (leAt p 0 8) else s)
    else if code = 0x0602 then poolApply s id (leAt p 0 4) (leAt p 4 4) (leAt p 8 4)
    else s

/-- A staged change has been applied: CHANGE_APPLIED (R359). -/
def changeApplied (s : State) (id : Word) (c : Staged) : State :=
  jobEvent (s.modJob id fun j => { j with applied := j.applied ++ [c.m.seq] }) id 0x8003 (leBytes 4 id.toNat ++ leBytes 4 c.m.seq.toNat ++ leBytes 2 c.code.toNat ++ leBytes 6 0 ++ leBytes 8 c.epoch)

/-! The rebalance of a pool (R393, R394). -/

/-- A report: position, slack, effective ceiling. -/
abbrev Report := Nat × Int × Nat

/-- Place a report by slack, then position (R394 step 1). -/
def rankIn (r : Report) : List Report → List Report
  | [] => [r]
  | x :: t => if r.2.1 < x.2.1 ∨ (r.2.1 = x.2.1 ∧ r.1 < x.1) then r :: x :: t else x :: rankIn r t

/-- Reports in rank order. -/
def ranked (l : List Report) : List Report := l.foldr rankIn []

/-- Move allocation within one pair (R394 step 3): `a` has less slack than `d`. -/
def movePair (floor : Nat) (allocs : SMap Nat) (a d : Report) : SMap Nat :=
  if d.2.1 - a.2.1 < 256 then allocs
  else
    let give := mapGet 0 allocs d.1
    let take := mapGet 0 allocs a.1
    let n := min 8 (min (give - floor) (a.2.2 - take))
    mapPut (mapPut allocs d.1 (give - n)) a.1 (take + n)

/-- All pairs of ranks i and m − 1 − i (R394 step 2). -/
def movePairs (floor : Nat) (rs : List Report) (allocs : SMap Nat) : SMap Nat :=
  ((rs.zip rs.reverse).take (rs.length / 2)).foldl (fun al p => movePair floor al p.1 p.2) allocs

/-- Hand out what is left of the pool, a unit at a time in rank order (R394 step 4); `n` bounds the rounds. -/
def handOut (rs : List Report) : Nat → Nat → SMap Nat → SMap Nat
  | 0, _, al => al
  | n + 1, left, al =>
    let r := rs.foldl (fun (x : Nat × SMap Nat) q =>
      if x.1 = 0 ∨ q.2.2 ≤ mapGet 0 x.2 q.1 then x else (x.1 - 1, mapPut x.2 q.1 (mapGet 0 x.2 q.1 + 1))) (left, al)
    handOut rs n r.1 r.2

/-- Allocations after a rebalance (R394). -/
def rebalance (pool floor : Nat) (reports : List Report) (allocs : SMap Nat) : SMap Nat :=
  let rs := ranked reports
  let al := movePairs floor rs allocs
  let left := pool - (al.map (·.2)).sum
  handOut rs left left al

/-- First epoch from `e`, which begins at `start`, that begins at or after a tick (R394), with fuel. -/
def epochAfter (img : List Byte) (target : Nat) : Nat → Nat → Nat → Nat
  | 0, e, _ => e
  | n + 1, e, start => if target ≤ start then e else epochAfter img target n (e + 1) (start + epochLen img e)

/-- The root rebalances with the reports it has, and sends the new allocations (R394). -/
def rankReports (s : State) (id : Word) : State :=
  match s.job id with
  | none => s
  | some j =>
    match j.pool with
    | none => s
    | some (pool, floor, _) =>
      if !j.root || j.reports.isEmpty then s
      else
        let al := rebalance pool floor (j.reports.map fun r => (r.1, r.2.1, r.2.2)) j.allocs
        let target := j.ended + 200000
        let e := epochAfter j.img target (target - j.sTick + 1) (j.epoch + 1) j.deadline
        let s := s.modJob id fun j => { j with allocs := al, reports := [] }
        let s := j.others.foldl (fun s p => s.emit (.alloc (bookIdent j.img p) id e (mapGet 0 al p))) s
        scheduleAlloc s id e (mapGet 0 al j.pos)

/-- The root takes a report; with those of every module it rebalances (R394). -/
def slackReceive (s : State) (id : Word) (pos : Nat) (slack : Int) (ceiling : Nat) : State :=
  match s.job id with
  | none => s
  | some j =>
    if !j.root || j.faulted || j.pool.isNone || !Nat.blt pos (bookModules j.img) then s
    else
      let s := s.modJob id fun j => { j with reports := mapPut j.reports pos (slack, ceiling) }
      if (mapPut j.reports pos (slack, ceiling)).length = bookModules j.img then rankReports s id else s

/-- The slack of an epoch that ends (R393). -/
def Job.slackNow (j : Job) : Int := (j.deadline : Int) - (mapGet j.boundary j.doneAt j.epoch : Nat)

/-- Note the slack of the epoch that ends; at the end of a rebalance interval it is reported (R393, R394). -/
def intervalStep (s : State) (id : Word) : State :=
  match s.job id with
  | none => s
  | some j =>
    let least := match j.slack with | some x => min x j.slackNow | none => j.slackNow
    if j.ran + 1 < ceilDiv 1000000 (epochLen j.img j.epoch) then s.modJob id fun j => { j with slack := some least, ran := j.ran + 1 }
    else
      let s := rankReports s id
      let s := s.modJob id fun j => { j with slack := none, ran := 0, ended := j.boundary }
      match j.pool with
      | none => s
      | some (_, _, ceil) =>
        let c := min ceil s.hub.pwr.cap
        if j.root then slackReceive s id j.pos least c else s.emit (.slack j.rootIdent.toNat id j.pos least c)

/-! The boundary (R254). -/

/-- Step 1: stop-pending cells stop, and a cell that was reset runs from now on (R163, R376). -/
def boundaryCell (s : State) (k : Nat) : State :=
  let q := (s.cell k).seq
  let s := if (q.running || q.state == 2) && q.stopPending then s.fx k Fx.stopPoint else s
  if q.wait = some .epoch then settle (s.modCell k (Cell.setSeq fun q => { q with wait := none })) k else s

/-- Programmable counters that the boundary clears (R457). -/
def clearPctrs (s : State) (j : Job) : State :=
  (s.blocks.filter fun b => j.regions.getLsbD (b.1 / 150)).foldl (fun s b =>
    (b.2.pctr.filter fun c => bitAt c.2.toNat 13).foldl (fun s c => s.clearPctr b.1 c.1) s) s

/-- Step 2: the records of the epoch that ends (R262, R322, R414, R457). -/
def boundaryRecords (s : State) (j : Job) (t : Nat) : State :=
  clearPctrs (holdRecords (bucketSummaries (j.rgns.foldl (fun s r => closeInterval s r t) s) j.id t) j) j

/-- Step 3: changes of one register, allocations, and guardbands (R264, R394, R399). -/
def boundarySingles (s : State) (j : Job) : State :=
  let e := j.epoch + 1
  let mine := fun (c : Staged) => c.epoch == e && !underHold c.code
  let s := s.modJob j.id fun j => { j with staged := j.staged.filter fun c => !mine c, allocDue := j.allocDue.filter fun a => a.1 != e }
  let s := (j.staged.filter mine).foldl (fun s c => changeApplied (applyChange s j.id c.code c.m) j.id c) s
  let s := (j.allocDue.filter fun a => a.1 == e).foldl (fun s a =>
    match s.slotOf j.id with | some i => s.modSlot i fun x => { x with alloc := a.2 } | none => s) s
  j.rgns.foldl applyGuard s

/-- Step 5: the next epoch begins at a tick (R253, R254, R259). -/
def nextEpoch (s : State) (id : Word) (t : Nat) : State :=
  match s.job id with
  | none => s
  | some j =>
    let e := j.epoch + 1
    let k := mapGet (0, 0) j.kOf e
    let s := s.modJob id fun j => { j with
      epoch := e, sTick := t, kSteps := k.1, kSrc := k.2, checks := 0, selfSteps := 0,
      kOf := mapSet (0, 0) (mapDrop (· == e) j.kOf) j.epoch (j.kSteps, j.kSrc),
      doneAt := mapDrop (fun x => Nat.blt x e) j.doneAt }
    let s := countSteps s j k.1
    (s.cues.filter fun c => c.2.action == 4 && Nat.ble 128 c.1 && j.regions.getLsbD (c.1 / 512)).foldl (fun s c => addCue s c.1 1) s

/-- Step 4: a change hold is taken (R265): cells that wait at a CUEWAIT or WAITC abandon it, the changes are applied and acknowledged, and the root sends its first change-flagged HOLD. A hold that firmware takes for new route tables alone (R238) is the module's own: it waits for no other module (log entry 71). -/
def takeHold (s : State) (j : Job) : State :=
  let own := j.holds.isEmpty
  let s := s.modJob j.id fun j => { j with chg := some ⟨if own then 0 else b2n j.root, [], own⟩ }
  let s := (s.cellsOf j).foldl (fun s k => s.modCell k (Cell.setSeq Seq.abandonWait)) s
  let s := (j.holds.foldl (fun s c => applyChange s j.id c.code c.m) s).applyTables
  if own then s
  else if j.root then
    let s := sendEach (countSteps s j 1) j j.others fun d => holdPacket s.hub.fab.moduleId.toNat d j.id j.epoch 1 false true
    changeAck s j.id j.pos
  else s.emit (.changeAck j.rootIdent.toNat j.id j.pos)

/-- EPOCH_BOUNDARY (R254): the five steps at B(e). -/
def epochBoundary (s : State) (id : Word) : State :=
  match s.job id with
  | none => s
  | some j =>
    if !j.begun || j.faulted || j.chg.isSome then s
    else
      let t := j.boundary
      let s := s.jobTickTo j t
      let s := (s.cellsOf j).foldl boundaryCell s
      let s := boundarySingles (boundaryRecords (intervalStep s id) j t) j
      match s.job id with
      | none => s
      | some j => if j.holds.isEmpty && !s.needsDetour j then nextEpoch s id t else takeHold s j

/-- CHANGE_HOLD_RELEASE (R265): the hold interval ends, job packets go on, and step 5 follows at the next 256-tick mark. -/
def changeRelease (s : State) (id : Word) : State :=
  match s.job id with
  | none => s
  | some j =>
    match j.chg with
    | none => s
    | some h =>
      if j.faulted || (j.root && !h.released) || s.needsDetour j then s
      else
        let t := 256 * (s.jobTick j / 256 + 1)
        let s := pumpAll (s.modJob id fun j => { j with chg := none })
        let s := s.jobTickTo j t
        let s := if j.root then j.holds.foldl (fun s c => changeApplied s id c) s else s
        let s := s.modJob id fun j => { j with staged := j.staged.filter fun c => !(c.epoch == j.epoch + 1 && underHold c.code) }
        (s.cellsOf j).foldl settle (nextEpoch s id t)

/-- ANNOUNCE_TIMEOUT (R354): class 0x0512, status 0x0501, and the job faults. -/
def announceTimeout (s : State) (id : Word) : State :=
  match s.executingFor 0x0304 id, s.job id with
  | some n, some j =>
    let c := { s.unitRec 4 0x0512 none none (leBytes 4 id.toNat) with tick := s.jobTick j }
    faultWith (respond s n 0x0501 []) id c
  | _, _ => s

end Sys2Proof.Machine
end

