-- ==== Sys2Proof/Machine/Load.lean ====
section
/-! DEFINITION. Assignment: waking, checking and loading a prompt book (spec/10_blocks_regions.md R240; spec/11_prompt_books_epochs.md R250, R251, R255; spec/19_measured_boot_attestation.md R441, R444; spec/17_power_thermal.md R405). -/
namespace Sys2Proof.Machine

/-! The checks of R250. -/

/-- A range lies in HBM of one of some regions, outside the firmware area. -/
def hbmSpan (s : State) (regions : BitVec 16) (a n : Nat) : Bool :=
  isHbm a && (n == 0 || (isHbm (a + n - 1) && hbmRgn a == hbmRgn (a + n - 1))) && regions.getLsbD (hbmRgn a) && !inFirmware s.hostRegion a n

/-- A range lies in HBM of one of the regions of the module at a position (R249); which region of another module holds its firmware area is not known here. -/
def farSpan (img : List Byte) (j a n : Nat) : Bool :=
  isHbm a && (n == 0 || (isHbm (a + n - 1) && hbmRgn a == hbmRgn (a + n - 1))) && bitAt (bookMask img j) (hbmRgn a)

/-- A block that the book masks on this module is fenced. -/
def masksFenced (s : State) (img : List Byte) (pos : Nat) (regions : BitVec 16) : Bool :=
  (List.range 16).any fun r => regions.getLsbD r && (List.range 150).any fun b => bitAt (bookBlocks img pos r) b && (s.blk (blkKey r b)).isFenced (blkKey r b)

/-- The operator signature section: offset and key slot. -/
def bookSig (img : List Byte) : Option (Nat × Nat) := (bookSec img 0xFF).map fun e => (e.1, leAt img e.1 1)

/-- The operator signature of a book verifies under a key with privilege J (R444). -/
def Sec.bookSigned (x : Sec) (img : List Byte) (o slot : Nat) : Bool :=
  match x.keys.getD slot none with
  | some k => k.priv.getLsbD 0 && pssVerify k.modulus.toNat (img.take o) ((img.drop (o + 64)).take 384)
  | none => false

/-- The outcome of the checks. -/
inductive BookCheck where
  | ok
  | reject (reason : Nat)
  | badSignature (slot : Nat)
  deriving DecidableEq, Repr

/-- The checks of R250 in the order of its table, with the signature at its place (R444). The reserved fields of a section are judged where the directory is well formed. -/
def checkBook (s : State) (img : List Byte) (regions : BitVec 16) (sigNeeded : Bool) : BookCheck :=
  let pos := (bookPosition img s.hub.fab.moduleId.toNat).getD 0
  let dir := dirOk img && (match bookSec img 0xFF with | some (_, n) => n == 448 | none => true)
  if !(imgAt img 0 4 == 0x314B4250 && imgAt img 4 2 == 1 && imgAt img 6 2 == 128) then .reject 1
  else if !(imgAt img 8 4 == 0x03074C4D && imgAt img 0xC 2 == 0x010A) then .reject 2
  else if !headerZeros img then .reject 3
  else if dir && !(sectionZeros img (fabZeros img (bookPosition img s.hub.fab.moduleId.toNat)) && (match bookSig img with | some (o, _) => allZero ((img.drop (o + 1)).take 63) | none => true)) then .reject 3
  else if !dir then .reject 4
  else if sigNeeded && (bookSig img).isNone then .reject 5
  else if (match bookSig img with | some (o, k) => !s.hub.sec.bookSigned img o k | none => false) then .badSignature (((bookSig img).map (·.2)).getD 0)
  else if !modulesOk img s.hub.fab.moduleId.toNat then .reject 6
  else if !(BitVec.ofNat 16 (bookMask img pos) == regions && !masksFenced s img pos regions) then .reject 7
  else if !imagesOk img then .reject 8
  else if !dataOk img (fun j => if j = pos then hbmSpan s regions else farSpan img j) then .reject 9
  else if !cuesOk img s.cueGone regions.toNat then .reject 0xA
  else if !treesOk img (fabOk s img pos regions (hbmSpan s regions)) then .reject 0xB
  else if !startOk img then .reject 0xC
  else .ok

/-! Loading (R251). -/

/-- Numbers of the cells that block and cell masks of a region name. -/
def maskCells (r blocks cells : Nat) : List Nat :=
  ((List.range 150).filter (bitAt blocks)).flatMap fun b => ((List.range 128).filter (bitAt cells)).map fun c => (r * 150 + b) * 128 + c

/-- Windows, bank_off and program span of an image's cells, and their start (R251). -/
def loadCells (s : State) (i : ImageRec) : State :=
  (maskCells i.region i.blocks i.cells).foldl (fun s k => s.modCell k fun c =>
    { c with
      mr := { c.mr with win := i.windows.map (BitVec.ofNat 32), bankOff := BitVec.ofNat 4 i.bankOff },
      seq := { c.seq with imgAt := i.storeOff, imgLen := i.codeLen, entry := i.entry, pc := BitVec.ofNat 17 i.entry, state := 1 } }) s

/-- The code of an image into the instruction store of every block it names. -/
def loadCode (s : State) (i : ImageRec) : State :=
  ((List.range 150).filter (bitAt i.blocks)).foldl (fun s b => s.modBlk (blkKey i.region b) fun x => { x with istore := memWrite x.istore i.storeOff i.code }) s

/-- One cue of the cue table, armed unless its action is none (R248, R256). -/
def loadCue (s : State) (c : CueRec) : State :=
  s.setCue c.cue { value := BitVec.ofNat 32 c.init, thresh := BitVec.ofNat 32 c.thresh, action := BitVec.ofNat 3 c.action,
                   armed := c.action != 0 && c.action != 4, fired := 0, step := BitVec.ofNat 16 c.step }

/-- One slot tile, loaded as WLOAD loads it without a palette, its drops counted (R128, R248); one of a format outside its role writes nothing and is the cell's fault (R24). Whether its tensor is marked as MX is a free value of its own (log entry 60). -/
def loadTileRec (d : DataRec) (x : Fx) : Fx :=
  let fmt := field d.w40 0 4
  let g := field d.w40 4 2
  if !slotRole fmt then x.badFormat
  else
    let t := loadTile fmt g (bitAt d.w40 6) (field d.w40 8 7) (d.data.take (tileLen fmt (bitAt d.w40 6))) (Config.mxInt8 (0x10000 + d.w3c)) ((tileRecOf d).map recOf)
    ((x.metaDrop 0x0340 t.dropRange).metaDrop 0x0341 t.dropEqual).map fun c =>
      (c.writeTile fmt d.w3c g (bitAt d.w40 6) t).tileDone (if fmt = 8 then [0, 1] else [d.w3c])

/-- Write bytes to HBM block by block with tag 0. -/
def loadHbm (h : Hbm) (a : Nat) (l : List Byte) : Hbm :=
  ((List.range (ceilDiv l.length 64)).map fun i => (a + 64 * i, (l.drop (64 * i)).take 64)).foldl (fun h p => h.write p.1 p.2 (some 0) false) h

/-- One initial data or palette record (R248). -/
def loadRec (s : State) (d : DataRec) : State :=
  let cs := maskCells d.region d.blocks d.cells
  if d.kind = 0 then
    let ps := (pieces (some (BitVec.ofNat 8 d.w44)) false d.w3c d.data).map fun w => { w with last := bitAt d.w44 8 }
    cs.foldl (fun s k => s.modCell k fun c => ps.foldl Cell.loadPiece c) s
  else if d.kind = 1 then cs.foldl (fun s k => s.fx k (loadTileRec d)) s
  else if d.kind = 2 then { s with hbm := loadHbm s.hbm d.w40 d.data }
  else
    let ps := (pieces none false d.w40 d.data).map fun w => { w with last := false }
    cs.foldl (fun s k => s.modCell k fun c => ps.foldl Cell.loadPiece c) s

/-- Every part of the book, in the order of R251; the regions are Assigned. -/
def loadBook (s : State) (j : Job) : State :=
  let img := j.img
  let mine := fun (d : DataRec) => d.position == j.pos && j.regions.getLsbD d.region
  let images := (ownImages img j.pos).filter fun i => j.regions.getLsbD i.region
  let s := j.rgns.foldl (fun s r => s.modRgn r fun g => { g with ident := s.hub.fab.moduleId, tagTimeout := BitVec.ofNat 24 (bookTagTimeout img) }) s
  let s := images.foldl loadCells s
  let s := images.foldl loadCode s
  let s := { s with cues := s.cues.filter fun c => Nat.blt c.1 128 || !j.regions.getLsbD (c.1 / 512) }
  let s := ((bookCues img).filter fun c => j.regions.getLsbD (c.cue / 512)).foldl loadCue s
  let s := ((bookPalettes img).filter mine).foldl loadRec s
  let s := ((bookData img).filter mine).foldl loadRec s
  j.rgns.foldl (fun s r => s.modRgn r fun g => { g with state := 5, goal := .none }) s

/-- The job slot that a new job takes (R405): never used, else the one released longest ago, lowest first. -/
def freeSlot (s : State) : Option Nat :=
  ((List.range 16).filter fun i => !(s.slotNo i).live).foldl (fun b i =>
    match b with
    | none => some i
    | some x => if (s.slotNo i).released < (s.slotNo x).released then some i else some x) none

/-- Fill a job slot at assignment (R405). -/
def fillSlot (s : State) (id : Word) : State :=
  match freeSlot s with
  | some i => syncCaps (s.modSlot i fun _ => { JobSlot.reset with job := id, live := true, capPoint := 5 })
  | none => s

/-- The staging space of a session is released (R353). -/
def dropStaging (s : State) (n : Word) : State := s.modSession n fun x => { x with staging := none }

/-- The command of an assignment answers: the staging space goes with the response (R353). -/
def answerAssign (s : State) (j : Job) (status : Nat) (payload : List Byte) : State :=
  let s' := dropStaging s j.session
  match s'.executingFor 0x0303 j.id with
  | some n => respond s' n status payload
  | none => s'

/-- A book is rejected (R250): nothing of it takes effect, and the regions go to Releasing. -/
def rejectBook (s : State) (j : Job) (status : Nat) (payload : List Byte) : State := answerAssign (releaseJob s j.id) j status payload

/-- All the regions are Loading: the book is checked and loaded (R250, R251), and measured where it is accepted (R441). -/
def doLoad (s : State) (j : Job) (sigNeeded : Bool) : State :=
  match checkBook s j.img j.regions sigNeeded with
  | .reject r => rejectBook (s.log { s.unitRec 3 0x0620 none none [BitVec.ofNat 8 r] with tick := s.hub.tick }) j 0x0500 [BitVec.ofNat 8 r]
  | .badSignature k => rejectBook (s.logHub 0x0903 [BitVec.ofNat 8 k]) j 0x0400 []
  | .ok =>
    let pos := (bookPosition j.img s.hub.fab.moduleId.toNat).getD 0
    let j := { j with pos := pos, homePorts := s.edgePorts j.regions }
    let s := s.modJob j.id fun x => { x with pos := j.pos, homePorts := j.homePorts }
    let s := loadBook (fillSlot s j.id) j
    let s := s.modSec fun x => x.extend 4 (sha256 j.img ++ leBytes 4 j.id.toNat)
    answerAssign s j 0 []

/-- The signature flag of the JOB_ASSIGN that executes for a job. -/
def State.sigFlag (s : State) (id : Word) : Bool :=
  match s.executingFor 0x0303 id with
  | some n => (match (s.mbx n).req with | some r => bitAt (leAt r.m.payload 4 4) 0 | none => false)
  | none => false

/-- Load a job once all its regions are Loading (R240). -/
def tryLoad (s : State) (id : Word) : State :=
  match s.job id with
  | some j => if j.rgns.all fun r => (s.rgn r).state == 4 then doLoad s j (s.sigFlag id) else s
  | none => s

/-- What a Ready region goes on to (R240): the assignment that waits for it, or the power-down that was put off. -/
def fromReady (s : State) (r : Nat) : State :=
  match (s.rgn r).goal with
  | .assign id => tryLoad (s.modRgn r fun g => { g with state := 4, goal := .none }) id
  | _ =>
    let s := s.modRgn r fun g => { g with goal := .none }
    if (s.rgn r).downWanted && !(s.rgn r).heldReady then powerSleep (s.modRgn r fun g => { g with state := 0, downWanted := false }) r else s

/-- A region is wanted by an assignment (R240): asleep it wakes, Ready it goes to Loading, in transition it will follow. -/
def wantRegion (id : Word) (s : State) (r : Nat) : State :=
  let s := s.modRgn r fun g => { g with owner := some id, goal := .assign id, downWanted := false }
  match (s.rgn r).state.toNat with
  | 0 => s.modRgn r fun g => { g with state := 1 }
  | 3 => s.modRgn r fun g => { g with state := 4, goal := .none }
  | _ => s

/-- What firmware sets as a region wakes (R10, R63, R239): loaded fields at their values for a region without a job, and the swatch patterns. -/
def wakeFields (s : State) (r : Nat) : State :=
  let s := s.modRgn r fun g => { g with ident := s.hub.fab.moduleId, tagTimeout := 0x800000 }
  { s with cells := s.cells.map fun (c : Nat × Cell) => if cellRgn c.1 = r then
      (c.1, { c.2 with swatch := swatchPatterns, mr := { c.2.mr with bankOff := 0, win := List.replicate 8 0 } }) else c }

/-- REGION_WAKE_DONE (R240, R420, R421): Scrubbing where scrub-pending is set, else Loading or Ready. -/
def wakeDone (s : State) (r : Nat) (w : WakeResult) : State :=
  if (s.rgn r).state ≠ 1 then s
  else
    match w with
    | .hbmFailed => failRegion s r 0x0133
    | w =>
      let s := match w with | .swatch b p col => judgeColumn s (blkKey r b.val) p.val col.val | _ => s
      let s := wakeFields (powerWake s r) r
      if (s.rgn r).scrubPending then s.modRgn r fun g => { g with state := 2 } else fromReady (regionReleased (s.modRgn r fun g => { g with state := 3 }) r) r

/-- REGION_SCRUB_DONE (R421, R425). -/
def scrubDone (s : State) (r : Nat) (found : List TestFinding) : State :=
  if (s.rgn r).state ≠ 2 ∧ (s.rgn r).state ≠ 6 then s else fromReady (endScrub s r found) r

/-- READY_POWER_DOWN (R240): a Ready region that no one holds or wants goes to sleep; in transition the request is put off until the region is Ready. -/
def powerDownReady (s : State) (r : Nat) : State :=
  let g := s.rgn r
  if g.state = 0 ∨ g.state = 7 then s
  else if g.state ≠ 3 then s.modRgn r fun g => { g with downWanted := true }
  else if g.heldReady = true ∨ g.owner.isSome = true then s
  else powerSleep (s.modRgn r fun g => { g with state := 0, goal := .none, downWanted := false }) r

end Sys2Proof.Machine
end

