-- ==== Sys2Proof/Machine/Ethernet.lean ====
section
/-! DEFINITION. The Ethernet port: link, addresses, flow control, connections, RDMA and acknowledgements (spec/14_ethernet_port.md R323 to R341). -/
namespace Sys2Proof.Machine

/-- The port carries frames: the hub runs and the link is up. -/
def State.ethOn (s : State) : Bool := s.hub.clk.hubReady && s.hub.eth.linkUp
/-- Count on an RC counter of the port (R340). -/
def State.ethCount (s : State) (reg n : Nat) : State := s.modEth fun e => { e with cnt := bump e.cnt reg n }
/-- A packet is dropped without reply (R338). -/
def ethDrop (s : State) : State := (s.ethCount 0x40 1).modEth fun e => { e with drops := e.drops + 1 }
/-- PFC is enabled (ETH_QOS, R339). -/
def Eth.pfcEn (e : Eth) : Bool := e.qos.getLsbD 15

/-! Addresses (R325). -/

/-- The link-local address: the MAC address as a modified EUI-64 identifier. -/
def linkLocal : BitVec 128 :=
  let b := fun (i : Nat) => field Config.fuseMac.toNat (8 * i) 8
  BitVec.ofNat 128 (beNat (([0xFE, 0x80, 0, 0, 0, 0, 0, 0, nxor (b 0) 2, b 1, b 2, 0xFF, 0xFE, b 3, b 4, b 5] : List Nat).map (BitVec.ofNat 8)))

/-- An IPv4 address as it stands in a 128-bit address field. -/
def mapped (a : Word) : BitVec 128 := BitVec.ofNat 128 (0xFFFF * 2 ^ 32 + a.toNat)

/-- Addresses that the module answers to. -/
def Eth.owns (e : Eth) (a : BitVec 128) : Bool := a == linkLocal || (e.ipv6Valid && a == e.ipv6) || (e.ipv4Valid && a == mapped e.ipv4)

/-- A mailbox whose request came on a queue pair will not send its response there. -/
def Mbx.loseAnswer (q : Nat) (x : Mbx) : Mbx := { x with req := x.req.map fun r => if r.m.q.val = q then { r with lost := true } else r }

/-- Responses that a queue pair had not delivered are discarded (R332). -/
def State.loseAnswers (s : State) (q : Nat) : State := s.modMail fun m => { m with mbx := m.mbx.map fun e => (e.1, e.2.loseAnswer q) }

/-- A queue pair moves to the error state (R332): DREQ, class 0x0604 with its number and cause (0 retries exhausted, 1 its address is gone, 2 its session has closed, 3 the partner's NAK). -/
def qpError (s : State) (q cause : Nat) : State :=
  if (s.qp q).state == .free || (s.qp q).state == .error then s
  else
    ((((s.loseAnswers q).modQp q fun x => { x with state := .error, unacked := [], write := none, retries := 0 }).logHub 0x0604
      (leBytes 4 (0x100 + q) ++ [BitVec.ofNat 8 cause]))).emitQp q .dreq

/-- Queue pairs bound to an address of the module go to the error state. -/
def unbindAddr (s : State) (a : BitVec 128) : State :=
  (List.range 64).foldl (fun s q => if (s.qp q).dst == a then qpError s q 1 else s) s

/-- The IPv4 address is removed (R325): class 0x0602. -/
def dropIpv4 (s : State) : State :=
  let e := s.hub.eth
  if !e.ipv4Valid then s
  else
    let s := s.modEth fun e => { e with ipv4 := 0, mask := 0, gateway := 0, ipv4Valid := false, dhcp := false, leaseSec := 0 }
    unbindAddr (s.logHub 0x0602 (leBytes 4 e.ipv4.toNat)) (mapped e.ipv4)

/-- An IPv4 address is set; another one that stood there is removed first (R325). -/
def setIpv4 (s : State) (a mask gateway : Word) (dhcp : Bool) (lease : Nat) : State :=
  let e := s.hub.eth
  let s := if e.ipv4Valid && e.ipv4 != a then dropIpv4 s else s
  s.modEth fun e => { e with ipv4 := a, mask := mask, gateway := gateway, ipv4Valid := true, dhcp := dhcp, leaseSec := lease }

/-- The global IPv6 address is set; another one is removed first (R325). -/
def setIpv6 (s : State) (a : BitVec 128) : State :=
  let e := s.hub.eth
  let s := if e.ipv6Valid && e.ipv6 != a then unbindAddr (s.logHub 0x0602 (leBytes 16 e.ipv6.toNat)) e.ipv6 else s
  s.modEth fun e => { e with ipv6 := a, ipv6Valid := true }

/-! The link (R323, R325, R341). -/

/-- ETH_LINK_UP: class 0x0601; the DHCP client starts at the first rise after reset unless an address is set. -/
def linkRise (s : State) : State :=
  let e := s.hub.eth
  if !s.hub.clk.hubReady || e.linkUp then s
  else
    let s := (s.modEth fun e => { e with linkUp := true, linkChange := true }).logHub 0x0601 [1]
    if e.client || e.ipv4Valid then s else (s.modEth fun e => { e with client := true }).emit (.eth none .dhcpDiscover)

/-- ETH_LINK_DOWN. -/
def linkFall (s : State) : State :=
  if !s.ethOn then s else (s.modEth fun e => { e with linkUp := false, linkChange := true }).logHub 0x0601 [0]

/-- ARP_REQUEST (R325). The reply bears the tag of the request (R323), as those to the next two do. -/
def arpAnswer (s : State) (sender target : Word) (tag : VlanTag) : State :=
  if s.ethOn && s.hub.eth.ipv4Valid && target == s.hub.eth.ipv4 then s.emit (.eth tag (.arpReply sender target)) else s

/-- NEIGHBOUR_SOLICITATION (R325). -/
def neighbourAnswer (s : State) (sender target : BitVec 128) (tag : VlanTag) : State :=
  if s.ethOn && (target == linkLocal || (s.hub.eth.ipv6Valid && target == s.hub.eth.ipv6)) then s.emit (.eth tag (.neighbourAdvert sender target)) else s

/-- ICMP_ECHO_REQUEST (R325): at most 1,000 replies a second in each family. -/
def echoAnswer (s : State) (v6 : Bool) (sender target : BitVec 128) (body : List Byte) (tag : VlanTag) : State :=
  if !s.ethOn then s
  else
    let now := s.hub.tick
    let s := if s.hub.eth.echoTick + 100000000 ≤ now then s.modEth fun e => { e with echo4 := 0, echo6 := 0, echoTick := now } else s
    let e := s.hub.eth
    if !e.owns target || Nat.ble 1000 (if v6 then e.echo6 else e.echo4) then ethDrop s
    else
      (s.modEth fun e => if v6 then { e with echo6 := e.echo6 + 1 } else { e with echo4 := e.echo4 + 1 }).emit (.eth tag (.echoReply v6 sender target body))

/-- The client asks for an address and waits for the server's DHCPACK. -/
def dhcpAsk (s : State) (a : Word) (tag : VlanTag) : State := (s.modEth fun e => { e with asked := some a }).emit (.eth tag (.dhcpRequest a))

/-- The client starts from the beginning, waiting for no answer. -/
def dhcpStart (s : State) (tag : VlanTag) : State := (s.modEth fun e => { e with asked := none }).emit (.eth tag .dhcpDiscover)

/-- DHCP_REPLY (R325, RFC 2131). An offer is asked for; the address that was asked for is granted or renewed, or refused, and the client starts again. Anything else is not for this client. -/
def dhcpTake (s : State) (d : DhcpReply) : State :=
  let e := s.hub.eth
  if !s.ethOn || !e.client then s
  else
    match d.kind with
    | .offer => if e.dhcp || e.asked.isSome then s else dhcpAsk s d.addr d.tag
    | .ack => if e.asked == some d.addr then setIpv4 (s.modEth fun e => { e with asked := none }) d.addr d.mask d.gateway true d.leaseSec else s
    | .nak => if e.asked.isSome then dhcpStart (if e.dhcp then dropIpv4 s else s) d.tag else s

/-- DHCP_RETRY (R325). -/
def dhcpAgain (s : State) : State :=
  if s.ethOn && s.hub.eth.client && !s.hub.eth.dhcp then dhcpStart s none else s

/-- DHCP_RENEW (R325). -/
def dhcpRenewal (s : State) : State :=
  if s.ethOn && s.hub.eth.client && s.hub.eth.dhcp then dhcpAsk s s.hub.eth.ipv4 none else s

/-- DHCP_LEASE_EXPIRY (R325). -/
def leaseEnds (s : State) : State :=
  if s.hub.clk.hubReady && s.hub.eth.client && s.hub.eth.dhcp then dropIpv4 s else s

/-! Flow control (R323, R326, R327). A pause is kept in quarters of a quantum of 512 bit times: a tick of FCLK takes 125 of them. -/

/-- PFC_FRAME. -/
def pfcTake (s : State) (enable : Byte) (quanta : List Nat) : State :=
  if !s.ethOn then s
  else
    let s := s.ethCount 0x50 1
    if !s.hub.eth.pfcEn then s
    else s.modEth fun e => { e with pause := (List.range 8).map fun i => if enable.getLsbD i then 4 * quanta.getD i 0 else e.pause.getD i 0 }

/-- PAUSE_FRAME: honoured when PFC is disabled. -/
def pauseTake (s : State) (quanta : BitVec 16) : State :=
  if !s.ethOn then s
  else
    let s := s.ethCount 0x50 1
    if s.hub.eth.pfcEn then s else s.modEth fun e => { e with pause := List.replicate 8 (4 * quanta.toNat) }

/-- The fill of the receive buffer in bytes asks for PFC, or ends it (R326). -/
def pfcJudge (s : State) (buffered : Nat) : State :=
  let e := s.hub.eth
  if e.pfcEn && !e.pfcSent && Nat.blt 1572864 buffered then (s.modEth fun e => { e with pfcSent := true }).emit (.eth none (.pfc true))
  else if e.pfcSent && Nat.blt buffered 1048576 then (s.modEth fun e => { e with pfcSent := false }).emit (.eth none (.pfc false))
  else s

/-- A packet marked CE is answered with a congestion notification, at most one per queue pair in 50 µs (R327). -/
def cnpAnswer (s : State) (q : Nat) (ce : Bool) : State :=
  let now := s.hub.tick
  let due := match (s.qp q).lastCnp with | some t => Nat.ble (t + 5000) now | none => true
  if ce && due then (((s.modQp q fun x => { x with lastCnp := some now }).ethCount 0x48 1).qpEnergy q 0 1).emitQp q .cnp else s

/-- A packet with a payload of some bytes comes on a connected queue pair: what is sent on it bears its tag (R323), its energy counts (R405), and its CE mark is answered (R327). -/
def qpHears (s : State) (q bytes : Nat) (ce : Bool) (tag : VlanTag) : State :=
  cnpAnswer ((s.modQp q fun x => { x with tag := tag }).qpEnergy q bytes 1) q ce

/-- CNP_RECEIVED (R327). -/
def cnpTake (s : State) (q : Nat) : State :=
  if !s.ethOn then s else if (s.qp q).state == .connected then (s.ethCount 0x4C 1).qpEnergy q 0 1 else ethDrop s

/-! Connections (R329, R332). -/

/-- Connections of mailbox 0. -/
def State.boxConns (s : State) (n : Nat) : Nat :=
  ((List.range 64).filter fun q => (s.qp q).kind == .mailbox n && ((s.qp q).state == .connected || (s.qp q).state == .connecting)).length

/-- The session named in a request is open and the request comes from its source. -/
def State.fromSession (s : State) (r : CmReq) : Bool :=
  match s.session r.session with
  | some x => x.src == r.source
  | none => false

/-- What a connection request is for, or the reason of its rejection (R328, R329). -/
def cmJudge (s : State) (r : CmReq) : QpKind ⊕ Nat :=
  let v := r.service.toNat
  let kind : QpKind ⊕ Nat :=
    if v = 0 then (if s.boxConns 0 < 8 then .inl (.mailbox 0) else .inr 28)
    else if 0x101 ≤ v ∧ v ≤ 0x13F then
      (if s.fromSession r && (s.mbx (v - 0x100)).session == r.session then .inl (.mailbox (v - 0x100)) else .inr 28)
    else if v = 0x200 then
      (if s.fromSession r && !((List.range 64).any fun q =>
          (s.qp q).kind == .event && (s.qp q).session == r.session && ((s.qp q).state == .connected || (s.qp q).state == .connecting)) then .inl .event
       else .inr 28)
    else if v = 0x300 then (if s.fromSession r then .inl .data else .inr 28)
    else .inr 28
  match kind with
  | .inr x => .inr x
  | .inl k => if r.mtu = 4096 then .inl k else .inr 26

/-- A connection request is rejected with a reason. -/
def cmTurnAway (s : State) (r : CmReq) (reason : Nat) : State :=
  let m := s.hub.eth.mark r.tag false
  s.emit (.eth m.tag (.cmRej m r.source reason))

/-- CM_REQ (R329): the lowest free queue pair is given, and its own starting PSN is a free value. -/
def cmRequest (s : State) (r : CmReq) : State :=
  if !s.ethOn then s
  else if !s.hub.eth.owns r.dstIp then ethDrop s
  else
    match cmJudge s r with
    | .inr reason => cmTurnAway s r reason
    | .inl kind =>
      match (List.range 64).find? fun q => (s.qp q).state == .free with
      | none => cmTurnAway s r 1
      | some q =>
        let d := s.draw
        (d.1.modQp q fun _ =>
          { Qp.reset with state := .connecting, kind := kind, session := if r.service = 0 then 0 else r.session, src := r.source, dst := r.dstIp,
                          epsn := r.psn, txPsn := d.2.setWidth 24, tag := r.tag }).emitQp q .rep

/-- CM_RTU (R329, R405): the energy counter of the queue pair is cleared, and events that wait are sent. -/
def cmReady (s : State) (q : Nat) : State :=
  if !s.ethOn || (s.qp q).state != .connecting then s
  else
    let s := (s.modQp q fun x => { x with state := .connected }).modPwr fun p => { p with qp := mapPut p.qp q 0 }
    if (s.qp q).kind == .event then pumpEvents s (s.qp q).session else s

/-- A queue pair is free again; a response to a request that came on it goes nowhere. -/
def freeQp (s : State) (q : Nat) : State := (s.loseAnswers q).modQp q fun _ => .reset

/-- CM_REJ. -/
def cmReject (s : State) (q : Nat) : State := if s.ethOn && (s.qp q).state == .connecting then freeQp s q else s

/-- CM_DREQ. -/
def cmDisconnect (s : State) (q : Nat) (tag : VlanTag) : State :=
  if !s.ethOn then s else if (s.qp q).state == .free then ethDrop s else freeQp ((s.modQp q fun x => { x with tag := tag }).emitQp q .drep) q

/-- CM_DREP and QP_FREE_TIMEOUT (R332). -/
def qpFreed (s : State) (q : Nat) : State := if (s.qp q).state == .error then freeQp s q else s

/-! Requests that arrive (R328, R330, R334 to R338). -/

/-- Where a PSN stands against the one expected. -/
inductive PsnPlace where
  | expected | ahead | duplicate
  deriving DecidableEq, Repr

/-- Compare PSNs in a window of half their range. -/
def psnPlace (expected psn : BitVec 24) : PsnPlace :=
  let d := (psn - expected).toNat
  if d = 0 then .expected else if d < 2 ^ 23 then .ahead else .duplicate

/-- Answer with an acknowledgement or a NAK; NAKs are counted (R338). -/
def sendAck (s : State) (q : Nat) (psn : BitVec 24) (syndrome : Byte) : State :=
  let s := if syndrome = 0 then s else s.ethCount 0x44 1
  (s.qpEnergy q 0 1).emitQp q (.ack psn syndrome (s.qp q).msn)

/-- A packet ahead of its turn: one NAK per gap (R338). -/
def psnGap (s : State) (q : Nat) : State :=
  if (s.qp q).nakSent then s else sendAck (s.modQp q fun x => { x with nakSent := true }) q (s.qp q).epsn 0x60

/-- A packet has been taken: the expected PSN moves on, and a whole message counts. -/
def psnTaken (s : State) (q n : Nat) (whole : Bool) : State :=
  s.modQp q fun x => { x with epsn := x.epsn + BitVec.ofNat 24 n, nakSent := false, msn := if whole then x.msn + 1 else x.msn }

/-- The local address ranges that a host may reach within one window: HBM, or a cell's scratchpad and frames (R333). The registers that R72 makes visible to the host through transfer windows lie in no window of R333; the host reads them with REG_READ (R355) alone (DEDUCED, log entry 72). -/
def hostRange (a n : Nat) : Bool :=
  match cellAddr a with
  | some (k, off) => localOk (isLead (cellNo k)) off n
  | none => isHbm a && (n == 0 || (isHbm (a + n - 1) && hbmRgn a == hbmRgn (a + n - 1)))

/-- A live window lets an access through (R334, R337, R426). -/
def windowLets (s : State) (session key : Word) (a n : Nat) (write : Bool) : Bool :=
  match s.hub.eth.windows.find? fun w => w.2.key == key with
  | some (_, w) =>
    w.session == session && (if write then w.wr else w.rd) && Nat.ble w.base a && Nat.ble (a + n) (w.base + w.len)
      && hostRange a n && !(s.rgn (addrRgn a)).scrubPending
  | none => false

/-- Bytes that the host writes (R217, R334): no tag of a cell changes, and HBM blocks take tag 0. -/
def hostStore (s : State) (a : Nat) (l : List Byte) : State :=
  match cellAddr a with
  | some (k, off) => s.modCell k fun c => ((pieces none false off l).map fun w => { w with last := false }).foldl Cell.loadPiece c
  | none => { s with hbm := (pieces none false a l).foldl (fun h w => h.write w.addr w.data (some 0) false) s.hbm }

/-- A request of an opcode that the module does not support (R328, R330). -/
def foreignOp (o : WriteOp) : Bool := match o with | .unsupported _ => true | _ => false

/-- The place of a packet in its message fits what has come before, and its length fits the message (R328). -/
def writeForm (x : Qp) (w : RdmaWrite) : Bool :=
  match w.op, x.write with
  | .only, none => w.data.length == w.len && Nat.ble w.len 4096
  | .first, none => w.data.length == 4096 && Nat.blt 4096 w.len
  | .middle, some c => w.data.length == 4096 && Nat.blt 4096 c.left
  | .last, some c => w.data.length == c.left && Nat.ble c.left 4096
  | _, _ => false

/-- RDMA_WRITE_PACKET. -/
def rdmaWrite (s : State) (w : RdmaWrite) : State :=
  let q := w.q.val
  let x := s.qp q
  if !s.ethOn then s
  else if x.state != .connected then ethDrop s
  else
    let s := pfcJudge (qpHears s q w.data.length w.ce w.tag) w.buffered
    if x.kind != .data || foreignOp w.op then sendAck s q w.psn 0x61
    else
      match psnPlace x.epsn w.psn with
      | .ahead => psnGap s q
      | .duplicate => sendAck s q (x.epsn - 1) 0
      | .expected =>
        if !writeForm x w then sendAck (s.modQp q fun y => { y with write := none }) q w.psn 0x61
        else
          let ctx : WriteCtx := match x.write with | some c => c | none => ⟨w.key, w.va.toNat, w.len⟩
          let span := if x.write.isNone then w.len else w.data.length
          if !windowLets s x.session ctx.key ctx.addr span true then sendAck (s.modQp q fun y => { y with write := none }) q w.psn 0x62
          else
            let s := hostStore s ctx.addr w.data
            let left := ctx.left - w.data.length
            let s := (psnTaken s q 1 (left == 0)).modQp q fun y => { y with write := if left = 0 then none else some ⟨ctx.key, ctx.addr + w.data.length, left⟩ }
            sendAck s q w.psn 0

/-- Bytes before the first poisoned block or slot of a range (R336). -/
def cleanLen (s : State) (a n : Nat) : Nat :=
  let bad := fun (b : Nat) =>
    match cellAddr a with
    | some (k, off) => let i := b - a / 64 + off / 64; Nat.blt i 512 && (s.cell k).isPoison i
    | none => s.hbm.isPoison b
  match (slotsOf a n).find? bad with
  | some b => 64 * b - a
  | none => n

/-- Bytes that the host reads. -/
def hostLoad (s : State) (a n : Nat) : List Byte :=
  match cellAddr a with
  | some (k, off) => memRead (s.cell k).mem off n
  | none => memRead s.hbm.mem a n

/-- Responses to a READ, packet by packet. -/
def sendReads (q : Nat) (psn : BitVec 24) (whole : Bool) (s : State) (l : List Byte) : State :=
  let ps := if l.isEmpty then (if whole then [[]] else []) else chunks 4096 l
  (ps.zip (List.range ps.length)).foldl (fun s p =>
    (s.qpEnergy q p.1.length 1).emitQp q (.readResp (psn + BitVec.ofNat 24 p.2) p.1 (whole && p.2 + 1 == ps.length))) s

/-- RDMA_READ_REQUEST. -/
def rdmaRead (s : State) (w : RdmaRead) : State :=
  let q := w.q.val
  let x := s.qp q
  if !s.ethOn then s
  else if x.state != .connected then ethDrop s
  else
    let s := qpHears s q 0 w.ce w.tag
    let a := w.va.toNat
    let n := max 1 (ceilDiv w.len 4096)
    if x.kind != .data || Nat.ble 16 w.outstanding then sendAck s q w.psn 0x61
    else
      let at_ := psnPlace x.epsn w.psn
      if at_ = .ahead then psnGap s q
      else if !windowLets s x.session w.key a w.len false then sendAck s q w.psn 0x62
      else
        let s := hostCheck s a w.len
        let ok := cleanLen s a w.len
        let s := if at_ = .expected then psnTaken s q n true else s
        let s := sendReads q w.psn (ok == w.len) s (hostLoad s a ok)
        if ok = w.len then s
        else sendAck (s.logHub 0x0605 (leBytes 8 (64 * ((a + ok) / 64)))) q (w.psn + BitVec.ofNat 24 (ceilDiv ok 4096)) 0x63

/-! The module as requester (R331). -/

/-- Send what is unacknowledged again. -/
def resendAll (s : State) (q : Nat) : State :=
  (s.qp q).unacked.foldl (fun s e => (s.qpEnergy q e.2.length 1).emitQp q (.send e.1 e.2)) s

/-- Sends up to a PSN are acknowledged; an event that was among them is delivered. -/
def ackedTo (s : State) (q : Nat) (psn : BitVec 24) : State :=
  let x := s.qp q
  let left := x.unacked.filter fun e => psnPlace psn e.1 == .ahead
  let s' := s.modQp q fun x => { x with unacked := left, retries := 0 }
  if x.kind == .event && Nat.blt left.length x.unacked.length then eventDelivered s' x.session else s'

/-- RDMA_ACK_RECEIVED: an acknowledgement, an RNR NAK (retried without end), a sequence NAK, or one that ends the connection. -/
def ackTake (s : State) (q : Nat) (psn : BitVec 24) (syndrome : Byte) (ce : Bool) (tag : VlanTag) : State :=
  if !s.ethOn then s
  else if (s.qp q).state != .connected then ethDrop s
  else
    let s := qpHears s q 0 ce tag
    let c := field syndrome.toNat 5 3
    if c = 0 then ackedTo s q psn
    else if c = 1 then resendAll (ackedTo s q (psn - 1)) q
    else if syndrome = 0x60 then resendAll (ackedTo s q (psn - 1)) q
    else qpError s q 3

/-- QP_RETRY_TIMEOUT: up to 7 retries. -/
def retryTimeout (s : State) (q : Nat) : State :=
  let x := s.qp q
  if x.state != .connected || x.unacked.isEmpty then s
  else if x.retries < 7 then resendAll (s.modQp q fun x => { x with retries := x.retries + 1 }) q
  else qpError s q 0

/-- ETH_DROPPED_PACKET (R338). -/
def dropTake (s : State) : State := if s.ethOn then ethDrop s else s

end Sys2Proof.Machine
end

