-- ==== Sys2Proof/Machine/EthCmds.lean ====
section
/-! DEFINITION. Meanings of events and packets of the Ethernet port (spec/14_ethernet_port.md R323 to R341). -/
namespace Sys2Proof.Machine

/-- ETH_LINK_UP (R323). Class 0x0601; the DHCP client starts at the first rise after reset. -/
def execEthLinkUp (s : State) : Res :=
  .next (linkRise s)

/-- ETH_LINK_DOWN (R341). Class 0x0601. -/
def execEthLinkDown (s : State) : Res :=
  .next (linkFall s)

/-- ARP_REQUEST (R325). Answered for the IPv4 address. -/
def execArpRequest (sender : Word) (target : Tagged Word) (s : State) : Res :=
  .next (arpAnswer s sender target.val target.tag)

/-- NEIGHBOUR_SOLICITATION (R325). Answered for the link-local and the global address. -/
def execNeighbourSolicitation (sender : BitVec 128) (target : Tagged (BitVec 128)) (s : State) : Res :=
  .next (neighbourAnswer s sender target.val target.tag)

/-- ROUTER_ADVERTISEMENT (R325). Ignored. -/
def execRouterAdvertisement (s : State) : Res :=
  .next s

/-- ICMP_ECHO_REQUEST (R325). Answered, up to 1,000 times a second in each family. -/
def execIcmpEchoRequest (v6 : Bool) (sender target : BitVec 128) (body : Tagged (List Byte)) (s : State) : Res :=
  .next (echoAnswer s v6 sender target body.val body.tag)

/-- DHCP_REPLY (R325). An offer is requested; an acknowledged lease is taken. -/
def execDhcpReply (d : DhcpReply) (s : State) : Res :=
  .next (dhcpTake s d)

/-- DHCP_RETRY (R325). DISCOVER again. -/
def execDhcpRetry (s : State) : Res :=
  .next (dhcpAgain s)

/-- DHCP_RENEW (R325). REQUEST again. -/
def execDhcpRenew (s : State) : Res :=
  .next (dhcpRenewal s)

/-- DHCP_LEASE_EXPIRY (R325). The address is removed. -/
def execDhcpLeaseExpiry (s : State) : Res :=
  .next (leaseEnds s)

/-- PFC_FRAME (R326). Counted and honoured while PFC is enabled. -/
def execPfcFrame (enable : Byte) (quanta : List Nat) (s : State) : Res :=
  .next (pfcTake s enable quanta)

/-- PAUSE_FRAME (R323). Counted, and honoured while PFC is disabled. -/
def execPauseFrame (quanta : BitVec 16) (s : State) : Res :=
  .next (pauseTake s quanta)

/-- CNP_RECEIVED (R327). Counted. -/
def execCnpReceived (q : Fin 64) (s : State) : Res :=
  .next (cnpTake s q.val)

/-- CM_REQ (R329). A queue pair is allocated and REP sent, or REJ. -/
def execCmReq (r : CmReq) (s : State) : Res :=
  .next (cmRequest s r)

/-- CM_RTU (R329). The queue pair is connected. -/
def execCmRtu (q : Fin 64) (s : State) : Res :=
  .next (cmReady s q.val)

/-- CM_REJ (R329). A queue pair being connected is free again. -/
def execCmRej (q : Fin 64) (s : State) : Res :=
  .next (cmReject s q.val)

/-- CM_DREQ (R329). The queue pair is free, and DREP sent. -/
def execCmDreq (q : Tagged (Fin 64)) (s : State) : Res :=
  .next (cmDisconnect s q.val.val q.tag)

/-- CM_DREP (R332). The queue pair in error is free. -/
def execCmDrep (q : Fin 64) (s : State) : Res :=
  .next (qpFreed s q.val)

/-- QP_FREE_TIMEOUT (R332). The queue pair in error is free. -/
def execQpFreeTimeout (q : Fin 64) (s : State) : Res :=
  .next (qpFreed s q.val)

/-- RDMA_WRITE_PACKET (R334). Checked, executed and acknowledged; a request of an opcode that is not supported is refused (R330). -/
def execRdmaWritePacket (w : RdmaWrite) (s : State) : Res :=
  .next (rdmaWrite s w)

/-- RDMA_READ_REQUEST (R334). Checked and answered. -/
def execRdmaReadRequest (w : RdmaRead) (s : State) : Res :=
  .next (rdmaRead s w)

/-- RDMA_ACK_RECEIVED (R331). Sends are acknowledged or sent again. -/
def execRdmaAckReceived (q : Fin 64) (psn : BitVec 24) (syndrome : Marked Byte) (s : State) : Res :=
  .next (ackTake s q.val psn syndrome.val syndrome.ce syndrome.tag)

/-- QP_RETRY_TIMEOUT (R331). Sends are repeated, up to 7 times. -/
def execQpRetryTimeout (q : Fin 64) (s : State) : Res :=
  .next (retryTimeout s q.val)

/-- ETH_DROPPED_PACKET (R338). Dropped without reply and counted, whatever the cause. -/
def execEthDroppedPacket (cause : EthDrop) (s : State) : Res :=
  let _ := cause
  .next (dropTake s)

end Sys2Proof.Machine
end

