-- ==== Sys2Proof/Machine/FabricCmds.lean ====
section
/-! DEFINITION. Meanings of the events of the Rinmen links (spec/12_rinmen_fabric.md). -/
namespace Sys2Proof.Machine

/-- FLIT_RECEIVE (R278). A flit is checked, its acknowledgement and credits used, its body accepted or answered with a nak. -/
def execFlitReceive (p : Fin 48) (symbols : Nat) (flit : List Byte) (s : State) : Res :=
  .next (receiveFlit s p.val symbols flit)

/-- ACK_TIMEOUT (R275). Flits wait without an acknowledgement: the port enters Retrain. -/
def execAckTimeout (p : Fin 48) (s : State) : Res :=
  .next (if (s.port p.val).up && !(s.port p.val).replay.isEmpty then enterRetrain s p.val 2 else s)

/-- TRAINING_ATTEMPT (R275). A Down port with signal starts training. -/
def execTrainingAttempt (p : Fin 48) (s : State) : Res :=
  .next (if s.portExists p.val && (s.port p.val).state == 1 then s.modPort p.val fun x => { x with state := 2 } else s)

/-- TRAINING_DONE (R274). Training or a retrain completes: credits are advertised and the port is Up. -/
def execTrainingDone (p : Fin 48) (t : TrainResult) (s : State) : Res :=
  .next (if (s.port p.val).state == 2 || (s.port p.val).state == 4 then trainDone s p.val t else s)

/-- TRAINING_TIMEOUT (R275). An attempt takes too long and fails. -/
def execTrainingTimeout (p : Fin 48) (cause : Byte) (s : State) : Res :=
  .next (if (s.port p.val).state == 2 || (s.port p.val).state == 4 then trainFailed s p.val cause else s)

/-- PARTNER_RETRAIN (R275). The partner starts a retrain: the port enters Retrain. -/
def execPartnerRetrain (p : Fin 48) (s : State) : Res :=
  .next (if (s.port p.val).up then enterRetrain s p.val 4 else s)

/-- PACKET_FORWARD (R287). A packet for another module is routed by the table of its port, or dropped. -/
def execPacketForward (p : Fin 48) (k : Packet) (s : State) : Res :=
  .next (forwardPacket s p.val k)

/-- WRITE_PACKET (R285). A WRITE arrives slot by slot as a PUT. -/
def execWritePacket (p : Fin 48) (k : Packet) (s : State) : Res :=
  .next (writePacket s p.val k 1)

/-- ACCW_PACKET (R285). An ACCW arrives slot by slot. -/
def execAccwPacket (p : Fin 48) (k : Packet) (s : State) : Res :=
  .next (writePacket s p.val k 2)

/-- CUE_PACKET (R159). A CUE packet counts on its cue, or is discarded with class 0x0420. -/
def execCuePacket (p : Fin 48) (k : Packet) (s : State) : Res :=
  .next (cuePacket s p.val k)

/-- REDUCE_PACKET (R314). A REDUCE reaches the home unit of its bucket. -/
def execReducePacket (p : Fin 48) (k : Packet) (s : State) : Res :=
  .next (bucketPacket s p.val k 4)

/-- BCAST_PACKET (R307). A BCAST reaches the home unit: it is written and forwarded to the children. -/
def execBcastPacket (p : Fin 48) (k : Packet) (s : State) : Res :=
  .next (bucketPacket s p.val k 5)

/-- HOLD_PACKET (R259). A HOLD moves the boundary, is late, carries a job fault, or belongs to a change hold. -/
def execHoldPacket (p : Fin 48) (k : Packet) (s : State) : Res :=
  .next (holdArrive s p.val k)

/-- TIME_ALIGN (R295). The counters of the job's regions take the root's time. -/
def execTimeAlign (p : Fin 48) (k : Packet) (s : State) : Res :=
  .next (timeAlign s p.val k)

/-- TIME_BEAT (R263). A beat ends the silence of its sender. -/
def execTimeBeat (p : Fin 48) (k : Packet) (s : State) : Res :=
  .next (timeBeat s p.val k)

/-- IDENT_PACKET (R292). The partner's IDENT is recorded, or blocks the port. -/
def execIdentPacket (p : Fin 48) (k : Packet) (s : State) : Res :=
  .next (identArrive s p.val k)

/-- MGMT_NAK (R286). A NAK is recorded. -/
def execMgmtNak (p : Fin 48) (k : Packet) (s : State) : Res :=
  .next (nakArrive s p.val k)

/-- MGMT_UNREACHABLE (R297). A lost job packet of this module faults its job. -/
def execMgmtUnreachable (p : Fin 48) (k : Packet) (s : State) : Res :=
  .next (unreachableArrive s p.val k)

/-- MGMT_FIRMWARE (R286). A FIRMWARE message reaches firmware. -/
def execMgmtFirmware (p : Fin 48) (k : Packet) (s : State) : Res :=
  .next (firmwareArrive s p.val k)

/-- ID_ASSIGN_MESSAGE (R291). An identifier assignment is taken, or relayed on the other ports. -/
def execIdAssignMessage (p : Fin 48) (a : AssignMsg) (s : State) : Res :=
  .next (assignArrive s p.val a)

/-- FCLK_HOLDOVER_ENTER (R294). FCLK enters holdover. -/
def execFclkHoldoverEnter (s : State) : Res :=
  .next (holdoverEnter s)

/-- FCLK_HOLDOVER_EXIT (R294). FCLK leaves holdover. -/
def execFclkHoldoverExit (s : State) : Res :=
  .next (holdoverExit s)

/-- FABRIC_SUMMARY_TIMER (R300). The error summaries of the ports are formed. -/
def execFabricSummaryTimer (s : State) : Res :=
  .next ((List.range 48).foldl portSummary s)

/-- MALFORMED_PACKET (R296). A malformed packet is dropped, recorded and answered with a NAK. -/
def execMalformedPacket (p : Fin 48) (k : Packet) (s : State) : Res :=
  .next (malformedArrive s p.val k)

end Sys2Proof.Machine
end

