-- ==== Sys2Proof/Machine/FaultCmds.lean ====
section
/-! DEFINITION. Meanings of the events of fault records and stores (spec/18_faults_fencing.md). -/
namespace Sys2Proof.Machine

/-- HUB_SRAM_SCRUB (R419). Hub SRAM is scrubbed. -/
def execHubSramScrub (corrected : Nat) (lost : List Nat) (s : State) : Res :=
  .next (if s.hub.clk.hubReady then sramScrub s corrected lost else s)

/-- HOST_REGION_TAKEOVER (R423). The host region takes over the stores of the module. -/
def execHostRegionTakeover (s : State) : Res :=
  .next (hostTakeover s)

/-- FAULT_RECORD_ARRIVAL (R413). A record takes its next hop. -/
def execFaultRecordArrival (st : FaultStage) (s : State) : Res :=
  .next (recordArrival s st)

/-- SUMMARY_TIMER (R414). Summaries of unassigned regions and of the hub are formed. -/
def execSummaryTimer (s : State) : Res :=
  .next (if s.hub.clk.hubReady then summaryTimer s else s)

/-- ONE_SECOND_SUMMARY (R338). Summaries of the last second are formed. -/
def execOneSecondSummary (s : State) : Res :=
  .next (if s.hub.clk.hubReady then secondSummary s else s)

end Sys2Proof.Machine
end

