-- ==== Sys2Proof/Machine/MailOps.lean ====
section
/-! DEFINITION. Requests: the checks that every command shares, and the staging of changes (spec/15_pyerly_mailboxes.md R343 to R351, R358). -/
namespace Sys2Proof.Machine

/-! The table of commands (R352). -/

/-- Mailboxes on which a command is allowed. -/
inductive Where where
  | any | zero | session
  deriving DecidableEq, Repr

/-- Privilege bits: J, M, T, D. -/
abbrev Priv := BitVec 4
/-- Privilege J. -/
def privJ : Priv := 1
/-- Privilege M. -/
def privM : Priv := 2
/-- Privilege T. -/
def privT : Priv := 4
/-- Privilege D. -/
def privD : Priv := 8

/-- The mailbox and the privilege that a command code needs; none for an unknown or reserved code. -/
def cmdNeeds (code : Nat) : Option (Where × Priv) :=
  if code = 0x0101 ∨ code = 0x0102 ∨ code = 0x0204 then some (.any, 0)
  else if code = 0x0201 ∨ code = 0x0202 then some (.zero, 0)
  else if code = 0x0205 then some (.session, privD)
  else if code = 0x0203 ∨ code = 0x0206 ∨ code = 0x0604 ∨ code = 0x0701 ∨ code = 0x0702 ∨ code = 0x0801 then some (.session, 0)
  else if (0x0301 ≤ code ∧ code ≤ 0x030B) ∨ (0x0401 ≤ code ∧ code ≤ 0x0403) ∨ code = 0x0602 ∨ code = 0x0703 then some (.session, privJ)
  else if (0x0501 ≤ code ∧ code ≤ 0x0508) ∨ code = 0x0601 ∨ code = 0x0603 ∨ code = 0x0802 ∨ code = 0x0803 ∨ (0x0A01 ≤ code ∧ code ≤ 0x0A04) then
    some (.session, privM)
  else if code = 0x0901 ∨ code = 0x0902 then some (.session, privT)
  else none

/-- Commands that accept apply (R358). -/
def stageable (code : Nat) : Bool := code == 0x0702 || code == 0x0601 || code == 0x030A || code == 0x0505 || code == 0x0602

/-- apply is set. -/
def applySet (m : Msg) : Bool := m.flags.getLsbD 2

/-- The header rules of R346. -/
def headerOk (m : Msg) : Bool :=
  m.magic == 0x4D42 && m.version == 1 && Nat.blt m.flags.toNat 8 && !m.flags.getLsbD 0 && !m.flags.getLsbD 1 && m.status == 0 && m.rsv0 == 0 && m.rsv1 == 0
    && m.length.toNat == m.payload.length

/-- Privileges of a session. -/
def State.privOf (s : State) (n : Word) : Priv := match s.session n with | some x => x.priv | none => 0

/-- The hub reaches the regions: one of regions 0 to 3 has not failed (R16, R423). -/
def State.hubReach (s : State) : Bool := (List.range 4).any fun r => !(s.rgn r).failed

/-- Commands that need a region (R423): books, starts, cues and palettes of a job, windows, ports and routes, pools and Ready regions, and accesses to registers of a region. -/
def needsRegion (code : Nat) (m : Msg) : Bool :=
  [0x0301, 0x0302, 0x0303, 0x0304, 0x0309, 0x030A, 0x0401, 0x0501, 0x0504, 0x0505, 0x0506, 0x0507, 0x0602, 0x0603].contains code
    || ((code == 0x0701 || code == 0x0702) && (List.range (leAt m.payload 0 2)).any fun i =>
          Nat.blt (leAt m.payload (if code = 0x0701 then 8 + 8 * i else 8 + 16 * i) 8) 0x400000000000)

/-- The status with which a request is turned away before its command is looked at (R346, R348, R352, R358), or for want of a region when the hub reaches none (R423). -/
def precheck (s : State) (n : Nat) (code : Nat) (m : Msg) : Option Nat :=
  if !headerOk m then some 0x0100
  else
    match cmdNeeds code with
    | none => some 0x0101
    | some (w, p) =>
      if (w == .zero && n != 0) || (w == .session && n == 0) then some 0x0105
      else if m.session ≠ (s.mbx n).session then some 0x0103
      else if s.privOf m.session &&& p ≠ p then some 0x0104
      else if applySet m && !stageable code then some 0x0301
      else if !s.hubReach && needsRegion code m then some 0x0201
      else none

/-! Small helpers of the commands. -/

/-- Refuse with a status. -/
abbrev deny (s : State) (n status : Nat) : State := respond s n status []
/-- Done, with a payload. -/
abbrev done (s : State) (n : Nat) (payload : List Byte) : State := respond s n 0 payload

/-- The request's payload has a length, and bytes of it from `a` to `b` are zero. -/
def zeroAt (m : Msg) (a b : Nat) : Bool := allZero ((m.payload.drop a).take (b - a))

/-- A field of the payload. -/
abbrev pAt (m : Msg) (o n : Nat) : Nat := leAt m.payload o n

/-- The job that a request names, as its session may act on it, or a status. -/
def ownJob (s : State) (m : Msg) : Job ⊕ Nat :=
  match s.job m.job with
  | none => .inr 0x0203
  | some j => if j.session = m.session then .inl j else .inr 0x0200

/-- A job is running: epoch 0 has begun and it has not faulted. -/
def Job.running (j : Job) : Bool := j.begun && !j.faulted

/-- Every region of the job is Assigned: its book is loaded. -/
def State.loaded (s : State) (j : Job) : Bool := j.rgns.all fun r => (s.rgn r).state == 5 || (s.rgn r).state == 7

/-- An epoch has begun, or is being entered under a change hold. -/
def Job.past (j : Job) (e : Nat) : Bool := Nat.ble e (j.epoch + b2n j.chg.isSome)

/-- Stage a change for the start of an epoch (R264, R265, R358): a change under a change hold goes from the root to every other module. -/
def stage (s : State) (n : Nat) (code : Nat) (m : Msg) : State :=
  match ownJob s m with
  | .inr st => deny s n st
  | .inl j =>
    let hold := underHold (BitVec.ofNat 16 code)
    if !j.running then deny s n 0x0201
    else if j.past m.applyAt.toNat then deny s n 0x0300
    else if hold && !j.root then deny s n 0x0302
    else if 64 ≤ j.staged.length then deny s n 0x0202
    else
      let s := s.modJob j.id fun j => { j with staged := j.staged ++ [⟨m.applyAt.toNat, BitVec.ofNat 16 code, m⟩] }
      let s := if hold then j.others.foldl (fun s p => s.emit (.change (bookIdent j.img p) j.id m.applyAt.toNat (BitVec.ofNat 16 code) m)) s else s
      respond s n 1 []

/-! Conflicts (R343). -/

/-- Regions that a request acts on. -/
def reqRegions (r : Req) : Nat :=
  let c := r.code.toNat
  if c = 0x0303 ∨ c = 0x0603 then leAt r.m.payload 0 2 else if c = 0x0803 ∧ leAt r.m.payload 0 1 = 1 then leAt r.m.payload 2 2 else 0

/-- Commands on a session's book staging. -/
def onStaging (c : Nat) : Bool := c == 0x0301 || c == 0x0302 || c == 0x0303

/-- Two requests act on the same object: a job, a region, a session's staging, the identifiers. A JOB_KILL does not wait for the command that it ends (R240, R354). -/
def conflict (old new : Req) : Bool :=
  let a := old.code.toNat
  let b := new.code.toNat
  !(b == 0x0307 && (a == 0x0303 || a == 0x0304)) &&
    ((old.m.job != 0 && old.m.job == new.m.job) || (reqRegions old &&& reqRegions new) != 0
      || (onStaging a && onStaging b && old.m.session == new.m.session)
      || (a == 0x0507 && (b == 0x0507 || b == 0x0503)))

/-- The request of a mailbox. -/
def State.reqOf (s : State) (n : Nat) : Option Req := (s.mbx n).req

/-- Firmware may start the request of a mailbox: fewer than four execute, and none that conflicts executes or waits ahead of it (R343). -/
def canStart (s : State) (n : Nat) (r : Req) : Bool :=
  let ahead := s.hub.mail.waiting.takeWhile (· != n)
  Nat.blt s.executing.length 4 && (s.executing ++ ahead).all fun k => match s.reqOf k with | some o => !conflict o r | none => true

end Sys2Proof.Machine
end

