-- ==== Sys2Proof/Machine/MailHost.lean ====
section
/-! DEFINITION. Commands of identity, sessions and security (spec/15_pyerly_mailboxes.md R349 to R352; spec/19_measured_boot_attestation.md R440 to R446). -/
namespace Sys2Proof.Machine

/-- HUB_IDENT (R360). -/
def hubIdent : List Byte := leBytes 4 0x03074C4D ++ leBytes 4 0xA1

/-- IDENT_GET (R352). -/
def identGet (s : State) (n : Nat) (m : Msg) : State :=
  if m.payload.length ≠ 0 then deny s n 0x0102
  else
    done s n (hubIdent ++ leBytes 8 Config.fuseSerial.toNat ++ leBytes 2 s.hub.fab.moduleId.toNat ++ [BitVec.ofNat 8 (b2n s.hub.sec.bootedB), 0]
      ++ leBytes 4 s.hub.sec.version.toNat ++ leBytes 6 Config.fuseMac.toNat)

/-- Eight bits as a byte, low first. -/
def byteOf (f : Nat → Bool) : Byte := BitVec.ofNat 8 ((List.range 8).map fun i => 2 ^ i * b2n (f i)).sum

/-- UNITS_GET (R352). -/
def unitsGet (s : State) (n : Nat) (m : Msg) : State :=
  if m.payload.length ≠ 0 then deny s n 0x0102
  else
    done s n ((List.range 16).map (fun r => (s.rgn r).state.setWidth 8) ++ [byteOf fun i => (s.rgn i).failed, byteOf fun i => (s.rgn (8 + i)).failed, 0, 0]
      ++ (List.range 300).map fun k => byteOf fun i => (s.blk (8 * k + i)).isFenced (8 * k + i))

/-- The operator key of a slot. -/
def State.key (s : State) (slot : Nat) : Option OpKey := if slot < 8 then s.hub.sec.keys.getD slot none else none

/-- Authentication failed (R349, R362): class 0x0611 with the key slot and the requester's GID. -/
def authFail (s : State) (n slot : Nat) (m : Msg) : State :=
  deny (s.logHub 0x0611 (leBytes 1 slot ++ beBytes 16 (s.qp m.q.val).src.gid.toNat)) n 0x0400

/-- CHALLENGE (R349): a fresh nonce replaces the slot's. -/
def challenge (s : State) (n : Nat) (m : Msg) : State :=
  let slot := pAt m 0 1
  if m.payload.length ≠ 1 then deny s n 0x0102
  else if (s.key slot).isNone then authFail s n slot m
  else
    let v := Config.nonce s.hub.mail.draws
    done (s.modMail fun x => { x with draws := x.draws + 1, nonces := (x.nonces.filter fun o => o.slot != slot) ++ [⟨slot, v, s.hub.tick⟩] }) n (digestBytes v)

/-- The slot's nonce is current (R349): that value, drawn within 10 s. -/
def State.nonceOk (s : State) (slot : Nat) (v : List Byte) : Bool :=
  s.hub.mail.nonces.any fun o => o.slot == slot && digestBytes o.value == v && Nat.blt s.hub.tick (o.tick + 1000000000)

/-- Mailboxes that are free, lowest first. -/
def State.freeBoxes (s : State) : List Nat := (List.range 64).filter fun n => n != 0 && (s.mbx n).session == 0 && (s.mbx n).req.isNone

/-- Bind mailboxes to a session. -/
def bindBoxes (s : State) (num : Word) (l : List Nat) : State := l.foldl (fun s k => s.modMbx k fun _ => { Mbx.reset with session := num }) s

/-- A set of mailboxes as a 64-bit mask. -/
def boxMask (l : List Nat) : Nat := (l.map fun k => 2 ^ k).sum

/-- The number of the next session (R350): non-zero, and no earlier one since power-on. -/
def nextSession (opened : Nat) : Word := BitVec.ofNat 32 (1 + (opened + Config.sessionBase) % (2 ^ 32 - 1))

/-- SESSION_OPEN (R349, R350, R440, R441). -/
def sessionOpen (s : State) (n : Nat) (m : Msg) : State :=
  let slot := pAt m 0 1
  let kind := pAt m 1 1
  let nonce := (m.payload.drop 4).take 32
  let src := (s.qp m.q.val).src
  if m.payload.length ≠ 420 ∨ 1 < kind ∨ zeroAt m 2 4 = false then deny s n 0x0102
  else
    match s.key slot with
    | none => authFail s n slot m
    | some k =>
      let msg := nonce ++ leBytes 8 Config.fuseSerial.toNat ++ beBytes 16 src.gid.toNat
      if !s.nonceOk slot nonce || !pssVerify k.modulus.toNat msg (m.payload.drop 36) || (kind == 1 && !k.priv.getLsbD 2) then authFail s n slot m
      else
        let boxes := s.freeBoxes.take 2
        if 16 ≤ s.hub.mail.sessions.length ∨ boxes = [] then deny s n 0x0202
        else
          let num := nextSession s.hub.mail.opened
          let x : Session := { num := num, slot := slot, test := kind == 1, priv := k.priv, src := src, staging := none, events := [], count := 0, dropped := 0, burst := false }
          let s := bindBoxes (s.modMail fun l => { l with sessions := l.sessions ++ [x], opened := l.opened + 1 }) num boxes
          let s := if kind = 1 then s.modSec fun x => x.extend 6 (leBytes 4 num.toNat ++ leBytes 1 slot) else s
          done s n (leBytes 4 num.toNat ++ leBytes 4 k.priv.toNat ++ leBytes 8 (boxMask boxes))

/-- A session closes (R351, R446, R449): what belongs to it goes, its jobs and their events wait for a JOB_CLAIM. -/
def closeSession (s : State) (num : Word) : State :=
  match s.session num with
  | none => s
  | some x =>
    let s := match s.hub.sec.dbg with | some d => if d.session = num then closeDebug s 1 else s | none => s
    let s := s.modSec fun y => { y with fw := match y.fw with | some f => if f.session = num then none else some f | none => none }
    let s := if x.test then testClear s else s
    let s := (List.range 64).foldl (fun s q => if (s.qp q).session = num ∧ (s.qp q).kind ≠ .mailbox 0 then qpError s q 2 else s) s
    let s := dropWindows s fun w => w.session != num
    let boxes := (List.range 64).filter fun k => (s.mbx k).session == num
    let s := boxes.foldl (fun s k => s.modMbx k fun b =>
      { session := 0, kept := none, req := match b.req with | some r => if r.executing then some r else none | none => none }) s
    let s := s.modMail fun l => { l with sessions := l.sessions.filter fun y => y.num != num, waiting := l.waiting.filter fun k => !boxes.contains k }
    x.events.foldl (fun s e => s.modJob e.job fun j => { j with events := j.events ++ [e] }) s

/-- SESSION_CLOSE (R351): the response leaves first. -/
def sessionClose (s : State) (n : Nat) (m : Msg) : State :=
  if m.payload.length ≠ 0 then deny s n 0x0102 else closeSession (done s n []) m.session

/-- SESSION_IDLE_CLOSE (R351, R362): neither a connected queue pair nor a request, class 0x0612. -/
def idleClose (s : State) (num : Word) : State :=
  let busy := (List.range 64).any fun k => (s.mbx k).session == num && (s.mbx k).req.isSome
  let connected := (List.range 64).any fun q => (s.qp q).state == .connected && (s.qp q).session == num && (s.qp q).kind != .mailbox 0
  if (s.session num).isNone || busy || connected then s else closeSession (s.logHub 0x0612 (leBytes 4 num.toNat)) num

/-- The quote without its signature (R443). -/
def quoteBody (s : State) (nonce : List Byte) : List Byte :=
  let x := s.hub.sec
  leBytes 4 0x31455451 ++ leBytes 4 1 ++ hubIdent ++ leBytes 8 Config.fuseSerial.toNat ++ nonce
    ++ [BitVec.ofNat 8 (b2n x.bootedB), BitVec.ofNat 8 x.svn, BitVec.ofNat 8 x.counter, (match x.dbg with | some d => d.scope.setWidth 8 | none => 0)]
    ++ leBytes 4 0 ++ leBytes 8 s.hub.tick ++ leBytes 0x38 0 ++ x.m.flatMap digestBytes

/-- QUOTE (R442, R443). -/
def quote (s : State) (n : Nat) (m : Msg) : State :=
  if m.payload.length ≠ 32 then deny s n 0x0102
  else
    let b := quoteBody s m.payload
    let chain := Config.certChain.take 3276
    done s n (b ++ beBytes 384 (Config.attestSign (digestWord b)).toNat ++ leBytes 4 chain.length ++ chain)

/-- DEBUG_UNLOCK (R441, R445, R446): the token consumes the nonce. -/
def debugUnlock (s : State) (n : Nat) (m : Msg) : State :=
  let t := m.payload
  let slot := pAt m 4 1
  let scope := pAt m 5 1
  let secs := pAt m 12 4
  let nonce := (t.drop 24).take 32
  if t.length ≠ 512 then deny s n 0x0102
  else
    let form := pAt m 0 4 == 0x31474244 && zeroAt m 6 8 && zeroAt m 56 128 && Nat.blt scope 16 && Nat.ble 1 secs && Nat.ble secs 86400
    let own := pAt m 8 4 == m.session.toNat && pAt m 16 8 == Config.fuseSerial.toNat
    let signed := match s.key slot with | some k => k.priv.getLsbD 3 && pssVerify k.modulus.toNat (t.take 128) (t.drop 128) | none => false
    if !(form && own && s.nonceOk slot nonce && signed) then deny (s.logHub 0x0905 (leBytes 1 slot)) n 0x0400
    else
      let s := s.modMail fun x => { x with nonces := x.nonces.filter fun o => o.slot != slot }
      let s := s.modSec fun x => { x.extend 5 t with dbg := some ⟨m.session, BitVec.ofNat 4 scope, s.hub.tick + secs * 100000000⟩ }
      done (s.logHub 0x0906 (leBytes 4 m.session.toNat ++ leBytes 1 scope)) n []

/-- DEBUG_EXPIRY (R446). -/
def debugEnds (s : State) : State := closeDebug s 0

/-- MAILBOX_BIND (R350): the answer is the mask of all mailboxes of the session. -/
def mailboxBind (s : State) (n : Nat) (m : Msg) : State :=
  let k := pAt m 0 1
  let mine := (List.range 64).filter fun i => i != 0 && (s.mbx i).session == m.session
  if m.payload.length ≠ 1 ∨ k < 1 ∨ 6 < k then deny s n 0x0102
  else if 8 < mine.length + k ∨ s.freeBoxes.length < k then deny s n 0x0202
  else
    let new := s.freeBoxes.take k
    done (bindBoxes s m.session new) n (leBytes 8 (boxMask (mine ++ new)))

end Sys2Proof.Machine
end

