-- ==== Sys2Proof/Machine/MailJob.lean ====
section
/-! DEFINITION. Commands of books, jobs, cues and staged changes (spec/15_pyerly_mailboxes.md R352 to R355, R358). -/
namespace Sys2Proof.Machine

/-! Books (R353). -/

/-- Whole MiB of a length. -/
def mib (n : Nat) : Nat := ceilDiv n (2 ^ 20)

/-- MiB of the staging pool in use. -/
def State.stagedMib (s : State) : Nat := (s.hub.mail.sessions.map fun x => match x.staging with | some g => mib g.len | none => 0).sum

/-- The staging of a session. -/
def State.stagingOf (s : State) (num : Word) : Option Staging := match s.session num with | some x => x.staging | none => none

/-- BOOK_BEGIN (R353, R423). -/
def bookBegin (s : State) (n : Nat) (m : Msg) : State :=
  let len := pAt m 0 8
  if s.hub.takeover then deny s n 0x0201
  else if m.payload.length ≠ 8 ∨ len = 0 ∨ 512 * 2 ^ 20 < len then deny s n 0x0102
  else if (s.stagingOf m.session).isSome then deny s n 0x0201
  else if 768 < s.stagedMib + mib len then deny s n 0x0202
  else done (s.modSession m.session fun x => { x with staging := some ⟨len, []⟩ }) n []

/-- BOOK_WRITE (R352, R353). -/
def bookWrite (s : State) (n : Nat) (m : Msg) : State :=
  let off := pAt m 0 8
  let data := m.payload.drop 8
  match s.stagingOf m.session with
  | none => deny s n 0x0201
  | some g =>
    let len := data.length
    if m.payload.length < 8 ∨ off % 64 ≠ 0 ∨ len = 0 ∨ 4032 < len ∨ g.len < off + len ∨ (len % 64 ≠ 0 ∧ off + len ≠ g.len) then deny s n 0x0102
    else done (s.modSession m.session fun x => { x with staging := some { g with data := memWrite g.data off data } }) n []

/-! Jobs (R353, R354). -/

/-- A job that is being assigned. -/
def newJob (s : State) (m : Msg) (img : List Byte) : Job :=
  let root := BitVec.ofNat 12 (pAt m 2 2)
  { id := m.job, session := m.session, keySlot := s.slotOfSession m.session, img := img, pos := 0, regions := BitVec.ofNat 16 (pAt m 0 2),
    rootIdent := root, root := root == s.hub.fab.moduleId, t0 := none, begun := false, epoch := 0, sTick := 0, kSteps := 0, kSrc := 0, checks := 0,
    selfSteps := 0, faulted := false, cause := none, faultDue := none, fired := [], staged := [], applied := [], chg := none, nextInst := [], homePorts := [],
    beats := [], events := [], lostEvents := 0, kOf := [], doneAt := [], slack := none, ran := 0, ended := 0, pool := none, allocs := [], reports := [], allocDue := [] }

/-- JOB_ASSIGN (R240, R353, R423): the regions are taken, and the command goes on until they are Assigned or the book is rejected. -/
def jobAssign (s : State) (n : Nat) (m : Msg) : State :=
  let mask : BitVec 16 := BitVec.ofNat 16 (pAt m 0 2)
  let rs := (List.range 16).filter fun r => mask.getLsbD r
  let refuse := fun (st : Nat) => deny (dropStaging s m.session) n st
  if s.hub.takeover then deny s n 0x0201
  else if m.payload.length ≠ 8 ∨ m.job = 0 ∨ mask = 0 ∨ 0xFFF ≤ pAt m 2 2 ∨ 2 ≤ pAt m 4 4 then deny s n 0x0102
  else
    match s.stagingOf m.session with
    | none => deny s n 0x0201
    | some g =>
      if (s.job m.job).isSome || rs.any (fun r => (s.rgn r).owner.isSome) then refuse 0x0200
      else if rs.any fun r => (s.rgn r).failed then refuse 0x0201
      else
        let s := { s with jobs := s.jobs ++ [newJob s m (memRead g.data 0 g.len)] }
        tryLoad (rs.foldl (wantRegion m.job) s) m.job

/-- JOB_START (R252, R295, R354): the root sets T0, aligns and announces; another module waits until it holds T0. -/
def jobStart (s : State) (n : Nat) (m : Msg) : State :=
  match ownJob s m with
  | .inr st => deny s n st
  | .inl j =>
    if m.payload.length ≠ 0 then deny s n 0x0102
    else if !s.loaded j || j.begun || j.faulted || (j.root && j.t0.isSome) then deny s n 0x0201
    else if j.root then
      let own := s.hub.fab.moduleId.toNat
      let now := s.jobTick j
      let t0 := now + bookStartLead j.img
      let s := s.modJob j.id fun j => { j with t0 := some t0 }
      let s := j.rgns.foldl (fun s r => s.modRgn r fun g => { g with tick := now }) s
      let s := sendEach s j j.others fun d => timePacket own d 0 j.id (64 * now)
      let s := sendEach s j j.others fun d => timePacket own d 1 j.id t0
      done s n (leBytes 8 t0)
    else
      match j.t0 with
      | some t => done s n (leBytes 8 t)
      | none => s

/-- JOB_STATUS (R352). -/
def jobStatusGet (s : State) (n : Nat) (m : Msg) : State :=
  match ownJob s m with
  | .inr st => deny s n st
  | .inl j =>
    if m.payload.length ≠ 0 then deny s n 0x0102
    else
      done s n (leBytes 8 j.epoch ++ leBytes 4 (jobStatus j) ++ (List.range 16).map (fun r => (s.rgn r).state.setWidth 8)
        ++ leBytes 4 0 ++ (match j.cause with | some c => faultBytes (c.parts.headD c) | none => leBytes 32 0))

/-- Every cell of the job has halted or stopped. -/
def State.atRest (s : State) (j : Job) : Bool := (s.cellsOf j).all fun k => !(s.cell k).seq.running

/-- JOB_END (R354): the response leaves before the events of the release. -/
def jobEnd (s : State) (n : Nat) (m : Msg) : State :=
  match ownJob s m with
  | .inr st => deny s n st
  | .inl j =>
    if m.payload.length ≠ 0 then deny s n 0x0102
    else if !s.loaded j || !(s.atRest j || j.faulted) then deny s n 0x0201
    else releaseJob (done s n []) j.id

/-- JOB_KILL (R240, R354): a load is abandoned, a start that waits answers 0x0502. -/
def jobKill (s : State) (n : Nat) (m : Msg) : State :=
  match ownJob s m with
  | .inr st => deny s n st
  | .inl j =>
    if m.payload.length ≠ 0 then deny s n 0x0102
    else
      let s := done s n []
      let s := match s.executingFor 0x0304 j.id with | some k => respond s k 0x0502 [] | none => s
      if s.loading.contains j.id then abandonLoad s j.id else releaseJob s j.id

/-- JOB_CLAIM (R351, R359): a later session of the same key slot takes over the job and its events. -/
def jobClaim (s : State) (n : Nat) (m : Msg) : State :=
  match s.job m.job with
  | none => deny s n 0x0203
  | some j =>
    if m.payload.length ≠ 0 then deny s n 0x0102
    else if (s.session j.session).isSome ∨ j.keySlot ≠ s.slotOfSession m.session then deny s n 0x0200
    else
      let s := done (s.modJob j.id fun x => { x with session := m.session, events := [], lostEvents := 0 }) n []
      let s := s.modSession m.session fun x => { x with dropped := x.dropped + j.lostEvents }
      j.events.foldl (fun s e => queueEvent s m.session e) s

/-- CUE_ADD (R355): what the firing causes follows the response. -/
def cueAddCmd (s : State) (n : Nat) (m : Msg) : State :=
  match ownJob s m with
  | .inr st => deny s n st
  | .inl j =>
    let cue := pAt m 0 2
    if m.payload.length ≠ 8 ∨ 8192 ≤ cue ∨ zeroAt m 2 4 = false then deny s n 0x0102
    else if !jobCue j cue then deny s n 0x0200
    else if !s.loaded j then deny s n 0x0201
    else addCue (done s n []) cue (BitVec.ofNat 32 (pAt m 4 4))

/-! Changes (R358). -/

/-- The form of a PALETTE_WRITE (R105, R106, R352). -/
def paletteForm (j : Job) (m : Msg) : Bool :=
  let k := pAt m 22 1
  Nat.ble 1 k && Nat.ble k 20 && m.payload.length == 24 + 192 * k && pAt m 23 1 == 0 && Nat.blt (pAt m 0 2) (bookModules j.img)
    && Nat.blt (pAt m 2 1) 16 && bitAt (bookMask j.img (pAt m 0 2)) (pAt m 2 1) && bitAt (bookBlocks j.img (pAt m 0 2) (pAt m 2 1)) (pAt m 3 1)
    && pAt m 20 2 % 64 == 0 && Nat.ble (pAt m 20 2 + 192 * k) 0x8000 && (List.range k).all fun i => palOk (palOf ((m.payload.drop (24 + 192 * i)).take 192))

/-- PALETTE_WRITE (R358): staged while the job runs; before it runs it takes effect at once on this module. -/
def paletteWrite (s : State) (n : Nat) (m : Msg) : State :=
  match ownJob s m with
  | .inr st => deny s n st
  | .inl j =>
    if !s.loaded j then deny s n 0x0201
    else if !paletteForm j m then deny s n 0x0102
    else if applySet m then stage s n 0x030A m
    else if j.running then deny s n 0x0301
    else if pAt m 0 2 ≠ j.pos then deny s n 0x0102
    else done (paletteApply s m) n []

/-- STAGE_CANCEL (R358). -/
def stageCancel (s : State) (n : Nat) (m : Msg) : State :=
  match ownJob s m with
  | .inr st => deny s n st
  | .inl j =>
    let seq := BitVec.ofNat 32 (pAt m 0 4)
    if m.payload.length ≠ 4 then deny s n 0x0102
    else
      match j.staged.find? fun c => c.m.seq == seq with
      | none => deny s n (if j.applied.contains seq then 0x0300 else 0x0203)
      | some c =>
        if j.past c.epoch then deny s n 0x0300
        else
          let s := s.modJob j.id fun j => { j with staged := j.staged.filter fun x => !(x == c) }
          let s := if underHold c.code then j.others.foldl (fun s p => s.emit (.changeCancel (bookIdent j.img p) j.id seq)) s else s
          done s n []

end Sys2Proof.Machine
end

