-- ==== Sys2Proof/Machine/MailFab.lean ====
section
/-! DEFINITION. Commands of transfer windows, ports, routing, identifiers, power and regions (spec/15_pyerly_mailboxes.md R352, R356; spec/14_ethernet_port.md R333, R337; spec/12_rinmen_fabric.md R287 to R294; spec/17_power_thermal.md R391, R392, R406). -/
namespace Sys2Proof.Machine

/-! Windows (R333, R337). -/

/-- A range that a window may span: one extent of the job's HBM layout, or the scratchpad and frames of one cell of the job. -/
def windowSpan (s : State) (j : Job) (a n : Nat) : Bool :=
  Nat.ble 1 n && match cellAddr a with
    | some (k, off) => j.regions.getLsbD (cellRgn k) && localOk (isLead (cellNo k)) off n
    | none => hbmSpan s j.regions a n && inExtent j.img a n

/-- The key of a registration: its index, and a generation that changes with every registration (R333). -/
def windowKey (index regs : Nat) : Word := BitVec.ofNat 32 (index + 2 ^ 8 * ((regs + Config.windowBase) % 2 ^ 24))

/-- WINDOW_REGISTER (R333). -/
def windowRegister (s : State) (n : Nat) (m : Msg) : State :=
  match ownJob s m with
  | .inr st => deny s n st
  | .inl j =>
    let perm := pAt m 0 1
    if m.payload.length ≠ 24 ∨ zeroAt m 1 8 = false ∨ perm = 0 ∨ 4 ≤ perm then deny s n 0x0102
    else if !s.loaded j then deny s n 0x0201
    else if !windowSpan s j (pAt m 8 8) (pAt m 16 8) then deny s n 0x0102
    else
      match (List.range 256).find? fun i => !(s.hub.eth.windows.any fun w => w.1 == i) with
      | none => deny s n 0x0202
      | some i =>
        let key := windowKey i s.hub.eth.regs
        let w : Window := { key := key, session := m.session, job := j.id, rd := bitAt perm 0, wr := bitAt perm 1, base := pAt m 8 8, len := pAt m 16 8 }
        done (s.modEth fun e => { e with windows := mapPut e.windows i w, regs := e.regs + 1 }) n (leBytes 4 key.toNat)

/-- WINDOW_DEREGISTER (R337). -/
def windowDeregister (s : State) (n : Nat) (m : Msg) : State :=
  let key := BitVec.ofNat 32 (pAt m 0 4)
  if m.payload.length ≠ 4 then deny s n 0x0102
  else
    match s.hub.eth.windows.find? fun w => w.2.key == key with
    | none => deny s n 0x0203
    | some (_, w) => if w.session ≠ m.session then deny s n 0x0200 else done (dropWindows s fun w => w.key != key) n []

/-- WINDOW_LIST (R352): the session's windows from an index on; the count is of the entries that follow. -/
def windowList (s : State) (n : Nat) (m : Msg) : State :=
  if m.payload.length ≠ 2 then deny s n 0x0102
  else
    let ws := ((s.hub.eth.windows.filter fun w => Nat.ble (pAt m 0 2) w.1 && w.2.session == m.session).map (·.2)).take 125
    done s n (leBytes 4 ws.length ++ ws.flatMap fun w =>
      leBytes 4 w.key.toNat ++ leBytes 4 (b2n w.rd + 2 * b2n w.wr) ++ leBytes 8 w.base ++ leBytes 8 w.len ++ leBytes 4 w.job.toNat ++ leBytes 4 0)

/-! Ports and routing (R272, R274, R287, R356). -/

/-- PORT_SET: 0 disable, 1 enable, 2 retrain, 3 split, 4 join. What a disabled port held is lost as with a fence. -/
def portSet (s : State) (n : Nat) (m : Msg) : State :=
  let p := pAt m 0 1
  let act := pAt m 1 1
  let x := s.port p
  if m.payload.length ≠ 2 ∨ 48 ≤ p ∨ 4 < act ∨ (3 ≤ act ∧ 24 ≤ p) then deny s n 0x0102
  else if (s.rgn (portRegion p)).failed then deny s n 0x0201
  else if !s.portExists p then deny s n 0x0203
  else if act = 0 then
    if x.state = 0 then done s n []
    else
      let s := s.modPort p fun x => { x with state := 0, fails := 0, before := none }
      done (reroute (losePackets (if x.up then sourceLost s p else s) p) p) n []
  else if act = 1 then
    done (if x.state = 0 ∨ x.state = 5 ∨ x.state = 6 then s.modPort p fun x => { x with state := 1, fails := 0, retrains := [], peerValid := false, before := none } else s) n []
  else if act = 2 then (if x.state = 3 then done (enterRetrain s p 5) n [] else deny s n 0x0201)
  else if x.state ≠ 0 ∨ x.split = decide (act = 3) ∨ (act = 4 ∧ (s.port (p + 24)).state ≠ 0) then deny s n 0x0201
  else done (s.modPort p fun x => { x with split := decide (act = 3) }) n []

/-- NEIGHBOURS_GET: status, partner identity and partner serial of every logical port. -/
def neighboursGet (s : State) (n : Nat) (m : Msg) : State :=
  if m.payload.length ≠ 0 then deny s n 0x0102
  else
    done s n ((List.range 48).flatMap fun p =>
      leBytes 4 ((portReg s p 0).getD 0) ++ leBytes 4 ((portReg s p 0x10).getD 0) ++ leBytes 8 (s.port p).peerSerial.toNat)

/-- MODULE_ID_SET (R290, R356). -/
def moduleIdSet (s : State) (n : Nat) (m : Msg) : State :=
  if m.payload.length ≠ 2 ∨ 0xFFF ≤ pAt m 0 2 then deny s n 0x0102
  else if !s.noJobs then deny s n 0x0201
  else done (setModuleId s (BitVec.ofNat 12 (pAt m 0 2))) n []

/-- An entry of a routing table holds no reserved bit or port (R287). -/
def routeEntryOk (e : Nat) : Bool :=
  let port := fun (o v : Nat) => !bitAt e v || Nat.blt (field e o 6) 48 || field e o 6 == 63
  !bitAt e 7 && field e 15 17 == 0 && port 0 6 && port 8 14

/-- Entries written to a table's shadow. -/
def shadowPut (t : SMap Word) (first : Nat) (l : List Nat) : SMap Word :=
  (l.zip (List.range l.length)).foldl (fun t e => mapSet 0 t (first + e.2) (BitVec.ofNat 32 e.1)) t

/-- ROUTE_WRITE (R356). -/
def routeWrite (s : State) (n : Nat) (m : Msg) : State :=
  let t := pAt m 0 1
  let first := pAt m 2 2
  let k := pAt m 4 2
  let es := (List.range k).map fun i => pAt m (8 + 4 * i) 4
  if (48 ≤ t ∧ t ≠ 63) ∨ k < 1 ∨ 1000 < k ∨ m.payload.length ≠ 8 + 4 * k ∨ 4096 < first + k ∨ zeroAt m 1 2 = false ∨ zeroAt m 6 8 = false ∨ es.all routeEntryOk = false then
    deny s n 0x0102
  else if t = 63 then done (s.modFab fun f => { f with shadow := shadowPut f.shadow first es }) n []
  else if !s.portExists t then deny s n 0x0203
  else done (s.modPort t fun x => { x with shadow := shadowPut x.shadow first es }) n []

/-- ROUTE_COMMIT (R289, R356, R358): staged while the job it names runs, at once where it names none or one that does not run. -/
def routeCommit (s : State) (n : Nat) (m : Msg) : State :=
  let mask := pAt m 0 8
  if m.payload.length ≠ 10 ∨ field mask 48 15 ≠ 0 then deny s n 0x0102
  else if m.job = 0 then (if applySet m then deny s n 0x0203 else done (routeApply s mask) n [])
  else
    match ownJob s m with
    | .inr st => deny s n st
    | .inl j =>
      if bookModules j.img ≤ pAt m 8 2 then deny s n 0x0102
      else if applySet m then stage s n 0x0505 m
      else if j.running then deny s n 0x0301
      else if pAt m 8 2 ≠ j.pos then deny s n 0x0102
      else done (routeApply s mask) n []

/-- CLOCK_SOURCE_SET (R293, R294): designating another port ends a holdover. -/
def clockSourceSet (s : State) (n : Nat) (m : Msg) : State :=
  let p := pAt m 0 1
  if m.payload.length ≠ 1 ∨ (48 ≤ p ∧ p ≠ 63) then deny s n 0x0102
  else if p ≠ 63 ∧ s.portExists p = false then deny s n 0x0203
  else
    let new := BitVec.ofNat 6 p != s.hub.fab.srcPort
    let s := s.modFab fun f => { f with srcPort := BitVec.ofNat 6 p }
    done (if new then holdoverEnd s else s) n []

/-! Identifier distribution (R291, R352). -/

/-- Answer an ID_DISTRIBUTE once every pair has its outcome. -/
def finishPairs (s : State) : State :=
  match s.executing.find? fun k => match s.reqOf k with | some r => r.code == 0x0507 | none => false with
  | none => s
  | some k =>
    if s.hub.fab.pairs.all fun x => x.outcome.isSome then
      let l := s.hub.fab.pairs.map fun x => BitVec.ofNat 8 (x.outcome.getD 1)
      respond (s.modFab fun f => { f with pairs := [] }) k 0 l
    else s

/-- The outcome of a pair, by its message number. -/
def notePair (s : State) (number : Word) (outcome : Nat) : State :=
  finishPairs (s.modFab fun f => { f with pairs := f.pairs.map fun x => if x.number = number ∧ x.outcome = none then { x with outcome := some outcome } else x })

/-- Begin one pair: a duplicate is not sent; the module's own serial is served here; others get a message. -/
def beginPair (all : List (DWord × BitVec 12)) (s : State) (p : (DWord × BitVec 12) × Nat) : State :=
  let f := s.hub.fab
  let twice := Nat.blt 1 (all.filter fun x => x.2 == p.1.2).length
  let taken := (List.range 48).any fun q => (s.port q).peerValid && (s.port q).peerIdent == p.1.2
  let add := fun (s : State) (o : Option Nat) => s.modFab fun f => { f with pairs := f.pairs ++ [⟨f.nextNumber, p.1.1, p.1.2, o⟩], nextNumber := f.nextNumber + 1 }
  if twice || taken then add s (some 2)
  else if p.1.1 = Config.fuseSerial then (if s.noJobs then add (setModuleId s p.1.2) (some 0) else add s (some 3))
  else
    let a : AssignMsg := ⟨Config.fuseSerial, f.nextNumber, p.1.1, p.1.2, 0⟩
    relayAssign (keepName (add s none) a.assigner a.number 48) none a

/-- ID_DISTRIBUTE (R291, R352). -/
def idDistribute (s : State) (n : Nat) (m : Msg) : State :=
  let k := pAt m 0 2
  let ps := (List.range k).map fun i => (BitVec.ofNat 64 (pAt m (8 + 10 * i) 8), pAt m (16 + 10 * i) 2)
  if k < 1 ∨ 400 < k ∨ m.payload.length ≠ 8 + 10 * k ∨ zeroAt m 2 8 = false ∨ ps.any (fun p => Nat.ble 0xFFF p.2) then deny s n 0x0102
  else
    let qs := ps.map fun p => (p.1, BitVec.ofNat 12 p.2)
    finishPairs ((qs.zip (List.range k)).foldl (beginPair qs) (s.modFab fun f => { f with pairs := [] }))

/-- ID_ASSIGN_REPLY (R291): relayed to the port on which the message came, or noted by the assigner. -/
def assignReplyArrive (s : State) (p : Nat) (a : AssignReply) : State :=
  if !(s.portExists p && (s.port p).live) then s
  else if a.assigner = Config.fuseSerial then notePair s a.number (if a.assigned then 0 else 3)
  else
    match s.hub.fab.names.find? fun x => x.1 == a.assigner && x.2.1 == a.number with
    | some x => if (s.port x.2.2.1).live then s.emit (.assignReply x.2.2.1 a) else s
    | none => s

/-! The Ethernet port's settings (R325, R339, R356). -/

/-- PORT_CONFIG: the response leaves before the change. -/
def portConfig (s : State) (n : Nat) (m : Msg) : State :=
  let sel := pAt m 0 1
  if m.payload.length ≠ 36 ∨ 8 ≤ sel ∨ zeroAt m 1 4 = false ∨ (bitAt sel 2 = true ∧ 2 ^ 16 ≤ pAt m 32 4) then deny s n 0x0102
  else
    let w := fun (o : Nat) => BitVec.ofNat 32 (leAt m.payload o 4)
    let s := done s n []
    let s := if bitAt sel 0 then (setIpv4 s (w 4) (w 8) (w 12) false 0).modEth fun e => { e with client := false, asked := none } else s
    let s := if bitAt sel 1 then setIpv6 s (BitVec.ofNat 128 (leAt m.payload 16 16)) else s
    if bitAt sel 2 then s.modEth fun e => { e with qos := BitVec.ofNat 16 (pAt m 32 4) } else s

/-! Power and regions (R240, R391, R392, R406). -/

/-- CAP_SET (R391, R352). -/
def capSet (s : State) (n : Nat) (m : Msg) : State :=
  let v := pAt m 0 4
  if m.payload.length ≠ 4 ∨ v < 120 ∨ 624 < v then deny s n 0x0102
  else if applySet m then stage s n 0x0601 m
  else done (s.modPwr fun p => { p with cap := v }) n []

/-- The bounds of a pool (R392). -/
def poolOk (n pool floor ceil : Nat) : Bool :=
  Nat.ble 120 floor && Nat.ble floor ceil && Nat.ble ceil 624 && Nat.ble (n * floor) pool && Nat.ble pool (n * ceil)

/-- POOL_SET (R392). -/
def poolSet (s : State) (n : Nat) (m : Msg) : State :=
  match ownJob s m with
  | .inr st => deny s n st
  | .inl j =>
    if !s.loaded j then deny s n 0x0201
    else if m.payload.length ≠ 12 ∨ poolOk (bookModules j.img) (pAt m 0 4) (pAt m 4 4) (pAt m 8 4) = false then deny s n 0x0102
    else if applySet m then stage s n 0x0602 m
    else if j.running then deny s n 0x0301
    else done (poolApply s j.id (pAt m 0 4) (pAt m 4 4) (pAt m 8 4)) n []

/-- Hold a region Ready, or let it go (R240): an Asleep region wakes for it. -/
def holdRegion (hold : Bool) (s : State) (r : Nat) : State :=
  s.modRgn r fun g =>
    if hold then (if g.state = 0 then { g with heldReady := true, downWanted := false, state := 1, goal := .ready } else { g with heldReady := true, downWanted := false })
    else { g with heldReady := false }

/-- REGION_READY (R240). -/
def regionReady (s : State) (n : Nat) (m : Msg) : State :=
  let mask := pAt m 0 2
  let rs := (List.range 16).filter (bitAt mask)
  if m.payload.length ≠ 3 ∨ 1 < pAt m 2 1 then deny s n 0x0102
  else if rs.any fun r => (s.rgn r).failed then deny s n 0x0201
  else done (rs.foldl (holdRegion (pAt m 2 1 == 1)) s) n []

/-- Read registers one after another as a requester (R6, R7). -/
def readRegs (q : Requester) : List Nat → State → State × List Byte
  | [], s => (s, [])
  | a :: t, s =>
    let r := readAccess s q a 4
    let rest := readRegs q t r.1
    (rest.1, leBytes 4 r.2.toNat ++ rest.2)

/-- Offsets of the power registers in the order of R406. -/
def powerOffsets : List Nat :=
  [0, 4, 8, 0xC, 0x10, 0x18, 0x1C, 0x20, 0x24]
    ++ (List.range 16).flatMap (fun r => (List.range 8).map fun i => 0x100 + 0x20 * r + 4 * i)
    ++ (List.range 16).flatMap (fun j => (List.range 4).map fun i => 0x400 + 0x10 * j + 4 * i)
    ++ (List.range 128).map fun i => 0x800 + 4 * i

/-- POWER_GET (R406). -/
def powerGet (s : State) (n : Nat) (m : Msg) : State :=
  if m.payload.length ≠ 0 then deny s n 0x0102
  else
    let r := readRegs (s.requesterOf m.session) (powerOffsets.map fun o => 0x400000300000 + o) s
    done r.1 n r.2

end Sys2Proof.Machine
end

