-- ==== Sys2Proof/Machine/MailTel.lean ====
section
/-! DEFINITION. Commands of registers, digests, the log, resets, the test block and firmware (spec/15_pyerly_mailboxes.md R352, R355, R357; spec/13_gradient_reduction.md R319; spec/18_faults_fencing.md R417; spec/19_measured_boot_attestation.md R437; spec/20_perturbation_counters.md R449). -/
namespace Sys2Proof.Machine

/-- The form of a list of addresses to read. -/
def readForm (m : Msg) : Bool :=
  let k := pAt m 0 2
  Nat.ble 1 k && Nat.ble k 500 && m.payload.length == 8 + 8 * k && zeroAt m 2 8

/-- Addresses to read. -/
def readList (m : Msg) : List Nat := (List.range (pAt m 0 2)).map fun i => pAt m (8 + 8 * i) 8

/-- The form of a list of writes. -/
def writeFormOk (m : Msg) : Bool :=
  let k := pAt m 0 2
  Nat.ble 1 k && Nat.ble k 250 && m.payload.length == 8 + 16 * k && zeroAt m 2 8 && (List.range k).all fun i => pAt m (8 + 16 * i + 12) 4 == 0

/-- Write registers one after another. -/
def writeAll (q : Requester) (m : Msg) (s : State) : State :=
  (List.range (pAt m 0 2)).foldl (fun s i => writeAccess s q (pAt m (8 + 16 * i) 8) 4 (BitVec.ofNat 32 (pAt m (16 + 16 * i) 4))) s

/-- REG_READ (R355). -/
def regRead (s : State) (n : Nat) (m : Msg) : State :=
  if !readForm m then deny s n 0x0102
  else
    let r := readRegs (s.requesterOf m.session) (readList m) s
    done r.1 n r.2

/-- REG_WRITE (R355, R358): with one entry it may be staged. -/
def regWrite (s : State) (n : Nat) (m : Msg) : State :=
  if !writeFormOk m then deny s n 0x0102
  else if applySet m then (if pAt m 0 2 = 1 then stage s n 0x0702 m else deny s n 0x0301)
  else writeAll (s.requesterOf m.session) m (done s n [])

/-- A session that was opened as a test session (R449). -/
def State.isTest (s : State) (num : Word) : Bool := match s.session num with | some x => x.test | none => false

/-- TEST_READ (R449). -/
def testRead (s : State) (n : Nat) (m : Msg) : State :=
  if !s.isTest m.session then deny s n 0x0104
  else if !readForm m then deny s n 0x0102
  else
    let r := readRegs (.test m.session) (readList m) s
    done r.1 n r.2

/-- TEST_WRITE (R449). -/
def testWriteCmd (s : State) (n : Nat) (m : Msg) : State :=
  if !s.isTest m.session then deny s n 0x0104
  else if !writeFormOk m then deny s n 0x0102
  else writeAll (.test m.session) m (done s n [])

/-- Entries of the digest log, newest first (R319). -/
def Buckets.newest (b : Buckets) : List (List Byte) :=
  (List.range 4096).filterMap fun i =>
    let e := mapGet [] b.log ((b.head.toNat + 4095 - i) % 4096)
    if e.isEmpty then none else some e

/-- DIGEST_GET (R319, R352). -/
def digestGet (s : State) (n : Nat) (m : Msg) : State :=
  match ownJob s m with
  | .inr st => deny s n st
  | .inl j =>
    if m.payload.length ≠ 4 ∨ 4096 ≤ pAt m 0 2 then deny s n 0x0102
    else
      let es := (s.hub.bkt.newest.filter fun e => leAt e 8 4 == j.id.toNat && field (leAt e 12 4) 0 12 == pAt m 0 2 && leAt e 14 2 == pAt m 2 2).take 62
      done s n (leBytes 4 es.length ++ es.flatten)

/-- Records of the log from an index on: one older than the oldest starts at the oldest (R417). -/
def FltLog.from (l : FltLog) (first : Nat) : List (Nat × Rec) :=
  let d := (first + 2 ^ 32 - l.oldest % 2 ^ 32) % 2 ^ 32
  if 2 ^ 31 ≤ d then l.ring else l.ring.drop d

/-- LOG_READ (R417). -/
def logRead (s : State) (n : Nat) (m : Msg) : State :=
  let k := pAt m 4 2
  if m.payload.length ≠ 6 ∨ k < 1 ∨ 125 < k then deny s n 0x0102
  else
    let rs := (s.flt.from (pAt m 0 4)).take k
    let next := match rs.getLast? with | some r => (r.1 + 1) % 2 ^ 32 | none => s.flt.next
    done s n (leBytes 4 next ++ rs.flatMap fun r => faultBytes r.2)

/-- LOG_CLEAR (R417): the ring and the persistent part are empty, the index runs on. -/
def logClear (s : State) (n : Nat) (m : Msg) : State :=
  if m.payload.length ≠ 0 then deny s n 0x0102
  else done (s.modFlt fun l => { l with ring := [], oldest := l.next, persist := [] }) n []

/-- RESET (R357, R373, R375): the response leaves first; kind 0 is the module, kind 1 the named regions. -/
def resetCmd (s : State) (n : Nat) (m : Msg) : State :=
  let kind := pAt m 0 1
  let mask := pAt m 2 2
  if m.payload.length ≠ 4 ∨ 1 < kind ∨ zeroAt m 1 2 = false ∨ (kind = 0 ∧ mask ≠ 0) then deny s n 0x0102
  else if kind = 0 then moduleReset (done s n [])
  else
    let rs := (List.range 16).filter (bitAt mask)
    if rs.any fun r => (s.rgn r).failed then deny s n 0x0201
    else rs.foldl (fun s r => regionReset s r 3) (done s n [])

/-! Firmware (R437). -/

/-- FW_BEGIN. -/
def fwBegin (s : State) (n : Nat) (m : Msg) : State :=
  let len := pAt m 0 4
  if m.payload.length ≠ 4 ∨ len = 0 ∨ 48 * 2 ^ 20 < len then deny s n 0x0102
  else
    match s.hub.sec.fw with
    | some f => if f.session = m.session then done (s.modSec fun x => { x with fw := some ⟨m.session, len, []⟩ }) n [] else deny s n 0x0200
    | none => done (s.modSec fun x => { x with fw := some ⟨m.session, len, []⟩ }) n []

/-- FW_WRITE. -/
def fwWrite (s : State) (n : Nat) (m : Msg) : State :=
  let off := pAt m 0 4
  let data := m.payload.drop 8
  match s.hub.sec.fw with
  | none => deny s n 0x0201
  | some f =>
    if f.session ≠ m.session then deny s n 0x0200
    else if m.payload.length < 9 ∨ zeroAt m 4 8 = false ∨ 4032 < data.length ∨ f.len < off + data.length then deny s n 0x0102
    else done (s.modSec fun x => { x with fw := some { f with data := memWrite f.data off data } }) n []

/-- The slot that was not booted takes an image. -/
def Sec.commit (x : Sec) (img : List Byte) : Sec :=
  let slot : FlashSlot := ⟨true, some img⟩
  { (if x.bootedB then { x with slotA := slot } else { x with slotB := slot }) with fw := none, other := 1 }

/-- FW_COMMIT (R433, R437, R441). -/
def fwCommit (s : State) (n : Nat) (m : Msg) : State :=
  match s.hub.sec.fw with
  | none => deny s n 0x0201
  | some f =>
    if f.session ≠ m.session then deny s n 0x0200
    else if m.payload.length ≠ 0 then deny s n 0x0102
    else
      let img := memRead f.data 0 f.len
      let r := s.hub.sec.imageReason img
      if r ≠ 0 then respond ((s.modSec fun x => { x with fw := none }).logHub 0x0904 [BitVec.ofNat 8 r]) n 0x0401 (leBytes 4 r)
      else done (s.modSec fun x => (x.commit img).extend 3 (fwDigest img)) n []

/-- FW_ACTIVATE (R357, R437). -/
def fwActivate (s : State) (n : Nat) (m : Msg) : State :=
  let slot := pAt m 0 1
  if m.payload.length ≠ 1 ∨ 1 < slot then deny s n 0x0102
  else if !(s.hub.sec.slot (slot == 1)).valid then respond s n 0x0401 (leBytes 4 7)
  else moduleReset (done (s.modSec fun x => { x with preferB := slot == 1 }) n [])

end Sys2Proof.Machine
end

