-- ==== Sys2Proof/Machine/MailRun.lean ====
section
/-! DEFINITION. A request arrives, waits for its turn and is executed (spec/15_pyerly_mailboxes.md R342 to R348, R352). -/
namespace Sys2Proof.Machine

/-- The effect of each command (R352); a code that is not in the table is answered with 0x0101. -/
def runCode (code : Nat) (s : State) (n : Nat) (m : Msg) : State :=
  match code with
  | 0x0101 => identGet s n m
  | 0x0102 => unitsGet s n m
  | 0x0201 => challenge s n m
  | 0x0202 => sessionOpen s n m
  | 0x0203 => sessionClose s n m
  | 0x0204 => quote s n m
  | 0x0205 => debugUnlock s n m
  | 0x0206 => mailboxBind s n m
  | 0x0301 => bookBegin s n m
  | 0x0302 => bookWrite s n m
  | 0x0303 => jobAssign s n m
  | 0x0304 => jobStart s n m
  | 0x0305 => jobStatusGet s n m
  | 0x0306 => jobEnd s n m
  | 0x0307 => jobKill s n m
  | 0x0308 => jobClaim s n m
  | 0x0309 => cueAddCmd s n m
  | 0x030A => paletteWrite s n m
  | 0x030B => stageCancel s n m
  | 0x0401 => windowRegister s n m
  | 0x0402 => windowDeregister s n m
  | 0x0403 => windowList s n m
  | 0x0501 => portSet s n m
  | 0x0502 => neighboursGet s n m
  | 0x0503 => moduleIdSet s n m
  | 0x0504 => routeWrite s n m
  | 0x0505 => routeCommit s n m
  | 0x0506 => clockSourceSet s n m
  | 0x0507 => idDistribute s n m
  | 0x0508 => portConfig s n m
  | 0x0601 => capSet s n m
  | 0x0602 => poolSet s n m
  | 0x0603 => regionReady s n m
  | 0x0604 => powerGet s n m
  | 0x0701 => regRead s n m
  | 0x0702 => regWrite s n m
  | 0x0703 => digestGet s n m
  | 0x0801 => logRead s n m
  | 0x0802 => logClear s n m
  | 0x0803 => resetCmd s n m
  | 0x0901 => testWriteCmd s n m
  | 0x0902 => testRead s n m
  | 0x0A01 => fwBegin s n m
  | 0x0A02 => fwWrite s n m
  | 0x0A03 => fwCommit s n m
  | 0x0A04 => fwActivate s n m
  | _ => deny s n 0x0101

/-- Firmware takes a mailbox's request in hand: it turns it away with a status (R346, R348, R352), or gives it the command's effect. -/
def execute (s : State) (n : Nat) : State :=
  match (s.mbx n).req with
  | none => s
  | some r =>
    let s := (s.modMbx n fun x => { x with req := some { r with executing := true } }).modMail fun m => { m with waiting := m.waiting.filter (· != n) }
    match precheck s n r.code.toNat r.m with
    | some status => deny s n status
    | none => runCode r.code.toNat s n r.m

/-- Start the first waiting requests that may start, at most `fuel` of them (R343). -/
def drainFor : Nat → State → State
  | 0, s => s
  | fuel + 1, s =>
    match s.hub.mail.waiting.find? fun n => match (s.mbx n).req with | some r => canStart s n r | none => true with
    | none => s
    | some n => drainFor fuel (execute (s.modMail fun m => { m with waiting := m.waiting.filter (· != n) }) n)

/-- Start the requests that wait and may start. -/
def drain (s : State) : State := drainFor s.hub.mail.waiting.length s

/-- A request fills the buffer of its mailbox: the kept response goes, unless the request repeats the last one, which is answered from it (R343, R344). -/
def fillBuffer (s : State) (n : Nat) (code : BitVec 16) (m : Msg) : State :=
  match (s.mbx n).kept with
  | some k =>
    if k.code = code ∧ k.seq = m.seq then sendOn s m.q.val k.bytes
    else place
  | none => place
where
  /-- The request takes its place in the order of arrival, and is executed at once if nothing holds it back. -/
  place : State :=
    let r : Req := ⟨code, m, false, false⟩
    let s := (s.modMbx n fun x => { x with req := some r, kept := none }).modMail fun l => { l with waiting := l.waiting ++ [n] }
    if canStart s n r then execute s n else s

/-- A SEND Only arrives on a queue pair (R328, R330, R338). -/
def receive (s : State) (code : BitVec 16) (m : Msg) : State :=
  let q := m.q.val
  let x := s.qp q
  if !s.ethOn then s
  else if x.state != .connected then ethDrop s
  else
    let s := qpHears s q (48 + m.payload.length) m.ce m.tag
    match x.kind with
    | .mailbox n =>
      match psnPlace x.epsn m.psn with
      | .ahead => psnGap s q
      | .duplicate => sendAck s q (x.epsn - 1) 0
      | .expected =>
        if 4048 < m.payload.length then sendAck s q m.psn 0x61
        else if (s.mbx n).req.isSome then sendAck s q m.psn 0x2E
        else
          let s := psnTaken s q 1 true
          drain (fillBuffer (sendAck s q m.psn 0) n code m)
    | _ => sendAck s q m.psn 0x61

/-- A SEND that fills no buffer (R330, R338): on a mailbox queue pair one of fewer than 48 or more than 4,096 bytes is answered with 0x61, and one that meets a full buffer
with an RNR NAK, and the buffer is not touched. One of good length that meets an empty buffer is a request, whose command it is: nothing happens here. -/
def busySend (s : State) (q : Nat) (psn : BitVec 24) (bytes : Nat) (ce : Bool) (tag : VlanTag) : State :=
  let x := s.qp q
  if !s.ethOn then s
  else if x.state != .connected then ethDrop s
  else
    match x.kind with
    | .mailbox n =>
      let short := Nat.blt bytes 48 || Nat.blt 4096 bytes
      if !short && (s.mbx n).req.isNone then s
      else
        let s := qpHears s q bytes ce tag
        match psnPlace x.epsn psn with
        | .ahead => psnGap s q
        | .duplicate => sendAck s q (x.epsn - 1) 0
        | .expected => sendAck s q psn (if short then 0x61 else 0x2E)
    | _ => sendAck (qpHears s q bytes ce tag) q psn 0x61

end Sys2Proof.Machine
end

