-- ==== Sys2Proof/Machine/JobCmds.lean ====
section
/-! DEFINITION. Meanings of events of jobs, epochs and regions (spec/11_prompt_books_epochs.md R239 to R266; spec/17_power_thermal.md R394). -/
namespace Sys2Proof.Machine

/-- CUE0_TIMER (R255). Cue 0 takes a pulse. -/
def execCue0Timer (s : State) : Res :=
  .next (cueTimer s)

/-- EPOCH_START (R252). Epoch 0 begins. -/
def execEpochStart (job : Word) (s : State) : Res :=
  .next (epochStart s job)

/-- EPOCH_CHECK (R258). The check at a deadline. -/
def execEpochCheck (job : Word) (s : State) : Res :=
  .next (epochCheck s job)

/-- EPOCH_BOUNDARY (R254). The next epoch begins. -/
def execEpochBoundary (job : Word) (s : State) : Res :=
  .next (epochBoundary s job)

/-- CHANGE_HOLD_RESEND (R265). Notices not acknowledged are sent again. -/
def execChangeHoldResend (job : Word) (s : State) : Res :=
  .next (changeResend s job)

/-- CHANGE_HOLD_ACK (R265). A module acknowledges. -/
def execChangeHoldAck (job : Word) (position : Nat) (s : State) : Res :=
  .next (changeAck s job position)

/-- CHANGE_HOLD_RELEASE (R265). A module is released from its change hold. -/
def execChangeHoldRelease (job : Word) (s : State) : Res :=
  .next (changeRelease s job)

/-- CHANGE_HOLD_LIMIT (R265). A change hold at its limit. -/
def execChangeHoldLimit (job : Word) (s : State) : Res :=
  .next (changeLimit s job)

/-- HEARTBEAT_SEND (R263). Heartbeats to the other modules. -/
def execHeartbeatSend (job : Word) (s : State) : Res :=
  .next (heartbeatSend s job)

/-- HEARTBEAT_TIMEOUT (R263). A partner was not heard. -/
def execHeartbeatTimeout (job : Word) (position : Nat) (s : State) : Res :=
  .next (heartbeatTimeout s job position)

/-- ANNOUNCE_TIMEOUT (R354). No announcement came. -/
def execAnnounceTimeout (job : Word) (s : State) : Res :=
  .next (drain (announceTimeout s job))

/-- JOB_FAULT_TAKE (R261). A job fault is taken. -/
def execJobFaultTake (job : Word) (cls : BitVec 16) (s : State) : Res :=
  .next (takeFault s job cls)

/-- TIME_ANNOUNCE (R295). An announcement of the timebase. -/
def execTimeAnnounce (p : Fin 48) (k : Packet) (s : State) : Res :=
  .next (drain (timeAnnounce s p.val k))

/-- ID_ASSIGN_REPLY (R291). A reply to an assignment. -/
def execIdAssignReply (p : Fin 48) (a : AssignReply) (s : State) : Res :=
  .next (drain (assignReplyArrive s p.val a))

/-- ID_ASSIGN_REPLY_TIMEOUT (R291). No reply came for an assignment. -/
def execIdAssignReplyTimeout (number : Word) (s : State) : Res :=
  .next (drain (notePair s number 1))

/-- SLACK_REPORT_RECEIVE (R394). A report of slack reaches the root. -/
def execSlackReportReceive (job : Word) (position : Nat) (slack : Int) (ceiling : Nat) (s : State) : Res :=
  .next (slackReceive s job position slack ceiling)

/-- REGION_WAKE_DONE (R240). A region has woken, or failed to. -/
def execRegionWakeDone (r : Fin 16) (w : WakeResult) (s : State) : Res :=
  .next (drain (wakeDone s r.val w))

/-- REGION_SCRUB_DONE (R425). A region has been scrubbed and tested. -/
def execRegionScrubDone (r : Fin 16) (found : List TestFinding) (s : State) : Res :=
  .next (drain (scrubDone s r.val found))

/-- READY_POWER_DOWN (R240). A Ready region is powered down. -/
def execReadyPowerDown (r : Fin 16) (s : State) : Res :=
  .next (powerDownReady s r.val)

end Sys2Proof.Machine
end

