-- ==== Sys2Proof/Machine/JtagPort.lean ====
section
/-! DEFINITION. The JTAG port: TAP, instructions and the boundary-scan chain (spec/21_electrical_mechanical.md R458, R463). -/
namespace Sys2Proof.Machine

/-- The next state of the TAP at a rising edge of TCK, as IEEE 1149.1 draws it. -/
def Tap.next (t : Tap) (tms : Bool) : Tap :=
  match t with
  | .reset => if tms then .reset else .idle
  | .idle => if tms then .selectDr else .idle
  | .selectDr => if tms then .selectIr else .captureDr
  | .captureDr => if tms then .exit1Dr else .shiftDr
  | .shiftDr => if tms then .exit1Dr else .shiftDr
  | .exit1Dr => if tms then .updateDr else .pauseDr
  | .pauseDr => if tms then .exit2Dr else .pauseDr
  | .exit2Dr => if tms then .updateDr else .shiftDr
  | .updateDr => if tms then .selectDr else .idle
  | .selectIr => if tms then .reset else .captureIr
  | .captureIr => if tms then .exit1Ir else .shiftIr
  | .shiftIr => if tms then .exit1Ir else .shiftIr
  | .exit1Ir => if tms then .updateIr else .pauseIr
  | .pauseIr => if tms then .exit2Ir else .pauseIr
  | .exit2Ir => if tms then .updateIr else .shiftIr
  | .updateIr => if tms then .selectDr else .idle

/-- The instruction that a code of the instruction register names; a code without one selects BYPASS. -/
def jtagOpOf (code : Nat) : JtagOp :=
  match Config.jtagOp code with
  | 1 => .sample
  | 2 => .extest
  | 3 => .clamp
  | 4 => .highz
  | _ => .bypass

/-- The instruction as it acts: EXTEST, CLAMP and HIGHZ act as BYPASS unless IN_RST_N is held low. -/
def Jtag.acts (j : Jtag) (rstLow : Bool) : JtagOp :=
  match j.op with
  | .sample => .sample
  | .bypass => .bypass
  | op => if rstLow then op else .bypass

/-- The boundary-scan chain stands between TDI and TDO. -/
def JtagOp.onChain (op : JtagOp) : Bool := op == .sample || op == .extest

/-- The pins are driven from the latch of the chain, released, or left to the module. -/
def Jtag.pads (j : Jtag) (rstLow : Bool) : Option (Option (BitVec 15)) :=
  match j.acts rstLow with
  | .extest => some (some j.latch)
  | .clamp => some (some j.latch)
  | .highz => some none
  | _ => none

/-- Shift one bit in at the top of a register of `n` bits. -/
def shiftIn (n v : Nat) (b : Bool) : Nat := v / 2 + b2n b * 2 ^ (n - 1)

/-- What a rising edge does in the state that the TAP leaves: capture or shift. -/
def Jtag.clock (j : Jtag) (rstLow tdi : Bool) (pins : BitVec 15) : Jtag :=
  match j.tap with
  | .captureDr => if (j.acts rstLow).onChain then { j with chain := pins } else { j with byp := false }
  | .shiftDr => if (j.acts rstLow).onChain then { j with chain := BitVec.ofNat 15 (shiftIn 15 j.chain.toNat tdi) } else { j with byp := tdi }
  | .captureIr => { j with ir := 1 }
  | .shiftIr => { j with ir := shiftIn Config.jtagIrLen j.ir tdi }
  | _ => j

/-- A rising edge of TCK. -/
def Jtag.rise (j : Jtag) (rstLow tms tdi : Bool) (pins : BitVec 15) : Jtag :=
  let k := j.clock rstLow tdi pins
  let t := j.tap.next tms
  { k with tap := t, op := if t = .reset then .bypass else k.op }

/-- A falling edge of TCK: update, and the bit that TDO shows; TDO is released when not shifting. -/
def Jtag.fall (j : Jtag) (rstLow : Bool) : Jtag :=
  match j.tap with
  | .updateDr => { j with latch := if (j.acts rstLow).onChain then j.chain else j.latch, tdo := none }
  | .updateIr => { j with op := jtagOpOf j.ir, tdo := none }
  | .shiftDr => { j with tdo := some (if (j.acts rstLow).onChain then j.chain.getLsbD 0 else j.byp) }
  | .shiftIr => { j with tdo := some (bitAt j.ir 0) }
  | _ => { j with tdo := none }

/-- An edge of TCK: with TRST_N low, or without the always-on domain's power, the TAP stays in Test-Logic-Reset. -/
def Jtag.edge (j : Jtag) (rstLow rising tms tdi : Bool) (pins : BitVec 15) : Jtag :=
  if !j.trst then j else if rising then j.rise rstLow tms tdi pins else j.fall rstLow

/-- TRST_N changes: low, the TAP is in Test-Logic-Reset with BYPASS selected. -/
def Jtag.setTrst (j : Jtag) (high : Bool) : Jtag := if high then { j with trst := true } else { j with trst := false, tap := .reset, op := .bypass, tdo := none }

/-- Change the JTAG port. -/
def State.modJtag (s : State) (f : Jtag → Jtag) : State := s.modHub fun h => { h with clk := { h.clk with jtag := f h.clk.jtag } }

/-- TCK_EDGE. -/
def jtagEdge (s : State) (rising tms tdi : Bool) (pins : BitVec 15) : State :=
  if s.hub.clk.stage = .off then s else s.modJtag fun j => j.edge s.hub.clk.rstLow rising tms tdi pins

/-- TRST_N_CHANGE. -/
def jtagTrst (s : State) (high : Bool) : State := s.modJtag fun j => j.setTrst high

end Sys2Proof.Machine
end

