-- ==== Sys2Proof/Machine/JtagCmds.lean ====
section
/-! DEFINITION. Meanings of events on the JTAG pins (spec/21_electrical_mechanical.md R458). -/
namespace Sys2Proof.Machine

/-- TCK_EDGE (R458). The TAP advances, shifts, captures or updates. -/
def execTckEdge (rising tms tdi : Bool) (pins : BitVec 15) (s : State) : Res :=
  .next (jtagEdge s rising tms tdi pins)

/-- TRST_N_CHANGE (R458). The TAP is held in Test-Logic-Reset, or released. -/
def execTrstNChange (high : Bool) (s : State) : Res :=
  .next (jtagTrst s high)

end Sys2Proof.Machine
end

