-- ==== Sys2Proof/Machine/MailCmds.lean ====
section
/-! DEFINITION. Meanings of mailbox requests (spec/15_pyerly_mailboxes.md R342 to R362; R352 gives the codes). -/
namespace Sys2Proof.Machine

/-- IDENT_GET (R352). Returns identity, serial, module identifier, booted slot, firmware version and MAC address. -/
def execIdentGet (m : Msg) (s : State) : Res :=
  .next (receive s 0x0101 m)

/-- UNITS_GET (R352). Returns region states and the failed regions and fenced blocks. -/
def execUnitsGet (m : Msg) (s : State) : Res :=
  .next (receive s 0x0102 m)

/-- CHALLENGE (R349). Returns a fresh 32-byte nonce for a key slot. -/
def execChallenge (m : Msg) (s : State) : Res :=
  .next (receive s 0x0201 m)

/-- SESSION_OPEN (R349). Verifies a signed nonce and opens a session with its privileges and mailboxes. -/
def execSessionOpen (m : Msg) (s : State) : Res :=
  .next (receive s 0x0202 m)

/-- SESSION_CLOSE (R351). Closes the session, freeing its queue pairs, windows, staging space and mailboxes. -/
def execSessionClose (m : Msg) (s : State) : Res :=
  .next (receive s 0x0203 m)

/-- QUOTE (R443). Returns a signed snapshot of the measurement registers with the certificate chain. -/
def execQuote (m : Msg) (s : State) : Res :=
  .next (receive s 0x0204 m)

/-- DEBUG_UNLOCK (R445). Accepts a signed debug token and unlocks debug scope for the session. -/
def execDebugUnlock (m : Msg) (s : State) : Res :=
  .next (receive s 0x0205 m)

/-- MAILBOX_BIND (R350). Binds further mailboxes to the session. -/
def execMailboxBind (m : Msg) (s : State) : Res :=
  .next (receive s 0x0206 m)

/-- BOOK_BEGIN (R353). Reserves staging space for one prompt book. -/
def execBookBegin (m : Msg) (s : State) : Res :=
  .next (receive s 0x0301 m)

/-- BOOK_WRITE (R353). Writes a piece of the prompt-book image into staging space. -/
def execBookWrite (m : Msg) (s : State) : Res :=
  .next (receive s 0x0302 m)

/-- JOB_ASSIGN (R250). Checks the staged book, brings the regions to Loading, loads them and leaves them Assigned. -/
def execJobAssign (m : Msg) (s : State) : Res :=
  .next (receive s 0x0303 m)

/-- JOB_START (R354). On the root, sets T0 and sends alignment and announce packets; elsewhere, waits to hold T0. -/
def execJobStart (m : Msg) (s : State) : Res :=
  .next (receive s 0x0304 m)

/-- JOB_STATUS (R352). Returns the job's epoch, status, region states and first fault record. -/
def execJobStatus (m : Msg) (s : State) : Res :=
  .next (receive s 0x0305 m)

/-- JOB_END (R354). Ends a job whose cells have halted, stopped or faulted and releases its regions. -/
def execJobEnd (m : Msg) (s : State) : Res :=
  .next (receive s 0x0306 m)

/-- JOB_KILL (R354). Kills a job and releases its regions unconditionally. -/
def execJobKill (m : Msg) (s : State) : Res :=
  .next (receive s 0x0307 m)

/-- JOB_CLAIM (R351). Takes over a job left by a closed session with the same key slot, with its waiting events. -/
def execJobClaim (m : Msg) (s : State) : Res :=
  .next (receive s 0x0308 m)

/-- CUE_ADD (R355). Adds a count to a cue of the job. -/
def execCueAdd (m : Msg) (s : State) : Res :=
  .next (receive s 0x0309 m)

/-- PALETTE_WRITE (R358). Writes palette records into cells, staged under a change hold while the job runs. -/
def execPaletteWrite (m : Msg) (s : State) : Res :=
  .next (receive s 0x030A m)

/-- STAGE_CANCEL (R358). Withdraws a staged change whose epoch has not begun. -/
def execStageCancel (m : Msg) (s : State) : Res :=
  .next (receive s 0x030B m)

/-- WINDOW_REGISTER (R333). Registers a transfer window and returns its key. -/
def execWindowRegister (m : Msg) (s : State) : Res :=
  .next (receive s 0x0401 m)

/-- WINDOW_DEREGISTER (R337). Invalidates a transfer window. -/
def execWindowDeregister (m : Msg) (s : State) : Res :=
  .next (receive s 0x0402 m)

/-- WINDOW_LIST (R352). Lists the registered transfer windows. -/
def execWindowList (m : Msg) (s : State) : Res :=
  .next (receive s 0x0403 m)

/-- PORT_SET (R356). Disables, enables, retrains, splits or joins a logical port. -/
def execPortSet (m : Msg) (s : State) : Res :=
  .next (receive s 0x0501 m)

/-- NEIGHBOURS_GET (R352). Returns the status and partner identity of every logical port. -/
def execNeighboursGet (m : Msg) (s : State) : Res :=
  .next (receive s 0x0502 m)

/-- MODULE_ID_SET (R290). Sets the module identifier while no region is Loading or Assigned, and re-sends IDENT. -/
def execModuleIdSet (m : Msg) (s : State) : Res :=
  .next (receive s 0x0503 m)

/-- ROUTE_WRITE (R356). Fills shadow copies of routing-table entries. -/
def execRouteWrite (m : Msg) (s : State) : Res :=
  .next (receive s 0x0504 m)

/-- ROUTE_COMMIT (R289). Replaces the named routing tables with their shadows atomically, staged under a change hold while a job runs. -/
def execRouteCommit (m : Msg) (s : State) : Res :=
  .next (receive s 0x0505 m)

/-- CLOCK_SOURCE_SET (R293). Designates the FCLK source port or REFCLK. -/
def execClockSourceSet (m : Msg) (s : State) : Res :=
  .next (receive s 0x0506 m)

/-- ID_DISTRIBUTE (R291). Assigns identifiers to named serials through relayed FIRMWARE messages and reports per-pair outcomes. -/
def execIdDistribute (m : Msg) (s : State) : Res :=
  .next (receive s 0x0507 m)

/-- PORT_CONFIG (R356). Sets a static IPv4 address, an IPv6 global address or the QoS word, after responding. -/
def execPortConfig (m : Msg) (s : State) : Res :=
  .next (receive s 0x0508 m)

/-- CAP_SET (R391). Sets the module power cap, staged when apply is given. -/
def execCapSet (m : Msg) (s : State) : Res :=
  .next (receive s 0x0601 m)

/-- POOL_SET (R392). Sets a job's power pool, floor and ceiling under a change hold across the job. -/
def execPoolSet (m : Msg) (s : State) : Res :=
  .next (receive s 0x0602 m)

/-- REGION_READY (R240). Holds regions Ready or releases that hold. -/
def execRegionReady (m : Msg) (s : State) : Res :=
  .next (receive s 0x0603 m)

/-- POWER_GET (R406). Returns the power and thermal registers. -/
def execPowerGet (m : Msg) (s : State) : Res :=
  .next (receive s 0x0604 m)

/-- REG_READ (R355). Reads listed registers within the session's rights. -/
def execRegRead (m : Msg) (s : State) : Res :=
  .next (receive s 0x0701 m)

/-- REG_WRITE (R355). Writes listed registers within the session's rights, staged when apply is given. -/
def execRegWrite (m : Msg) (s : State) : Res :=
  .next (receive s 0x0702 m)

/-- DIGEST_GET (R352). Returns the digest entries of a bucket instance. -/
def execDigestGet (m : Msg) (s : State) : Res :=
  .next (receive s 0x0703 m)

/-- LOG_READ (R417). Returns fault records from an index and the next index. -/
def execLogRead (m : Msg) (s : State) : Res :=
  .next (receive s 0x0801 m)

/-- LOG_CLEAR (R417). Empties the fault-log ring and its persistent part. -/
def execLogClear (m : Msg) (s : State) : Res :=
  .next (receive s 0x0802 m)

/-- RESET (R357). Requests a module reset or a reset of named regions. -/
def execResetw (m : Msg) (s : State) : Res :=
  .next (receive s 0x0803 m)

/-- TEST_WRITE (R449). Writes test-block registers in a test session. -/
def execTestWrite (m : Msg) (s : State) : Res :=
  .next (receive s 0x0901 m)

/-- TEST_READ (R449). Reads test-block registers in a test session. -/
def execTestRead (m : Msg) (s : State) : Res :=
  .next (receive s 0x0902 m)

/-- FW_BEGIN (R437). Begins staging a firmware image. -/
def execFwBegin (m : Msg) (s : State) : Res :=
  .next (receive s 0x0A01 m)

/-- FW_WRITE (R437). Writes a piece of the staged firmware image. -/
def execFwWrite (m : Msg) (s : State) : Res :=
  .next (receive s 0x0A02 m)

/-- FW_COMMIT (R437). Verifies the staged image and writes it to the slot not booted. -/
def execFwCommit (m : Msg) (s : State) : Res :=
  .next (receive s 0x0A03 m)

/-- FW_ACTIVATE (R437). Writes the boot record for a valid slot and resets the module into it. -/
def execFwActivate (m : Msg) (s : State) : Res :=
  .next (receive s 0x0A04 m)

/-- UNKNOWN_COMMAND (R352). A request with a code outside the table of commands. -/
def execUnknownCommand (m : Msg) (code : BitVec 16) (s : State) : Res :=
  .next (receive s code m)

/-- SEND_TO_BUSY_MAILBOX (R330). A SEND that fills no buffer: an RNR NAK where the mailbox holds a request, and 0x61 where the SEND is too short for one. -/
def execSendToBusyMailbox (q : Fin 64) (psn : BitVec 24) (bytes : Marked Nat) (s : State) : Res :=
  .next (busySend s q.val psn bytes.val bytes.ce bytes.tag)

/-- SESSION_IDLE_CLOSE (R351). An idle session is closed as by SESSION_CLOSE. -/
def execSessionIdleClose (session : Word) (s : State) : Res :=
  .next (drain (idleClose s session))

/-- DEBUG_EXPIRY (R446). The debug session ends at its time. -/
def execDebugExpiry (s : State) : Res :=
  .next (debugEnds s)

end Sys2Proof.Machine
end

