-- ==== Sys2Proof/Machine/MemoryCmds.lean ====
section
/-! DEFINITION. Meanings of the memory instructions and of the arrivals of traffic (spec/08_instruction_reference.md R192 to R194; spec/09_scratchpad_hbm.md R200 to R219). -/
namespace Sys2Proof.Machine

/-- LD (R192). Loads a word. -/
def execLd (c : CellId) (p : Pred) (rd ra : AReg) (imm : BitVec 16) (s : State) : Res :=
  .next (dispatch s (cellKey c) p (.ld rd ra imm))

/-- ST (R192). Copies bytes locally, or stores a word. -/
def execSt (c : CellId) (p : Pred) (f : StF) (s : State) : Res :=
  .next (dispatch s (cellKey c) p (.st f))

/-- PUT (R192). Posts a remote write. -/
def execPutw (c : CellId) (p : Pred) (f : PutF) (s : State) : Res :=
  .next (dispatch s (cellKey c) p (.put f))

/-- GET (R192). Reads data of another cell. -/
def execGetw (c : CellId) (p : Pred) (f : XferF) (s : State) : Res :=
  .next (dispatch s (cellKey c) p (.get f))

/-- ACCW (R192, R213). Posts a remote accumulate-on-write. -/
def execAccw (c : CellId) (p : Pred) (f : PutF) (acc : BitVec 2) (s : State) : Res :=
  .next (dispatch s (cellKey c) p (.accw f acc))

/-- HBMRD (R192, R216). Reads HBM blocks. -/
def execHbmrd (c : CellId) (p : Pred) (f : XferF) (s : State) : Res :=
  .next (dispatch s (cellKey c) p (.hbmrd f))

/-- HBMWR (R192, R216). Writes HBM blocks. -/
def execHbmwr (c : CellId) (p : Pred) (f : XferF) (s : State) : Res :=
  .next (dispatch s (cellKey c) p (.hbmwr f))

/-- TAGSET (R205). Marks slots full. -/
def execTagset (c : CellId) (p : Pred) (ra rn : AReg) (s : State) : Res :=
  .next (dispatch s (cellKey c) p (.tagset true ra rn))

/-- TAGCLR (R205). Marks slots empty. -/
def execTagclr (c : CellId) (p : Pred) (ra rn : AReg) (s : State) : Res :=
  .next (dispatch s (cellKey c) p (.tagset false ra rn))

/-- TAG_BLOCK_RELEASE (R205). A blocked access goes on once its slot has changed. -/
def execTagBlockRelease (c : CellId) (b : Blocked) (cycles : Nat) (s : State) : Res :=
  .next (releaseBlock s (cellKey c) b cycles)

/-- TAG_WAIT_TIMEOUT (R209). A blocked access ends with class 0x0411 or 0x0412. -/
def execTagWaitTimeout (c : CellId) (b : Blocked) (cycles : Nat) (s : State) : Res :=
  .next (timeoutBlock s (cellKey c) b cycles)

/-- REMOTE_PUT_ARRIVAL (R206). A PUT slot lands, or the port holds it. -/
def execRemotePutArrival (id : Nat) (s : State) : Res :=
  
  match s.arriving id with
  | some (.write w) => .next (if w.acc.isNone then arriveWrite s id w else s)
  | _ => .next s

/-- ACCW_ARRIVAL (R213). An ACCW slot is added into its destination. -/
def execAccwArrival (id : Nat) (s : State) : Res :=
  
  match s.arriving id with
  | some (.write w) => .next (if w.acc.isSome then arriveWrite s id w else s)
  | _ => .next s

/-- GET_REQUEST_ARRIVAL (R206). The remote cell reads the source slots. -/
def execGetRequestArrival (id : Nat) (s : State) : Res :=
  
  match s.arriving id with
  | some (.getReq k seq a dst n ctr) => .next (serveGet s id k seq a dst n ctr)
  | _ => .next s

/-- GET_DATA_ARRIVAL (R206). GET data are written into the requester. -/
def execGetDataArrival (id : Nat) (s : State) : Res :=
  
  match s.arriving id with
  | some (.getData k seq dst data tag poison ctr) => .next (settle (arriveData s id k seq dst data tag poison ctr) k)
  | _ => .next s

/-- HBM_READ_DATA (R217, R219). HBM read data are written into local slots. -/
def execHbmReadData (d : ReadBack) (s : State) : Res :=
  match s.arriving d.id with
  | some (.hbmRead k seq a dst ctr) => .next (settle (hbmReadArrive s d.id k seq a dst ctr d.upset) k)
  | _ => .next s

/-- HBM_WRITE_ACK (R216). An HBM write block is acknowledged. -/
def execHbmWriteAck (id : Nat) (s : State) : Res :=
  
  match s.arriving id with
  | some (.hbmWrite k seq a data tag poison ctr) => .next (settle (hbmWriteArrive s id k seq a data tag poison ctr) k)
  | _ => .next s

/-- REMOTE_WRITE_ACK (R157). The acknowledgement of a remote write reaches the writer. -/
def execRemoteWriteAck (id : Nat) (s : State) : Res :=
  
  match s.arriving id with
  | some (.ack k seq) => .next (settle ((s.land id).modCell k fun c => c.outstDone seq) k)
  | _ => .next s

end Sys2Proof.Machine
end

