-- ==== Sys2Proof/Machine/PowerCmds.lean ====
section
/-! DEFINITION. Meanings of the events of power, droop and thermal control (spec/17_power_thermal.md). -/
namespace Sys2Proof.Machine

/-- ESTIMATOR_SAMPLE (R385). A block estimator forms its dynamic energy. -/
def execEstimatorSample (r : Fin 16) (b : Fin 150) (counts : List Nat) (s : State) : Res :=
  .next (estimatorSample s r.val b.val counts)

/-- POWER_CALIBRATION (R386). Factors are fitted and the energy of the window divided. -/
def execPowerCalibration (inputUj : Nat) (fits : List RegionFit) (s : State) : Res :=
  .next (powerCalibration s inputUj fits)

/-- INPUT_SAMPLE (R387). The input is sampled and checked. -/
def execInputSample (mv ma : Nat) (s : State) : Res :=
  .next (inputSample s mv ma)

/-- CAP_LOOP (R391). The cap loop runs. -/
def execCapLoop (s : State) : Res :=
  .next (capLoop s)

/-- RAIL_SETTLED (R389). The rail has reached its setpoint. -/
def execRailSettled (r : Fin 16) (s : State) : Res :=
  .next (railSettled s r.val)

/-- SLEW_DONE (R367). A slew has reached its target. -/
def execSlewDone (r : Fin 16) (s : State) : Res :=
  .next (slewDone s r.val)

/-- ACTIVITY_RAMP_MARK (R395). The region sets its activity allowance. -/
def execActivityRampMark (r : Fin 16) (held : Nat) (s : State) : Res :=
  .next (rampMark s r.val held)

/-- DROOP_ASSERT (R396). A droop detector asserts. -/
def execDroopAssert (r : Fin 16) (b : Fin 150) (det : Fin 4) (sustained : Bool) (s : State) : Res :=
  .next (droopAssert s r.val b.val det.val sustained)

/-- DROOP_RELEASE (R396). A droop detector releases. -/
def execDroopRelease (r : Fin 16) (b : Fin 150) (det : Fin 4) (s : State) : Res :=
  .next (s.modBlk (blkKey r.val b.val) fun x => { x with droop := setBit x.droop det.val false })

/-- STRETCH_END (R396). The droop stretch ends. -/
def execStretchEnd (r : Fin 16) (cycles : Nat) (s : State) : Res :=
  .next (stretchEnd s r.val cycles)

/-- DROOP_QUIET (R398). Droop has been quiet for 1 µs. -/
def execDroopQuiet (r : Fin 16) (s : State) : Res :=
  .next (droopQuiet s r.val)

/-- DROOP_CEILING_RECOVER (R397). The droop ceiling rises one point. -/
def execDroopCeilingRecover (r : Fin 16) (s : State) : Res :=
  .next (retarget (s.modRpwr r.val fun x => { x with droopCeil := min 11 (x.droopCeil + 1) }) r.val)

/-- TEMP_SENSOR_READ (R401). The block sensors are read. -/
def execTempSensorRead (r : Fin 16) (temps : List Nat) (s : State) : Res :=
  .next (if (s.rgn r.val).awake then judgeTemps (s.modRpwr r.val fun x => { x with temps := temps }) r.val else s)

/-- HBM_TEMP_READ (R401). The stack sensor is read. -/
def execHbmTempRead (r : Fin 16) (temp : Nat) (s : State) : Res :=
  .next (if (s.rgn r.val).awake then judgeTemps (s.modRpwr r.val fun x => { x with hbmTemp := temp }) r.val else s)

/-- ALERT_N_RELEASE (R466). ALERT_N is released once nothing holds it. -/
def execAlertNRelease (s : State) : Res :=
  .next (if s.alertCause then s else s.modClk fun c => { c with alert := false })

end Sys2Proof.Machine
end

