-- ==== Sys2Proof/Machine/RegCmds.lean ====
section
/-! DEFINITION. Meanings of register accesses and of injections (spec/00_scope.md R5 to R9; spec/20_perturbation_counters.md R454). -/
namespace Sys2Proof.Machine

/-- Register base of a cue (R268, R423). -/
def cueBase (s : State) (i : Nat) : Nat :=
  let r := if i < 128 then s.hub.hostRgn else i / 512
  0x300000000000 + r * 2 ^ 32 + 0x100000 + 16 * (i % 512)

/-- SLOT_VIEW_WRITE (R51). A word is written through the slot view. -/
def execSlotViewWrite (q : Requester) (c : CellId) (off : BitVec 12) (v : Word) (s : State) : Res :=
  .next (writeAccess s q (cellBase (cellKey c) + 0xF000 + off.toNat) 4 v)

/-- DBG_HALT_WRITE (R167). A debug session halts or resumes dispatch. -/
def execDbgHaltWrite (q : Requester) (c : CellId) (halt : Bool) (s : State) : Res :=
  .next (writeAccess s q (cellBase (cellKey c) + 0xE600) 4 (BitVec.ofNat 32 (b2n halt)))

/-- DBG_STEP (R167). One instruction is dispatched while the cell is debug-halted. -/
def execDbgStep (q : Requester) (c : CellId) (s : State) : Res :=
  .next (writeAccess s q (cellBase (cellKey c) + 0xE600) 4 (BitVec.ofNat 32 (2 + b2n (s.cell (cellKey c)).seq.dbgHalt)))

/-- CELL_RESET (R376). The named cells are reset. -/
def execCellReset (q : Requester) (r : Fin 16) (b : Fin 150) (n : Fin 4) (cells : Word) (s : State) : Res :=
  .next (writeAccess s q (0x200000000000 + r.val * 2 ^ 32 + b.val * 2 ^ 24 + 0x1000D0 + 4 * n.val) 4 cells)

/-- CLK_RGN_CTRL_WRITE (R367). The target clocks of a region are written. -/
def execClkRgnCtrlWrite (q : Requester) (r : Fin 16) (v : Word) (s : State) : Res :=
  .next (writeAccess s q (0x300000000000 + r.val * 2 ^ 32 + 0x200) 4 v)

/-- RGN_CUE_ADD_WRITE (R257). The value is added to the cue. -/
def execRgnCueAddWrite (q : Requester) (cue : Fin 8192) (v : Word) (s : State) : Res :=
  .next (writeAccess s q (cueBase s cue.val + 4) 4 v)

/-- COUNTER_READ_CLEAR (R7). An RC counter is read and cleared. -/
def execCounterReadClear (q : Requester) (addr : BitVec 48) (s : State) : Res :=
  .next (readOut s q addr.toNat)

/-- REG64_LOW_READ (R6). The low word of a 64-bit register is read, and the high word latched. -/
def execReg64LowRead (q : Requester) (addr : BitVec 48) (s : State) : Res :=
  .next (readOut s q addr.toNat)

/-- REGISTER_WRITE (R5). A register is written. -/
def execRegisterWrite (q : Requester) (addr : BitVec 48) (size : Nat) (v : Word) (s : State) : Res :=
  .next (writeAccess s q addr.toNat size v)

/-- INJECTION_GO (R454). An injection is armed. -/
def execInjectionGo (q : Requester) (v : Word) (s : State) : Res :=
  .next (writeAccess s q 0x400000600048 4 (v ||| 0x10000))

/-- INJECTION_APPLY (R454). A pending injection is applied. -/
def execInjectionApply (s : State) : Res :=
  .next (injectApply s)

end Sys2Proof.Machine
end

