-- ==== Sys2Proof/Machine/ScalarCmds.lean ====
section
/-! DEFINITION. Meanings of the scalar instructions (spec/08_instruction_reference.md R180). -/
namespace Sys2Proof.Machine

/-- LI (R180). Loads an immediate. -/
def execLi (c : CellId) (p : Pred) (rd : AReg) (imm : Word) (s : State) : Res :=
  .next (dispatch s (cellKey c) p (.li rd imm))

/-- ADD (R180). Adds two registers modulo 2^32. -/
def execAddw (c : CellId) (p : Pred) (rd ra rb : AReg) (s : State) : Res :=
  .next (dispatch s (cellKey c) p (.alu .add rd ra rb))

/-- ADDI (R180). Adds a sign-extended immediate. -/
def execAddi (c : CellId) (p : Pred) (rd ra : AReg) (imm : BitVec 24) (s : State) : Res :=
  .next (dispatch s (cellKey c) p (.addi rd ra imm))

/-- SUB (R180). Subtracts. -/
def execSubw (c : CellId) (p : Pred) (rd ra rb : AReg) (s : State) : Res :=
  .next (dispatch s (cellKey c) p (.alu .sub rd ra rb))

/-- SHL (R180). Shifts left. -/
def execShl (c : CellId) (p : Pred) (f : ShiftF) (s : State) : Res :=
  .next (dispatch s (cellKey c) p (.shift false f))

/-- SHR (R180). Shifts right, logically or arithmetically. -/
def execShr (c : CellId) (p : Pred) (f : ShiftF) (s : State) : Res :=
  .next (dispatch s (cellKey c) p (.shift true f))

/-- AND (R180). Bitwise AND. -/
def execAndw (c : CellId) (p : Pred) (rd ra rb : AReg) (s : State) : Res :=
  .next (dispatch s (cellKey c) p (.alu .and rd ra rb))

/-- OR (R180). Bitwise OR. -/
def execOrw (c : CellId) (p : Pred) (rd ra rb : AReg) (s : State) : Res :=
  .next (dispatch s (cellKey c) p (.alu .or rd ra rb))

/-- CMP (R180). Compares and writes a predicate. -/
def execCmp (c : CellId) (p : Pred) (f : CmpF) (s : State) : Res :=
  .next (dispatch s (cellKey c) p (.cmp f))

end Sys2Proof.Machine
end

