-- ==== Sys2Proof/Machine/ScrubCmds.lean ====
section
/-! DEFINITION. Meanings of the scrub events (spec/03_cim_cell.md R61, R68; spec/09_scratchpad_hbm.md R220; spec/18_faults_fencing.md R419). -/
namespace Sys2Proof.Machine

/-- ARRAY_SCRUB (R68). The array scrubber reads one row of a slot. -/
def execArrayScrub (c : CellId) (slot : BitVec 1) (row : Fin 128) (upset : List Nat) (s : State) : Res :=
  .next (s.fx (cellKey c) fun x => scrubArray x slot.toNat row.val (s.recTick (cellRgn (cellKey c))) upset)

/-- SCRUB_ROW_REWRITE (R61). Deferred rewrites of a slot are made. -/
def execScrubRowRewrite (c : CellId) (slot : BitVec 1) (s : State) : Res :=
  .next (s.modCell (cellKey c) fun x => scrubRewrite x slot.toNat)

/-- SPM_SCRUB (R220). The scratchpad scrubber reads one weight-class slot. -/
def execSpmScrub (c : CellId) (piece : Fin 896) (upset : List Nat) (s : State) : Res :=
  .next (s.fx (cellKey c) fun x => scrubSpm x piece.val upset)

/-- HBM_PATROL (R220). The controller patrols one block of its stack. -/
def execHbmPatrol (r : Fin 16) (block : Nat) (upset : List Nat) (s : State) : Res :=
  .next (patrolHbm s r.val block upset)

/-- ISTORE_SCRUB (R419). One line of an instruction store is scrubbed. -/
def execIstoreScrub (r : Fin 16) (b : Fin 150) (line : Fin 2048) (upset : List Nat) (s : State) : Res :=
  .next (checkLine s (blkKey r.val b.val) line.val upset)

end Sys2Proof.Machine
end

