-- ==== Sys2Proof/Machine/Startup.lean ====
section
/-! DEFINITION. Start-up, step by step, and events of clocks and supply (spec/16_clocks_reset_startup.md R364 to R381; spec/21_electrical_mechanical.md R460 to R467). -/
namespace Sys2Proof.Machine

/-- PWR_EN takes effect on the stages (R379, R465, R466). -/
def powerUp (s : State) : State :=
  let c := s.hub.clk
  if c.stage == .standby && c.pwrEn && c.bulk && c.inRange then s.modClk fun k => { k with stage := .rails } else s

/-- PWR_EN has fallen (R381): firmware faults every job, and the rails go. -/
def powerDown (s : State) : State :=
  let c := s.hub.clk
  if c.pwrEn || !c.stage.powered then s
  else
    let s := if c.hubReady then faultAll s (s.resetRec 1 5) else s
    (warmReset s 5).modClk fun k => { k with stage := .standby, pgOut := false, refAbsent := false }

/-- IN_RST_N has been low for a time (R374): under 100 ns ignored, from 1 µs taken, between them either. -/
def rstAssert (s : State) (ns : Nat) : State :=
  let c := s.hub.clk
  let s := if 100 ≤ ns ∧ ns < 1000 then s.modClk fun k => { k with pulses := k.pulses + 1 } else s
  let taken := Nat.ble 1000 ns || (Nat.ble 100 ns && Config.shortPulseTaken c.pulses)
  if !taken || c.stage == .off then s
  else
    let s := if c.stage.powered && c.stage != .rails && !c.blackout then warmReset s 2 else s
    s.modClk fun k => { k with rstLow := true }

/-- IN_RST_N rises (R374): the warm reset ends, and a trip blackout too where the sensors are cool. -/
def rstRelease (s : State) (cool : Bool) : State :=
  if !s.hub.clk.rstLow then s
  else
    let s := s.modClk fun k => { k with rstLow := false }
    if s.hub.clk.trip && cool then
      s.modClk fun k => { k with trip := false, nextCause := 2, warmCount := if k.warmCount = 255 then 255 else k.warmCount + 1 }
    else s

/-- The hub leaves reset (R379, R467): REFCLK is good, no blackout, IN_RST_N high; the straps are sampled. -/
def leaveReset (s : State) (straps : BitVec 6) (pairA pairB : Bool) : State :=
  let c := s.hub.clk
  if c.stage == .waitRef && c.refOk && c.sclkOk && !c.blackout && !c.rstLow then
    s.modClk fun k => { k with stage := .waitPll, cause := k.nextCause, slotId := straps, pairASeen := pairA, pairBSeen := pairB, refAbsent := false }
  else s

/-- The hub PLL locks (R370, R379): the boot ROM runs, or a blackout of the PLL ends. -/
def pllLocked (s : State) : State :=
  let c := s.hub.clk
  if c.stage == .waitPll then
    let r := s.hub.sec.boot
    (s.modSec fun _ => r.1).modClk fun k => { k with pclk := true, stage := if r.2 then .boot else .bootFailed }
  else if c.pllFailed then clockRestart (s.modClk fun k => { k with pllFailed := false })
  else s

/-- Hub ready (R379): records that waited, the record of the reset, repairs, ports in Down, and what firmware does for the measured boot. -/
def hubStart (s : State) : State :=
  let c := s.hub.clk
  if c.stage != .boot then s
  else
    let s := (s.modClk fun k => { k with stage := .ready, hubReady := true }).modHub fun h => { h with tick := 0 }
    let s := s.flt.due.foldl State.log (s.modFlt fun l => { l with due := [] })
    let kind := if c.cause = 1 then 0 else if c.cause = 3 then 2 else 1
    let s := s.log (s.resetRec kind c.cause.toNat)
    let s := (List.range 16).foldl applyRepairs s
    let s := (List.range 16).foldl (fun s r => s.modRgn r fun g => { g with linkUp := s.linksOf r }) s
    let s := ((List.range 24).filter s.portExists).foldl (fun s p => s.modPort p fun x => { x with state := 1 }) (s.modFab fun f => { f with locked := true })
    secureReady s

/-- A changeover is forced (R369). -/
def forced (s : State) (d : ClockDomain) : State :=
  match d with
  | .hub =>
    if s.hub.clk.stage == .waitPll || s.hub.clk.stage == .boot then
      let c := s.unitRec 3 0x0802 none none [0]
      (s.modFlt fun l => { l with due := l.due ++ [c] }).modClk fun k => { k with forcedSeen := true, pclk := false, stage := .waitPll }
    else s
  | .alwaysOn =>
    let c := s.unitRec 3 0x0802 none none [1]
    let s := if s.hub.clk.hubReady then s.log c else s.modFlt fun l => { l with due := l.due ++ [c] }
    s.modClk fun k => { k with forcedSeen := true, goodWindows := 0 }
  | .region r => forceRegion s r.val

/-- The module trips (R403): blackout, TRIP_N, class 0x0712 with die and site in the persistent part. -/
def tripNow (s : State) (die site : Byte) : State :=
  let c := s.hub.clk
  if c.stage == .off || c.stage == .porHold || c.trip then s
  else (enterBlackout s 0x0712 [die, site]).modClk fun k => { k with trip := true }

/-- The always-on domain runs: power is in range and its hold is over. -/
def State.aon (s : State) : Bool := s.hub.clk.stage != .off && s.hub.clk.stage != .porHold

end Sys2Proof.Machine
end

