-- ==== Sys2Proof/Machine/StartCmds.lean ====
section
/-! DEFINITION. Meanings of the events of clocks, resets and the supply (spec/16_clocks_reset_startup.md; spec/21_electrical_mechanical.md). -/
namespace Sys2Proof.Machine

/-- CLOCK_JUDGE_WINDOW (R364). The counters judge both clocks at the end of a window. -/
def execClockJudgeWindow (refCount sclkCount : Nat) (s : State) : Res :=
  .next (if s.aon then judgeWindow s refCount sclkCount else s)

/-- CLOCK_STOP_DETECT (R364). A clock has stopped. -/
def execClockStopDetect (k : ClockName) (s : State) : Res :=
  .next (if s.aon then clockFails s 0 k else s)

/-- FORCED_CHANGEOVER (R369). A changeover is forced. -/
def execForcedChangeover (d : ClockDomain) (s : State) : Res :=
  .next (if s.aon then forced s d else s)

/-- HUB_PLL_LOCK_LOSS (R370). The hub PLL loses lock: blackout with class 0x0804. -/
def execHubPllLockLoss (s : State) : Res :=
  .next (if s.hub.clk.pclk then (enterBlackout s 0x0804 []).modClk fun k => { k with pllFailed := true } else s)

/-- REGION_PLL_LOCK_LOSS (R370). A region's compute PLL loses lock. -/
def execRegionPllLockLoss (r : Fin 16) (s : State) : Res :=
  .next (regionPllLoss s r.val)

/-- REGION_PLL_RELOCK_ATTEMPT (R370). A relock attempt ends. -/
def execRegionPllRelockAttempt (r : Fin 16) (ok : Bool) (s : State) : Res :=
  .next (relockAttempt s r.val ok)

/-- STANDBY_PLL_LOCK_LOSS (R370). A standby PLL loses lock: the region is Failed. -/
def execStandbyPllLockLoss (r : Fin 16) (s : State) : Res :=
  .next (standbyLoss s r.val)

/-- THERMAL_TRIP (R403). A trip comparator forces blackout. -/
def execThermalTrip (die site : Byte) (s : State) : Res :=
  .next (tripNow s die site)

/-- INPUT_ENTER_RANGE (R372). The input enters its range: power-on reset. -/
def execInputEnterRange (s : State) : Res :=
  .next (if s.hub.clk.stage == .off then coldState s .porHold true else s)

/-- POR_HOLD_END (R379). The hold ends: the always-on domain runs on SCLK. -/
def execPorHoldEnd (s : State) : Res :=
  .next (if s.hub.clk.stage == .porHold then s.modClk fun k => { k with stage := .standby, sclkOk := true } else s)

/-- BULK_CHARGED (R460). The bulk capacitance is charged. -/
def execBulkCharged (s : State) : Res :=
  .next (if s.hub.clk.stage == .off then s else s.modClk fun k => { k with bulk := true })

/-- PWR_EN_SETTLE (R465). A level of PWR_EN that has held for 1 ms takes effect. -/
def execPwrEnSettle (high : Bool) (s : State) : Res :=
  .next (if s.hub.clk.stage == .off then s else s.modClk fun k => { k with pwrEn := high })

/-- PWR_EN_RISE (R379). The conversion stages come up. -/
def execPwrEnRise (s : State) : Res :=
  .next (powerUp s)

/-- PWR_EN_FALL (R381). Every job faults and the rails go. -/
def execPwrEnFall (s : State) : Res :=
  .next (powerDown s)

/-- IN_RST_N_ASSERT (R374). IN_RST_N low starts a warm reset. -/
def execInRstNAssert (ns : Nat) (s : State) : Res :=
  .next (rstAssert s ns)

/-- IN_RST_N_RELEASE (R374). IN_RST_N rises: the warm reset, or a trip blackout, ends. -/
def execInRstNRelease (cool : Bool) (s : State) : Res :=
  .next (rstRelease s cool)

/-- UNDERVOLTAGE_LOCKOUT (R461). Every rail goes. -/
def execUndervoltageLockout (s : State) : Res :=
  .next (if s.hub.clk.stage == .off then s else coldState s .off false)

/-- OVERVOLTAGE_LOCKOUT (R461). Every rail goes. -/
def execOvervoltageLockout (s : State) : Res :=
  .next (if s.hub.clk.stage == .off then s else coldState s .off false)

/-- LOCKOUT_RECOVERY (R461). The input has been in range: power-on reset. -/
def execLockoutRecovery (s : State) : Res :=
  .next (if s.hub.clk.stage == .off then coldState s .porHold true else s)

/-- RAILS_GOOD (R379). Every rail is good: PG_OUT is released. -/
def execRailsGood (s : State) : Res :=
  .next (if s.hub.clk.stage == .rails then s.modClk fun k => { k with stage := .waitRef, pgOut := true } else s)

/-- REFCLK_ABSENT_TIMEOUT (R379). REFCLK is absent: FAULT_N. -/
def execRefclkAbsentTimeout (s : State) : Res :=
  .next (if s.hub.clk.stage == .waitRef && !s.hub.clk.refOk then s.modClk fun k => { k with refAbsent := true } else s)

/-- HUB_LEAVE_RESET (R379). The hub leaves reset and samples its straps. -/
def execHubLeaveReset (straps : BitVec 6) (pairA pairB : Bool) (s : State) : Res :=
  .next (leaveReset s straps pairA pairB)

/-- HUB_PLL_LOCKED (R379). The hub PLL locks and the boot ROM runs. -/
def execHubPllLocked (s : State) : Res :=
  .next (pllLocked s)

/-- HUB_READY (R379). Firmware reaches hub ready. -/
def execHubReady (s : State) : Res :=
  .next (hubStart s)

end Sys2Proof.Machine
end

