-- ==== Sys2Proof/Machine/VectorCmds.lean ====
section
/-! DEFINITION. Meanings of the vector instructions (spec/08_instruction_reference.md R185 to R190). -/
namespace Sys2Proof.Machine

/-- VADD (R186). Element-wise addition. -/
def execVadd (c : CellId) (p : Pred) (f : VecF) (s : State) : Res :=
  .next (dispatch s (cellKey c) p (.vec .add f))

/-- VMUL (R186). Element-wise multiplication. -/
def execVmul (c : CellId) (p : Pred) (f : VecF) (s : State) : Res :=
  .next (dispatch s (cellKey c) p (.vec .mul f))

/-- VFMA (R186). Element-wise fused multiply-add. -/
def execVfma (c : CellId) (p : Pred) (f : VecF) (s : State) : Res :=
  .next (dispatch s (cellKey c) p (.vec .fma f))

/-- VMAX (R186). Element-wise maximum. -/
def execVmax (c : CellId) (p : Pred) (f : VecF) (s : State) : Res :=
  .next (dispatch s (cellKey c) p (.vec .max f))

/-- VMIN (R186). Element-wise minimum. -/
def execVmin (c : CellId) (p : Pred) (f : VecF) (s : State) : Res :=
  .next (dispatch s (cellKey c) p (.vec .min f))

/-- VEXP2 (R187). 2^x rounded once. -/
def execVexp2 (c : CellId) (p : Pred) (f : VecF) (s : State) : Res :=
  .next (dispatch s (cellKey c) p (.vec .exp2 f))

/-- VRCP (R187). Reciprocal rounded once. -/
def execVrcp (c : CellId) (p : Pred) (f : VecF) (s : State) : Res :=
  .next (dispatch s (cellKey c) p (.vec .rcp f))

/-- VRSQ (R187). Reciprocal square root rounded once. -/
def execVrsq (c : CellId) (p : Pred) (f : VecF) (s : State) : Res :=
  .next (dispatch s (cellKey c) p (.vec .rsq f))

/-- VCVT (R188). Converts between formats. -/
def execVcvt (c : CellId) (p : Pred) (f : VecF) (s : State) : Res :=
  .next (dispatch s (cellKey c) p (.vec .cvt f))

/-- VHAD (R114, R190). Walsh-Hadamard transform. -/
def execVhad (c : CellId) (p : Pred) (f : VecF) (s : State) : Res :=
  .next (dispatch s (cellKey c) p (.vec .had f))

/-- VSCL_CONVERT (R189). Converts under an explicit scale record. -/
def execVsclConvert (c : CellId) (p : Pred) (f : VecF) (s : State) : Res :=
  .next (dispatch s (cellKey c) p (.vec .sclConvert f))

/-- VSCL_DERIVE (R189). Derives a palette's scale from the source. -/
def execVsclDerive (c : CellId) (p : Pred) (f : VecF) (s : State) : Res :=
  .next (dispatch s (cellKey c) p (.vec .sclDerive f))

/-- VSCL_PUSH (R109, R189). Closes a palette's step. -/
def execVsclPush (c : CellId) (p : Pred) (f : VecF) (s : State) : Res :=
  .next (dispatch s (cellKey c) p (.vec .sclPush f))

/-- VSCL_PUSH_ADVANCE (R109, R189). Closes a palette's step and advances its tensor identifier. -/
def execVsclPushAdvance (c : CellId) (p : Pred) (f : VecF) (s : State) : Res :=
  .next (dispatch s (cellKey c) p (.vec .sclPushAdvance f))

/-- VSCL_MERGE (R107, R189). Merges the statistics of two palettes. -/
def execVsclMerge (c : CellId) (p : Pred) (f : VecF) (s : State) : Res :=
  .next (dispatch s (cellKey c) p (.vec .sclMerge f))

/-- VSTAT (R190). Adds statistics to a palette, or keeps per-channel amax. -/
def execVstat (c : CellId) (p : Pred) (f : VecF) (s : State) : Res :=
  .next (dispatch s (cellKey c) p (.vec .stat f))

/-- VPRUNE24 (R140). Keeps the two largest of each four elements. -/
def execVprune24 (c : CellId) (p : Pred) (f : VecF) (s : State) : Res :=
  .next (dispatch s (cellKey c) p (.vec .prune24 f))

/-- VRED (R190). Reduces m elements. -/
def execVred (c : CellId) (p : Pred) (f : VecF) (s : State) : Res :=
  .next (dispatch s (cellKey c) p (.vec .red f))

end Sys2Proof.Machine
end

