-- ==== Sys2Proof/Machine/Dispatch.lean ====
section
/-! DEFINITION. The meaning of every command: one arm per constructor of Instr, each one direct call. -/
namespace Sys2Proof.Machine

/-- The effect of a command on everything but the queue. -/
def exec (i : Instr) (s : State) : Host.Outcome State Fault Refusal :=
  match i with
  | .nop c p => Sys2Proof.Machine.execNop c p s
  | .halt c p => Sys2Proof.Machine.execHalt c p s
  | .loopw c p f => Sys2Proof.Machine.execLoopw c p f s
  | .endloop c p ln => Sys2Proof.Machine.execEndloop c p ln s
  | .br c p offset => Sys2Proof.Machine.execBr c p offset s
  | .brp c p ra => Sys2Proof.Machine.execBrp c p ra s
  | .cuewait c p f => Sys2Proof.Machine.execCuewait c p f s
  | .cuewaitSatisfied c cycles => Sys2Proof.Machine.execCuewaitSatisfied c cycles s
  | .cuesig c p f => Sys2Proof.Machine.execCuesig c p f s
  | .cueSignalRelease c => Sys2Proof.Machine.execCueSignalRelease c s
  | .waitc c p f => Sys2Proof.Machine.execWaitc c p f s
  | .waitcSatisfied c cycles => Sys2Proof.Machine.execWaitcSatisfied c cycles s
  | .waitcTimeout c cycles => Sys2Proof.Machine.execWaitcTimeout c cycles s
  | .fence c p scope => Sys2Proof.Machine.execFence c p scope s
  | .fenceRelease c cycles => Sys2Proof.Machine.execFenceRelease c cycles s
  | .setcfg c p f => Sys2Proof.Machine.execSetcfg c p f s
  | .li c p rd imm => Sys2Proof.Machine.execLi c p rd imm s
  | .addw c p rd ra rb => Sys2Proof.Machine.execAddw c p rd ra rb s
  | .addi c p rd ra imm => Sys2Proof.Machine.execAddi c p rd ra imm s
  | .subw c p rd ra rb => Sys2Proof.Machine.execSubw c p rd ra rb s
  | .shl c p f => Sys2Proof.Machine.execShl c p f s
  | .shr c p f => Sys2Proof.Machine.execShr c p f s
  | .andw c p rd ra rb => Sys2Proof.Machine.execAndw c p rd ra rb s
  | .orw c p rd ra rb => Sys2Proof.Machine.execOrw c p rd ra rb s
  | .cmp c p f => Sys2Proof.Machine.execCmp c p f s
  | .reservedInstruction c word => Sys2Proof.Machine.execReservedInstruction c word s
  | .instrLineFetch c waited => Sys2Proof.Machine.execInstrLineFetch c waited s
  | .unitIssue c u waited => Sys2Proof.Machine.execUnitIssue c u waited s
  | .wload c p f => Sys2Proof.Machine.execWload c p f s
  | .slotWriteDone c => Sys2Proof.Machine.execSlotWriteDone c s
  | .mvm c p f seen => Sys2Proof.Machine.execMvm c p f seen s
  | .mvmt c p f seen => Sys2Proof.Machine.execMvmt c p f seen s
  | .swatch c p seen => Sys2Proof.Machine.execSwatch c p seen s
  | .slotinv c p slot => Sys2Proof.Machine.execSlotinv c p slot s
  | .aclr c p tile int => Sys2Proof.Machine.execAclr c p tile int s
  | .apromo c p => Sys2Proof.Machine.execApromo c p s
  | .adrain c p f => Sys2Proof.Machine.execAdrain c p f s
  | .amov c p src dst => Sys2Proof.Machine.execAmov c p src dst s
  | .arot c p form => Sys2Proof.Machine.execArot c p form s
  | .vadd c p f => Sys2Proof.Machine.execVadd c p f s
  | .vmul c p f => Sys2Proof.Machine.execVmul c p f s
  | .vfma c p f => Sys2Proof.Machine.execVfma c p f s
  | .vmax c p f => Sys2Proof.Machine.execVmax c p f s
  | .vmin c p f => Sys2Proof.Machine.execVmin c p f s
  | .vexp2 c p f => Sys2Proof.Machine.execVexp2 c p f s
  | .vrcp c p f => Sys2Proof.Machine.execVrcp c p f s
  | .vrsq c p f => Sys2Proof.Machine.execVrsq c p f s
  | .vcvt c p f => Sys2Proof.Machine.execVcvt c p f s
  | .vhad c p f => Sys2Proof.Machine.execVhad c p f s
  | .vsclConvert c p f => Sys2Proof.Machine.execVsclConvert c p f s
  | .vsclDerive c p f => Sys2Proof.Machine.execVsclDerive c p f s
  | .vsclPush c p f => Sys2Proof.Machine.execVsclPush c p f s
  | .vsclPushAdvance c p f => Sys2Proof.Machine.execVsclPushAdvance c p f s
  | .vsclMerge c p f => Sys2Proof.Machine.execVsclMerge c p f s
  | .vstat c p f => Sys2Proof.Machine.execVstat c p f s
  | .vprune24 c p f => Sys2Proof.Machine.execVprune24 c p f s
  | .vred c p f => Sys2Proof.Machine.execVred c p f s
  | .ld c p rd ra imm => Sys2Proof.Machine.execLd c p rd ra imm s
  | .st c p f => Sys2Proof.Machine.execSt c p f s
  | .putw c p f => Sys2Proof.Machine.execPutw c p f s
  | .getw c p f => Sys2Proof.Machine.execGetw c p f s
  | .accw c p f acc => Sys2Proof.Machine.execAccw c p f acc s
  | .hbmrd c p f => Sys2Proof.Machine.execHbmrd c p f s
  | .hbmwr c p f => Sys2Proof.Machine.execHbmwr c p f s
  | .tagset c p ra rn => Sys2Proof.Machine.execTagset c p ra rn s
  | .tagclr c p ra rn => Sys2Proof.Machine.execTagclr c p ra rn s
  | .csend c p f => Sys2Proof.Machine.execCsend c p f s
  | .crecv c p f => Sys2Proof.Machine.execCrecv c p f s
  | .tagBlockRelease c b cycles => Sys2Proof.Machine.execTagBlockRelease c b cycles s
  | .tagWaitTimeout c b cycles => Sys2Proof.Machine.execTagWaitTimeout c b cycles s
  | .remotePutArrival id => Sys2Proof.Machine.execRemotePutArrival id s
  | .accwArrival id => Sys2Proof.Machine.execAccwArrival id s
  | .getRequestArrival id => Sys2Proof.Machine.execGetRequestArrival id s
  | .getDataArrival id => Sys2Proof.Machine.execGetDataArrival id s
  | .hbmReadData d => Sys2Proof.Machine.execHbmReadData d s
  | .hbmWriteAck id => Sys2Proof.Machine.execHbmWriteAck id s
  | .remoteWriteAck id => Sys2Proof.Machine.execRemoteWriteAck id s
  | .combineGroupAdvance r b ch => Sys2Proof.Machine.execCombineGroupAdvance r b ch s
  | .combineRootDelivery r b ch => Sys2Proof.Machine.execCombineRootDelivery r b ch s
  | .regionCombineStep r ch => Sys2Proof.Machine.execRegionCombineStep r ch s
  | .combineTimeout c => Sys2Proof.Machine.execCombineTimeout c s
  | .arrayScrub c slot row upset => Sys2Proof.Machine.execArrayScrub c slot row upset s
  | .scrubRowRewrite c slot => Sys2Proof.Machine.execScrubRowRewrite c slot s
  | .spmScrub c slot upset => Sys2Proof.Machine.execSpmScrub c slot upset s
  | .hbmPatrol r block upset => Sys2Proof.Machine.execHbmPatrol r block upset s
  | .istoreScrub r b line upset => Sys2Proof.Machine.execIstoreScrub r b line upset s
  | .hubSramScrub corrected lost => Sys2Proof.Machine.execHubSramScrub corrected lost s
  | .slotViewWrite q c off v => Sys2Proof.Machine.execSlotViewWrite q c off v s
  | .dbgHaltWrite q c halt => Sys2Proof.Machine.execDbgHaltWrite q c halt s
  | .dbgStep q c => Sys2Proof.Machine.execDbgStep q c s
  | .cellReset q r b n cells => Sys2Proof.Machine.execCellReset q r b n cells s
  | .clkRgnCtrlWrite q r v => Sys2Proof.Machine.execClkRgnCtrlWrite q r v s
  | .rgnCueAddWrite q cue v => Sys2Proof.Machine.execRgnCueAddWrite q cue v s
  | .counterReadClear q addr => Sys2Proof.Machine.execCounterReadClear q addr s
  | .reg64LowRead q addr => Sys2Proof.Machine.execReg64LowRead q addr s
  | .registerWrite q addr size v => Sys2Proof.Machine.execRegisterWrite q addr size v s
  | .injectionGo q v => Sys2Proof.Machine.execInjectionGo q v s
  | .injectionApply => Sys2Proof.Machine.execInjectionApply s
  | .cue0Timer => Sys2Proof.Machine.execCue0Timer s
  | .epochStart job => Sys2Proof.Machine.execEpochStart job s
  | .epochCheck job => Sys2Proof.Machine.execEpochCheck job s
  | .epochBoundary job => Sys2Proof.Machine.execEpochBoundary job s
  | .changeHoldResend job => Sys2Proof.Machine.execChangeHoldResend job s
  | .changeHoldAck job position => Sys2Proof.Machine.execChangeHoldAck job position s
  | .changeHoldRelease job => Sys2Proof.Machine.execChangeHoldRelease job s
  | .changeHoldLimit job => Sys2Proof.Machine.execChangeHoldLimit job s
  | .heartbeatSend job => Sys2Proof.Machine.execHeartbeatSend job s
  | .heartbeatTimeout job position => Sys2Proof.Machine.execHeartbeatTimeout job position s
  | .announceTimeout job => Sys2Proof.Machine.execAnnounceTimeout job s
  | .jobFaultTake job cls => Sys2Proof.Machine.execJobFaultTake job cls s
  | .flitReceive p fec flit => Sys2Proof.Machine.execFlitReceive p fec flit s
  | .ackTimeout p => Sys2Proof.Machine.execAckTimeout p s
  | .trainingAttempt p => Sys2Proof.Machine.execTrainingAttempt p s
  | .trainingDone p t => Sys2Proof.Machine.execTrainingDone p t s
  | .trainingTimeout p cause => Sys2Proof.Machine.execTrainingTimeout p cause s
  | .partnerRetrain p => Sys2Proof.Machine.execPartnerRetrain p s
  | .packetForward p k => Sys2Proof.Machine.execPacketForward p k s
  | .writePacket p k => Sys2Proof.Machine.execWritePacket p k s
  | .accwPacket p k => Sys2Proof.Machine.execAccwPacket p k s
  | .cuePacket p k => Sys2Proof.Machine.execCuePacket p k s
  | .reducePacket p k => Sys2Proof.Machine.execReducePacket p k s
  | .bcastPacket p k => Sys2Proof.Machine.execBcastPacket p k s
  | .holdPacket p k => Sys2Proof.Machine.execHoldPacket p k s
  | .timeAlign p k => Sys2Proof.Machine.execTimeAlign p k s
  | .timeAnnounce p k => Sys2Proof.Machine.execTimeAnnounce p k s
  | .timeBeat p k => Sys2Proof.Machine.execTimeBeat p k s
  | .identPacket p k => Sys2Proof.Machine.execIdentPacket p k s
  | .mgmtNak p k => Sys2Proof.Machine.execMgmtNak p k s
  | .mgmtUnreachable p k => Sys2Proof.Machine.execMgmtUnreachable p k s
  | .mgmtFirmware p k => Sys2Proof.Machine.execMgmtFirmware p k s
  | .idAssignMessage p a => Sys2Proof.Machine.execIdAssignMessage p a s
  | .idAssignReply p a => Sys2Proof.Machine.execIdAssignReply p a s
  | .idAssignReplyTimeout number => Sys2Proof.Machine.execIdAssignReplyTimeout number s
  | .slackReportReceive job position slack ceiling => Sys2Proof.Machine.execSlackReportReceive job position slack ceiling s
  | .fclkHoldoverEnter => Sys2Proof.Machine.execFclkHoldoverEnter s
  | .fclkHoldoverExit => Sys2Proof.Machine.execFclkHoldoverExit s
  | .fabricSummaryTimer => Sys2Proof.Machine.execFabricSummaryTimer s
  | .bucketContribRead job bucket inst => Sys2Proof.Machine.execBucketContribRead job bucket inst s
  | .bucketResultVisible job bucket inst => Sys2Proof.Machine.execBucketResultVisible job bucket inst s
  | .earlyStoreTimeout k => Sys2Proof.Machine.execEarlyStoreTimeout k s
  | .ethLinkUp => Sys2Proof.Machine.execEthLinkUp s
  | .ethLinkDown => Sys2Proof.Machine.execEthLinkDown s
  | .arpRequest sender target => Sys2Proof.Machine.execArpRequest sender target s
  | .neighbourSolicitation sender target => Sys2Proof.Machine.execNeighbourSolicitation sender target s
  | .routerAdvertisement => Sys2Proof.Machine.execRouterAdvertisement s
  | .icmpEchoRequest v6 sender target body => Sys2Proof.Machine.execIcmpEchoRequest v6 sender target body s
  | .dhcpReply d => Sys2Proof.Machine.execDhcpReply d s
  | .dhcpRetry => Sys2Proof.Machine.execDhcpRetry s
  | .dhcpRenew => Sys2Proof.Machine.execDhcpRenew s
  | .dhcpLeaseExpiry => Sys2Proof.Machine.execDhcpLeaseExpiry s
  | .pfcFrame enable quanta => Sys2Proof.Machine.execPfcFrame enable quanta s
  | .pauseFrame quanta => Sys2Proof.Machine.execPauseFrame quanta s
  | .cnpReceived q => Sys2Proof.Machine.execCnpReceived q s
  | .cmReq r => Sys2Proof.Machine.execCmReq r s
  | .cmRtu q => Sys2Proof.Machine.execCmRtu q s
  | .cmRej q => Sys2Proof.Machine.execCmRej q s
  | .cmDreq q => Sys2Proof.Machine.execCmDreq q s
  | .cmDrep q => Sys2Proof.Machine.execCmDrep q s
  | .qpFreeTimeout q => Sys2Proof.Machine.execQpFreeTimeout q s
  | .rdmaWritePacket w => Sys2Proof.Machine.execRdmaWritePacket w s
  | .rdmaReadRequest w => Sys2Proof.Machine.execRdmaReadRequest w s
  | .rdmaAckReceived q psn syndrome => Sys2Proof.Machine.execRdmaAckReceived q psn syndrome s
  | .qpRetryTimeout q => Sys2Proof.Machine.execQpRetryTimeout q s
  | .sessionIdleClose session => Sys2Proof.Machine.execSessionIdleClose session s
  | .debugExpiry => Sys2Proof.Machine.execDebugExpiry s
  | .identGet m => Sys2Proof.Machine.execIdentGet m s
  | .unitsGet m => Sys2Proof.Machine.execUnitsGet m s
  | .challenge m => Sys2Proof.Machine.execChallenge m s
  | .sessionOpen m => Sys2Proof.Machine.execSessionOpen m s
  | .sessionClose m => Sys2Proof.Machine.execSessionClose m s
  | .quote m => Sys2Proof.Machine.execQuote m s
  | .debugUnlock m => Sys2Proof.Machine.execDebugUnlock m s
  | .mailboxBind m => Sys2Proof.Machine.execMailboxBind m s
  | .bookBegin m => Sys2Proof.Machine.execBookBegin m s
  | .bookWrite m => Sys2Proof.Machine.execBookWrite m s
  | .jobAssign m => Sys2Proof.Machine.execJobAssign m s
  | .jobStart m => Sys2Proof.Machine.execJobStart m s
  | .jobStatus m => Sys2Proof.Machine.execJobStatus m s
  | .jobEnd m => Sys2Proof.Machine.execJobEnd m s
  | .jobKill m => Sys2Proof.Machine.execJobKill m s
  | .jobClaim m => Sys2Proof.Machine.execJobClaim m s
  | .cueAdd m => Sys2Proof.Machine.execCueAdd m s
  | .paletteWrite m => Sys2Proof.Machine.execPaletteWrite m s
  | .stageCancel m => Sys2Proof.Machine.execStageCancel m s
  | .windowRegister m => Sys2Proof.Machine.execWindowRegister m s
  | .windowDeregister m => Sys2Proof.Machine.execWindowDeregister m s
  | .windowList m => Sys2Proof.Machine.execWindowList m s
  | .portSet m => Sys2Proof.Machine.execPortSet m s
  | .neighboursGet m => Sys2Proof.Machine.execNeighboursGet m s
  | .moduleIdSet m => Sys2Proof.Machine.execModuleIdSet m s
  | .routeWrite m => Sys2Proof.Machine.execRouteWrite m s
  | .routeCommit m => Sys2Proof.Machine.execRouteCommit m s
  | .clockSourceSet m => Sys2Proof.Machine.execClockSourceSet m s
  | .idDistribute m => Sys2Proof.Machine.execIdDistribute m s
  | .portConfig m => Sys2Proof.Machine.execPortConfig m s
  | .capSet m => Sys2Proof.Machine.execCapSet m s
  | .poolSet m => Sys2Proof.Machine.execPoolSet m s
  | .regionReady m => Sys2Proof.Machine.execRegionReady m s
  | .powerGet m => Sys2Proof.Machine.execPowerGet m s
  | .regRead m => Sys2Proof.Machine.execRegRead m s
  | .regWrite m => Sys2Proof.Machine.execRegWrite m s
  | .digestGet m => Sys2Proof.Machine.execDigestGet m s
  | .logRead m => Sys2Proof.Machine.execLogRead m s
  | .logClear m => Sys2Proof.Machine.execLogClear m s
  | .resetw m => Sys2Proof.Machine.execResetw m s
  | .testWrite m => Sys2Proof.Machine.execTestWrite m s
  | .testRead m => Sys2Proof.Machine.execTestRead m s
  | .fwBegin m => Sys2Proof.Machine.execFwBegin m s
  | .fwWrite m => Sys2Proof.Machine.execFwWrite m s
  | .fwCommit m => Sys2Proof.Machine.execFwCommit m s
  | .fwActivate m => Sys2Proof.Machine.execFwActivate m s
  | .unknownCommand m code => Sys2Proof.Machine.execUnknownCommand m code s
  | .estimatorSample r b counts => Sys2Proof.Machine.execEstimatorSample r b counts s
  | .powerCalibration inputUj fits => Sys2Proof.Machine.execPowerCalibration inputUj fits s
  | .inputSample mv ma => Sys2Proof.Machine.execInputSample mv ma s
  | .capLoop => Sys2Proof.Machine.execCapLoop s
  | .railSettled r => Sys2Proof.Machine.execRailSettled r s
  | .slewDone r => Sys2Proof.Machine.execSlewDone r s
  | .activityRampMark r held => Sys2Proof.Machine.execActivityRampMark r held s
  | .droopAssert r b det sustained => Sys2Proof.Machine.execDroopAssert r b det sustained s
  | .droopRelease r b det => Sys2Proof.Machine.execDroopRelease r b det s
  | .stretchEnd r cycles => Sys2Proof.Machine.execStretchEnd r cycles s
  | .droopQuiet r => Sys2Proof.Machine.execDroopQuiet r s
  | .droopCeilingRecover r => Sys2Proof.Machine.execDroopCeilingRecover r s
  | .tempSensorRead r temps => Sys2Proof.Machine.execTempSensorRead r temps s
  | .hbmTempRead r temp => Sys2Proof.Machine.execHbmTempRead r temp s
  | .thermalTrip die site => Sys2Proof.Machine.execThermalTrip die site s
  | .clockJudgeWindow refCount sclkCount => Sys2Proof.Machine.execClockJudgeWindow refCount sclkCount s
  | .clockStopDetect k => Sys2Proof.Machine.execClockStopDetect k s
  | .forcedChangeover d => Sys2Proof.Machine.execForcedChangeover d s
  | .hubPllLockLoss => Sys2Proof.Machine.execHubPllLockLoss s
  | .regionPllLockLoss r => Sys2Proof.Machine.execRegionPllLockLoss r s
  | .regionPllRelockAttempt r ok => Sys2Proof.Machine.execRegionPllRelockAttempt r ok s
  | .standbyPllLockLoss r => Sys2Proof.Machine.execStandbyPllLockLoss r s
  | .inputEnterRange => Sys2Proof.Machine.execInputEnterRange s
  | .porHoldEnd => Sys2Proof.Machine.execPorHoldEnd s
  | .bulkCharged => Sys2Proof.Machine.execBulkCharged s
  | .pwrEnSettle high => Sys2Proof.Machine.execPwrEnSettle high s
  | .pwrEnRise => Sys2Proof.Machine.execPwrEnRise s
  | .pwrEnFall => Sys2Proof.Machine.execPwrEnFall s
  | .inRstNAssert ns => Sys2Proof.Machine.execInRstNAssert ns s
  | .inRstNRelease cool => Sys2Proof.Machine.execInRstNRelease cool s
  | .undervoltageLockout => Sys2Proof.Machine.execUndervoltageLockout s
  | .overvoltageLockout => Sys2Proof.Machine.execOvervoltageLockout s
  | .lockoutRecovery => Sys2Proof.Machine.execLockoutRecovery s
  | .railsGood => Sys2Proof.Machine.execRailsGood s
  | .refclkAbsentTimeout => Sys2Proof.Machine.execRefclkAbsentTimeout s
  | .hubLeaveReset straps pairA pairB => Sys2Proof.Machine.execHubLeaveReset straps pairA pairB s
  | .hubPllLocked => Sys2Proof.Machine.execHubPllLocked s
  | .hubReady => Sys2Proof.Machine.execHubReady s
  | .regionWakeDone r w => Sys2Proof.Machine.execRegionWakeDone r w s
  | .regionScrubDone r found => Sys2Proof.Machine.execRegionScrubDone r found s
  | .readyPowerDown r => Sys2Proof.Machine.execReadyPowerDown r s
  | .hostRegionTakeover => Sys2Proof.Machine.execHostRegionTakeover s
  | .faultRecordArrival st => Sys2Proof.Machine.execFaultRecordArrival st s
  | .summaryTimer => Sys2Proof.Machine.execSummaryTimer s
  | .unitCompletion c u => Sys2Proof.Machine.execUnitCompletion c u s
  | .malformedPacket p k => Sys2Proof.Machine.execMalformedPacket p k s
  | .ethDroppedPacket cause => Sys2Proof.Machine.execEthDroppedPacket cause s
  | .sendToBusyMailbox q psn bytes => Sys2Proof.Machine.execSendToBusyMailbox q psn bytes s
  | .oneSecondSummary => Sys2Proof.Machine.execOneSecondSummary s
  | .alertNRelease => Sys2Proof.Machine.execAlertNRelease s
  | .tckEdge rising tms tdi pins => Sys2Proof.Machine.execTckEdge rising tms tdi pins s
  | .trstNChange high => Sys2Proof.Machine.execTrstNChange high s

end Sys2Proof.Machine
end

