-- ==== Sys2Proof/Machine/Tick.lean ====
section
/-! DEFINITION. What one period of FCLK does when no command waits (log entry 1): tick counters, waits and pauses advance, and waiting requests start (spec/11_prompt_books_epochs.md R252; spec/18_faults_fencing.md R410; spec/09_scratchpad_hbm.md R208; spec/13_gradient_reduction.md R315). -/
namespace Sys2Proof.Machine

/-- One period of FCLK. -/
def idle (s : State) : State :=
  if s.hub.clk.hubReady then drain (s.passTicks 1) else s

end Sys2Proof.Machine
end

