-- ==== Sys2Proof/Safety.lean ====
section
/-! DEFINITION. What a safe state is, and the conditions under which a command has its own effect, in the terms that the statements use. -/
namespace Sys2Proof.Machine

/-- Byte memories stand in their canonical form: the HBM, every listed scratchpad, every listed instruction store. -/
def State.memOk (s : State) : Bool := memWf s.hbm.mem && (s.cells.all fun c => memWf c.2.mem) && s.blocks.all fun b => memWf b.2.istore

/-! Cell instructions. -/

/-- The sequencer stands at the next instruction; past the last word of the store it stands outside it, which the next fetch meets (R165). -/
def Seq.skip (q : Seq) : Seq := { q with pc := q.pc + 8, pcOut := Nat.ble 0x20000 (q.pc.toNat + 8) }

/-- The sequencer has given an instruction its number and stands at the next one (R145). -/
def Seq.onward (q : Seq) : Seq := { q.skip with nextSeq := q.nextSeq + 1 }

/-- The instruction that stands at the PC reaches dispatch (R145, R149, R165, R173, R419): the cell dispatches, nothing waits there, its fetch meets no stop, and the first stage accepts the word. -/
structure Arrives (s : State) (k : Nat) (op : CellOp) : Prop where
  may : s.mayDispatch k = true
  free : (s.cell k).seq.held = none
  fetch : s.fetchStop k = none
  form : stage1 op = true

/-- Its predicate is also true, and no A register that it names is pending (R153, R154). -/
structure Ready (s : State) (k : Nat) (p : Pred) (op : CellOp) : Prop extends Arrives s k op where
  guard : (s.cell k).seq.holds p = true
  regs : (s.cell k).seq.pends op = false

/-- The instruction as its unit would take it (R147). -/
def State.taken (s : State) (k : Nat) (p : Pred) (op : CellOp) (seen : List MarginObs) : QI := mkQI (s.cell k) p op seen

/-- It also names formats of its role and operands within their ranges (R24, R173). -/
structure Sound (s : State) (k : Nat) (p : Pred) (op : CellOp) (seen : List MarginObs) : Prop extends Ready s k p op where
  format : formatBad op = false
  range : rangeBad (isLead (cellNo k)) (s.identOf k) (s.jobOf (cellRgn k)) (s.cell k) (s.taken k p op seen) = false

/-- It also finds its unit's queue empty and no frame that it uses busy in another unit (R100, R146). -/
structure Open (s : State) (k : Nat) (p : Pred) (op : CellOp) (seen : List MarginObs) (u : CellUnit) : Prop extends Sound s k p op seen where
  unit : unitOf op = some u
  queue : (s.cell k).units.queue u = []
  frames : framesOf (s.cell k) (s.taken k p op seen) &&& (s.cell k).busyOthers u = 0

/-- A vector instruction whose unit is free, whose palettes are usable and whose operands nothing blocks, marks or powers down (R106, R146, R173, R201, R205, R219). -/
structure VecRuns (s : State) (k : Nat) (p : Pred) (kd : VecKind) (f : VecF) : Prop extends Open s k p (.vec kd f) [] .vector where
  idle : (s.cell k).units.vec = none
  ramp : s.rampRoom k = true
  some : noCount kd = true ∨ ((s.taken k p (.vec kd f) []).count f.rn).getD 0 ≠ 0
  intact : (s.cell k).errs = []
  clean : (s.cell k).poison = 0
  untagged : ∀ n, (s.cell k).tagMode n = 0
  palettes : ∀ a ∈ palAddr kd (s.taken k p (.vec kd f) []) f, (s.cell k).palOk a = true ∧ (s.cell k).bankDown a 192 = false
  bounds : ∀ a ∈ (palAddr kd (s.taken k p (.vec kd f) []) f).head?,
    palRangeBad (isLead (cellNo k)) kd (s.taken k p (.vec kd f) []) f (((s.taken k p (.vec kd f) []).count f.rn).getD 0) ((s.cell k).pal a) = false
  banks : ∀ sure, ∀ r ∈ vecReads kd (s.taken k p (.vec kd f) []) f (((s.taken k p (.vec kd f) []).count f.rn).getD 0)
      ++ vecDests sure kd (s.taken k p (.vec kd f) []) f (((s.taken k p (.vec kd f) []).count f.rn).getD 0) 1320,
    localOk (isLead (cellNo k)) r.1 r.2 = true ∧ (s.cell k).bankDown r.1 r.2 = false

/-- The cell with an instruction dispatched to its unit and nothing of it executed yet. -/
def State.sent (s : State) (k : Nat) : Cell := (s.cell k).setSeq Seq.onward

/-! Accesses. -/

/-- An access to a place has its effect (R5, R10, R200, R355, R426): the hub runs, the requester may make it, something is listed there, and its region neither sleeps nor withholds it for a scrub. -/
structure Permits (s : State) (q : Requester) (write : Bool) (p : Place) : Prop where
  ready : s.hub.clk.hubReady = true
  may : mayAccess s q write p = true
  listed : (wordAt s p).isSome = true
  clean : scrubHeld s q p = false
  awake : asleepHeld s p = false

/-- An access abandons the upper half that an earlier read of a 64-bit register has latched (R6). -/
def State.unlatched (s : State) : State := s.modHub fun h => { h with latch := none }

/-! Requests. -/

/-- A SEND Only reaches mailbox `n` in its turn, and the mailbox has room for it (R328, R330, R338, R343). -/
structure Mailed (s : State) (n : Nat) (m : Msg) : Prop where
  number : n < 64
  on : s.ethOn = true
  up : (s.qp m.q.val).state = .connected
  kind : (s.qp m.q.val).kind = .mailbox n
  turn : psnPlace (s.qp m.q.val).epsn m.psn = .expected
  fits : m.payload.length ≤ 4048
  room : (s.mbx n).req = none
  bound : n ≠ 0 → (s.mbx n).session ≠ 0

/-- It is a new request, no other request executes or waits, and nothing turns it away before its command is looked at (R343, R344, R346, R348, R352, R358). -/
structure Served (s : State) (n : Nat) (code : BitVec 16) (m : Msg) : Prop extends Mailed s n m where
  fresh : ∀ k, (s.mbx n).kept = some k → ¬ (k.code = code ∧ k.seq = m.seq)
  idle : s.hub.mail.waiting = []
  alone : s.executing = []
  granted : precheck s n code.toNat m = none

/-- The port has taken a SEND in its turn: its tag and CE mark are heeded, its PSN is passed and it is acknowledged (R323, R327, R328, R338, R405). -/
def State.sendTaken (s : State) (m : Msg) : State :=
  sendAck (psnTaken (qpHears s m.q.val (48 + m.payload.length) m.ce m.tag) m.q.val 1 true) m.q.val m.psn 0

/-- Firmware has the request in hand: it stands in its mailbox and executes, and the kept response is gone (R343, R344). -/
def State.inHand (s : State) (n : Nat) (code : BitVec 16) (m : Msg) : State :=
  (s.sendTaken m).modMbx n fun x => { x with req := some ⟨code, m, true, false⟩, kept := none }

end Sys2Proof.Machine
end

