-- ==== Sys2Proof/WellFormed.lean ====
section
/-! DEFINITION. Which commands are well-formed: the fields of an instruction pass the first decoding stage, a packet has the type and the length of its row, lists have the lengths that the hardware gives them. A command that is not well-formed still has a meaning. -/
namespace Sys2Proof
open Machine

/-- Bits that have flipped lie in a word of `n` bits. -/
def flipsIn (n : Nat) (l : List Nat) : Bool := l.all fun b => Nat.blt b n
/-- Failed compares name vectors of an instruction (R65). -/
def marginsOk (l : List MarginObs) : Bool := l.all fun o => Nat.blt o.vec 64
/-- Type of a packet (R283). -/
def pktTy (k : Packet) : Nat := field k.h0.toNat 0 4
/-- A packet of a type, with as many data units as its header says (R283). -/
def pktIs (ty : Nat) (k : Packet) : Bool := pktTy k == ty && k.data.length == 64 * field k.h0.toNat 8 8
/-- A message fits a mailbox (R342, R345). -/
def msgWf (m : Msg) : Bool := Nat.ble m.payload.length 4048

/-- A command is well-formed. -/
def Instr.wf : Instr → Bool
  | .nop _ _ => stage1 .nop
  | .halt _ _ => stage1 .halt
  | .loopw _ _ f => stage1 (.loop f)
  | .endloop _ _ ln => stage1 (.endloop ln)
  | .br _ _ offset => stage1 (.br offset)
  | .brp _ _ ra => stage1 (.brp ra)
  | .cuewait _ _ f => stage1 (.cuewait f)
  | .cuewaitSatisfied _ _ => true
  | .cuesig _ _ f => stage1 (.cuesig f)
  | .cueSignalRelease _ => true
  | .waitc _ _ f => stage1 (.waitc f)
  | .waitcSatisfied _ _ => true
  | .waitcTimeout _ _ => true
  | .fence _ _ scope => stage1 (.fence scope)
  | .fenceRelease _ _ => true
  | .setcfg _ _ f => stage1 (.setcfg f)
  | .li _ _ rd imm => stage1 (.li rd imm)
  | .addw _ _ rd ra rb => stage1 (.alu .add rd ra rb)
  | .addi _ _ rd ra imm => stage1 (.addi rd ra imm)
  | .subw _ _ rd ra rb => stage1 (.alu .sub rd ra rb)
  | .shl _ _ f => stage1 (.shift false f)
  | .shr _ _ f => stage1 (.shift true f)
  | .andw _ _ rd ra rb => stage1 (.alu .and rd ra rb)
  | .orw _ _ rd ra rb => stage1 (.alu .or rd ra rb)
  | .cmp _ _ f => stage1 (.cmp f)
  | .reservedInstruction _ word => (decodeCell word).isNone
  | .instrLineFetch _ _ => true
  | .unitIssue _ _ _ => true
  | .wload _ _ f => stage1 (.wload f)
  | .slotWriteDone _ => true
  | .mvm _ _ f seen => stage1 (.mvm false f) && marginsOk seen
  | .mvmt _ _ f seen => stage1 (.mvm true f) && marginsOk seen
  | .swatch _ _ seen => stage1 .swatch && marginsOk seen
  | .slotinv _ _ slot => stage1 (.slotinv slot)
  | .aclr _ _ tile int => stage1 (.aclr tile int)
  | .apromo _ _ => stage1 .apromo
  | .adrain _ _ f => stage1 (.adrain f)
  | .amov _ _ src dst => stage1 (.amov src dst)
  | .arot _ _ form => stage1 (.arot form)
  | .vadd _ _ f => stage1 (.vec .add f)
  | .vmul _ _ f => stage1 (.vec .mul f)
  | .vfma _ _ f => stage1 (.vec .fma f)
  | .vmax _ _ f => stage1 (.vec .max f)
  | .vmin _ _ f => stage1 (.vec .min f)
  | .vexp2 _ _ f => stage1 (.vec .exp2 f)
  | .vrcp _ _ f => stage1 (.vec .rcp f)
  | .vrsq _ _ f => stage1 (.vec .rsq f)
  | .vcvt _ _ f => stage1 (.vec .cvt f)
  | .vhad _ _ f => stage1 (.vec .had f)
  | .vsclConvert _ _ f => stage1 (.vec .sclConvert f)
  | .vsclDerive _ _ f => stage1 (.vec .sclDerive f)
  | .vsclPush _ _ f => stage1 (.vec .sclPush f)
  | .vsclPushAdvance _ _ f => stage1 (.vec .sclPushAdvance f)
  | .vsclMerge _ _ f => stage1 (.vec .sclMerge f)
  | .vstat _ _ f => stage1 (.vec .stat f)
  | .vprune24 _ _ f => stage1 (.vec .prune24 f)
  | .vred _ _ f => stage1 (.vec .red f)
  | .ld _ _ rd ra imm => stage1 (.ld rd ra imm)
  | .st _ _ f => stage1 (.st f)
  | .putw _ _ f => stage1 (.put f)
  | .getw _ _ f => stage1 (.get f)
  | .accw _ _ f acc => stage1 (.accw f acc)
  | .hbmrd _ _ f => stage1 (.hbmrd f)
  | .hbmwr _ _ f => stage1 (.hbmwr f)
  | .tagset _ _ ra rn => stage1 (.tagset true ra rn)
  | .tagclr _ _ ra rn => stage1 (.tagset false ra rn)
  | .csend _ _ f => stage1 (.csend f)
  | .crecv _ _ f => stage1 (.crecv f)
  | .tagBlockRelease _ _ _ => true
  | .tagWaitTimeout _ _ _ => true
  | .remotePutArrival _ => true
  | .accwArrival _ => true
  | .getRequestArrival _ => true
  | .getDataArrival _ => true
  | .hbmReadData d => flipsIn 512 d.upset
  | .hbmWriteAck _ => true
  | .remoteWriteAck _ => true
  | .combineGroupAdvance _ _ _ => true
  | .combineRootDelivery _ _ _ => true
  | .regionCombineStep _ _ => true
  | .combineTimeout _ => true
  | .arrayScrub _ _ _ upset => flipsIn 432 upset
  | .scrubRowRewrite _ _ => true
  | .spmScrub c piece upset => (Nat.blt piece.val 768 || c.c.val % 16 == 0) && flipsIn 512 upset
  | .hbmPatrol _ block upset => Nat.blt block 0x30000000 && flipsIn 512 upset
  | .istoreScrub _ _ _ upset => flipsIn 512 upset
  | .hubSramScrub _ lost => lost.all fun a => Nat.blt a (2 ^ 48)
  | .slotViewWrite _ _ _ _ => true
  | .dbgHaltWrite _ _ _ => true
  | .dbgStep _ _ => true
  | .cellReset _ _ _ _ _ => true
  | .clkRgnCtrlWrite _ _ _ => true
  | .rgnCueAddWrite _ _ _ => true
  | .counterReadClear _ addr => addr.toNat % 4 == 0
  | .reg64LowRead _ addr => addr.toNat % 8 == 0
  | .registerWrite _ addr size _ => size == 4 && addr.toNat % 4 == 0
  | .injectionGo _ _ => true
  | .injectionApply => true
  | .cue0Timer => true
  | .epochStart _ => true
  | .epochCheck _ => true
  | .epochBoundary _ => true
  | .changeHoldResend _ => true
  | .changeHoldAck _ position => Nat.blt position 4096
  | .changeHoldRelease _ => true
  | .changeHoldLimit _ => true
  | .heartbeatSend _ => true
  | .heartbeatTimeout _ position => Nat.blt position 4096
  | .announceTimeout _ => true
  | .jobFaultTake _ _ => true
  | .flitReceive _ _ flit => flit.length == 64
  | .ackTimeout _ => true
  | .trainingAttempt _ => true
  | .trainingDone _ t => t.credits.length == 4
  | .trainingTimeout _ _ => true
  | .partnerRetrain _ => true
  | .packetForward _ k => pktIs (pktTy k) k
  | .writePacket _ k => pktIs 1 k
  | .accwPacket _ k => pktIs 2 k
  | .cuePacket _ k => pktIs 3 k
  | .reducePacket _ k => pktIs 4 k
  | .bcastPacket _ k => pktIs 5 k
  | .holdPacket _ k => pktIs 6 k
  | .timeAlign _ k => pktIs 7 k
  | .timeAnnounce _ k => pktIs 7 k
  | .timeBeat _ k => pktIs 7 k
  | .identPacket _ k => pktIs 8 k
  | .mgmtNak _ k => pktIs 9 k
  | .mgmtUnreachable _ k => pktIs 9 k
  | .mgmtFirmware _ k => pktIs 9 k
  | .idAssignMessage _ _ => true
  | .idAssignReply _ _ => true
  | .idAssignReplyTimeout _ => true
  | .slackReportReceive _ position _ _ => Nat.blt position 4096
  | .fclkHoldoverEnter => true
  | .fclkHoldoverExit => true
  | .fabricSummaryTimer => true
  | .bucketContribRead _ _ _ => true
  | .bucketResultVisible _ _ _ => true
  | .earlyStoreTimeout k => pktIs 4 k || pktIs 5 k
  | .ethLinkUp => true
  | .ethLinkDown => true
  | .arpRequest _ _ => true
  | .neighbourSolicitation _ _ => true
  | .routerAdvertisement => true
  | .icmpEchoRequest _ _ _ body => Nat.ble body.val.length 9200
  | .dhcpReply d => Nat.blt d.leaseSec (2 ^ 32)
  | .dhcpRetry => true
  | .dhcpRenew => true
  | .dhcpLeaseExpiry => true
  | .pfcFrame _ quanta => quanta.length == 8 && quanta.all fun x => Nat.blt x 65536
  | .pauseFrame _ => true
  | .cnpReceived _ => true
  | .cmReq r => Nat.ble r.mtu 4096
  | .cmRtu _ => true
  | .cmRej _ => true
  | .cmDreq _ => true
  | .cmDrep _ => true
  | .qpFreeTimeout _ => true
  | .rdmaWritePacket w => Nat.ble w.data.length 4096 && Nat.blt w.len (2 ^ 32)
  | .rdmaReadRequest w => Nat.blt w.len (2 ^ 32)
  | .rdmaAckReceived _ _ _ => true
  | .qpRetryTimeout _ => true
  | .sessionIdleClose _ => true
  | .debugExpiry => true
  | .identGet m => msgWf m
  | .unitsGet m => msgWf m
  | .challenge m => msgWf m
  | .sessionOpen m => msgWf m
  | .sessionClose m => msgWf m
  | .quote m => msgWf m
  | .debugUnlock m => msgWf m
  | .mailboxBind m => msgWf m
  | .bookBegin m => msgWf m
  | .bookWrite m => msgWf m
  | .jobAssign m => msgWf m
  | .jobStart m => msgWf m
  | .jobStatus m => msgWf m
  | .jobEnd m => msgWf m
  | .jobKill m => msgWf m
  | .jobClaim m => msgWf m
  | .cueAdd m => msgWf m
  | .paletteWrite m => msgWf m
  | .stageCancel m => msgWf m
  | .windowRegister m => msgWf m
  | .windowDeregister m => msgWf m
  | .windowList m => msgWf m
  | .portSet m => msgWf m
  | .neighboursGet m => msgWf m
  | .moduleIdSet m => msgWf m
  | .routeWrite m => msgWf m
  | .routeCommit m => msgWf m
  | .clockSourceSet m => msgWf m
  | .idDistribute m => msgWf m
  | .portConfig m => msgWf m
  | .capSet m => msgWf m
  | .poolSet m => msgWf m
  | .regionReady m => msgWf m
  | .powerGet m => msgWf m
  | .regRead m => msgWf m
  | .regWrite m => msgWf m
  | .digestGet m => msgWf m
  | .logRead m => msgWf m
  | .logClear m => msgWf m
  | .resetw m => msgWf m
  | .testWrite m => msgWf m
  | .testRead m => msgWf m
  | .fwBegin m => msgWf m
  | .fwWrite m => msgWf m
  | .fwCommit m => msgWf m
  | .fwActivate m => msgWf m
  | .unknownCommand m _ => msgWf m
  | .estimatorSample _ _ counts => counts.length == 6
  | .powerCalibration _ fits => fits.all fun f => f.measured.length == 64 && f.dynamic.length == 64 && f.leak.length == 64
  | .inputSample _ _ => true
  | .capLoop => true
  | .railSettled _ => true
  | .slewDone _ => true
  | .activityRampMark _ _ => true
  | .droopAssert _ _ _ _ => true
  | .droopRelease _ _ _ => true
  | .stretchEnd _ _ => true
  | .droopQuiet _ => true
  | .droopCeilingRecover _ => true
  | .tempSensorRead _ temps => temps.length == 150
  | .hbmTempRead _ _ => true
  | .thermalTrip _ _ => true
  | .clockJudgeWindow _ _ => true
  | .clockStopDetect _ => true
  | .forcedChangeover _ => true
  | .hubPllLockLoss => true
  | .regionPllLockLoss _ => true
  | .regionPllRelockAttempt _ _ => true
  | .standbyPllLockLoss _ => true
  | .inputEnterRange => true
  | .porHoldEnd => true
  | .bulkCharged => true
  | .pwrEnSettle _ => true
  | .pwrEnRise => true
  | .pwrEnFall => true
  | .inRstNAssert _ => true
  | .inRstNRelease _ => true
  | .undervoltageLockout => true
  | .overvoltageLockout => true
  | .lockoutRecovery => true
  | .railsGood => true
  | .refclkAbsentTimeout => true
  | .hubLeaveReset _ _ _ => true
  | .hubPllLocked => true
  | .hubReady => true
  | .regionWakeDone _ _ => true
  | .regionScrubDone _ _ => true
  | .readyPowerDown _ => true
  | .hostRegionTakeover => true
  | .faultRecordArrival _ => true
  | .summaryTimer => true
  | .unitCompletion _ _ => true
  | .malformedPacket _ _ => true
  | .ethDroppedPacket _ => true
  | .sendToBusyMailbox _ _ bytes => Nat.ble bytes.val 4096
  | .oneSecondSummary => true
  | .alertNRelease => true
  | .tckEdge _ _ _ _ => true
  | .trstNChange _ => true

end Sys2Proof
end

