-- ==== Sys2Proof/Certificates/Slice0/Obligations.lean ====
section
/-! DEFINITION. The statements for the provers: what the commands do, what they leave, and what the machine keeps. Each docstring names the rules of spec/ that the statement follows. -/
open Sys2Proof Sys2Proof.Machine

/-- A step with a command waiting is the command's effect on the state with the queue's rest, and no command ends a run (the outcome type and the queue are the model's). -/
def Obligations.StepRunsFrontCommand : Prop :=
  ∀ (c : Instr) (rest : List Instr) (s : State),
    step { s with pending := c :: rest } = exec c { s with pending := rest } ∧ ∃ t, exec c { s with pending := rest } = .next t

/-- A step with an empty queue once the hub is ready counts one tick on the hub's counter and on every region's, modulo 2^64, and the waits of every cell that is not debug-halted grow by one, but not those of a job's cells at a boundary within a hold (R208, R252, R262, R410); that a tick is what an empty queue does, and that a region in Releasing goes on to Scrubbing then, is the model's choice (log entries 1 and 70). `passTicks` says what any number of ticks does. -/
def Obligations.EmptyQueueCountsTick : Prop :=
  ∀ s : State, s.pending = [] → s.hub.clk.hubReady = true → s.hub.mail.waiting = [] →
    ∃ t, step s = .next t ∧ t.hub.tick = (s.hub.tick + 1) % 2 ^ 64 ∧ (∀ r < 16, (t.rgn r).tick = ((s.rgn r).tick + 1) % 2 ^ 64)
      ∧ (∀ k, t.cell k = if (s.cell k).seq.dbgHalt = true then s.cell k else (s.cell k).older (s.waitTicks (cellRgn k) 1))
      ∧ (∀ r < 16, (t.rgn r).state = if (s.rgn r).state = 6 then 2 else (s.rgn r).state)
      ∧ t.pending = [] ∧ t.jobs = s.jobs ∧ t.cues = s.cues ∧ t.hbm = s.hbm ∧ t.blocks = s.blocks ∧ t.flt = s.flt ∧ t.out = s.out
      ∧ (∀ n, 0 < n → let u := s.passTicks n
        u.hub.tick = (s.hub.tick + n) % 2 ^ 64 ∧ (∀ r < 16, (u.rgn r).tick = ((s.rgn r).tick + n) % 2 ^ 64)
        ∧ (∀ k, u.cell k = if (s.cell k).seq.dbgHalt = true then s.cell k else (s.cell k).older (s.waitTicks (cellRgn k) n))
        ∧ u.jobs = s.jobs ∧ u.cues = s.cues ∧ u.hbm = s.hbm ∧ u.blocks = s.blocks ∧ u.flt = s.flt ∧ u.out = s.out)

/-- LI, ADD, ADDI, SUB, AND, OR, SHL and SHR write their result modulo 2^32 to rd, CMP writes its condition to a predicate other than P0, whose write is discarded, and nothing else changes but the PC and the instruction's number; SHL with arith and the conditions 6 and 7 are refused by the first stage; NOP writes nothing (R145, R147, R152, R176, R180). -/
def Obligations.ScalarInstructionsWriteTheirResult : Prop :=
  (∀ (s : State) (c : CellId) (p : Pred),
      let k := cellKey c
      let q := (s.cell k).seq
      let wrote := fun (rd : AReg) (v : Word) => Host.Outcome.next (s.setCell k ((s.cell k).setSeq fun q => (q.setA rd v).onward))
      (∀ rd imm, Ready s k p (.li rd imm) → exec (.li c p rd imm) s = wrote rd imm)
      ∧ (∀ rd ra rb, Ready s k p (.alu .add rd ra rb) → exec (.addw c p rd ra rb) s = wrote rd (q.reg ra + q.reg rb))
      ∧ (∀ rd ra imm, Ready s k p (.addi rd ra imm) → exec (.addi c p rd ra imm) s = wrote rd (q.reg ra + imm.signExtend 32))
      ∧ (∀ rd ra rb, Ready s k p (.alu .sub rd ra rb) → exec (.subw c p rd ra rb) s = wrote rd (q.reg ra - q.reg rb))
      ∧ (∀ rd ra rb, Ready s k p (.alu .and rd ra rb) → exec (.andw c p rd ra rb) s = wrote rd (q.reg ra &&& q.reg rb))
      ∧ (∀ rd ra rb, Ready s k p (.alu .or rd ra rb) → exec (.orw c p rd ra rb) s = wrote rd (q.reg ra ||| q.reg rb))
      ∧ (∀ f : ShiftF, Ready s k p (.shift false f) →
          exec (.shl c p f) s = wrote f.rd (q.reg f.ra <<< (if f.i then f.sh.toNat else (q.reg f.rb).toNat % 32)))
      ∧ (∀ f : ShiftF, Ready s k p (.shift true f) →
          exec (.shr c p f) s = wrote f.rd (if f.arith then (q.reg f.ra).sshiftRight (if f.i then f.sh.toNat else (q.reg f.rb).toNat % 32)
            else q.reg f.ra >>> (if f.i then f.sh.toNat else (q.reg f.rb).toNat % 32))))
  ∧ (∀ (s : State) (c : CellId) (p : Pred),
      let k := cellKey c
      (∀ f : CmpF, Ready s k p (.cmp f) →
        let a := (s.cell k).seq.reg f.ra
        let b := if f.i then f.imm.signExtend 32 else (s.cell k).seq.reg f.rb
        let v : Bool := if f.cond = 0 then a == b else if f.cond = 1 then a != b else if f.cond = 2 then a.slt b else if f.cond = 3 then !a.slt b
          else if f.cond = 4 then a.ult b else !a.ult b
        exec (.cmp c p f) s = .next (s.setCell k ((s.cell k).setSeq fun q =>
          (if f.pd = 0 then q else { q with p := setBit q.p f.pd.toNat v }).onward)))
      ∧ (∀ f : CmpF, stage1 (.cmp f) = decide (f.cond.toNat ≤ 5)) ∧ (∀ f : ShiftF, stage1 (.shift false f) = !f.arith)
      ∧ (Ready s k p .nop → exec (.nop c p) s = .next (s.setCell k ((s.cell k).setSeq Seq.onward))))

/-- LOOP skips its body on a count of zero and else opens the loop; ENDLOOP counts down and returns to the body until the count is zero; BR and BRP go to their target, which the next fetch finds outside the store where it lies there, and close the loops that they leave, whose counters keep their values; the loop buffer holds a body whose first iteration is over, until its loop closes; a LOOP on an open loop, and an ENDLOOP without one or away from its end, stop the cell with class 0x0353 (R150, R151, R165, R178). -/
def Obligations.LoopsAndBranches : Prop :=
  ∀ (s : State) (c : CellId) (p : Pred),
    let k := cellKey c
    let q := (s.cell k).seq
    let pc := q.pc.toNat
    let goes := fun (f : Seq → Seq) => Host.Outcome.next (s.setCell k ((s.cell k).setSeq f))
    (∀ f : LoopF, Sound s k p (.loop f) [] → (q.loops.getD f.ln.toNat ⟨false, 0, 0⟩).opened = false →
      let n := if f.src then q.reg f.ra else f.imm.zeroExtend 32
      let stop := pc + 8 * f.dist.toNat
      exec (.loopw c p f) s =
        if n = 0 then goes fun q => { q with l := setAt q.l f.ln.toNat 0, pc := BitVec.ofNat 17 (stop + 8), pcOut := Nat.ble 0x20000 (stop + 8) }
        else goes fun q => { q.skip with l := setAt q.l f.ln.toNat n, loops := setAt q.loops f.ln.toNat ⟨true, pc + 8, stop⟩,
                                         buf := if f.dist.toNat ≤ 64 then some (f.ln, pc + 8, stop) else q.buf,
                                         captured := q.captured && Nat.blt 64 f.dist.toNat })
    ∧ (∀ ln l, Ready s k p (.endloop ln) → q.loops.getD ln.toNat ⟨false, 0, 0⟩ = l → l.opened = true → l.stop = pc →
      let n := q.l.getD ln.toNat 0 - 1
      exec (.endloop c p ln) s =
        if n = 0 then goes fun q => (Seq.dropBuf { q with l := setAt q.l ln.toNat 0, loops := setAt q.loops ln.toNat { l with opened := false } }).skip
        else goes fun q => { q with l := setAt q.l ln.toNat n, captured := q.captured || q.buf == some (ln, l.start, l.stop),
                                    pc := BitVec.ofNat 17 l.start, pcOut := Nat.ble 0x20000 l.start })
    ∧ (∀ o, Ready s k p (.br o) → let t := (pc : Int) + 8 * o.toInt
      exec (.br c p o) s = goes fun q => { q.leave (if t < 0 then 0x20000 else t.toNat) with pc := BitVec.ofInt 17 t, pcOut := decide (t < 0 ∨ 0x20000 ≤ t) })
    ∧ (∀ ra, Ready s k p (.brp ra) → (q.reg ra).toNat % 8 = 0 → let t := (q.reg ra).toNat
      exec (.brp c p ra) s = goes fun q => { q.leave t with pc := BitVec.ofNat 17 t, pcOut := decide (0x20000 ≤ t) })
    ∧ (∀ y : Seq, y.dropBuf = match y.buf with
        | some b => if (y.loops.getD b.1.toNat ⟨false, 0, 0⟩).opened = true then y else { y with buf := none, captured := false }
        | none => y)
    ∧ (∀ target (i : Fin 4), q.loops.length = 4 → let l := q.loops.getD i.val ⟨false, 0, 0⟩
      (q.leave target).l = q.l ∧ (q.leave target).loops.getD i.val ⟨false, 0, 0⟩ = if l.opened = true ∧ (target < l.start ∨ l.stop < target) then { l with opened := false } else l)
    ∧ (let misuse := fun (t : State) => (t.cell k).seq.state = 3 ∧ (t.cell k).seq.l = q.l ∧ (t.cell k).seq.loops = q.loops ∧ (t.cell k).mem = (s.cell k).mem
        ∧ (t.blk (cellBlk k)).transit.map (·.cls) = (s.blk (cellBlk k)).transit.map (·.cls) ++ [0x0353, 0x0352]
      (∀ f : LoopF, Sound s k p (.loop f) [] → (q.loops.getD f.ln.toNat ⟨false, 0, 0⟩).opened = true → ∃ t, exec (.loopw c p f) s = .next t ∧ misuse t)
      ∧ ∀ ln, Ready s k p (.endloop ln) → (let l := q.loops.getD ln.toNat ⟨false, 0, 0⟩; l.opened = false ∨ l.stop ≠ pc) → ∃ t, exec (.endloop c p ln) s = .next t ∧ misuse t)

/-- An instruction whose predicate is false only moves the PC: no register, queue, tile, busy bit, cue or other state changes; an instruction that selects P0 without negation always executes (R153). -/
def Obligations.FalsePredicateSkips : Prop :=
  (∀ (s : State) (k : Nat) (p : Pred) (op : CellOp) (seen : List MarginObs), Arrives s k op → (s.cell k).seq.holds p = false →
    dispatch s k p op seen = s.setCell k ((s.cell k).setSeq Seq.skip))
  ∧ ∀ q : Seq, q.holds ⟨0, false⟩ = true

/-- An instruction that names a pending A register, or finds its unit's queue full, waits at dispatch and changes nothing else; a cell that waits dispatches nothing (R145, R146, R154, R157). RESERVED_INSTRUCTION: a word without an instruction stops the cell at once, unexecuted, with class 0x0350 and the stop record 0x0352; the pending first cause is kept where there is one (R164, R165, R173). INSTR_LINE_FETCH reads the line that a running cell asks for into its fetch buffer, which keeps of its lines the one of the PC and the next (R149). -/
def Obligations.DispatchWaitsOrStops : Prop :=
  (∀ (s : State) (k : Nat) (p : Pred) (op : CellOp) (seen : List MarginObs),
      let held := s.setCell k ((s.cell k).setSeq fun q => { q with held := some ⟨p, op, seen, false⟩ })
      (∀ r, Arrives s k op → (s.cell k).seq.holds p = true → (s.cell k).seq.mutes op = false → r ∈ regsOf op → (s.cell k).seq.pendingA.getLsbD r.toNat = true →
        dispatch s k p op seen = held)
      ∧ (∀ u, Sound s k p op seen → unitOf op = some u → 4 ≤ ((s.cell k).units.queue u).length → dispatch s k p op seen = held)
      ∧ (∀ w, (s.cell k).seq.wait = some w → dispatch s k p op seen = s)
      ∧ (∀ h, (s.cell k).seq.held = some h → dispatch s k p op seen = s))
  ∧ (∀ (s : State) (c : CellId) (word : DWord),
      let k := cellKey c
      let q := (s.cell k).seq
      decodeCell word = none → s.mayDispatch k = true → q.held = none → s.fetchStop k = none →
      ∃ t, exec (.reservedInstruction c word) s = .next t
        ∧ (t.cell k).seq = { q with state := 3, stopPending := false, stopDue := false, wait := none, held := none,
                                    firstCause := if q.stopPending then q.firstCause else 0x0350, later := if q.stopPending then q.later + 1 else q.later }
        ∧ (t.cell k).mem = (s.cell k).mem ∧ (t.cell k).units = (s.cell k).units
        ∧ (t.blk (cellBlk k)).transit.map (·.cls) = (s.blk (cellBlk k)).transit.map (·.cls) ++ [0x0350, 0x0352]
        ∧ ∀ j, j ≠ k → t.cell j = s.cell j)
  ∧ (∀ (s : State) (c : CellId) (waited l : Nat),
      let k := cellKey c
      (s.cell k).seq.running = true → (s.rgn (cellRgn k)).assigned = true → wantedLine (s.cell k).seq = some l →
      (s.blk (cellBlk k)).istoreErrs = [] → (s.blk (cellBlk k)).badLines.contains l = false →
      exec (.instrLineFetch c waited) s = .next (s.setCell k ((((s.cell k).count rFetchWait waited).tally 9 1).setSeq fun q =>
        { q with lines := (q.lines.filter fun x => x == q.pc.toNat / 64 || x == q.pc.toNat / 64 + 1) ++ [l] })))

/-- HALT, FENCE, WAITC and CUEWAIT whose condition holds at dispatch do not wait: the cell halts, or goes on, WAITC having taken its count (R157, R160, R161, R166). HALT, FENCE, WAITC and CUEWAIT whose condition does not hold are dispatched and then hold every later instruction (R157, R160, R161, R166). CUEWAIT_SATISFIED, WAITC_SATISFIED and FENCE_RELEASE end the wait whose condition holds and count its cycles; WAITC takes its count (R154, R157, R160, R161). WAITC_TIMEOUT of a WAITC whose counter is below n and whose count of ticks exceeds CELL_TAG_TIMEOUT.ticks ends the wait without taking from the counter, records class 0x0410 with the counter, n and its value, and sets stop-pending with that class as the first cause (R161, R163, R208, R209). -/
def Obligations.WaitsHoldAndEnd : Prop :=
  (∀ (s : State) (c : CellId) (p : Pred),
      let k := cellKey c
      let q := (s.cell k).seq
      (Ready s k p .halt → q.stopPending = false → (s.cell k).fenced 0 q.nextSeq = true →
        exec (.halt c p) s = .next (s.setCell k ((s.cell k).setSeq fun q => { q.onward with state := 2 })))
      ∧ (∀ scope, Ready s k p (.fence scope) → (s.cell k).fenced scope.toNat q.nextSeq = true →
        exec (.fence c p scope) s = .next (s.setCell k ((s.cell k).setSeq Seq.onward)))
      ∧ (∀ f : WaitcF, Ready s k p (.waitc f) →
        let n := if f.src then (q.reg f.ra).toNat % 2 ^ 16 else f.imm.toNat
        n ≤ (s.cell k).arrivals f.ctr.toNat →
        exec (.waitc c p f) s = .next (s.setCell k (((s.cell k).takeCount f.ctr.toNat n).setSeq Seq.onward)))
      ∧ (∀ f : CueWaitF, Sound s k p (.cuewait f) [] → q.stopPending = false →
        reached (s.cue f.cue.toNat).value (q.reg f.ra + f.imm.zeroExtend 32) = true →
        exec (.cuewait c p f) s = .next (s.setCell k ((s.cell k).setSeq Seq.onward))))
  ∧ (∀ (s : State) (c : CellId) (p : Pred),
      let k := cellKey c
      let q := (s.cell k).seq
      let waits := fun (w : Wait) => Host.Outcome.next (s.setCell k ((s.cell k).setSeq fun q => { q.onward with wait := some w }))
      (Ready s k p .halt → q.stopPending = false → (s.cell k).fenced 0 q.nextSeq = false → exec (.halt c p) s = waits (.halt q.nextSeq))
      ∧ (∀ scope, Ready s k p (.fence scope) → (s.cell k).fenced scope.toNat q.nextSeq = false →
        exec (.fence c p scope) s = waits (.fence scope.toNat q.nextSeq))
      ∧ (∀ f : WaitcF, Ready s k p (.waitc f) →
        let n := if f.src then (q.reg f.ra).toNat % 2 ^ 16 else f.imm.toNat
        (s.cell k).arrivals f.ctr.toNat < n → exec (.waitc c p f) s = waits (.ctr f.ctr.toNat n 0))
      ∧ (∀ f : CueWaitF, Sound s k p (.cuewait f) [] → q.stopPending = false →
        reached (s.cue f.cue.toNat).value (q.reg f.ra + f.imm.zeroExtend 32) = false →
        exec (.cuewait c p f) s = waits (.cue f.cue.toNat (q.reg f.ra + f.imm.zeroExtend 32))))
  ∧ (∀ (s : State) (c : CellId) (cycles : Nat),
      let k := cellKey c
      let ends := fun (reg : Nat) (f : Cell → Cell) => Host.Outcome.next (s.setCell k ((((f (s.cell k)).count reg cycles).count rDispatchStall cycles).setSeq fun q => { q with wait := none }))
      (s.cell k).seq.held = none →
      (∀ cue target, (s.cell k).seq.wait = some (.cue cue target) → reached (s.cue cue).value target = true →
        exec (.cuewaitSatisfied c cycles) s = ends rSyncWait id)
      ∧ (∀ ctr n age, (s.cell k).seq.wait = some (.ctr ctr n age) → n ≤ (s.cell k).arrivals ctr →
        exec (.waitcSatisfied c cycles) s = ends rSyncWait fun c => c.takeCount ctr n)
      ∧ (∀ scope n, (s.cell k).seq.wait = some (.fence scope n) → (s.cell k).fenced scope n = true →
        exec (.fenceRelease c cycles) s = ends rFenceWait id)
      ∧ ∀ v target : Word, reached v target = decide ((v - target).toNat < 2 ^ 31))
  ∧ (∀ (s : State) (c : CellId) (ctr n age cycles : Nat),
      let k := cellKey c
      (s.cell k).seq.wait = some (.ctr ctr n age) → (s.cell k).seq.held = none → (s.cell k).seq.stopPending = false → (s.cell k).seq.running = true →
      (s.cell k).arrivals ctr < n → s.timeoutOf k < age →
      ∃ t, exec (.waitcTimeout c cycles) s = .next t
        ∧ (t.cell k).seq = { (s.cell k).seq with wait := none, stopPending := true, firstCause := 0x0410 }
        ∧ (t.cell k).cnt = ((s.cell k).waited rSyncWait cycles).cnt ∧ (t.cell k).mr.arrival = (s.cell k).mr.arrival ∧ (t.cell k).mem = (s.cell k).mem
        ∧ (t.blk (cellBlk k)).transit = (s.blk (cellBlk k)).transit ++ [s.cellRec k ⟨0x0410, leBytes 4 ctr ++ leBytes 4 n ++ leBytes 4 ((s.cell k).arrivals ctr), false⟩])

/-- CUESIG enters the signal queue, of which a relaxed signal that finds it empty leaves at once; CUE_SIGNAL_RELEASE lets the oldest signal leave once it may, and its count is added to its cue; a cue that the module does not offer takes nothing (R19, R158, R240, R256, R257). -/
def Obligations.SignalsCountOnCues : Prop :=
  ∀ (s : State) (c : CellId) (p : Pred),
    let k := cellKey c
    let q := (s.cell k).seq
    (∀ f : CueSigF, Sound s k p (.cuesig f) [] → q.stopPending = false → q.sigs.length < 4 →
      let n := if f.src then q.reg f.rc else f.imm.zeroExtend 32
      let g : Sig := ⟨f.cue.toNat, n, f.rel, q.nextSeq, if f.remote then some ((q.reg f.rm).setWidth 12) else none⟩
      (f.rel = true ∨ q.sigs ≠ [] →
        exec (.cuesig c p f) s = .next (s.setCell k ((s.cell k).setSeq fun q => { q.onward with sigs := q.sigs ++ [g] })))
      ∧ (f.rel = false → q.sigs = [] → f.remote = false →
        exec (.cuesig c p f) s = .next (addCue (s.setCell k ((s.cell k).setSeq Seq.onward)) f.cue.toNat n)))
    ∧ (∀ g rest, q.sigs = g :: rest → q.wait = none → q.held = none → (g.rel = true → (s.cell k).visible (s.identOf k) k (sigScope k g) g.seq = true) → g.remote = none →
      s.cueLost g.cue = false → (s.cue g.cue).armed = false →
      exec (.cueSignalRelease c) s = .next ((s.setCell k ((s.cell k).setSeq fun q => { q with sigs := rest })).setCue g.cue { (s.cue g.cue) with value := (s.cue g.cue).value + g.count }))
    ∧ (∀ i n, s.cueLost i = true → addCue s i n = s)
    ∧ (∀ i n, s.cueLost i = false → (s.cue i).armed = false → addCue s i n = s.setCue i { (s.cue i) with value := (s.cue i).value + n })

/-- SETCFG writes the sparse threshold, force_dense, or the ring of a scale stream, for the instructions dispatched after it (R148, R179). -/
def Obligations.SetcfgConfigures : Prop :=
  ∀ (s : State) (c : CellId) (p : Pred) (f : SetcfgF),
    let k := cellKey c
    let v := if f.src then ((s.cell k).seq.reg f.ra).toNat else f.imm.toNat
    Sound s k p (.setcfg f) [] →
    (f.sel = 1 → exec (.setcfg c p f) s = .next (s.setCell k { s.sent k with regs := { (s.cell k).regs with threshold := BitVec.ofNat 8 v } }))
    ∧ (f.sel = 2 → exec (.setcfg c p f) s = .next (s.setCell k { s.sent k with regs := { (s.cell k).regs with forceDense := v % 2 == 1 } }))
    ∧ (∀ i : Nat, i < 4 → f.sel.toNat = 0x10 + i →
      ∃ t, exec (.setcfg c p f) s = .next t ∧ (t.cell k).seq = (s.cell k).seq.onward ∧ (t.cell k).mem = (s.cell k).mem
        ∧ (t.cell k).mr.stream i (s.cell k).seq.onward.nextSeq = ⟨i, (s.cell k).seq.nextSeq, true, BitVec.ofNat 9 v, BitVec.ofNat 10 (v / 512), BitVec.ofNat 9 v⟩)

/-- WLOAD, MVM, MVMT, SWATCH and SLOTINV whose track and slots are free issue at dispatch, on the write track or the compute track (R59, R146). -/
def Obligations.ArrayInstructionsIssue : Prop :=
  ∀ (s : State) (c : CellId) (p : Pred) (seen : List MarginObs),
    let k := cellKey c
    let lead := isLead (cellNo k)
    let x := Fx.of (s.sent k)
    let write := fun (r : Fx × Run) => Host.Outcome.next (s.put k (r.1.map (Cell.setUnits fun v => { v with wload := some r.2 })))
    let compute := fun (r : Fx × Run) => Host.Outcome.next (s.put k (r.1.map (Cell.setUnits fun v => { v with comp := some r.2 })))
    let may := fun op => Open s k p op seen .array ∧ (s.cell k).arrayReady (s.taken k p op seen) = true
    (∀ f, Open s k p (.wload f) [] .array → (s.cell k).arrayReady (s.taken k p (.wload f) []) = true →
      exec (.wload c p f) s = write (issueWload lead x (s.taken k p (.wload f) []) f))
    ∧ (∀ f, may (.mvm false f) → s.rampRoom k = true → exec (.mvm c p f seen) s = compute (issueMvm lead x (s.taken k p (.mvm false f) seen) false f))
    ∧ (∀ f, may (.mvm true f) → s.rampRoom k = true → exec (.mvmt c p f seen) s = compute (issueMvm lead x (s.taken k p (.mvm true f) seen) true f))
    ∧ (may .swatch → s.rampRoom k = true → exec (.swatch c p seen) s = compute (issueSwatch x (s.taken k p .swatch seen)))
    ∧ (∀ slot, Open s k p (.slotinv slot) [] .array → (s.cell k).arrayReady (s.taken k p (.slotinv slot) []) = true →
      exec (.slotinv c p slot) s = .next (s.setCell k (((s.sent k).modSlot slot.toNat fun v => { v with valid := false }).setUnits fun v =>
        { v with wload := some (Run.start (s.taken k p (.slotinv slot) [])).finish })))

/-- A WLOAD without a record or a palette, whose source nothing blocks or poisons, puts its tile into the slot it names, or the halves of a BF16 tile into both; they are not valid until SLOT_WRITE_DONE, and the scratchpad is unchanged (R37, R58, R60, R181). SLOT_WRITE_DONE makes the slot of the finished WLOAD valid, or both slots of a BF16 tile (R37, R58). -/
def Obligations.WloadWritesSlot : Prop :=
  (∀ (s : State) (c : CellId) (p : Pred) (f : WloadF),
      let k := cellKey c
      let q := s.taken k p (.wload f) []
      let a := q.addr f.ra
      let n := tileLen f.fmt.toNat f.s24
      let tile := loadTile f.fmt.toNat f.group.toNat f.s24 f.nrowsM1.toNat (memRead (s.cell k).mem a n) (Config.mxInt8 a) none
      let filled := fun (i : Nat) (rows : List Byte) =>
        { ((s.cell k).slot i).fill f.fmt.toNat f.group.toNat f.s24 tile rows with valid := false, writing := true }
      Open s k p (.wload f) [] .array → (s.cell k).arrayReady q = true → f.scaled = false → f.palEn = false → ¬ (f.s24 = true ∧ f.group = 2) →
      localOk (isLead (cellNo k)) a n = true → (s.cell k).bankDown a n = false → (s.cell k).firstEmpty (slotsOf a n) = none →
      (s.cell k).errs = [] → (s.cell k).poison = 0 → (∀ i, (s.cell k).tagMode i ≠ 2) → tile.dropRange = 0 → tile.dropEqual = 0 →
      ∃ t, exec (.wload c p f) s = .next t
        ∧ (f.fmt ≠ 8 → (t.cell k).slot f.slot.toNat = filled f.slot.toNat tile.hi ∧ (t.cell k).slot (1 - f.slot.toNat) = (s.cell k).slot (1 - f.slot.toNat))
        ∧ (f.fmt = 8 → (t.cell k).slot 0 = filled 0 tile.hi ∧ (t.cell k).slot 1 = filled 1 tile.lo)
        ∧ (t.cell k).mem = (s.cell k).mem ∧ (t.cell k).frames = (s.cell k).frames ∧ (t.cell k).seq = (s.cell k).seq.onward
        ∧ ∀ j, j ≠ k → t.cell j = s.cell j)
  ∧ (∀ (s : State) (c : CellId) (r : Run) (f : WloadF),
      let k := cellKey c
      (s.cell k).units.wload = some r → r.qi.op = .wload f → r.done = true → r.next = 0 →
      (s.cell k).seq.wait = none → (s.cell k).seq.held = none →
      let set := fun (i : Nat) (b : Cell) => b.modSlot i fun v => { v with valid := true, writing := false }
      exec (.slotWriteDone c) s = .next (s.setCell k ((if f.fmt = 8 then set 1 (set 0 (s.cell k)) else set f.slot.toNat (s.cell k)).setUnits fun v => { v with wload := none })))

/-- ACLR, AMOV, AROT and APROMO: a frame is cleared, or copied with its record; the names rotate or exchange; the open columns of tile A close (R85, R88, R91, R184). -/
def Obligations.AccumulatorInstructions : Prop :=
  ∀ (s : State) (c : CellId) (p : Pred),
    let k := cellKey c
    let lead := isLead (cellNo k)
    let b := s.cell k
    let does := fun (op : CellOp) (f : Cell → Cell) => Host.Outcome.next (s.setCell k ((f (s.sent k)).setUnits fun v => { v with acc := some (Run.start (s.taken k p op [])).finish }))
    b.units.acc = none →
    (∀ t int, Open s k p (.aclr t int) [] .acc → (t = 2 → lead = true) →
      let fr := b.map.resolve t
      exec (.aclr c p t int) s = does (.aclr t int) fun c => { c with mem := memZero c.mem (frameBase fr) (frameBase fr + 0x2000), errs := mapDrop (fun i => i / 128 == frameBase fr / 0x2000) c.errs, frames := setAt c.frames fr { Frame.reset with int := int } })
    ∧ (∀ src dst, Open s k p (.amov src dst) [] .acc → (src = 2 ∨ dst = 2 → lead = true) → src ≠ dst →
      (b.frame (b.map.resolve src)).treeOpen = false → (b.frame (b.map.resolve dst)).treeOpen = false → b.errs = [] →
      exec (.amov c p src dst) s = does (.amov src dst) fun c =>
        { c with mem := memWrite c.mem (frameBase (b.map.resolve dst)) (memRead c.mem (frameBase (b.map.resolve src)) 0x2000),
                 frames := setAt c.frames (b.map.resolve dst) (b.frame (b.map.resolve src)) })
    ∧ (∀ form, Ready s k p (.arot form) → lead = true → (b.frame b.map.a.toNat).treeOpen = false →
      exec (.arot c p form) s = .next (s.setCell k { s.sent k with map := if form = 0 then ⟨b.map.w, b.map.a, b.map.b⟩ else ⟨b.map.w, b.map.b, b.map.a⟩ }))
    ∧ (Open s k p .apromo [] .acc →
      let o := shapeO (b.frame b.map.a.toNat).shape
      exec (.apromo c p) s = .next (s.put k (((List.range (treeCols o)).foldl (fun x v => promoCol x b.map.a.toNat b.map.b.toNat o v) (Fx.of (s.sent k))).map
        (Cell.setUnits fun v => { v with acc := some (Run.start (s.taken k p .apromo [])).finish }))))

/-- After ACLR every byte of the frame reads zero and every other byte of the cell reads as before (R184). ADRAIN copies its columns to the scratchpad at A[rd], and leaves every other byte, the frame among them, as it was (R85, R184). -/
def Obligations.AccumulatorFramesClearedAndCopied : Prop :=
  (∀ (s : State) (c : CellId) (p : Pred) (tile : BitVec 2) (int : Bool),
      let k := cellKey c
      let fr := (s.cell k).map.resolve tile
      (s.cell k).units.acc = none → Open s k p (.aclr tile int) [] .acc → (tile = 2 → isLead (cellNo k) = true) → memWf (s.cell k).mem = true →
      ∃ t, exec (.aclr c p tile int) s = .next t
        ∧ (∀ a, memGet (t.cell k).mem a = if frameBase fr ≤ a ∧ a < frameBase fr + 0x2000 then 0 else memGet (s.cell k).mem a)
        ∧ memWf (t.cell k).mem = true ∧ (t.cell k).seq = (s.cell k).seq.onward ∧ ∀ j, j ≠ k → t.cell j = s.cell j)
  ∧ (∀ (s : State) (c : CellId) (p : Pred) (f : AdrainF),
      let k := cellKey c
      let b := s.cell k
      let q := s.taken k p (.adrain f) []
      let fr := b.map.resolve f.tile
      let o := shapeO (b.frame fr).shape
      let src := frameBase fr + 4 * o * f.first.toNat
      let n := 4 * o * (f.countM1.toNat + 1)
      let d := q.addr f.rd
      b.units.acc = none → Open s k p (.adrain f) [] .acc → (f.tile = 2 → isLead (cellNo k) = true) → (b.frame fr).treeOpen = false →
      f.first.toNat + f.countM1.toNat < seqCols o → b.errs = [] → memWf b.mem = true →
      localOk (isLead (cellNo k)) d n = true → b.bankDown d n = false → (∀ i ∈ slotsOf d n, b.blocksWrite i = false) →
      ∃ t, exec (.adrain c p f) s = .next t
        ∧ (∀ a, memGet (t.cell k).mem a = if d ≤ a ∧ a < d + n then memGet b.mem (src + (a - d)) else memGet b.mem a)
        ∧ (t.cell k).seq = b.seq.onward ∧ (t.cell k).frames = b.frames ∧ ∀ j, j ≠ k → t.cell j = s.cell j)

/-- VADD, VMUL, VFMA, VMAX, VMIN, VEXP2, VRCP and VRSQ write the results of their elements at A[rd] and leave every other byte of the cell as it was (R185 to R187). -/
def Obligations.ElementwiseVectorResults : Prop :=
  ∀ (s : State) (c : CellId) (p : Pred) (i : Instr) (kd : VecKind) (f : VecF),
    let k := cellKey c
    let b := s.cell k
    let op := CellOp.vec kd f
    let q := s.taken k p op []
    let m := (q.count f.rn).getD 0
    let src := fun (r : AReg) => memRead b.mem (q.addr r) (opLen f.fs m)
    let out := if kd = .exp2 ∨ kd = .rcp ∨ kd = .rsq then pack (fmtBits f.fd.toNat) ((elems f.fs.toNat m (src f.rs1)).map fun e => vecFun kd f.fd.toNat (decodeElem f.fs.toNat e))
      else vecArith kd f (s.seedOf k) (q.reg (f.rc.toNat + 3)).toNat m (q.coord f.rc m) (src f.rs1) (src f.rs2) (if kd = .fma then src f.rx else src f.rs2)
    (i = .vadd c p f ∧ kd = .add ∨ i = .vmul c p f ∧ kd = .mul ∨ i = .vfma c p f ∧ kd = .fma ∨ i = .vmax c p f ∧ kd = .max ∨ i = .vmin c p f ∧ kd = .min
      ∨ i = .vexp2 c p f ∧ kd = .exp2 ∨ i = .vrcp c p f ∧ kd = .rcp ∨ i = .vrsq c p f ∧ kd = .rsq) →
    Open s k p op [] .vector → b.units.vec = none → s.rampRoom k = true → m ≠ 0 → b.errs = [] → b.poison = 0 → memWf b.mem = true →
    (∀ r ∈ vecReads kd q f m ++ vecDests true kd q f m 8, b.bankDown r.1 r.2 = false) → b.firstEmpty (vecNeeds kd q f m) = none →
    localOk (isLead (cellNo k)) (q.addr f.rd) out.length = true → b.bankDown (q.addr f.rd) out.length = false →
    (∀ n ∈ slotsOf (q.addr f.rd) out.length, b.blocksWrite n = false) →
    ∃ t, exec i s = .next t
      ∧ (∀ a, memGet (t.cell k).mem a = if q.addr f.rd ≤ a ∧ a < q.addr f.rd + out.length then out.getD (a - q.addr f.rd) 0 else memGet b.mem a)
      ∧ (t.cell k).seq = b.seq.onward ∧ ∀ j, j ≠ k → t.cell j = s.cell j

/-- The other vector instructions complete with their results. VSCL_DERIVE, VSCL_PUSH, VSCL_PUSH_ADVANCE and VSCL_MERGE write the palette that they name, VSTAT adds its statistics to its palette or its magnitudes to the channel entries, VCVT and VSCL_CONVERT write what they convert, VHAD its transform, VPRUNE24 its kept values, indices and masks, and VRED its pair; a VCVT with deq takes its source with the record of its stream; nothing else of the cell's memories, frames, tags or flow changes (R99, R107 to R109, R112, R114, R118, R140, R188 to R190). Each vector instruction that finds its unit free issues at dispatch (R146). -/
def Obligations.VectorInstructionsIssue : Prop :=
  (∀ (s : State) (c : CellId) (p : Pred) (f : VecF),
      let k := cellKey c
      let b := s.cell k
      let lead := isLead (cellNo k)
      let seed := s.seedOf k
      let x := Fx.of (s.sent k)
      let q := s.taken k p (.vec .add f) []
      let m := (q.count f.rn).getD 0
      let co := q.coord f.rc m
      let src := memRead b.mem (q.addr f.rs1) (opLen f.fs m)
      let pal := fun (on : Bool) => if on then b.pal (q.addr f.rs2) else palOf []
      let leaves := fun (i : Instr) (mem : Memory) => ∃ t, exec i s = .next t ∧ (t.cell k).mem = mem ∧ (t.cell k).seq = b.seq.onward ∧ (t.cell k).frames = b.frames
        ∧ (t.cell k).full = b.full ∧ (t.cell k).poison = b.poison ∧ ∀ j, j ≠ k → t.cell j = s.cell j
      let writes := fun (mem : Memory) (w : List Piece) => w.foldl (fun m w => memWrite m w.addr w.data) mem
      (VecRuns s k p .sclDerive f → leaves (.vsclDerive c p f) (b.setPal (q.addr f.rs2) ((b.pal (q.addr f.rs2)).derive (amaxOf ((elems f.fs.toNat m src).map (decodeElem f.fs.toNat))))).mem)
      ∧ (VecRuns s k p .sclPush f → leaves (.vsclPush c p f) (b.setPal (q.addr f.rs2) ((b.pal (q.addr f.rs2)).push false)).mem)
      ∧ (VecRuns s k p .sclPushAdvance f → leaves (.vsclPushAdvance c p f) (b.setPal (q.addr f.rs2) ((b.pal (q.addr f.rs2)).push true)).mem)
      ∧ (VecRuns s k p .sclMerge f → leaves (.vsclMerge c p f) (b.setPal (q.addr f.rd) ((b.pal (q.addr f.rd)).merge (b.pal (q.addr f.rs1)))).mem)
      ∧ (VecRuns s k p .stat f → f.sub.getLsbD 0 = false →
        let o := b.pal (q.addr f.rs2)
        let g := co.getD ⟨0, 0, m + 1⟩
        let r := palConvert o false o.fmt (palZero o) (groupCount g o.group m) (fun _ => .rne)
          (List.zip (sourceVals f.fs.toNat (elems f.fs.toNat m src) [] none) (groupsOf g o.group m))
        leaves (.vstat c p f) (b.setPal (q.addr f.rs2) (o.addStats r.stats)).mem)
      ∧ (∀ g, VecRuns s k p .stat f → f.sub.getLsbD 0 = true → co = some g →
        leaves (.vstat c p f) (writes b.mem (doChannel x q f m g src ((channelBytes q f g m).map fun r => memRead b.mem r.1 r.2)).wr))
      ∧ (VecRuns s k p .had f →
        let out := (chunks (2 ^ (5 + field f.sub.toNat 0 2)) ((elems f.fs.toNat m src).map (decodeElem f.fs.toNat))).flatMap
          (hadRun (5 + field f.sub.toNat 0 2) (f.sub.getLsbD 2) seed (q.reg f.rs2.toNat).toNat)
        leaves (.vhad c p f) (memWrite b.mem (q.addr f.rd) (pack (fmtBits f.fd.toNat) (out.map (toFmt f.fd.toNat)))))
      ∧ (VecRuns s k p .prune24 f → leaves (.vprune24 c p f) (writes b.mem (doPrune x q f m (co.getD ⟨0, 0, 1⟩) src).wr))
      ∧ (VecRuns s k p .red f →
        let g := co.getD ⟨0, 0, 1⟩
        let r := vecRed (field f.sub.toNat 0 2) (f.fd == 0xB) ((elems f.fs.toNat m src).map (widen f.fs.toNat)) (fun e => if f.sub.getLsbD 2 then (g.at e).1 else (g.at e).2)
        leaves (.vred c p f) (memWrite b.mem (q.addr f.rd) (leBytes 4 r.1 ++ leBytes 4 r.2.1)))
      ∧ (VecRuns s k p .cvt f → vfDeq f = false →
        let v := doCvt x q f seed m co (pal (vfPal f)) src none
        leaves (.vcvt c p f) (writes v.x.c.mem v.wr))
      ∧ (∀ r : ScaleRec, VecRuns s k p .cvt f → vfDeq f = true →
        b.judge (slotsOf (q.addr f.rs1) (opLen f.fs m)) (b.mr.stream (vfStream f) q.seq)
          (fun g n => if g = 3 then n == 1 else match co with | some c => n == groupCount c g m | none => true) = .ok (some r) →
        (r.group = 3 ∨ co.isSome = true) →
        let v := doCvt x q f seed m co (pal (vfPal f)) src (some r)
        leaves (.vcvt c p f) (writes v.x.c.mem v.wr))
      ∧ (VecRuns s k p .sclConvert f →
        let l := memRead b.mem (q.addr f.rx) (recLen (leNat (memRead b.mem (q.addr f.rx) 8)))
        let r := recOf l
        localOk lead (q.addr f.rx) l.length = true → b.bankDown (q.addr f.rx) l.length = false → (r.group = 3 ∨ co.isSome = true) →
        recOk l r.group (groupCount (co.getD ⟨0, 0, m + 1⟩) r.group m) = true →
        let v := doScl x q f seed m co (pal (f.sub.getLsbD 3)) src r
        leaves (.vsclConvert c p f) (writes v.x.c.mem v.wr)))
  ∧ (∀ (s : State) (c : CellId) (p : Pred) (f : VecF),
      let k := cellKey c
      let gives := fun (i : Instr) (kd : VecKind) =>
        Open s k p (.vec kd f) [] .vector → (s.cell k).units.vec = none → s.rampRoom k = true →
        let r := issueVector (isLead (cellNo k)) (s.seedOf k) (Fx.of (s.sent k)) (s.taken k p (.vec kd f) [])
        exec i s = .next (s.put k (r.1.map (Cell.setUnits fun v => { v with vec := some r.2 })))
      gives (.vadd c p f) .add ∧ gives (.vmul c p f) .mul ∧ gives (.vfma c p f) .fma ∧ gives (.vmax c p f) .max ∧ gives (.vmin c p f) .min
      ∧ gives (.vexp2 c p f) .exp2 ∧ gives (.vrcp c p f) .rcp ∧ gives (.vrsq c p f) .rsq ∧ gives (.vcvt c p f) .cvt ∧ gives (.vhad c p f) .had
      ∧ gives (.vsclConvert c p f) .sclConvert ∧ gives (.vsclDerive c p f) .sclDerive ∧ gives (.vsclPush c p f) .sclPush ∧ gives (.vsclPushAdvance c p f) .sclPushAdvance
      ∧ gives (.vsclMerge c p f) .sclMerge ∧ gives (.vstat c p f) .stat ∧ gives (.vprune24 c p f) .prune24 ∧ gives (.vred c p f) .red)

/-- Two copies of a palette record merge: amax_now takes the larger, counts and squared error the saturating sum, the flags the OR, every other field the first copy's; the merged quantities are the same whatever the order or tree of the merge (R107). -/
def Obligations.PaletteCopiesMergeInAnyOrder : Prop :=
  ∀ a b c : Pal,
    let m := a.merge b
    m = { a with amax := max a.amax b.amax, elements := min (2 ^ 64 - 1) (a.elements + b.elements), sat := min (2 ^ 32 - 1) (a.sat + b.sat),
                 under := min (2 ^ 32 - 1) (a.under + b.under), nonfin := min (2 ^ 32 - 1) (a.nonfin + b.nonfin), jitCount := min (2 ^ 32 - 1) (a.jitCount + b.jitCount),
                 sqErr := min (2 ^ 64 - 1) (a.sqErr + b.sqErr), jitDone := a.jitDone || b.jitDone, hadNonfin := a.hadNonfin || b.hadNonfin }
    ∧ (a.merge b).merge c = a.merge (b.merge c) ∧ (a.merge b).merge c = (a.merge c).merge b

/-- LD and ST of a word: LD reads its word and marks its register pending, and its completion writes the register; ST writes the word's four bytes and no other (R152, R192, R194). TAGSET and TAGCLR set or clear the full bits of the slots they name that lie in tagged windows, and no other bit (R205). -/
def Obligations.WordsAndTags : Prop :=
  (∀ (s : State) (c : CellId) (p : Pred),
      let k := cellKey c
      let b := s.cell k
      let free := b.units.mem = none ∧ b.awaitsData = false
      (∀ rd ra imm, Open s k p (.ld rd ra imm) [] .memory → free → b.errs = [] → b.poison = 0 →
        let a := (b.seq.reg ra + imm.zeroExtend 32).toNat % 2 ^ 16
        b.bankDown a 4 = false → b.firstEmpty (slotsOf a 4) = none →
        ∃ t r, exec (.ld c p rd ra imm) s = .next t ∧ (t.cell k).units.mem = some r ∧ r.done = true ∧ r.qi.op = .ld rd ra imm
          ∧ r.value = leNat (memRead b.mem a 4) ∧ (t.cell k).mem = b.mem
          ∧ (t.cell k).seq = { b.seq.onward with pendingA := setBit b.seq.pendingA rd.toNat true })
      ∧ (∀ r rd ra imm, b.units.mem = some r → r.done = true → r.qi.op = .ld rd ra imm → b.seq.wait = none → b.seq.held = none →
        exec (.unitCompletion c .memory) s = .next (s.setCell k { b with units := { b.units with mem := none }, seq := { b.seq.setA rd (BitVec.ofNat 32 r.value) with pendingA := setBit b.seq.pendingA rd.toNat false } }))
      ∧ (∀ f : StF, f.form = true → Open s k p (.st f) [] .memory → free → memWf b.mem = true →
        let a := (b.seq.reg f.rd + f.imm.zeroExtend 32).toNat % 2 ^ 16
        b.bankDown a 4 = false → b.blocksWrite (a / 64) = false →
        ∃ t, exec (.st c p f) s = .next t
          ∧ (∀ x, memGet (t.cell k).mem x = if a ≤ x ∧ x < a + 4 then (leBytes 4 (b.seq.reg f.rn).toNat).getD (x - a) 0 else memGet b.mem x)
          ∧ (t.cell k).seq = b.seq.onward ∧ ∀ j, j ≠ k → t.cell j = s.cell j)
      ∧ (∀ f : StF, f.form = false → Open s k p (.st f) [] .memory → free → memWf b.mem = true → b.errs = [] → b.poison = 0 → (∀ i, b.tagMode i = 0) →
        let q := s.taken k p (.st f) []
        let n := (q.count f.rn).getD 0
        let src := q.addr f.ra
        let dst := q.addr f.rd
        b.bankDown src n = false → b.bankDown dst n = false → (src + n ≤ dst ∨ dst + n ≤ src) →
        ∃ t, exec (.st c p f) s = .next t
          ∧ (∀ x, memGet (t.cell k).mem x = if dst ≤ x ∧ x < dst + n then memGet b.mem (src + (x - dst)) else memGet b.mem x)
          ∧ (∀ i, dst / 64 ≤ i → i < (dst + n) / 64 → i < 512 → (t.cell k).tagOf i = f.tag) ∧ (t.cell k).poison = b.poison ∧ (t.cell k).full = b.full
          ∧ (t.cell k).seq = b.seq.onward ∧ ∀ j, j ≠ k → t.cell j = s.cell j))
  ∧ (∀ (s : State) (c : CellId) (p : Pred) (full : Bool) (ra rn : AReg),
      let k := cellKey c
      let b := s.cell k
      let q := s.taken k p (.tagset full ra rn) []
      let n := (q.count rn).getD 0
      Open s k p (.tagset full ra rn) [] .memory → b.units.mem = none → b.awaitsData = false →
      b.bankDown (q.addr ra) (64 * n) = false →
      ∃ t, (full = true → exec (.tagset c p ra rn) s = .next t) ∧ (full = false → exec (.tagclr c p ra rn) s = .next t)
        ∧ (∀ i < 512, (t.cell k).isFull i = if q.addr ra / 64 ≤ i ∧ i < q.addr ra / 64 + n ∧ b.tagged i = true then full else b.isFull i)
        ∧ (t.cell k).mem = b.mem ∧ (t.cell k).seqTag = b.seqTag ∧ (t.cell k).poison = b.poison ∧ (t.cell k).seq = b.seq.onward)

/-- The memory instructions whose engine is free issue at dispatch: GET and HBMRD send their requests, PUT, ACCW and HBMWR send their slots, ST copies, CSEND and CRECV go to their channel (R146, R192, R195, R206, R216). -/
def Obligations.MemoryInstructionsIssue : Prop :=
  ∀ (s : State) (c : CellId) (p : Pred),
    let k := cellKey c
    let b := s.cell k
    let s1 := s.setCell k (s.sent k)
    let may := fun op => Open s k p op [] .memory ∧ memRefused s1 k (s.taken k p op []) = none
    let count := fun (f : XferF) => if f.cntEn then some f.ctr else none
    b.units.mem = none → b.awaitsData = false →
    (∀ f, may (.get f) →
      let q := s.taken k p (.get f) []
      let n := (q.count f.rn).getD 0
      exec (.getw c p f) s = .next ((s.setCell k ((s.sent k).addOutst ⟨q.seq, 0, n / 64, framesIn (q.addr f.rd) n, true, none⟩)).launch
        (.getReq k q.seq (gaLocal (q.pair f.ra)) (q.addr f.rd) n (count f))))
    ∧ (∀ f, may (.hbmrd f) →
      let q := s.taken k p (.hbmrd f) []
      let n := (q.count f.rn).getD 0
      exec (.hbmrd c p f) s = .next ((List.range (n / 64)).foldl (fun s i => s.launch (.hbmRead k q.seq (gaLocal (q.pair f.ra) + 64 * i) (q.addr f.rd + 64 * i) (count f)))
        (s.setCell k ((s.sent k).addOutst ⟨q.seq, 0, n / 64, framesIn (q.addr f.rd) n, true, none⟩))))
    ∧ (∀ f, may (.put f) → exec (.putw c p f) s = .next (putGo s1 k (Run.start (s.taken k p (.put f) [])) f none))
    ∧ (∀ f acc, may (.accw f acc) → exec (.accw c p f acc) s = .next (putGo s1 k (Run.start (s.taken k p (.accw f acc) [])) f (some acc)))
    ∧ (∀ f, may (.hbmwr f) → exec (.hbmwr c p f) s = .next (hbmwrGo s1 k (Run.start (s.taken k p (.hbmwr f) [])) f))
    ∧ (∀ f, may (.csend f) → exec (.csend c p f) s = .next (issueSend s1 k (s.imgOf k) (Fx.of (s.sent k)) (s.taken k p (.csend f) []) f))
    ∧ (∀ f, may (.crecv f) → exec (.crecv c p f) s = .next (issueRecv s1 k (s.imgOf k) (Fx.of (s.sent k)) (s.taken k p (.crecv f) []) f))
    ∧ (∀ f, may (.hbmwr f) → b.units.outst = [] → b.errs = [] → b.poison = 0 →
      let q := s.taken k p (.hbmwr f) []
      let a := q.addr f.ra
      let dst := gaLocal (q.pair f.rd)
      q.count f.rn = some 64 → b.firstEmpty [a / 64] = none →
      ∃ t, exec (.hbmwr c p f) s = .next t
        ∧ t.flights = s.flights ++ [(s.nextId, .hbmWrite k q.seq dst (memRead b.mem a 64) (if a / 64 < 512 then b.tagOf (a / 64) else 0) false (count f))]
        ∧ (t.cell k).units.outst = [⟨q.seq, levelOf k dst, 1, 0, true, none⟩] ∧ (t.cell k).units.mem = none ∧ (t.cell k).mem = b.mem ∧ (t.cell k).seq = b.seq.onward)
    ∧ (∀ f, may (.csend f) → b.errs = [] → b.poison = 0 → (∀ i, b.tagMode i = 0) → (s.blk (cellBlk k)).chans.length = 4 →
      let q := s.taken k p (.csend f) []
      let d := memRead b.mem (q.addr f.rt) 32
      let cn := (s.blk (cellBlk k)).chan (descChan d)
      let m := (q.count f.rn).getD 0
      let n := combGroups f.op m
      let i := mapGet 0 cn.sent (cellNo k)
      let group := fun (j : Nat) => let len := min 64 (m * combElem f.op - 64 * j); memRead b.mem (q.addr f.ra + 64 * j) len ++ List.replicate (64 - len) 0
      let u : Sub := ⟨cellNo k, d.take 24, f.op, f.int, m, (List.range n).map group, [], n, false, i⟩
      bitAt (descMembers d) (cellNo k) = true → descBad (s.imgOf k) d m = false → cn.failed = false → m ≠ 0 → cn.held (cellNo k) + n ≤ 8 →
      cn.ended ≤ i → (∀ o ∈ cn.subs ++ cn.roots, o.idx = i → o.agrees u = true) →
      ∃ t r, exec (.csend c p f) s = .next t ∧ (t.blk (cellBlk k)).chan (descChan d) = { cn with subs := cn.subs ++ [u], sent := mapPut cn.sent (cellNo k) (i + 1) }
        ∧ (t.cell k).units.mem = some r ∧ r.done = true ∧ r.qi.op = .csend f ∧ (t.cell k).mem = b.mem ∧ (t.cell k).seq = b.seq.onward ∧ ∀ j, j ≠ k → t.cell j = s.cell j)
    ∧ (∀ f, may (.crecv f) → b.errs = [] → b.poison = 0 → (∀ i, b.tagMode i = 0) → (s.blk (cellBlk k)).chans.length = 4 →
      let q := s.taken k p (.crecv f) []
      let d := memRead b.mem (q.addr f.rt) 32
      let cn := (s.blk (cellBlk k)).chan (descChan d)
      let m := (q.count f.rn).getD 0
      let u : Sub := ⟨cellNo k, d.take 24, f.op, f.int, m, [], [], 0, false, cn.recv⟩
      isRoot (s.imgOf k) d k = true → descBad (s.imgOf k) d m = false → cn.failed = false → m ≠ 0 → (∀ o ∈ cn.subs ++ cn.past, o.idx = cn.recv → o.agrees u = true) →
      ∃ t r, exec (.crecv c p f) s = .next t ∧ (t.blk (cellBlk k)).chan (descChan d) = { cn with recv := cn.recv + 1, roots := (if cn.recv < cn.ended then cn.roots else cn.roots ++ [u]), past := cn.past.filter fun o => o.idx != cn.recv }
        ∧ (t.cell k).units.mem = some r ∧ r.done = false ∧ r.qi.op = .crecv f ∧ (t.cell k).mem = b.mem ∧ (t.cell k).seq = b.seq.onward ∧ ∀ j, j ≠ k → t.cell j = s.cell j)

/-- A PUT of one slot within its module, whose source slot nothing blocks, is one write under way: the destination, the slot's bytes, the instruction's tag and the slot's poison; the cell's memory is unchanged and the instruction is outstanding until the write is acknowledged (R157, R192, R206, R210). An access that names an address it may not reach is refused at issue with class 0x0118: nothing is read or written, CELL_MEM_STATUS.prot is set, and the cell stops at its next cue wait (R163, R201). -/
def Obligations.PutSendsItsSlotOrIsRefused : Prop :=
  (∀ (s : State) (c : CellId) (p : Pred) (f : PutF) (i : Instr) (op : CellOp) (acc : Option (BitVec 2)),
      let k := cellKey c
      let b := s.cell k
      let q := s.taken k p op []
      let g := q.pair f.rd
      (i = .putw c p f ∧ op = .put f ∧ acc = none ∨ ∃ a, i = .accw c p f a ∧ op = .accw f a ∧ acc = some a) →
      Open s k p op [] .memory → b.units.mem = none → b.units.outst = [] → memRefused (s.setCell k (s.sent k)) k q = none →
      q.count f.rn = some 64 → gaOwn (s.identOf k) g = true → b.firstEmpty [q.addr f.ra / 64] = none → b.errs = [] → b.poison = 0 →
      ∃ t, exec i s = .next t
        ∧ t.flights = s.flights ++ [(s.nextId, .write ⟨s.identOf k, k, q.seq, gaLocal g, memRead b.mem (q.addr f.ra) 64, f.tag, false, acc, if f.cntEn then some f.ctr else none, none⟩)]
        ∧ (t.cell k).units.outst = [⟨q.seq, levelOf k (gaLocal g), 1, 0, true, none⟩] ∧ (t.cell k).units.mem = none
        ∧ (t.cell k).mem = b.mem ∧ (t.cell k).seq = b.seq.onward)
  ∧ (∀ (s : State) (c : CellId) (p : Pred) (f : PutF) (a : Nat),
      let k := cellKey c
      let b := s.cell k
      Open s k p (.put f) [] .memory → b.units.mem = none → b.awaitsData = false → b.seq.stopPending = false →
      memRefused (s.setCell k (s.sent k)) k (s.taken k p (.put f) []) = some a →
      ∃ t, exec (.putw c p f) s = .next t ∧ t.flights = s.flights ∧ (t.cell k).mem = b.mem ∧ (t.cell k).mr.prot = true
        ∧ (t.cell k).seq = { b.seq.onward with stopPending := true, firstCause := 0x0118 }
        ∧ (t.blk (cellBlk k)).transit.map (fun r => (r.cls, r.detail)) = (s.blk (cellBlk k)).transit.map (fun r => (r.cls, r.detail)) ++ [(0x0118, leBytes 8 a)])

/-- UNIT_ISSUE issues the head of a unit's queue once its unit is free, and counts the wait of an array instruction; UNIT_COMPLETION frees the unit of an instruction that has made its accesses (R59, R146). -/
def Obligations.UnitsIssueAndComplete : Prop :=
  ∀ (s : State) (c : CellId) (q : QI) (rest : List QI) (r : Run) (waited : Nat),
    let k := cellKey c
    let b := s.cell k
    let lead := isLead (cellNo k)
    b.seq.wait = none → b.seq.held = none →
    (∀ kd f, q.op = .vec kd f → b.units.vecQ = q :: rest → b.units.vec = none → s.rampRoom k = true →
      let v := issueVector lead (s.seedOf k) (Fx.of (b.setUnits fun u => { u with vecQ := rest })) q
      v.1.c.seq = b.seq →
      exec (.unitIssue c .vector waited) s = .next (s.put k (v.1.map (Cell.setUnits fun u => { u with vec := some v.2 }))))
    ∧ (∀ t int, q.op = .aclr t int → b.units.accQ = q :: rest → b.units.acc = none → (t = 2 → lead = true) →
      let fr := q.map.resolve t
      exec (.unitIssue c .acc waited) s = .next (s.setCell k { b with mem := memZero b.mem (frameBase fr) (frameBase fr + 0x2000), frames := setAt b.frames fr { Frame.reset with int := int }, errs := mapDrop (fun i => i / 128 == frameBase fr / 0x2000) b.errs, units := { b.units with accQ := rest, acc := some (Run.start q).finish } }))
    ∧ (∀ slot, q.op = .slotinv slot → b.units.arrQ = q :: rest → b.arrayReady q = true →
      exec (.unitIssue c .array waited) s = .next (s.setCell k (((b.count rSlotWait waited).modSlot slot.toNat fun v => { v with valid := false }).setUnits fun u =>
        { u with arrQ := rest, wload := some (Run.start q).finish })))
    ∧ (b.units.vec = some r → r.done = true → exec (.unitCompletion c .vector) s = .next (s.setCell k (b.setUnits fun u => { u with vec := none })))
    ∧ (b.units.acc = some r → r.done = true → exec (.unitCompletion c .acc) s = .next (s.setCell k (b.setUnits fun u => { u with acc := none })))
    ∧ (b.units.comp = some r → r.done = true → b.units.view = [] →
      exec (.unitCompletion c .array) s = .next (s.setCell k (b.setUnits fun u => { u with comp := none, view := [] })))

/-- TAG_BLOCK_RELEASE: an LD blocked on an empty slot goes on once the slot is full, and the ticks it waited count in CELL_TAG_WAIT (R205, R223). TAG_WAIT_TIMEOUT ends a blocked LD whose count of ticks exceeds CELL_TAG_TIMEOUT.ticks with class 0x0411, which names the slot and the unit: no further access is made, the status bit is set and the cell stops at its next cue wait (R163, R209). -/
def Obligations.BlockedAccessGoesOnOrTimesOut : Prop :=
  (∀ (s : State) (c : CellId) (r : Run) (rd ra : AReg) (imm : BitVec 16) (blk : TagBlock) (cycles : Nat),
      let k := cellKey c
      let b := s.cell k
      let a := (r.qi.reg ra.toNat + imm.zeroExtend 32).toNat % 2 ^ 16
      b.units.mem = some r → r.qi.op = .ld rd ra imm → r.blocked = some blk → blk.write = false → b.isFull blk.slot = true → b.firstEmpty (slotsOf a 4) = none →
      b.errs = [] → b.poison = 0 → b.seq.wait = none → b.seq.held = none → b.units.port = none →
      ∃ t r', exec (.tagBlockRelease c (.unit .memory) cycles) s = .next t ∧ (t.cell k).units.mem = some r' ∧ r'.done = true ∧ r'.blocked = none
        ∧ r'.value = leNat (memRead b.mem a 4) ∧ (t.cell k).cnt = (b.tagWaited (.unit .memory) blk cycles).cnt ∧ (t.cell k).mem = b.mem ∧ (t.cell k).seq = b.seq)
  ∧ (∀ (s : State) (c : CellId) (r : Run) (rd ra : AReg) (imm : BitVec 16) (blk : TagBlock) (cycles : Nat),
      let k := cellKey c
      let b := s.cell k
      b.units.mem = some r → r.qi.op = .ld rd ra imm → r.blocked = some blk → blk.write = false → s.timeoutOf k < blk.age → b.seq.wait = none → b.seq.held = none →
      b.seq.stopPending = false → b.seq.running = true →
      ∃ t, exec (.tagWaitTimeout c (.unit .memory) cycles) s = .next t ∧ (t.cell k).units.mem = some { r with wr := [], done := true, blocked := none }
        ∧ (t.cell k).cnt = (b.tagWaited (.unit .memory) blk cycles).cnt ∧ (t.cell k).mr.timeoutRd = true ∧ (t.cell k).mem = b.mem ∧ (t.cell k).full = b.full
        ∧ (t.cell k).seq = { b.seq with stopPending := true, firstCause := 0x0411 }
        ∧ (t.blk (cellBlk k)).transit.map (fun r => (r.cls, r.detail)) = (s.blk (cellBlk k)).transit.map (fun r => (r.cls, r.detail)) ++ [(0x0411, leBytes 2 blk.slot ++ leBytes 1 2)])

/-- An arrival counter counts one, and at its end counts no further, sets its overflow bit and records class 0x0413 (R210, R211). REMOTE_PUT_ARRIVAL: a slot that nothing holds back lands: its bytes, tag and poison, the full bit of a tagged slot, and the acknowledgement of a writer of this module; every other byte of the cell is unchanged (R206, R210). ACCW_ARRIVAL adds the slot's elements into the destination as it stands, without a tag check (R206, R213). -/
def Obligations.RemoteWritesLand : Prop :=
  (∀ (c : Cell) (i : Fin 16), c.mr.arrival.length = 16 →
      let v := (c.mr.arrival.getD i.val (0, false)).1
      (v ≠ 0xFFFF → ((Fx.of c).arrive i.val).ev = [] ∧ (((Fx.of c).arrive i.val).c.mr.arrival.getD i.val (0, false)).1 = v + 1
        ∧ ∀ j : Fin 16, j ≠ i → (((Fx.of c).arrive i.val).c.mr.arrival.getD j.val (0, false)) = c.mr.arrival.getD j.val (0, false))
      ∧ (v = 0xFFFF → ((Fx.of c).arrive i.val).c.mr.arrival.getD i.val (0, false) = (0xFFFF, true) ∧ ((Fx.of c).arrive i.val).c.mr.ctrOvf = true
        ∧ ((Fx.of c).arrive i.val).ev.head? = some ⟨0x0413, leBytes 4 i.val, false⟩))
  ∧ (∀ (s : State) (id k off : Nat) (w : RemoteWrite),
      let b := s.cell k
      s.arriving id = some (.write w) → w.acc = none → w.ctr = none → cellAddr w.addr = some (k, off) → (s.rgn (cellRgn k)).owner.isSome = true → b.units.port = none →
      off % 64 = 0 → off < 0x8000 → w.data.length = 64 → b.blocksWrite (off / 64) = false → memWf b.mem = true →
      ∃ t, exec (.remotePutArrival id) s = .next t
        ∧ (∀ a, memGet (t.cell k).mem a = if off ≤ a ∧ a < off + 64 then w.data.getD (a - off) 0 else memGet b.mem a)
        ∧ mapGet 0 (t.cell k).seqTag (off / 64) = mapGet 0 (mapSet 0 b.seqTag (off / 64) w.tag) (off / 64)
        ∧ (t.cell k).isPoison (off / 64) = w.poison
        ∧ (t.cell k).isFull (off / 64) = (if b.tagMode (off / 64) != 0 then true else b.isFull (off / 64))
        ∧ (w.srcModule = s.identOf w.src → t.flights = mapDrop (· == id) s.flights ++ [(s.nextId, .ack w.src w.seq)])
        ∧ (t.cell k).seq = b.seq)
  ∧ (∀ (s : State) (id k off : Nat) (w : RemoteWrite) (acc : BitVec 2),
      let b := s.cell k
      s.arriving id = some (.write w) → w.acc = some acc → w.ctr = none → cellAddr w.addr = some (k, off) → (s.rgn (cellRgn k)).owner.isSome = true → b.units.port = none →
      off % 64 = 0 → off < 0x8000 → b.errs = [] → b.isPoison (off / 64) = false → memWf b.mem = true → (accwAdd acc (memRead b.mem off 64) w.data).1.length = 64 →
      ∃ t, exec (.accwArrival id) s = .next t
        ∧ (∀ a, memGet (t.cell k).mem a = if off ≤ a ∧ a < off + 64 then (accwAdd acc (memRead b.mem off 64) w.data).1.getD (a - off) 0 else memGet b.mem a)
        ∧ (t.cell k).full = b.full ∧ (t.cell k).cnt = (b.count rAccwSat (accwAdd acc (memRead b.mem off 64) w.data).2).cnt ∧ (t.cell k).seq = b.seq)

/-- GET_REQUEST_ARRIVAL, GET_DATA_ARRIVAL, HBM_READ_DATA, HBM_WRITE_ACK and REMOTE_WRITE_ACK: the source slots are read without tag checks and sent; data are written, counted and clear the way for completion; bits of an HBM block that have flipped are corrected, or poison the block and stop the requester; a write block changes its HBM bytes and is acknowledged (R157, R206, R210, R216, R217). -/
def Obligations.TrafficArrives : Prop :=
  ∀ (s : State) (id k seq a dst n : Nat) (data : List Byte) (tag : Byte) (poison : Bool) (ctr : Option (BitVec 4)),
    let b := s.cell k
    let took := ((b.units.outst.map fun o => if o.seq = seq then { o with left := o.left - 1 } else o).filter fun o => o.left != 0)
    let open_ := b.seq.wait = none ∧ b.seq.held = none
    let lands := b.units.outst.any (fun o => o.seq == seq) = true ∧ (∀ o ∈ b.units.outst, o.block = none) ∧ dst % 64 = 0 ∧ memWf b.mem = true
      ∧ (Nat.blt dst 0x8000 && b.blocksWrite (dst / 64)) = false
    (∀ j off, s.arriving id = some (.getReq k seq a dst n ctr) → cellAddr a = some (j, off) → (s.cell j).errs = [] →
      let slot := fun i => off / 64 + i
      ∃ t, exec (.getRequestArrival id) s = .next t ∧ (t.cell j).mem = (s.cell j).mem ∧ (t.cell j).full = (s.cell j).full ∧ ((s.cell j).poison = 0 → (t.cell j).seq = (s.cell j).seq)
        ∧ (off % 64 = 0 → t.flights = mapDrop (· == id) s.flights ++ (List.range (n / 64)).map fun i =>
          (s.nextId + i, .getData k seq (dst + 64 * i) (memRead (s.cell j).mem (off + 64 * i) 64) (if slot i < 512 then (s.cell j).tagOf (slot i) else 0)
            (Nat.blt (slot i) 512 && (s.cell j).isPoison (slot i)) ctr)))
    ∧ (s.arriving id = some (.getData k seq dst data tag poison ctr) → data.length = 64 → open_ → lands →
      ∃ t, exec (.getDataArrival id) s = .next t ∧ t.flight id = none ∧ (t.cell k).units.outst = took
        ∧ (∀ x, memGet (t.cell k).mem x = if dst ≤ x ∧ x < dst + 64 then data.getD (x - dst) 0 else memGet b.mem x)
        ∧ (t.cell k).mr = ((Fx.of b).arriveOpt ctr).c.mr ∧ (t.cell k).seq = ((Fx.of b).arriveOpt ctr).c.seq)
    ∧ (∀ upset, s.arriving id = some (.hbmRead k seq a dst ctr) → s.hbmFirst id (.hbmRead k seq a dst ctr) = true → s.hbm.errs = [] → memWf s.hbm.mem = true → open_ → lands →
      (flipsMax 64 upset ≤ 1 →
      ∃ t, exec (.hbmReadData ⟨id, upset⟩) s = .next t ∧ t.flight id = none ∧ (t.cell k).units.outst = took ∧ (∀ x, memGet t.hbm.mem x = memGet s.hbm.mem x) ∧ t.hbm.poison = s.hbm.poison
        ∧ (t.rgn (hbmRgn a)).hbmCorr = (s.rgn (hbmRgn a)).hbmCorr + upset.length
        ∧ (∀ x, memGet (t.cell k).mem x = if dst ≤ x ∧ x < dst + 64 then memGet s.hbm.mem (a + (x - dst)) else memGet b.mem x)
        ∧ (dst < 0x8000 → (t.cell k).isPoison (dst / 64) = s.hbm.isPoison (a / 64)))
      ∧ (1 < flipsMax 64 upset → b.seq.running = true →
        ∃ t, exec (.hbmReadData ⟨id, upset⟩) s = .next t ∧ t.flight id = none ∧ (t.cell k).units.outst = took ∧ t.hbm.isPoison (a / 64) = true
          ∧ (dst < 0x8000 → (t.cell k).isPoison (dst / 64) = true) ∧ (t.cell k).seq.stopPending = true))
    ∧ (s.arriving id = some (.hbmWrite k seq a data tag poison ctr) → s.hbmFirst id (.hbmWrite k seq a data tag poison ctr) = true → data.length = 64 →
      memWf s.hbm.mem = true → open_ →
      ∃ t, exec (.hbmWriteAck id) s = .next t ∧ t.flight id = none ∧ (t.cell k).units.outst = took
        ∧ (∀ x, memGet t.hbm.mem x = if a ≤ x ∧ x < a + 64 then data.getD (x - a) 0 else memGet s.hbm.mem x)
        ∧ (t.cell k).mr = ((Fx.of b).arriveOpt ctr).c.mr ∧ (t.cell k).mem = b.mem)
    ∧ (s.arriving id = some (.ack k seq) → open_ →
      exec (.remoteWriteAck id) s = .next ((s.land id).setCell k (b.setUnits fun u => { u with outst := took })))

/-- COMBINE_GROUP_ADVANCE and COMBINE_ROOT_DELIVERY: one group of the ready channel whose turn it is, of a block's own combine, goes to the root's output as the canonical tree of the members' groups, and the root's CRECV writes the next group it holds (R230, R231). REGION_COMBINE_STEP: a region combine unit passes the canonical tree of its blocks' next groups, or at the root region of the regions' groups, on to the root block's output with their saturations (R230, R233). COMBINE_TIMEOUT: a CSEND or CRECV of a block's own combine that has waited longer than CELL_TAG_TIMEOUT.ticks fails its channel: its members and the root stop at their next cue wait (R232). -/
def Obligations.CombinesAdvance : Prop :=
  (∀ (s : State) (r : Fin 16) (n : Fin 150) (ch : Fin 4),
      let bk := blkKey r.val n.val
      let cn := (s.blk bk).chan ch.val
      let b := s.cell (bk * 128)
      (∀ sub rest, (s.blk bk).nextChan = some ch.val → cn.ready = some (sub :: rest) → (s.blk bk).chans.length = 4 → descLevel sub.desc = 0 →
        (∀ x ∈ cn.subs, x.idx = cn.ended ∧ x.m ≠ 0) →
        let g := combGroup sub.op sub.int ((sub :: rest).map fun x => x.groups.headD [])
        let final := combPasses sub.op sub.m ≤ cn.adv + 1
        ∃ t, exec (.combineGroupAdvance r n ch) s = .next t
          ∧ ((t.blk bk).chan ch.val).out = cn.out ++ [⟨combKey sub.desc, g.1, g.2⟩] ∧ (t.blk bk).served = ch.val
          ∧ ((t.blk bk).chan ch.val).adv = (if final then 0 else cn.adv + 1) ∧ ((t.blk bk).chan ch.val).ended = (if final then cn.ended + 1 else cn.ended)
          ∧ (t.blk bk).mismatch = (s.blk bk).mismatch ∧ (t.blk bk).istore = (s.blk bk).istore)
      ∧ ((s.blk bk).nextChan ≠ some ch.val → exec (.combineGroupAdvance r n ch) s = .next s)
      ∧ (∀ run f o rest, b.units.mem = some run → run.qi.op = .crecv f → run.done = false → run.blocked = none → onChan run ch.val = true →
        cn.out = o :: rest → o.key = combKey (runDesc run) → (s.blk bk).chans.length = 4 → run.qi.addr f.ra % 64 = 0 → b.blocksWrite (run.qi.addr f.ra / 64 + run.next) = false →
        let m := (run.qi.count f.rn).getD 0
        ∃ t run', exec (.combineRootDelivery r n ch) s = .next t ∧ ((t.blk bk).chan ch.val).out = rest
          ∧ (t.cell (bk * 128)).mem = memWrite b.mem (run.qi.addr f.ra + 64 * run.next) (o.data.take (min 64 (m * combElem f.op - 64 * run.next)))
          ∧ (t.cell (bk * 128)).units.mem = some run' ∧ run'.next = run.next + 1 ∧ run'.done = decide (combGroups f.op m ≤ run.next + 1)
          ∧ (t.cell (bk * 128)).cnt = ((Fx.of b).saturated o.sats).c.cnt))
  ∧ (∀ (s : State) (r : Fin 16) (ch : Fin 4) (c : CellId),
      let cn := (s.rgn r.val).chan ch.val
      let k := cellKey c
      let b := s.cell k
      (∀ sub rest t who, cn.subs = sub :: rest → cn.failed = false → combTree (s.rgnImg r.val) sub.desc = some t →
        (t.level = 1 ∧ who = membersOf t.blocks 150 ∨ t.level = 2 ∧ r.val = t.rootRegion ∧ who = (membersOf t.regions 16).map (· + 1000)) →
        let root := treeRoot r.val t
        who ≠ [] → (∀ w ∈ who, ∃ x, cn.first w = some x ∧ x.desc = sub.desc ∧ x.groups ≠ []) → (s.blk root).chans.length = 4 → ((s.blk root).chan ch.val).failed = false →
        (s.cell (root * 128)).units.mem = none →
        let firsts := who.filterMap cn.first
        let g := combGroup sub.op sub.int (firsts.map fun x => x.groups.headD [])
        ∃ u, exec (.regionCombineStep r ch) s = .next u
          ∧ ((u.blk root).chan ch.val).out = ((s.blk root).chan ch.val).out ++ [⟨combKey sub.desc, g.1, g.2 + (firsts.map fun x => x.sats.headD 0).sum⟩]
          ∧ u.cells = s.cells)
      ∧ (∀ j d w, combWaits s k = some (j, d) → b.units.mem = some w → s.timeoutOf k < w.idle → (∀ x ∈ d :: ((s.blk (cellBlk k)).chan j).descs, descLevel x = 0) → (cellNo k = 0 ∨ bitAt (descMembers d) (cellNo k) = true) → (s.blk (cellBlk k)).chans.length = 4 → j < 4 →
        b.seq.running = true → b.seq.wait = none →
        ∃ t run, exec (.combineTimeout c) s = .next t ∧ (t.blk (cellBlk k)).chan j = { Chan.reset with failed := true } ∧ (t.blk (cellBlk k)).timeout = true
          ∧ (t.cell k).units.mem = some run ∧ run.done = true ∧ (t.cell k).seq.stopPending = true ∧ (t.cell k).mem = b.mem))

/-- The scrub events: a clean row, block or piece stays; a correctable error, of the data as of the index store of a 2:4 tile, is corrected word by word and counted; an uncorrectable one poisons the slot or block, or marks the line, and is recorded, and the cell stops where its running instruction reads it; a scrub under a running vector takes one of its cycles; flips in activation-class slots and frames stand until a read; deferred rewrites of a slot that nothing uses are made (R61, R68, R69, R129, R218, R219, R220, R419). -/
def Obligations.ScrubsCorrectOrMark : Prop :=
  ∀ (s : State) (c : CellId) (upset : List Nat),
    let k := cellKey c
    let b := s.cell k
    let cellRecs := fun (s : State) => (s.blk (cellBlk k)).transit.map fun r => (r.cls, r.detail)
    (∀ (i : BitVec 1) (row : Fin 128),
      let sl := b.slot i.toNat
      let now := s.recTick (cellRgn k)
      let u := sl.upset row.val upset
      let all := ((List.range 6).map (u.flipsOf row.val)).flatten
      let ones := (((List.range 6).map (u.flipsOf row.val)).filter (·.length == 1)).flatten
      let clean := fun (v : Slot) => { v with lastClean := mapPut v.lastClean row.val now }
      sl.writing = false →
      (mapGet [] sl.errs row.val = [] → upset = [] →
        exec (.arrayScrub c i row upset) s = .next (s.setCell k ((if b.slotBusy i.toNat then b.count rScrubSteal 1 else b).modSlot i.toNat clean)))
      ∧ (b.slotBusy i.toNat = false → all ≠ [] → (∀ w < 6, (u.flipsOf row.val w).length ≤ 1) →
        ∃ t, exec (.arrayScrub c i row upset) s = .next t ∧ (t.cell k).slot i.toNat = u.fixRow row.val ∧ (t.cell k).cnt = (b.count rEccCorr all.length).cnt ∧ (t.cell k).seq = b.seq
          ∧ (mapGet [] sl.errs row.val = [] → cellRecs t = cellRecs s ++ all.map fun f => (0x0101, eccDetail i.toNat row.val f.bit (mapGet 0 sl.lastClean row.val) now)))
      ∧ (∀ w < 6, 1 < (u.flipsOf row.val w).length → 
        ∃ t, exec (.arrayScrub c i row upset) s = .next t ∧ ((t.cell k).slot i.toNat).poison = true ∧ ((t.cell k).slot i.toNat).flipsOf row.val w = u.flipsOf row.val w
          ∧ (t.cell k).cnt = ((if b.slotBusy i.toNat then b.count rScrubSteal 1 else b).count rEccCorr ones.length).cnt
          ∧ (b.slotBusy i.toNat = false → (t.cell k).seq = b.seq) ∧ (b.slotBusy i.toNat = true → b.seq.running = true → b.seq.wait = none → (t.cell k).seq.stopPending = true)
          ∧ (mapGet [] sl.errs row.val = [] → (0x0102, leBytes 1 i.toNat ++ leBytes 1 row.val) ∈ cellRecs t))
      ∧ (b.slotBusy i.toNat = false → exec (.scrubRowRewrite c i) s = .next (s.setCell k (b.modSlot i.toNat fun v => v.rewrites.foldl Slot.fixRow v))))
    ∧ (∀ piece : Fin 896, let fs := mapGet [] b.errs piece.val
      (b.weightClass piece.val = false ∨ 512 ≤ piece.val → exec (.spmScrub c piece upset) s = .next (s.setCell k (b.flip piece.val upset)))
      ∧ (b.weightClass piece.val = true → piece.val < 512 →
        (fs = [] → upset = [] → exec (.spmScrub c piece upset) s = .next (s.setCell k b))
        ∧ (fs = [] → memWf b.mem = true → upset ≠ [] → flipsMax 64 upset ≤ 1 →
          ∃ t, exec (.spmScrub c piece upset) s = .next t ∧ (∀ a, memGet (t.cell k).mem a = memGet b.mem a) ∧ (t.cell k).cnt = (b.count rSpmCorr upset.length).cnt ∧ (t.cell k).poison = b.poison)
        ∧ (1 < flipsMax 64 (flipBitsOf fs ++ upset) → ∃ t, exec (.spmScrub c piece upset) s = .next t ∧ (t.cell k).isPoison piece.val = true ∧ (t.cell k).mr.spmUnc = true
          ∧ (b.seq.running = true → b.seq.wait = none → (t.cell k).seq.stopPending = true))))
    ∧ (∀ (r : Fin 16) (n : Nat), n < 0x30000000 →
      let blk := r.val * 2 ^ 30 + n
      let fs := mapGet [] s.hbm.errs blk
      (fs = [] → upset = [] → exec (.hbmPatrol r n upset) s = .next s)
      ∧ (fs = [] → memWf s.hbm.mem = true → flipsMax 64 upset ≤ 1 →
        ∃ t, exec (.hbmPatrol r n upset) s = .next t ∧ (∀ a, memGet t.hbm.mem a = memGet s.hbm.mem a) ∧ (t.rgn r.val).hbmCorr = (s.rgn r.val).hbmCorr + upset.length ∧ t.hbm.poison = s.hbm.poison)
      ∧ (1 < flipsMax 64 (flipBitsOf fs ++ upset) → ∃ t, exec (.hbmPatrol r n upset) s = .next t ∧ t.hbm.mem = (s.hbm.flip blk upset).mem ∧ t.hbm.isPoison blk = true
          ∧ (fs = [] → (t.rgn r.val).transit.map (fun r => (r.cls, r.detail)) = (s.rgn r.val).transit.map (fun r => (r.cls, r.detail)) ++ [(0x0114, leBytes 8 (64 * blk))])))
    ∧ (∀ (r : Fin 16) (n : Fin 150) (line : Fin 2048),
      let bk := blkKey r.val n.val
      (s.blk bk).badLines.contains line.val = false → (s.blk bk).istoreErrs = [] →
      (∀ u : Fin 512, ∃ t, exec (.istoreScrub r n line [u.val]) s = .next t ∧ (t.blk bk).icorr = (s.blk bk).icorr + 1 ∧ (t.blk bk).istore = (s.blk bk).istore ∧ (t.blk bk).badLines = (s.blk bk).badLines)
      ∧ (∀ u v : Fin 512, u ≠ v → u.val / 64 = v.val / 64 → ∃ t, exec (.istoreScrub r n line [u.val, v.val]) s = .next t ∧ (t.blk bk).badLines = (s.blk bk).badLines ++ [line.val]
          ∧ (t.blk bk).transit.map (fun r => (r.cls, r.detail)) = (s.blk bk).transit.map (fun r => (r.cls, r.detail)) ++ [(0x0116, leBytes 2 line.val)]))

/-- A permitted write reaches its place, any other is refused with class 0x0615; cell, block and clock registers take what the rules of the register say (R5, R7, R51, R257, R367, R376). -/
def Obligations.RegisterWrites : Prop :=
  ∀ (s : State) (q : Requester) (v : Word),
    (∀ a : BitVec 48, Permits s q true (place a.toNat) → a.toNat % 4 = 0 → exec (.registerWrite q a 4 v) s = .next (storeAt s.unlatched q (place a.toNat) v))
    ∧ (∀ (a : BitVec 48) n, s.hub.clk.hubReady = true → n ≠ 4 ∨ a.toNat % 4 ≠ 0 ∨ mayAccess s q true (place a.toNat) = false ∨ wordAt s (place a.toNat) = none →
      exec (.registerWrite q a n v) s = .next (refuseAccess s.unlatched q true a.toNat))
    ∧ (∀ (a : BitVec 48) x, place a.toNat = .hbm x → Permits s q true (.hbm x) → a.toNat % 4 = 0 → memWf s.hbm.mem = true →
      ∃ t, exec (.registerWrite q a 4 v) s = .next t ∧ ∀ y, memGet t.hbm.mem y = if x ≤ y ∧ y < x + 4 then (leBytes 4 v.toNat).getD (y - x) 0 else memGet s.hbm.mem y)
    ∧ (∀ (c : CellId) (off : BitVec 12), Permits s q true (.cell (cellKey c) (0xF000 + off.toNat)) → off.toNat % 4 = 0 →
      let b := s.cell (cellKey c)
      let i := b2n b.regs.viewSel
      exec (.slotViewWrite q c off v) s = .next (s.unlatched.setCell (cellKey c)
        (if b.slotBusy i then b.setUnits fun u => { u with view := u.view ++ [(i, off.toNat, v)] } else viewStore b i off.toNat v)))
    ∧ (∀ (r : Fin 16) (n : Fin 150) (j : Fin 4) (i : Fin 32), Permits s q true (.blk (blkKey r.val n.val) (0xD0 + 4 * j.val)) →
      let k := blkKey r.val n.val * 128 + 32 * j.val + i.val
      (∀ ch < 4, ∀ d ∈ s.openDescs (blkKey r.val n.val) ch (s.imgOf k), bitAt (descMembers d) (cellNo k) = false) →
      ∃ t, exec (.cellReset q r n j (BitVec.ofNat 32 (2 ^ i.val))) s = .next t ∧ (t.cell k).units = .reset ∧ (t.cell k).map = ⟨0, 1, 2⟩ ∧ (t.cell k).mem = (s.cell k).mem
        ∧ (t.cell k).seq.pc = BitVec.ofNat 17 (s.cell k).seq.entry ∧ (t.cell k).seq.a = List.replicate 16 0 ∧ (t.cell k).mr.arrival = List.replicate 16 (0, false)
        ∧ (∀ l, l ≠ k → t.cell l = s.cell l) ∧ t.flt = (s.log { s.unitRec 0 0x0810 (some r.val) (some n.val) [5, 0] with cell := 32 * j.val + i.val }).flt)
    ∧ (∀ r : Fin 16, Permits s q true (.rgn r.val 0x200) →
      let a := v.toNat % 256
      let m := v.toNat / 2 ^ 9 % 64
      ∃ t, exec (.clkRgnCtrlWrite q r v) s = .next t
        ∧ (16 ≤ a → a ≤ 108 → 8 ≤ m → m ≤ 40 → (t.rclk r.val).ctrl = v.setWidth 15)
        ∧ (a < 16 ∨ 108 < a → (t.rclk r.val).ctrl.toNat % 256 = (s.rclk r.val).ctrl.toNat % 256)
        ∧ ((t.rclk r.val).debugClk = ((s.rclk r.val).debugClk || match q with | .debug _ => true | _ => false)) ∧ t.cells = s.cells ∧ t.regions = s.regions)
    ∧ (∀ n : Fin 8192, let r := if n.val < 128 then s.hub.hostRgn else n.val / 512
      s.hub.takeover = false → s.hub.hostRgn < 16 → (n.val < 128 ∨ n.val / 512 ≠ s.hub.hostRgn ∨ 128 ≤ n.val % 512) → Permits s q true (.cue r (n.val % 512) 1) →
      (s.cue n.val).armed = false → exec (.rgnCueAddWrite q n v) s = .next (s.unlatched.setCue n.val { s.cue n.val with value := (s.cue n.val).value + v }))

/-- COUNTER_READ_CLEAR and REG64_LOW_READ: a read answers the value that is shown; a counter is then zero, and the upper half of a 64-bit register is kept for the same requester's next read (R6, R7). -/
def Obligations.RegisterReads : Prop :=
  ∀ (s : State) (q : Requester) (a : BitVec 48) (v : Nat), Permits s q false (place a.toNat) → a.toNat % 4 = 0 → wordAt s (place a.toNat) = some v → s.hub.latch = none →
    (∀ k off, place a.toNat = .cell k off → isCounter (.cell k off) = true →
      exec (.counterReadClear q a) s = .next ((s.setCell k { s.cell k with cnt := mapSet 0 (s.cell k).cnt off 0 }).emit (.value q a.toNat (BitVec.ofNat 32 v)))
      ∧ mapGet 0 (mapSet 0 (s.cell k).cnt off 0) off = 0)
    ∧ (∀ r off, place a.toNat = .rgn r off → rgnCounter off = true →
      ∃ t, exec (.counterReadClear q a) s = .next t ∧ t.out = s.out ++ [.value q a.toNat (BitVec.ofNat 32 v)] ∧ wordAt t (place a.toNat) = some 0)
    ∧ (isLow (place a.toNat) = true →
      exec (.reg64LowRead q a) s = .next ((s.modHub fun h => { h with latch := some (q, a.toNat + 4, BitVec.ofNat 32 ((wordAt s (place (a.toNat + 4))).getD 0)) }).emit (.value q a.toNat (BitVec.ofNat 32 v)))
      ∧ ∀ w, Permits s q false (place (a.toNat + 4)) → (a.toNat + 4) % 4 = 0 → wordAt s (place (a.toNat + 4)) = some w →
        ∀ t, exec (.reg64LowRead q a) s = .next t → (readAccess t q (a.toNat + 4) 4).2 = BitVec.ofNat 32 w)

/-- DBG_HALT_WRITE and DBG_STEP: a halt stops dispatch, and abandons a CUEWAIT or WAITC that waits, which dispatches again later; its end lets dispatch go on; a step dispatches the instruction at the PC (R167). INJECTION_GO and INJECTION_APPLY: an injection whose target is its kind's and lies in the mask is armed, any other is refused; applied, it flips the bits of its word, in the memory and in what the checks find, or makes swatch compares fail (R454). -/
def Obligations.DebugHaltsAndInjections : Prop :=
  (∀ (s : State) (q : Requester) (c : CellId),
      let k := cellKey c
      let b := s.cell k
      Permits s q true (.cell k 0xE600) →
      (b.seq.dbgHalt = false → (b.seq.wait = none →
          exec (.dbgHaltWrite q c true) s = .next (s.unlatched.setCell k (b.setSeq fun y => { y with dbgHalt := true })))
        ∧ (∀ w, b.seq.wait = some w → (∃ cue target, w = .cue cue target) ∨ (∃ ctr n age, w = .ctr ctr n age) →
          exec (.dbgHaltWrite q c true) s = .next (s.unlatched.setCell k (b.setSeq fun y => { y with dbgHalt := true, wait := none, pc := y.pc - 8 }))))
      ∧ (b.seq.dbgHalt = true → b.seq.wait = none → b.seq.held = none →
        (b.seq.stopDue = false → exec (.dbgHaltWrite q c false) s = .next (s.unlatched.setCell k (b.setSeq fun y => { y with dbgHalt := false })))
        ∧ (b.seq.stopDue = true → b.seq.running = true → ∃ t, exec (.dbgHaltWrite q c false) s = .next t ∧ (t.cell k).seq.state = 3 ∧ (t.cell k).seq.dbgHalt = false ∧ (t.cell k).mem = b.mem)
        ∧ (∀ p op j, b.seq.stopDue = false → b.seq.running = true → s.jobOf (cellRgn k) = some j → j.begun = true → j.chg = none → (s.rgn (cellRgn k)).assigned = true →
          (s.blk (cellBlk k)).istoreErrs = [] → decodeCell (BitVec.ofNat 64 (leNat (memRead (s.blk (cellBlk k)).istore b.seq.pc.toNat 8))) = some (p, op) →
          exec (.dbgStep q c) s = .next (arrive s.unlatched k p op []))))
  ∧ (∀ (s : State) (n v : Word),
      let t := s.hub.tst
      let w := v ||| 0x10000
      let kind := w.toNat % 4
      let a := t.injAddr.toNat
      let ok := Nat.blt (addrRgn a) 16 && t.mask.getLsbD (addrRgn a) && injectTarget (dropForced s) kind a
      (Permits s (.test n) true (.hub 0x600048) → ∃ u, exec (.injectionGo (.test n) v) s = .next u
        ∧ u.hub.tst.pending = (if ok then some ⟨t.injAddr, w.setWidth 2, w.toNat / 4 % 64, w.toNat / 256 % 256⟩ else none)
        ∧ u.hub.tst.refused = (t.refused || !ok) ∧ u.hbm = s.hbm ∧ u.blocks = s.blocks)
      ∧ (∀ i x, t.pending = some i → place i.addr.toNat = .hbm x →
        let l := (injectBits i).map fun b => 64 * (x % 64 / 8) + b
        ∃ u, exec .injectionApply s = .next u ∧ u.hbm.mem = flipBits s.hbm.mem (x / 64 * 64) l ∧ mapGet [] u.hbm.errs (x / 64) = l.foldl toggle (mapGet [] s.hbm.errs (x / 64))
          ∧ u.hub.tst.pending = none ∧ u.hub.tst.done = true ∧ u.cells = s.cells)
      ∧ (∀ i k off, t.pending = some i → place i.addr.toNat = .cell k off → i.kind = 3 →
        ∃ u, exec .injectionApply s = .next u ∧ u.cell k = { s.cell k with forced := i.count } ∧ u.hub.tst.pending = none ∧ u.hub.tst.done = true ∧ u.hbm = s.hbm)
      ∧ (∀ i k off, t.pending = some i → place i.addr.toNat = .cell k off → i.kind = 0 → off < 0x8000 →
        let l := [64 * (off % 64 / 8) + i.bit]
        ∃ u, exec .injectionApply s = .next u ∧ (u.cell k).mem = flipBits (s.cell k).mem (off / 64 * 64) l
          ∧ mapGet [] (u.cell k).errs (off / 64) = toggle (mapGet [] (s.cell k).errs (off / 64)) (64 * (off % 64 / 8) + i.bit) ∧ (u.cell k).poison = (s.cell k).poison))

/-- EPOCH_START, EPOCH_CHECK and EPOCH_BOUNDARY: epoch 0 begins at T0; a check of an epoch that is not done adds a hold step, and beyond the limit the job faults with class 0x0442; the next epoch begins at the boundary with the deadline's clock (R252, R254, R258, R259, R260). -/
def Obligations.EpochsAdvance : Prop :=
  ∀ (s : State) (id : Word) (j : Job), s.job id = some j → j.faulted = false →
    let t1 := s.jobTickTo j (j.deadline + 256 * j.checks - bookHoldLead j.img)
    (∀ t0, j.t0 = some t0 → j.begun = false →
      ∃ t, exec (.epochStart id) s = .next t ∧ t.job id = some { j with begun := true, epoch := 0, sTick := t0, kSteps := 0, kSrc := 0, checks := 0, selfSteps := 0, fired := [], beats := [], doneAt := [] }
        ∧ t.regions = (s.jobTickTo j t0).regions ∧ t.cells = (s.jobTickTo j t0).cells)
    ∧ (j.begun = true → j.chg = none → epochDone j = true → exec (.epochCheck id) s = .next t1)
    ∧ (j.begun = true → j.chg = none → epochDone j = false → j.checks + 1 ≤ bookHoldLimit j.img → bookModules j.img = 1 → j.pos = 0 → j.kSteps = j.checks →
      t1.jobTick j < j.boundary →
      ∃ t, exec (.epochCheck id) s = .next t ∧ t.job id = some { j with checks := j.checks + 1, selfSteps := j.checks + 1, kSteps := j.checks + 1, kSrc := s.hub.fab.moduleId.toNat }
        ∧ t.cells = t1.cells ∧ ∀ r ∈ j.rgns, (t.rgn r).cnt = bump (s.rgn r).cnt 0x140 1)
    ∧ (j.begun = true → j.chg = none → epochDone j = false → bookHoldLimit j.img < j.checks + 1 →
      exec (.epochCheck id) s = .next (faultWith t1 id (t1.jobRec j 0x0442 (leBytes 8 j.epoch))))
    ∧ (j.begun = true → j.chg = none → j.staged = [] → j.allocDue = [] → j.pool = none → s.hub.detourDue = 0 → (s.cues.map (·.1)).Nodup → (∀ k ∈ s.cellsOf j, (s.cell k).seq.wait ≠ some .epoch) →
      let k := mapGet (0, 0) j.kOf (j.epoch + 1)
      ∃ t j', exec (.epochBoundary id) s = .next t ∧ t.job id = some j' ∧ j'.epoch = j.epoch + 1 ∧ j'.sTick = j.boundary ∧ j'.kSteps = k.1 ∧ j'.checks = 0 ∧ j'.selfSteps = 0
        ∧ j'.chg = none ∧ j'.faulted = false ∧ (∀ n ∈ s.cellsOf j, (s.cell n).seq.running = true ∨ (s.cell n).seq.state = 2 → (s.cell n).seq.stopPending = true → (s.cell n).seq.dbgHalt = false → (t.cell n).seq.state = 3)
        ∧ ∀ n, (t.cell n).mem = (s.cell n).mem)

/-- The change hold: the root's next notice, an acknowledgement, the release, the limit; the heartbeat and its timeout (R263, R265). -/
def Obligations.ChangeHoldsAndHeartbeats : Prop :=
  ∀ (s : State) (id : Word) (j : Job), s.job id = some j → j.faulted = false →
    let own := s.hub.fab.moduleId.toNat
    (∀ h, j.chg = some h →
      (j.root = true → h.released = false → h.steps < bookChangeLimit j.img →
        exec (.changeHoldResend id) s = .next (sendEach (countSteps ((s.jobTickTo j (j.boundary + 256 * h.steps)).modJob id fun j => { j with chg := some { h with steps := h.steps + 1 } }) j 1)
          j j.others fun d => holdPacket own d id j.epoch (h.steps + 1) false true))
      ∧ (∀ p, j.root = true → h.released = false → p < bookModules j.img → p ∉ h.acked →
        let all := (List.range (bookModules j.img)).all (h.acked ++ [p]).contains
        ∃ t, exec (.changeHoldAck id p) s = .next t ∧ t.job id = some { j with chg := some { h with acked := h.acked ++ [p], released := all } }
          ∧ t.out = s.out ++ (if all then j.others.map fun q => .changeRelease (bookIdent j.img q) id else []))
      ∧ (j.root = false ∨ h.released = true → (∀ k ∈ s.cellsOf j, (s.cell k).seq.held = none ∧ (s.cell k).seq.wait = none) → j.holds = [] → s.hub.detourDue = 0 →
        (∀ n c, (n, c) ∈ s.cues → c.action ≠ 4) → (s.cues.map (·.1)).Nodup →
        ∃ t j', exec (.changeHoldRelease id) s = .next t ∧ t.job id = some j' ∧ j'.chg = none ∧ j'.epoch = j.epoch + 1 ∧ j'.sTick = 256 * (s.jobTick j / 256 + 1)
          ∧ ∀ k ∈ s.cellsOf j, (t.cell k).mem = (s.cell k).mem ∧ (t.cell k).seq = (s.cell k).seq)
      ∧ (j.root = true → bookChangeLimit j.img ≤ h.steps → exec (.changeHoldLimit id) s = .next (faultWith s id
          (s.jobRec j 0x0444 (leBytes 8 j.epoch ++ leBytes 2 ((j.holds.head?.map (·.code.toNat)).getD 0))))))
    ∧ (j.begun = true →
      (let t := beatMark (s.jobTick j)
      exec (.heartbeatSend id) s = .next (sendEach (s.jobTickTo j t) j (if j.root then j.others else [j.rootPos]) fun d => timePacket own d 2 id t))
      ∧ ∀ p, (if j.root then j.others.contains p else p == j.rootPos) = true →
        let t1 := s.jobTickTo j (mapGet (j.t0.getD 0) j.beats p + 262144)
        exec (.heartbeatTimeout id p) s = .next (faultWith t1 id (t1.jobRec j 0x0445 (leBytes 2 (bookIdent j.img p)))))

/-- A job of one module faults: its running cells stop at once with the fault's class as first cause, and it dispatches no more; JOB_FAULT_TAKE takes the fault that is due, ANNOUNCE_TIMEOUT answers JOB_START with 0x0501 and faults the job with class 0x0512; a report of slack reaches the root; cue 0 counts its timer (R164, R255, R261, R354, R394). -/
def Obligations.JobFaultsAndReports : Prop :=
  ∀ (s : State) (id : Word) (j : Job), s.job id = some j → j.faulted = false →
    (∀ c cls, j.faultDue = some c → exec (.jobFaultTake id cls) s = .next (faultJob s id c true)
      ∧ (j.others = [] → (∀ i ∈ s.hub.bkt.insts, i.job ≠ id) →
        ∃ t j', exec (.jobFaultTake id cls) s = .next t ∧ t.job id = some j' ∧ j'.faulted = true ∧ j'.cause = some c ∧ t.flt.jobFault = true
          ∧ (∀ k ∈ s.cellsOf j, (s.cell k).seq.running = true → (t.cell k).seq.state = 3 ∧ (t.cell k).mem = (s.cell k).mem)
          ∧ (j.chg = none → ∀ k, j.regions.getLsbD (cellRgn k) = false → t.cell k = s.cell k)))
    ∧ (∀ cls, j.faultDue = none → exec (.jobFaultTake id cls) s = .next (faultJob s id { s.jobRec j 0 [] with cls := cls } true))
    ∧ (∀ n, s.executingFor 0x0304 id = some n →
      exec (.announceTimeout id) s = .next (drain (faultWith (respond s n 0x0501 []) id { s.unitRec 4 0x0512 none none (leBytes 4 id.toNat) with tick := s.jobTick j })))
    ∧ (∀ p slack ceiling pool, j.root = true → j.pool = some pool → p < bookModules j.img → (mapPut j.reports p (slack, ceiling)).length ≠ bookModules j.img →
      exec (.slackReportReceive id p slack ceiling) s = .next (s.modJob id fun j => { j with reports := mapPut j.reports p (slack, ceiling) }))
    ∧ (s.hub.clk.hubReady = true → s.cueLost 0 = false → (s.cue 0).armed = false →
      exec .cue0Timer s = .next ((s.passTicks (65536 * (s.hub.tick / 65536 + 1) - s.hub.tick)).setCue 0 { s.cue 0 with value := (s.cue 0).value + 1 }))

/-- A region wakes to Ready at operating point 0, or to Scrubbing, or fails; its scrub leaves every cell and HBM byte of it at zero and the region Ready; a Ready region that nobody holds or wants is powered down, and one in transition later (R240, R395, R420, R425). -/
def Obligations.RegionsWakeScrubAndSleep : Prop :=
  ∀ (s : State) (r : Fin 16), s.hub.mail.waiting = [] →
    let g := s.rgn r.val
    (g.state = 1 → s.hub.mail.releasing = [] →
      (g.scrubPending = false → g.goal = .none → g.downWanted = false →
        ∃ t, exec (.regionWakeDone r .ok) s = .next t ∧ (t.rgn r.val).state = 3 ∧ (t.rpwr r.val).point = 0 ∧ (t.rpwr r.val).allowance = 600 ∧ (t.rclk r.val).pllLocked = true ∧ (t.rgn r.val).ident = s.hub.fab.moduleId
          ∧ ∀ k, (t.cell k).mem = (s.cell k).mem ∧ (cellRgn k ≠ r.val → t.cell k = s.cell k) ∧ (cellRgn k = r.val → (t.cell k).swatch = swatchPatterns ∧ (t.cell k).mr.bankOff = 0))
      ∧ (g.scrubPending = true → ∃ t, exec (.regionWakeDone r .ok) s = .next t ∧ (t.rgn r.val).state = 2 ∧ (t.rclk r.val).pllLocked = true ∧ ∀ k, (t.cell k).mem = (s.cell k).mem ∧ (cellRgn k ≠ r.val → t.cell k = s.cell k))
      ∧ (g.owner = none → r.val ≠ s.hub.hostRgn → (∀ q < 16, (s.rgn q).failed = false) → ∃ t, exec (.regionWakeDone r .hbmFailed) s = .next t ∧ (t.rgn r.val).state = 7 ∧ t.hub.flashRgns = setBit s.hub.flashRgns r.val true))
    ∧ (g.state = 2 → s.hub.mail.releasing = [] → g.goal = .none → g.downWanted = false → s.hub.flashCols = [] → s.hub.flashCells = [] → s.hub.flashBlocks = [] → memWf s.hbm.mem = true →
      r.val ≠ s.hub.hostRgn →
      ∃ t, exec (.regionScrubDone r []) s = .next t ∧ (t.rgn r.val).state = 3 ∧ (t.rgn r.val).scrubPending = false ∧ (∀ k, t.cell k = if cellRgn k = r.val then Cell.reset else s.cell k)
        ∧ ∀ a, memGet t.hbm.mem a = if r.val * 2 ^ 36 ≤ a ∧ a < r.val * 2 ^ 36 + 0xC00000000 then 0 else memGet s.hbm.mem a)
    ∧ (g.state = 3 → g.heldReady = false → g.owner = none →
      ∃ t, exec (.readyPowerDown r) s = .next t ∧ (t.rgn r.val).state = 0 ∧ (t.rclk r.val).pllLocked = false ∧ (t.rpwr r.val).power = 0 ∧ t.cells = s.cells)
    ∧ (g.state ≠ 0 → g.state ≠ 3 → g.state ≠ 7 → exec (.readyPowerDown r) s = .next (s.modRgn r.val fun g => { g with downWanted := true }))

/-- The estimator, the calibration and the input sampler: an awake region's estimate is its calibrated dynamic and leakage power; energy counters take the window's energy; a sample is kept and judged against 40.0 to 48.0 V (R385, R386, R387, R404, R466). -/
def Obligations.PowerIsMeasured : Prop :=
  ∀ (s : State) (r : Fin 16) (n : Fin 150) (counts : List Nat) (mv ma uj : Nat),
    let x := s.rpwr r.val
    let e := ((List.range 6).map fun i => Config.fuseWeight i * counts.getD i 0).sum
    let bad := mv < 40000 ∨ 48000 < mv
    ((s.rgn r.val).awake = true → ∃ t, exec (.estimatorSample r n counts) s = .next t ∧ mapGet 0 (t.rpwr r.val).dyn n.val = e
      ∧ (t.rpwr r.val).power = estimateOf x.gain x.leak (((mapPut x.dyn n.val e).map (·.2)).sum) (1000 * Config.fuseLeak r.val (meanOf x.temps))
      ∧ (t.rpwr r.val).point = x.point ∧ t.regions = s.regions)
    ∧ (∃ t, exec (.powerCalibration uj []) s = .next t ∧ t.hub.pwr.energy = (s.hub.pwr.energy + uj) % 2 ^ 64
      ∧ t.hub.pwr.overhead = (s.hub.pwr.overhead + (s.hub.pwr.overheadFrac + uj * 2 ^ 32) / 2 ^ 32) % 2 ^ 64)
    ∧ (∀ f g o, (s.rgn f.r.val).awake = true → (s.rgn f.r.val).owner = none → fitOf f = some (g, o) → 8192 ≤ g → g ≤ 32768 → 13107 ≤ o → o ≤ 19661 →
      ∃ t, exec (.powerCalibration uj [f]) s = .next t ∧ ((t.rpwr f.r.val).gain : Int) = g ∧ ((t.rpwr f.r.val).leak : Int) = o ∧ t.hub.pwr.calibOor = s.hub.pwr.calibOor ∧ t.flt = s.flt)
    ∧ (s.hub.clk.stage ≠ .off → ∃ t, exec (.inputSample mv ma) s = .next t ∧ t.hub.pwr.mv = mv ∧ t.hub.pwr.inputs = (mv * ma / 1000 :: s.hub.pwr.inputs).take 8
      ∧ (t.hub.pwr.inputOor = true ↔ s.hub.pwr.inputOor = true ∨ bad) ∧ (t.hub.clk.inRange = true ↔ ¬ bad) ∧ (bad → s.hub.clk.hubReady = true → t.hub.clk.alert = true))
    ∧ (s.alertCause = false → exec .alertNRelease s = .next (s.modClk fun c => { c with alert := false }))

/-- Operating points move one at a time, the rail before the clocks upward and after them downward; the activity allowance rises from what is active; the cap loop lowers every job's cap point while the module is above its cap (R367, R389, R391, R395). -/
def Obligations.OperatingPointsStep : Prop :=
  ∀ (s : State) (r : Fin 16),
    let x := s.rpwr r.val
    (∀ d, x.phase = .rail d → x.point < d → x.halted = false →
      ∃ t, exec (.railSettled r) s = .next t ∧ (t.rpwr r.val).phase = .slew d ∧ (t.rclk r.val).ctrl = pointClocks d ∧ (t.rpwr r.val).point = x.point ∧ t.cells = s.cells)
    ∧ (∀ d, x.phase = .slew d → x.halted = false → (s.rgn r.val).awake = true → x.target = d → (s.rclk r.val).gated = false →
      ∃ t, exec (.slewDone r) s = .next t ∧ (t.rpwr r.val).phase = .idle ∧ (t.rpwr r.val).point = d ∧ (t.rclk r.val).aclkNow = aclkOf (s.rclk r.val).ctrl
        ∧ (t.rpwr r.val).setpoint = setpointOf r.val d x.guard ∧ t.cells = s.cells)
    ∧ (∀ held, (s.rgn r.val).awake = true → ∃ t, exec (.activityRampMark r held) s = .next t ∧ (t.rpwr r.val).allowance = min (600 * s.hub.pwr.ceiling) (s.activeIn r.val + 600)
        ∧ (t.rpwr r.val).rampCnt = satAdd32 x.rampCnt held ∧ t.cells = s.cells)
    ∧ ((∀ q < 16, (s.rgn q).awake = false) → s.hub.pwr.capNow < s.ctlPower → (∃ i ∈ s.liveSlots, (s.slotNo i).capPoint ≠ 0) →
      ∃ t, exec .capLoop s = .next t ∧ t.hub.pwr.capped = true ∧ (∀ i ∈ s.liveSlots, (t.slotNo i).capPoint = (s.slotNo i).capPoint - 1) ∧ t.cells = s.cells ∧ t.regions = s.regions)

/-- Droop: an assertion stretches the clocks and halts a step up, a sustained one lowers the region's droop ceiling with class 0x0704; release, the end of the stretch, quiet and recovery undo it (R396, R397, R398). Temperatures: 95 °C sets a region's warning with class 0x0710 and ALERT_N, and all below 93 °C clears it (R401, R466). -/
def Obligations.DroopAndTemperature : Prop :=
  (∀ (s : State) (r : Fin 16) (n : Fin 150) (d : Fin 4) (cycles : Nat),
      let x := s.rpwr r.val
      let bk := blkKey r.val n.val
      ((s.rgn r.val).awake = true →
        ∃ t, exec (.droopAssert r n d false) s = .next t ∧ (t.blk bk).droop = setBit (s.blk bk).droop d.val true ∧ (t.rpwr r.val).stretched = true
          ∧ (t.rpwr r.val).halted = (x.halted || x.rising) ∧ (t.rpwr r.val).droopCeil = x.droopCeil ∧ t.cells = s.cells)
      ∧ ((s.rgn r.val).awake = true →
        ∃ t, exec (.droopAssert r n d true) s = .next t ∧ (t.rpwr r.val).droopCeil = x.droopCeil - 1 ∧ (t.rpwr r.val).stretched = true ∧ t.flt = (s.log (s.unitRec 2 0x0704 (some r.val) none [])).flt)
      ∧ exec (.droopRelease r n d) s = .next (s.modBlk bk fun b => { b with droop := setBit b.droop d.val false })
      ∧ (s.drooping r.val = false → x.stretched = true →
        exec (.stretchEnd r cycles) s = .next (s.modRpwr r.val fun x => { x with stretched := false, stretchCnt := satAdd32 x.stretchCnt cycles }))
      ∧ (s.drooping r.val = false → (∃ t, exec (.droopQuiet r) s = .next t ∧ (t.rpwr r.val).halted = false ∧ (t.rpwr r.val).deferred = false ∧ t.cells = s.cells))
      ∧ (∃ t, exec (.droopCeilingRecover r) s = .next t ∧ (t.rpwr r.val).droopCeil = min 11 (x.droopCeil + 1) ∧ t.cells = s.cells))
  ∧ (∀ (s : State) (r : Fin 16) (temps : List Nat) (temp : Nat),
      let x := s.rpwr r.val
      (s.rgn r.val).awake = true →
      ((x.warn = false → (temp < 380 ∧ ∀ u ∈ x.temps, u < 380) → exec (.hbmTempRead r temp) s = .next (s.modRpwr r.val fun x => { x with hbmTemp := temp }))
        ∧ (x.warn = false → 380 ≤ temp → ∃ t, exec (.hbmTempRead r temp) s = .next t ∧ (t.rpwr r.val).warn = true ∧ (t.rpwr r.val).hbmTemp = temp
            ∧ t.flt = (s.log (s.unitRec 2 0x0710 (some r.val) none [150])).flt ∧ (s.hub.clk.hubReady = true → r.val < 16 → t.hub.clk.alert = true))
        ∧ (x.warn = true → (x.hbmTemp < 372 ∧ ∀ u ∈ temps, u < 372) → exec (.tempSensorRead r temps) s = .next (s.modRpwr r.val fun x => { x with temps := temps, warn := false }))
        ∧ (∀ i, x.warn = false → x.hbmTemp < 380 → temps.findIdx? (fun t => Nat.ble 380 t) = some i →
            ∃ t, exec (.tempSensorRead r temps) s = .next t ∧ (t.rpwr r.val).warn = true ∧ t.flt = (s.log (s.unitRec 2 0x0710 (some r.val) none (leBytes 1 i))).flt)))

/-- The start-up sequence: each event takes the module from its stage to the next; a lockout or the end of one leaves only what flash and the fuses keep (R372, R379, R381, R461, R465, R467). -/
def Obligations.StartUpRunsInOrder : Prop :=
  ∀ (s : State),
    let c := s.hub.clk
    (c.stage = .off → exec .inputEnterRange s = .next (coldState s .porHold true) ∧ exec .lockoutRecovery s = .next (coldState s .porHold true)
      ∧ (coldState s .porHold true).cells = [] ∧ (coldState s .porHold true).jobs = [] ∧ (coldState s .porHold true).hub.clk.stage = .porHold
      ∧ (coldState s .porHold true).hub.sec.keys = s.hub.sec.keys ∧ (coldState s .porHold true).hub.flashCells = s.hub.flashCells)
    ∧ (c.stage ≠ .off → (exec .undervoltageLockout s = .next (coldState s .off false)) ∧ (exec .overvoltageLockout s = .next (coldState s .off false))
      ∧ (coldState s .off false).hub.clk.stage = .off ∧ (coldState s .off false).hbm.mem = []
      ∧ (exec .bulkCharged s = .next (s.modClk fun k => { k with bulk := true })) ∧ (∀ high, exec (.pwrEnSettle high) s = .next (s.modClk fun k => { k with pwrEn := high })))
    ∧ (c.stage = .porHold → exec .porHoldEnd s = .next (s.modClk fun k => { k with stage := .standby, sclkOk := true }))
    ∧ (c.stage = .standby → c.pwrEn = true → c.bulk = true → c.inRange = true → exec .pwrEnRise s = .next (s.modClk fun k => { k with stage := .rails }))
    ∧ (c.stage = .rails → exec .railsGood s = .next (s.modClk fun k => { k with stage := .waitRef, pgOut := true }))
    ∧ (c.stage = .waitRef → c.refOk = false → ∃ t, exec .refclkAbsentTimeout s = .next t ∧ t.hub.clk.refAbsent = true ∧ t.hub.clk.faultN = true ∧ t.hub.clk.stage = .waitRef)
    ∧ (∀ straps a b, c.stage = .waitRef → c.refOk = true → c.sclkOk = true → c.blackout = false → c.rstLow = false →
      exec (.hubLeaveReset straps a b) s = .next (s.modClk fun k => { k with stage := .waitPll, cause := k.nextCause, slotId := straps, pairASeen := a, pairBSeen := b, refAbsent := false }))
    ∧ (c.stage = .waitPll → ∃ t, exec .hubPllLocked s = .next t ∧ t.hub.clk.pclk = true ∧ t.hub.clk.stage = (if s.hub.sec.boot.2 then .boot else .bootFailed) ∧ t.hub.sec = s.hub.sec.boot.1)
    ∧ (c.stage = .boot → ∃ t, exec .hubReady s = .next t ∧ t.hub.clk.stage = .ready ∧ t.hub.clk.hubReady = true ∧ t.hub.tick = 0 ∧ (∀ p < 24, t.portExists p = true → (t.port p).state = 1)
      ∧ ∀ r < 16, (t.rgn r).linkUp = t.linksOf r)
    ∧ (c.pwrEn = false → c.stage.powered = true → c.hubReady = false → ∃ t, exec .pwrEnFall s = .next t ∧ t.hub.clk.stage = .standby ∧ t.hub.clk.pgOut = false ∧ t.cells = [] ∧ t.jobs = [])

/-- Clocks that fail take the module into blackout and good ones end it; IN_RST_N and a thermal trip reset it (R364, R365, R366, R369, R370, R374, R403). -/
def Obligations.ClocksAndResets : Prop :=
  ∀ (s : State),
    let c := s.hub.clk
    let down := fun (t : State) => t.cells = [] ∧ t.jobs = [] ∧ t.hub.clk.hubReady = false ∧ t.hub.clk.pclk = false ∧ t.hbm.mem = s.hbm.mem
    (s.aon = true →
      (∀ ref sclk, 2880 ≤ ref → ref ≤ 3520 → 9216 ≤ 10 * sclk → 10 * sclk ≤ 11264 →
        (c.goodWindows = 0 → exec (.clockJudgeWindow ref sclk) s = .next (s.modClk fun k => { k with goodWindows := 1 }))
        ∧ (1 ≤ c.goodWindows → ∃ t, exec (.clockJudgeWindow ref sclk) s = .next t ∧ t.hub.clk.refOk = true ∧ t.hub.clk.sclkOk = true ∧ t.hub.clk.refFailed = false
          ∧ t.hub.clk.sclkFailed = false ∧ t.hub.clk.aonOnRef = false ∧ t.cells = s.cells))
      ∧ (∀ ref sclk, ref < 2880 ∨ 3520 < ref → 9216 ≤ 10 * sclk → 10 * sclk ≤ 11264 → c.refOk = true →
        ∃ t, exec (.clockJudgeWindow ref sclk) s = .next t ∧ down t ∧ t.hub.clk.refFailed = true ∧ t.hub.clk.blackoutSeen = true)
      ∧ (c.refOk = true → ∃ t, exec (.clockStopDetect .refclk) s = .next t ∧ down t ∧ t.hub.clk.refFailed = true ∧ t.hub.clk.refOk = false)
      ∧ (c.refOk = true → c.sclkOk = true → ∃ t, exec (.clockStopDetect .sclk) s = .next t ∧ down t ∧ t.hub.clk.sclkFailed = true ∧ t.hub.clk.aonOnRef = true)
      ∧ (∃ t, exec (.forcedChangeover .alwaysOn) s = .next t ∧ t.hub.clk.forcedSeen = true ∧ t.hub.clk.goodWindows = 0 ∧ t.cells = s.cells)
      ∧ (c.stage = .boot → ∃ t, exec (.forcedChangeover .hub) s = .next t ∧ t.hub.clk.forcedSeen = true ∧ t.hub.clk.stage = .waitPll ∧ t.hub.clk.pclk = false ∧ t.cells = s.cells)
      ∧ (∀ r : Fin 16, s.flights = [] → (∀ p < 48, (takeWaiting (s.port p)).1 = []) →
        ∃ t, exec (.forcedChangeover (.region r)) s = .next t ∧ t.hub.clk.forcedSeen = true ∧ (t.rclk r.val).forced = true ∧ t.cells = s.cells))
    ∧ (c.pclk = true → ∃ t, exec .hubPllLockLoss s = .next t ∧ down t ∧ t.hub.clk.pllFailed = true)
    ∧ (∀ r : Fin 16, (s.rgn r.val).awake = true → (s.rclk r.val).pllLocked = true → (s.rgn r.val).owner = none → s.flights = [] → (∀ p < 48, (takeWaiting (s.port p)).1 = []) →
      ∃ t, exec (.regionPllLockLoss r) s = .next t ∧ (t.rclk r.val).pllLocked = false ∧ (t.rclk r.val).gated = true ∧ (t.rclk r.val).lockLost = true ∧ (t.rclk r.val).forced = true)
    ∧ (∀ r : Fin 16, (s.rclk r.val).gated = true →
      (exec (.regionPllRelockAttempt r true) s = .next (s.modRclk r.val fun k => { k with pllLocked := true, gated := false, onNclk := true, attempts := 0 }))
      ∧ exec (.regionPllRelockAttempt r false) s = .next (
        let t := s.modRclk r.val fun k => { k with attempts := k.attempts + 1 }
        if 3 ≤ (s.rclk r.val).attempts + 1 then failRegion t r.val 0x0803 else t))
    ∧ (∀ r : Fin 16, (s.rgn r.val).state = 0 → (s.rgn r.val).owner = none → r.val ≠ s.hub.hostRgn → s.hub.mail.releasing = [] → (∀ q < 16, (s.rgn q).failed = false) →
      ∃ t, exec (.standbyPllLockLoss r) s = .next t ∧ (t.rgn r.val).state = 7 ∧ (t.rclk r.val).lockLost = true ∧ t.hub.flashRgns = setBit s.hub.flashRgns r.val true)
    ∧ (∀ die site, s.aon = true → c.trip = false →
      ∃ t, exec (.thermalTrip die site) s = .next t ∧ down t ∧ t.hub.clk.trip = true ∧ t.hub.clk.tripSeen = true
        ∧ (t.flt.persist.getLast?.map fun r => (r.cls, r.detail)) = some (0x0712, [die, site]))
    ∧ (∀ ns, (ns < 100 → exec (.inRstNAssert ns) s = .next s)
      ∧ (1000 ≤ ns → c.stage.powered = true → c.stage ≠ .rails → c.blackout = false →
        ∃ t, exec (.inRstNAssert ns) s = .next t ∧ down t ∧ t.hub.clk.rstLow = true ∧ t.hub.clk.stage = .waitRef ∧ t.hub.clk.nextCause = 2))
    ∧ (∀ cool, c.rstLow = true → (c.trip = false → exec (.inRstNRelease cool) s = .next (s.modClk fun k => { k with rstLow := false }))
      ∧ (c.trip = true → cool = true → ∃ t, exec (.inRstNRelease cool) s = .next t ∧ t.hub.clk.trip = false ∧ t.hub.clk.rstLow = false ∧ t.hub.clk.nextCause = 2))

/-- A record goes from its cell or unit to the block's aggregator, to the region's, to the log; a full aggregator drops it and counts the drop (R413, R417, R429). A full ring of 16,384 records drops its oldest; every record takes the next index (R417). The timers of the log and of the hub's memory: summaries of the hub, of the Ethernet port and of the mailboxes; corrected errors of hub SRAM are counted, others reset the module; the lowest working region takes over the module's stores (R338, R362, R414, R419, R423). -/
def Obligations.RecordsReachTheLog : Prop :=
  (∀ (s : State) (r : Fin 16) (n : Fin 150) (x : Rec) (rest : List Rec),
      let bk := blkKey r.val n.val
      let g := s.rgn r.val
      ((s.blk bk).transit = x :: rest →
        (∀ a, (s.blk bk).aggr.add x = some a → exec (.faultRecordArrival (.block r n)) s = .next (s.modBlk bk fun b => { b with transit := rest, aggr := a }))
        ∧ ((s.blk bk).aggr.add x = none → x.isStop = false →
          ∃ t, exec (.faultRecordArrival (.block r n)) s = .next t ∧ (t.blk bk).aggr = { (s.blk bk).aggr with lost := true } ∧ (t.blk bk).cnt = bump (s.blk bk).cnt 0xE0 1
            ∧ t.flt.lostCount = satAdd32 s.flt.lostCount 1 ∧ t.flt.lost = true))
      ∧ (g.transit = x :: rest → x.isStop = false → ∀ a, g.aggr.add x = some a →
        ∃ t, exec (.faultRecordArrival (.region r n)) s = .next t ∧ (t.rgn r.val).aggr = a ∧ (t.rgn r.val).transit = rest ∧ t.cells = s.cells ∧ t.flt = s.flt)
      ∧ (∀ y a, g.transit = [] → (s.blk bk).aggr.take = some (y, a) → y.isStop = false → ∀ a', g.aggr.add y = some a' →
        ∃ t, exec (.faultRecordArrival (.region r n)) s = .next t ∧ (t.rgn r.val).aggr = a' ∧ (t.blk bk).aggr = a ∧ t.cells = s.cells)
      ∧ (∀ y a, g.aggr.take = some (y, a) → y.level ≠ 0 → g.owner.isSome = true →
        exec (.faultRecordArrival (.hub r)) s = .next ((s.modRgn r.val fun v => { v with aggr := a }).log y)))
  ∧ (∀ (l : FltLog) (x : Rec), x.detail.length ≤ 12 → l.ring.length ≤ 16384 →
      (l.push x).next = (l.next + 1) % 2 ^ 32 ∧ (l.push x).ring.getLast? = some (l.next, x) ∧ (l.push x).ring.length = min 16384 (l.ring.length + 1)
        ∧ (l.ring.length = 16384 → (l.push x).ring = l.ring.drop 1 ++ [(l.next, x)] ∧ (l.push x).wrapped = true)
        ∧ (l.ring.length < 16384 → (l.push x).ring = l.ring ++ [(l.next, x)] ∧ (l.push x).wrapped = l.wrapped)
        ∧ (l.push x).persist = l.persist)
  ∧ (∀ (s : State),
      let t' := 1048576 * (s.hub.tick / 1048576 + 1) % 2 ^ 64
      (s.hub.clk.hubReady = true →
        (∃ t, exec .summaryTimer s = .next t ∧ t.hub.tick = t' ∧ t.hub.sramCorr = 0
          ∧ t.flt = (if s.hub.sramCorr = 0 then s.flt else s.flt.push { (s.modHub fun h => { h with tick := t' }).unitRec 3 0x011B none none [] with summary := true, count := s.hub.sramCorr }))
        ∧ (∃ t, exec .oneSecondSummary s = .next t ∧ t.hub.eth.drops = 0 ∧ t.hub.mail.rejected = 0 ∧ t.hub.pwr.extreme = none
          ∧ (s.hub.eth.drops = 0 → s.hub.mail.rejected = 0 → s.hub.pwr.extreme = none → t.flt = s.flt)
          ∧ (s.hub.eth.drops ≠ 0 → s.hub.mail.rejected = 0 → s.hub.pwr.extreme = none →
            t.flt = s.flt.push { s.unitRec 3 0x0600 none none [] with summary := true, count := s.hub.eth.drops }))
        ∧ (∀ n, exec (.hubSramScrub n []) s = .next (s.modHub fun h => { h with sramCorr := h.sramCorr + n }))
        ∧ (∀ n a, s.jobs = [] → ∃ t, exec (.hubSramScrub n [a]) s = .next t ∧ t.cells = [] ∧ t.hub.clk.hubReady = false ∧ t.hub.clk.nextCause = 3))
      ∧ (s.hub.takeover = true → (s.rgn s.hub.hostRgn).owner = none → (s.rgn s.hub.hostRgn).failed = false →
        ∃ t, exec .hostRegionTakeover s = .next t ∧ t.hub.takeover = false ∧ (∀ i < 128, t.cue i = Cue.reset) ∧ t.hub.hostRgn = s.hub.hostRgn ∧ t.hbm = s.hbm))

/-- The JTAG port: five rising edges of TCK with TMS high reach Test-Logic-Reset and BYPASS from any state; TRST_N low holds the TAP there; SAMPLE captures the pins, and EXTEST, CLAMP and HIGHZ drive them only while IN_RST_N is low; no internal state is reached (R458). -/
def Obligations.JtagPortScansPins : Prop :=
  (∀ (s : State) (tdi : Bool) (pins : BitVec 15), s.hub.clk.stage ≠ .off → s.hub.clk.jtag.trst = true →
    ∃ t, exec (.tckEdge true true tdi pins) s = .next t ∧ t.hub.clk.jtag.tap = s.hub.clk.jtag.tap.next true
      ∧ t = s.modJtag fun _ => t.hub.clk.jtag)
  ∧ (∀ t : Tap, (((((t.next true).next true).next true).next true).next true) = .reset)
  ∧ (∀ (j : Jtag) (low tdi : Bool) (pins : BitVec 15), (j.rise low true tdi pins).tap = .reset → (j.rise low true tdi pins).op = .bypass)
  ∧ (∀ (s : State), ∃ t, exec (.trstNChange false) s = .next t ∧ t.hub.clk.jtag.tap = .reset ∧ t.hub.clk.jtag.op = .bypass ∧ t.hub.clk.jtag.trst = false
      ∧ ∀ rising tms tdi pins, exec (.tckEdge rising tms tdi pins) t = .next t)
  ∧ (∀ (s : State), exec (.trstNChange true) s = .next (s.modJtag fun j => { j with trst := true }))
  ∧ (∀ (j : Jtag) (low tms tdi : Bool) (pins : BitVec 15), j.tap = .captureDr → j.op = .sample → (j.rise low tms tdi pins).chain = pins)
  ∧ (∀ (j : Jtag), j.pads false = none)
  ∧ ∀ (j : Jtag), (j.op = .extest ∨ j.op = .clamp → j.pads true = some (some j.latch)) ∧ (j.op = .highz → j.pads true = some none)

/-- Link states: training is tried, done or fails, a port without acknowledgement or with a partner that retrains enters Retrain from Up alone, taking FCLK into holdover where it is the designated one, and the fourth failure or the 32nd retrain fences it; lanes that do not fit fail the attempt; free buffers are advertised (R273, R274, R275, R280, R292, R294). -/
def Obligations.LinksTrainAndRetrain : Prop :=
  ∀ (s : State) (p : Fin 48),
    let x := s.port p.val
    (s.portExists p.val = true → x.state = 1 → exec (.trainingAttempt p) s = .next (s.modPort p.val fun x => { x with state := 2 }))
    ∧ (∀ r, x.state = 2 ∨ x.state = 4 → r.half = s.isSplit p.val → r.skew ≤ 40 → r.misconnected = false →
      exec (.trainingDone p r) s = .next (sendLocal (sendIdle ((s.setPort p.val { x with
        state := 3, reversed := r.reversed, delay := r.delay, fails := 0, peerValid := false, rxCount := 0, txCount := 0, rxDiscard := false, codeLost := false, nakDue := false,
        before := if x.state = 4 then x.before else none, resume := !x.replay.isEmpty, replay := x.replay.map fun f => { f with sends := 0 }, rx := x.rx.map fun v => { v with owed := 0 },
        tx := (List.range 4).map fun i => { x.txOf i with credits := r.credits.getD i 0, adv := r.credits.getD i 0 } }).emit (.advertise p.val (s.freeBufs p.val))) p.val) p.val (identOf s p.val)))
    ∧ (∀ r, x.state = 2 ∨ x.state = 4 → r.half ≠ s.isSplit p.val ∨ 40 < r.skew ∨ r.misconnected = true →
      exec (.trainingDone p r) s = exec (.trainingTimeout p r.cause) s)
    ∧ (∀ cause, x.state = 2 ∨ x.state = 4 →
      let t := (s.setPort p.val { x with state := 1, fails := x.fails + 1, trainFail := true }).logPort 0x0501 p.val [cause]
      exec (.trainingTimeout p cause) s = .next (if 4 ≤ x.fails + 1 then fencePort t p.val else t))
    ∧ (x.state = 3 → exec (.partnerRetrain p) s = .next (enterRetrain s p.val 4) ∧ (x.replay ≠ [] → exec (.ackTimeout p) s = .next (enterRetrain s p.val 2)))
    ∧ (∀ cause, x.state = 3 → (recentRetrains s.hub.tick x.retrains).length < 31 → (takeWaiting x).1 = [] →
      let t := enterRetrain s p.val cause
      (t.port p.val).state = 4 ∧ (t.port p.val).cnt = bump x.cnt 0x50 1 ∧ (t.port p.val).replay = x.replay
      ∧ (s.hub.fab.srcPort.toNat ≠ p.val → t.flt = (s.logPort 0x0502 p.val [BitVec.ofNat 8 cause]).flt)
      ∧ (s.hub.fab.srcPort.toNat = p.val → s.hub.fab.freewheel = false → t.hub.fab.freewheel = true ∧ t.flt = ((s.logPort 0x0510 p.val []).logPort 0x0502 p.val [BitVec.ofNat 8 cause]).flt))
    ∧ (∀ cause, x.state ≠ 3 → enterRetrain s p.val cause = s)

/-- FLIT_RECEIVE: a codeword of ten flits is corrected or lost as a whole; a good flit frees the replay buffer up to its acknowledgement, adds credits and delivers its body in order; a bad or unexpected one is answered with a nak (R276, R277, R278, R280). -/
def Obligations.FlitsAreTakenInOrder : Prop :=
  ∀ (s : State) (p : Fin 48) (n : Nat) (f : List Byte),
    let x := s.port p.val
    let w := leAt f 0 4
    let cv := x.rxCount % 4
    let x0 := { x.codeword n with rxCount := x.rxCount + 1 }
    let good := x0.codeLost = false ∧ f.length = 64 ∧ crc32 (f.take 60) = leAt f 60 4
    let y := ({ x0 with replay := ackReplay (field w 12 12) x.replay, resume := false }).modTx cv fun v => { v with credits := v.credits + field w 29 3 }
    (x.rxCount % 10 = 0 → x0.codeLost = decide (16 < n) ∧ x0.cnt = (if 16 < n then bump x.cnt 0x44 1 else if n = 0 then x.cnt else bump x.cnt 0x40 1))
    ∧ (x.rxCount % 10 ≠ 0 → x0 = { x with rxCount := x.rxCount + 1 })
    ∧ (s.portExists p.val = true → x.live = true →
    (¬ good → exec (.flitReceive p n f) s = .next (answerFlit (s.setPort p.val { ((x0.count 0x48 1).gap) with sums := modAt (· + 1) x0.sums 1 }) p.val))
    ∧ (good → (x.txOf cv).adv < (x.txOf cv).credits + field w 29 3 →
      exec (.flitReceive p n f) s = .next (enterRetrain (s.setPort p.val { x0 with replay := ackReplay (field w 12 12) x.replay }) p.val 3))
    ∧ (good → (x.txOf cv).credits + field w 29 3 ≤ (x.txOf cv).adv →
      (bitAt w 27 = false → field w 0 12 = (x.rxSeq + 1) % 4096 → s.bufSize p.val (field w 24 2) ≤ (x.rxOf (field w 24 2)).occ →
        exec (.flitReceive p n f) s = .next (enterRetrain (s.setPort p.val y) p.val 3))
      ∧ (x.resume = false → bitAt w 26 = false →
        (bitAt w 27 = true → exec (.flitReceive p n f) s = .next (answerFlit (s.setPort p.val y) p.val))
        ∧ (bitAt w 27 = false → field w 0 12 ≠ (x.rxSeq + 1) % 4096 → exec (.flitReceive p n f) s = .next (answerFlit (s.setPort p.val y.gap) p.val))
        ∧ (bitAt w 27 = false → field w 0 12 = (x.rxSeq + 1) % 4096 → (x.rxOf (field w 24 2)).occ < s.bufSize p.val (field w 24 2) →
          exec (.flitReceive p n f) s = .next (answerFlit (s.setPort p.val
            (takeBody s.hub.tick (field w 24 2) (bitAt w 28) ((f.drop 4).take 56) { y with rxSeq := field w 0 12, rxDiscard := false })) p.val)))
      ∧ (x.resume = true ∨ bitAt w 26 = true → bitAt w 27 = true → exec (.flitReceive p n f) s = .next (answerFlit (resend (s.setPort p.val y) p.val) p.val))))

/-- WRITE, ACCW and CUE packets for this module: every slot that its destination's job may receive is on its way with the packet's tag, poison, counter and count cell; a cue of the job rises, any other is recorded with class 0x0420; a packet for another module goes on with one hop more, or is dropped at 31 hops; a malformed one is dropped with class 0x0504 (R159, R200, R210, R285, R286, R287, R288, R296). -/
def Obligations.PacketsReachTheirTargets : Prop :=
  ∀ (s : State) (p : Fin 48) (k : Packet),
    let s1 := takeArrived s p.val k
    let a := field k.h1.toNat 0 48
    let cc := if countCellUsed k.h1 then some (field k.h2.toNat 0 19) else none
    let slot := fun (acc : Option (BitVec 2)) (i : Nat) => (s1.nextId + i, Flight.write ⟨BitVec.ofNat 12 (hSrc k.h0), hCell k.h0, 0, a + 64 * i, (k.data.drop (64 * i)).take 64, BitVec.ofNat 8 (field k.h1.toNat 48 8), hPoison k.h0, acc,
      if bitAt k.h1.toNat 56 then some (BitVec.ofNat 4 (field k.h1.toNat 57 4)) else none, cc⟩)
    let fit := ∀ i < hLen k.h0, slotOk s1 (a + 64 * i) (hSrc k.h0) (hRegion k.h0) cc = true
    heldByChange s k = false →
    (packetFor s p.val k 1 = true → fit → ∃ t, exec (.writePacket p k) s = .next t ∧ t.flights = s1.flights ++ (List.range (hLen k.h0)).map (slot none) ∧ t.cells = s1.cells ∧ t.flt = s1.flt)
    ∧ (packetFor s p.val k 2 = true → fit → ∃ t, exec (.accwPacket p k) s = .next t
        ∧ t.flights = s1.flights ++ (List.range (hLen k.h0)).map (slot (some (BitVec.ofNat 2 (field k.h1.toNat 61 2)))) ∧ t.cells = s1.cells ∧ t.flt = s1.flt)
    ∧ (packetFor s p.val k 3 = true →
      let cue := field k.h1.toNat 0 13
      let n := BitVec.ofNat 32 (field k.h1.toNat 32 32)
      let id := BitVec.ofNat 32 (field k.h2.toNat 0 32)
      (∀ j, s1.job id = some j → jobCue j cue = true → s1.cueLost cue = false → (s1.cue cue).armed = false → exec (.cuePacket p k) s = .next (s1.setCue cue { s1.cue cue with value := (s1.cue cue).value + n }))
      ∧ (s1.job id = none → exec (.cuePacket p k) s = .next (s1.log { s1.unitRec 4 0x0420 none none (leBytes 2 cue ++ leBytes 2 (hSrc k.h0) ++ leBytes 4 n.toNat ++ leBytes 4 id.toNat) with port := p.val })))
    ∧ (s.carries p.val k = true → goodPacket k = true → forHere s p.val k = false → hType k.h0 ≠ 8 → hDst k.h0 ≠ 0xFFF → s1.hub.fab.moduleId ≠ 0xFFF →
      (hHops k.h0 < 31 → ¬ (hType k.h0 = 7) → exec (.packetForward p k) s = .next (routeBy s1 ⟨k, none, none, some p.val, arrivedAt s p.val k⟩
          (s.entryOf p.val k)))
      ∧ (31 ≤ hHops k.h0 → exec (.packetForward p k) s = .next (dropPacket s1 (some p.val) 0x11 k)))
    ∧ (∀ r, badReason k = some r → s.carries p.val k = true → hType k.h0 ≠ 0 → (s1.port p.val).lastNak = none → ¬ (hType k.h0 = 9) →
      let t := s1.modPort p.val fun x => { (x.count 0x54 1) with malformed := true }
      exec (.malformedPacket p k) s = .next (sendNak ((t.log (t.headRec 0x0504 p.val (some r) (pktHeader k))).modPort p.val fun x => { x with lastNak := some t.hub.tick }) p.val r k.h0))

/-- HOLD and TIME packets: a hold for the present epoch moves its boundary, one with the fault flag faults the job; the counters of the job's regions take the root's time, T0 is held, and a beat ends its sender's silence (R252, R259, R261, R263, R295). -/
def Obligations.JobPacketsKeepTime : Prop :=
  ∀ (s : State) (p : Fin 48) (k : Packet) (j : Job),
    let s1 := takeArrived s p.val k
    let b := k.h2.toNat
    (packetFor s p.val k 6 = true → s1.job (BitVec.ofNat 32 (field b 32 32)) = some j →
      let id := BitVec.ofNat 32 (field b 32 32)
      let n := field b 0 16
      (bitAt b 16 = false → bitAt b 17 = false → j.faulted = false → j.begun = true → j.chg = none → k.h1.toNat = j.epoch → j.kSteps < n → s1.jobTick j < j.boundary →
        ∃ t, exec (.holdPacket p k) s = .next t ∧ t.job id = some { j with kSteps := n, kSrc := hSrc k.h0 } ∧ (∀ r ∈ j.rgns, (t.rgn r).cnt = bump (s1.rgn r).cnt 0x140 (n - j.kSteps)) ∧ t.cells = s1.cells)
      ∧ (bitAt b 16 = false → bitAt b 17 = false → j.faulted = false → j.begun = true → k.h1.toNat = j.epoch → j.kSteps < n → j.boundary ≤ s1.jobTick j →
        exec (.holdPacket p k) s = .next (faultWith s1 id (s1.jobRec j 0x0443 (leBytes 8 k.h1.toNat ++ leBytes 2 (hSrc k.h0)))))
      ∧ (bitAt b 16 = false → bitAt b 17 = false → j.faulted = false → j.begun = true → k.h1.toNat ≠ j.epoch →
        let was := (mapGet (0, 0) j.kOf k.h1.toNat).1
        (n ≤ was → exec (.holdPacket p k) s = .next s1)
        ∧ (was < n → j.epoch < k.h1.toNat → exec (.holdPacket p k) s = .next (s1.modJob id fun j => { j with kOf := mapPut j.kOf k.h1.toNat (n, hSrc k.h0) }))
        ∧ (was < n → k.h1.toNat < j.epoch → exec (.holdPacket p k) s = .next (faultWith s1 id (s1.jobRec j 0x0443 (leBytes 8 k.h1.toNat ++ leBytes 2 (hSrc k.h0))))))
      ∧ (bitAt b 16 = true → j.faulted = false → (∀ i ∈ s1.hub.bkt.insts, i.job ≠ id) →
        ∃ t j', exec (.holdPacket p k) s = .next t ∧ t.job id = some j' ∧ j'.faulted = true ∧ ∀ n ∈ s1.cellsOf j, (s1.cell n).seq.running = true → (t.cell n).seq.state = 3))
    ∧ (packetFor s p.val k 7 = true → s1.job (timeJob k) = some j → j.begun = false → j.root = false →
      (field k.h1.toNat 0 8 = 0 → ∃ t, exec (.timeAlign p k) s = .next t
        ∧ (∀ r ∈ j.rgns, (t.rgn r).tick = (b + (s.port p.val).delay.toNat + 64 * (s.hub.tick - arrivedAt s p.val k) + 32) / 64) ∧ t.jobs = s1.jobs)
      ∧ (field k.h1.toNat 0 8 = 1 → j.faulted = false → s1.executingFor 0x0304 (timeJob k) = none → s1.hub.mail.waiting = [] →
        exec (.timeAnnounce p k) s = .next (s1.modJob (timeJob k) fun j => { j with t0 := some b })))
    ∧ (packetFor s p.val k 7 = true → field k.h1.toNat 0 8 = 2 → s1.job (timeJob k) = some j → ∀ q, bookPosition j.img (hSrc k.h0) = some q →
      exec (.timeBeat p k) s = .next (s1.modJob (timeJob k) fun j => { j with beats := mapPut j.beats q (s1.jobTick j) }))

/-- IDENT and management packets: a partner is recorded, and blocks its port where it conflicts; a NAK is recorded with class 0x0505; UNREACHABLE concerns a packet of this module alone; FIRMWARE messages reach firmware; identifiers are assigned, relayed and answered (R286, R290, R291, R292, R297). Holdover of FCLK is entered and left with classes 0x0510 and 0x0511; the fabric's summary reports and clears each port's errors with class 0x0500 (R294, R300). -/
def Obligations.ManagementAndFabricClock : Prop :=
  (∀ (s : State) (p : Fin 48) (k : Packet),
      let s1 := takeArrived s p.val k
      let x := s1.port p.val
      let b := k.h2.toNat
      let ident := BitVec.ofNat 12 b
      let noted := fun (v : Word) (o : Nat) => s.modFab fun f => { f with pairs := f.pairs.map fun x => if x.number = v ∧ x.outcome = none then { x with outcome := some o } else x }
      let known := { x with peerValid := true, peerSerial := k.h1, peerIdent := ident, peerPort := BitVec.ofNat 6 (field b 16 8), peerSplit := bitAt b 24, before := none }
      let bad := (match x.before with | some v => v != (k.h1, ident) | none => false) || (ident != 0xFFF && ident == s1.hub.fab.moduleId) || field b 32 16 != 0x4C4D || field b 48 16 != 0x0307
      (localFor s p.val k 8 = true → (bad = false → exec (.identPacket p k) s = .next (s1.setPort p.val known)) ∧ (bad = true → x.state = 3 → exec (.identPacket p k) s = .next (blockPort (s1.setPort p.val known) p.val k)))
      ∧ (localFor s p.val k 9 = true →
        (field k.h1.toNat 0 8 = 1 → exec (.mgmtNak p k) s = .next (s1.log (s1.headRec 0x0505 p.val (some (field k.h1.toNat 32 8)) (leBytes 8 b))))
        ∧ (field k.h1.toNat 0 8 = 2 → hSrc k.h2 ≠ s1.hub.fab.moduleId.toNat → exec (.mgmtUnreachable p k) s = .next s1)
        ∧ (field k.h1.toNat 0 8 = 2 → hSrc k.h2 = s1.hub.fab.moduleId.toNat → s1.jobOf (hRegion k.h2) = none → isJobType k.h2 = true →
          exec (.mgmtUnreachable p k) s = .next (s1.log (s1.headRec 0x0507 p.val (some (field k.h1.toNat 32 8)) (leBytes 8 b))))
        ∧ (field k.h1.toNat 0 8 = 3 →
            let t := s1.modFab fun f => { f with inbox := f.inbox ++ [(p.val, k)] }
            exec (.mgmtFirmware p k) s = .next (match Config.firmwareMsg k.h1 k.h2 k.data with | some m => firmwareTake t (hSrc k.h0) m | none => t)))
      ∧ (∀ a : AssignMsg, s.portExists p.val = true → (s.port p.val).live = true → (knownNames s).any (fun n => n.1 == a.assigner && n.2.1 == a.number) = false →
        let s2 := keepName s a.assigner a.number p.val
        (a.target = Config.fuseSerial → s.noJobs = true → a.ident ≠ 0xFFF → exec (.idAssignMessage p a) s = .next ((setModuleId s2 a.ident).emit (.assignReply p.val ⟨a.assigner, a.number, true⟩)))
        ∧ (a.target = Config.fuseSerial → s.noJobs = false → exec (.idAssignMessage p a) s = .next (s2.emit (.assignReply p.val ⟨a.assigner, a.number, false⟩)))
        ∧ (a.target ≠ Config.fuseSerial → a.hops < 31 → exec (.idAssignMessage p a) s = .next (relayAssign s2 (some p.val) { a with hops := a.hops + 1 })))
      ∧ (∀ a : AssignReply, s.portExists p.val = true → (s.port p.val).live = true → s.hub.mail.waiting = [] →
        (∀ n, a.assigner ≠ Config.fuseSerial → s.hub.fab.names.find? (fun x => x.1 == a.assigner && x.2.1 == a.number) = some n → (s.port n.2.2.1).live = true →
          exec (.idAssignReply p a) s = .next (s.emit (.assignReply n.2.2.1 a)))
        ∧ (a.assigner = Config.fuseSerial → exec (.idAssignReply p a) s = .next (drain (notePair s a.number (if a.assigned then 0 else 3)))
          ∧ (s.executing = [] → exec (.idAssignReply p a) s = .next (noted a.number (if a.assigned then 0 else 3)))))
      ∧ ∀ n, exec (.idAssignReplyTimeout n) s = .next (drain (notePair s n 1)) ∧ (s.executing = [] → s.hub.mail.waiting = [] → exec (.idAssignReplyTimeout n) s = .next (noted n 1)))
  ∧ (∀ (s : State),
      let f := s.hub.fab
      (f.srcPort ≠ 63 → f.freewheel = false →
        exec .fclkHoldoverEnter s = .next ((s.modFab fun f => { f with freewheel := true, freewheelSeen := true, locked := false }).logPort 0x0510 f.srcPort.toNat []))
      ∧ (f.freewheel = true → f.srcPort = 63 ∨ (s.portExists f.srcPort.toNat = true ∧ (s.port f.srcPort.toNat).state = 3) → exec .fclkHoldoverExit s = .next ((s.modFab fun f => { f with freewheel := false, locked := true }).logPort 0x0511 f.srcPort.toNat []))
      ∧ (∃ t, exec .fabricSummaryTimer s = .next t ∧ (∀ p < 48, (t.port p).sums.sum = 0) ∧ (∀ p, (t.port p).cnt = (s.port p).cnt) ∧ t.cells = s.cells)
      ∧ (∀ p < 48, (∀ q < 48, q ≠ p → (s.port q).sums.sum = 0) → (s.port p).sums.sum ≠ 0 → ∃ t, exec .fabricSummaryTimer s = .next t
        ∧ t.flt = s.flt.push { s.unitRec 4 0x0500 none none ((s.port p).sums.flatMap fun n => leBytes 4 n) with port := p, summary := true, count := (s.port p).sums.sum }))

/-- The combine unit of a bucket that one module alone takes part in: its contribution is the result, written to the destination; when it is visible the instance ends, its digest entry is written and the done cue rises (R304, R306, R307, R319). -/
def Obligations.BucketsCompleteAndReport : Prop :=
  ∀ (s : State) (job : Word) (b : BitVec 12) (n : BitVec 16) (j : Job) (i : BktInst) (d : FabDesc),
    s.job job = some j → s.inst job b.toNat n.toNat = some i → fabDesc j.img b.toNat = some d →
    (i.contrib = none → d.fmt = 0 → s.hbm.errs = [] → s.hbm.poison = [] →
      let s1 := s.modInst i fun i => { i with contrib := some (memRead s.hbm.mem d.src d.bytes, []) }
      (exec (.bucketContribRead job b n) s = .next (progress s1 j d job b.toNat n.toNat))
      ∧ (i.kids = [] → i.up = none → parentPosition (d.members (bookModules j.img)) j.pos = none → kidPositions (d.members (bookModules j.img)) j.pos = [] → memWf s.hbm.mem = true →
        ∃ t, exec (.bucketContribRead job b n) s = .next t ∧ (∀ x < d.bytes, memGet t.hbm.mem (d.dst + x) = memGet s.hbm.mem (d.src + x))
          ∧ (∀ x, x < d.dst ∨ d.dst + d.bytes ≤ x → memGet t.hbm.mem x = memGet s.hbm.mem x) ∧ t.cells = s.cells))
    ∧ (∀ r, i.result = some r → i.contrib.isSome = true → nonfinites d.fmt r = [] → s.cueLost d.doneCue = false → (s.cue d.doneCue).armed = false →
      ∃ t, exec (.bucketResultVisible job b n) s = .next t ∧ (t.cue d.doneCue).value = (s.cue d.doneCue).value + 1 ∧ t.inst job b.toNat n.toNat = none
        ∧ t.hub.bkt.head = s.hub.bkt.head + 1 ∧ mapGet [] t.hub.bkt.log s.hub.bkt.head.toNat = digestEntry s j d i false ∧ t.hbm = s.hbm ∧ t.cells = s.cells)

/-- REDUCE and BCAST packets: one for an instance that is outstanding is taken into its stream, one for an instance that has not started waits in the early store, and one that no instance has claimed in time is dropped with class 0x0531 and faults its job (R307, R314, R315). An instance fails: it ends on this module with a digest entry of status 1 and class 0x0530 with the cause, and no other instance changes (R316). -/
def Obligations.BucketPacketsAndFailures : Prop :=
  (∀ (s : State) (p : Fin 48) (k : Packet),
      let job := pktJob k
      (∀ j, s.job job = some j → j.chg = none → j.faulted = false →
        (∀ i d, s.inst job (pktBucket k) (pktInst k) = some i → fabDesc j.img (pktBucket k) = some d →
          (packetFor s p.val k 4 = true → exec (.reducePacket p k) s = .next (takeArrived (takeBucketPacket s j d i k) p.val k))
          ∧ (packetFor s p.val k 5 = true → exec (.bcastPacket p k) s = .next (takeArrived (takeBucketPacket s j d i k) p.val k))
          ∧ (bktBad j d i k = none → hPoison k.h0 = false →
            (packetFor s p.val k 4 = true → i.contrib = none → ∃ t, exec (.reducePacket p k) s = .next t ∧ t.cells = s.cells ∧ t.hbm = s.hbm
              ∧ t.inst job (pktBucket k) (pktInst k) = some { i with kids := i.kids.map fun x => if x.1 = pktSender k then (x.1, addUnits x.2 (pktOffset k) (packetUnits d.fmt k)) else x })
            ∧ (packetFor s p.val k 5 = true → kidPositions (d.members (bookModules j.img)) j.pos = [] → (addUnits i.got (pktOffset k) (packetUnits d.fmt k)).length < d.units →
              ∃ t, exec (.bcastPacket p k) s = .next t ∧ t.cells = s.cells ∧ t.hbm = (writeUnits s d (pktOffset k) (packetUnits d.fmt k)).hbm
                ∧ t.inst job (pktBucket k) (pktInst k) = some { i with got := addUnits i.got (pktOffset k) (packetUnits d.fmt k), result := none }))
          ∧ (bktBad j d i k = none → hPoison k.h0 = true → packetFor s p.val k 4 = true →
            ∃ t, exec (.reducePacket p k) s = .next t ∧ t.cells = s.cells ∧ t.hbm = s.hbm ∧ t.inst job (pktBucket k) (pktInst k) = none ∧ t.hub.bkt.failed = true
              ∧ t.flt = s.flt.push (s.bktRec 0x0530 job (pktBucket k) (pktInst k) (leBytes 2 0x0530))))
        ∧ (s.inst job (pktBucket k) (pktInst k) = none → startedBefore j (pktBucket k) (pktInst k) = false → earlyBytes s.hub.bkt (j.home (pktBucket k)) + k.data.length ≤ 2 ^ 21 →
          packetFor s p.val k 4 = true →
          exec (.reducePacket p k) s = .next (takeArrived (s.modBkt fun x => { x.count 0x8054 1 with early := x.early ++ [⟨k, p.val, j.home (pktBucket k), 0⟩] }) p.val k)))
      ∧ (∀ j, s.job job = some j → j.chg.isSome = true → packetFor s p.val k 4 = true → exec (.reducePacket p k) s = .next (park s p.val k))
      ∧ (s.hub.bkt.early.any (fun e => e.k == k && Nat.ble 100000 e.age) = false → exec (.earlyStoreTimeout k) s = .next s)
      ∧ (s.hub.bkt.early.any (fun e => e.k == k && Nat.ble 100000 e.age) = true →
        let c := s.unitRec 4 0x0531 none none (pktHeader k)
        let t := (s.modBkt fun x => { x with early := x.early.eraseP fun e => e.k == k && Nat.ble 100000 e.age, earlyDrop := true }).log c
        (s.job job = none → exec (.earlyStoreTimeout k) s = .next t)
        ∧ (∀ j, s.job job = some j → exec (.earlyStoreTimeout k) s = .next (dueJob t job c))))
  ∧ (∀ (s : State) (i : BktInst) (cause : Nat) (j : Job) (d : FabDesc), s.job i.job = some j → fabDesc j.img i.bucket = some d →
      let t := failInst s i cause
      t.inst i.job i.bucket i.num = none ∧ mapGet [] t.hub.bkt.log s.hub.bkt.head.toNat = digestEntry s j d i true ∧ t.hub.bkt.failed = true
        ∧ t.flt = s.flt.push (s.bktRec 0x0530 i.job i.bucket i.num (leBytes 2 cause)) ∧ t.jobs = s.jobs
        ∧ (∀ a b n, ¬ (a = i.job ∧ b = i.bucket ∧ n = i.num) → t.inst a b n = s.inst a b n) ∧ t.cells = s.cells)

/-- The port's link and its addresses: the link's rise starts the DHCP client once; ARP, neighbour solicitation and echo are answered for the module's own addresses; an offer is asked for, and the lease that is acknowledged is taken, asked for again and removed; a reply bears the tag of its request (R323, R325, R341). The client's states are those of RFC 2131 (log entry 74). -/
def Obligations.LinkAndAddresses : Prop :=
  ∀ (s : State),
    let e := s.hub.eth
    (s.hub.clk.hubReady = true → e.linkUp = false →
      let t := (s.modEth fun e => { e with linkUp := true, linkChange := true }).logHub 0x0601 [1]
      (e.client = false → e.ipv4Valid = false → exec .ethLinkUp s = .next ((t.modEth fun e => { e with client := true }).emit (.eth none .dhcpDiscover)))
      ∧ (e.client = true → exec .ethLinkUp s = .next t))
    ∧ (s.ethOn = true →
      (exec .ethLinkDown s = .next ((s.modEth fun e => { e with linkUp := false, linkChange := true }).logHub 0x0601 [0]))
      ∧ (∀ a g, e.ipv4Valid = true → exec (.arpRequest a ⟨e.ipv4, g⟩) s = .next (s.emit (.eth g (.arpReply a e.ipv4))))
      ∧ (∀ a b g, e.ipv4Valid = false ∨ b ≠ e.ipv4 → exec (.arpRequest a ⟨b, g⟩) s = .next s)
      ∧ (∀ a g, exec (.neighbourSolicitation a ⟨linkLocal, g⟩) s = .next (s.emit (.eth g (.neighbourAdvert a linkLocal))))
      ∧ (∀ a g, e.ipv6Valid = true → exec (.neighbourSolicitation a ⟨e.ipv6, g⟩) s = .next (s.emit (.eth g (.neighbourAdvert a e.ipv6))))
      ∧ (∀ a b body g, s.hub.tick < e.echoTick + 100000000 → e.echo6 < 1000 → b = linkLocal →
        exec (.icmpEchoRequest true a b ⟨body, g⟩) s = .next ((s.modEth fun e => { e with echo6 := e.echo6 + 1 }).emit (.eth g (.echoReply true a b body))))
      ∧ (∀ a b body g, s.hub.tick < e.echoTick + 100000000 → 1000 ≤ e.echo4 → ∃ t, exec (.icmpEchoRequest false a b ⟨body, g⟩) s = .next t ∧ t.out = s.out ∧ t.hub.eth.drops = e.drops + 1)
      ∧ (e.client = true →
        (∀ d, d.kind = .offer → e.dhcp = false → e.asked = none →
          exec (.dhcpReply d) s = .next ((s.modEth fun e => { e with asked := some d.addr }).emit (.eth d.tag (.dhcpRequest d.addr))))
        ∧ (∀ d, d.kind = .ack → e.asked = some d.addr → e.ipv4Valid = false ∨ e.ipv4 = d.addr → exec (.dhcpReply d) s = .next (s.modEth fun e =>
          { e with ipv4 := d.addr, mask := d.mask, gateway := d.gateway, ipv4Valid := true, dhcp := true, leaseSec := d.leaseSec, asked := none }))
        ∧ (∀ d, d.kind = .ack → e.asked ≠ some d.addr → exec (.dhcpReply d) s = .next s)
        ∧ (∀ d, d.kind = .nak → e.asked.isSome = true → e.dhcp = false → exec (.dhcpReply d) s = .next ((s.modEth fun e => { e with asked := none }).emit (.eth d.tag .dhcpDiscover)))
        ∧ (e.dhcp = false → exec .dhcpRetry s = .next ((s.modEth fun e => { e with asked := none }).emit (.eth none .dhcpDiscover)))
        ∧ (e.dhcp = true → exec .dhcpRenew s = .next ((s.modEth fun x => { x with asked := some e.ipv4 }).emit (.eth none (.dhcpRequest e.ipv4))))
        ∧ (e.dhcp = true → e.ipv4Valid = true →
          ∃ t, exec .dhcpLeaseExpiry s = .next t ∧ t.hub.eth.ipv4Valid = false ∧ t.hub.eth.dhcp = false ∧ t.hub.eth.client = true
            ∧ (∀ q < 64, (s.qp q).dst = mapped e.ipv4 → (t.qp q).state = .free ∨ (t.qp q).state = .error)
            ∧ (∀ q < 64, (s.qp q).dst ≠ mapped e.ipv4 → t.qp q = s.qp q))))
    ∧ exec .routerAdvertisement s = .next s

/-- Flow control and connections: pause and PFC frames are counted and honoured, one or the other; a request takes the lowest free queue pair or is rejected with its reason; RTU connects, DREQ and DREP free (R323, R326, R327, R329, R332, R338, R405). -/
def Obligations.PausesAndConnections : Prop :=
  ∀ (s : State),
    s.ethOn = true →
      (let t := s.ethCount 0x50 1
      (s.hub.eth.qos.getLsbD 15 = true →
        (∀ m l, exec (.pfcFrame m l) s = .next (t.modEth fun e => { e with pause := (List.range 8).map fun i => if m.getLsbD i then 4 * l.getD i 0 else e.pause.getD i 0 }))
        ∧ ∀ n, exec (.pauseFrame n) s = .next t)
      ∧ (s.hub.eth.qos.getLsbD 15 = false →
        (∀ m l, exec (.pfcFrame m l) s = .next t)
        ∧ ∀ n, exec (.pauseFrame n) s = .next (t.modEth fun e => { e with pause := List.replicate 8 (4 * n.toNat) })))
      ∧ (∀ c, exec (.ethDroppedPacket c) s = .next ((s.ethCount 0x40 1).modEth fun e => { e with drops := e.drops + 1 }))
      ∧ (∀ r, s.hub.eth.owns r.dstIp = true →
        (∀ reason, cmJudge s r = .inr reason → exec (.cmReq r) s = .next (s.emit (.eth (s.hub.eth.mark r.tag false).tag (.cmRej (s.hub.eth.mark r.tag false) r.source reason))))
        ∧ (∀ kind, cmJudge s r = .inl kind →
          ((∀ q < 64, (s.qp q).state ≠ .free) → exec (.cmReq r) s = .next (s.emit (.eth (s.hub.eth.mark r.tag false).tag (.cmRej (s.hub.eth.mark r.tag false) r.source 1))))
          ∧ (∀ q < 64, (s.qp q).state = .free → (∀ i < q, (s.qp i).state ≠ .free) →
            ∃ t, exec (.cmReq r) s = .next t ∧ (t.qp q).state = .connecting ∧ (t.qp q).kind = kind ∧ (t.qp q).src = r.source ∧ (t.qp q).dst = r.dstIp ∧ (t.qp q).epsn = r.psn ∧ (t.qp q).tag = r.tag
              ∧ (∀ i, i ≠ q → t.qp i = s.qp i) ∧ t.out = s.out ++ [.rdma q (s.hub.eth.mark r.tag false) .rep] ∧ t.cells = s.cells ∧ t.hub.mail = s.hub.mail))
        ∧ (r.service = 0 → s.boxConns 0 < 8 → cmJudge s r = if r.mtu = 4096 then .inl (.mailbox 0) else .inr 26)
        ∧ (r.service = 0x300 → r.mtu = 4096 → cmJudge s r = if s.fromSession r then .inl .data else .inr 28)
        ∧ (r.service = 0x140 → cmJudge s r = .inr 28))
      ∧ ∀ q : Fin 64,
        ((s.qp q.val).state = .connecting →
          (exec (.cmRej q) s = .next (freeQp s q.val))
          ∧ ((s.qp q.val).kind ≠ .event → ∃ t, exec (.cmRtu q) s = .next t ∧ t.qp q.val = { s.qp q.val with state := .connected } ∧ mapGet 0 t.hub.pwr.qp q.val = 0
            ∧ (∀ i, i ≠ q.val → t.qp i = s.qp i) ∧ t.cells = s.cells ∧ t.out = s.out))
        ∧ (∀ g, (s.qp q.val).state = .free → exec (.cmDreq ⟨q, g⟩) s = .next (ethDrop s))
        ∧ (∀ g, (s.qp q.val).state ≠ .free → ∃ t, exec (.cmDreq ⟨q, g⟩) s = .next t ∧ t.qp q.val = .reset ∧ (∀ i, i ≠ q.val → t.qp i = s.qp i) ∧ t.out = s.out ++ [.rdma q.val (s.hub.eth.mark g false) .drep] ∧ t.cells = s.cells)
      ∧ (let t := freeQp s q.val
        t.qp q.val = .reset ∧ (∀ i, i ≠ q.val → t.qp i = s.qp i) ∧ t.out = s.out ∧ t.cells = s.cells ∧ ∀ b r, (s.mbx b).req = some r → r.m.q = q → ∃ r', (t.mbx b).req = some r' ∧ r'.lost = true ∧ r'.m = r.m)
        ∧ ((s.qp q.val).state = .error → exec (.cmDrep q) s = .next (freeQp s q.val) ∧ exec (.qpFreeTimeout q) s = .next (freeQp s q.val))
        ∧ ((s.qp q.val).state = .connected → exec (.cnpReceived q) s = .next ((s.ethCount 0x4C 1).qpEnergy q.val 0 1))

/-- RDMA on a data queue pair: a WRITE that a live window lets through stores its bytes and is acknowledged; a READ answers with the bytes; what no window lets through, what the kind of queue pair does not carry and what comes out of turn is answered with its NAK and stores nothing; what leaves bears the VLAN of the packet it follows, the PCP and DSCP of ETH_QOS, ECT(0) and an ICRC, and a CE mark is answered at most once in 50 µs (R217, R323, R326 to R328, R330, R334 to R338). That what a queue pair sends of itself bears the tag of the last packet heard is the model's choice (log entry 74). -/
def Obligations.RdmaReadsAndWrites : Prop :=
  ∀ (s : State) (w : RdmaWrite) (r : RdmaRead),
    let x := s.qp w.q.val
    let y := s.qp r.q.val
    s.ethOn = true →
      let s1 := pfcJudge (qpHears s w.q.val w.data.length w.ce w.tag) w.buffered
      let s2 := qpHears s r.q.val 0 r.ce r.tag
      (x.state ≠ .connected → exec (.rdmaWritePacket w) s = .next (ethDrop s))
      ∧ (x.state = .connected → x.kind ≠ .data ∨ foreignOp w.op = true → exec (.rdmaWritePacket w) s = .next (sendAck s1 w.q.val w.psn 0x61))
      ∧ (x.state = .connected → x.kind = .data → foreignOp w.op = false →
        (psnPlace x.epsn w.psn = .ahead → x.nakSent = true → exec (.rdmaWritePacket w) s = .next s1)
        ∧ (psnPlace x.epsn w.psn = .ahead → x.nakSent = false → exec (.rdmaWritePacket w) s = .next (sendAck (s1.modQp w.q.val fun z => { z with nakSent := true }) w.q.val x.epsn 0x60))
        ∧ (psnPlace x.epsn w.psn = .duplicate → exec (.rdmaWritePacket w) s = .next (sendAck s1 w.q.val (x.epsn - 1) 0))
        ∧ (psnPlace x.epsn w.psn = .expected → writeForm x w = false → exec (.rdmaWritePacket w) s = .next (sendAck (s1.modQp w.q.val fun z => { z with write := none }) w.q.val w.psn 0x61))
      ∧ (psnPlace x.epsn w.psn = .expected → w.op = .only → x.write = none → w.data.length = w.len → w.len ≤ 4096 →
          (windowLets s x.session w.key w.va.toNat w.len true = false →
            exec (.rdmaWritePacket w) s = .next (sendAck (s1.modQp w.q.val fun z => { z with write := none }) w.q.val w.psn 0x62))
          ∧ (windowLets s x.session w.key w.va.toNat w.len true = true → cellAddr w.va.toNat = none → memWf s.hbm.mem = true →
            ∃ t, exec (.rdmaWritePacket w) s = .next t ∧ (∀ i < w.len, memGet t.hbm.mem (w.va.toNat + i) = w.data.getD i 0)
              ∧ (∀ a, a < w.va.toNat ∨ w.va.toNat + w.len ≤ a → memGet t.hbm.mem a = memGet s.hbm.mem a)
              ∧ (t.qp w.q.val).epsn = x.epsn + 1 ∧ (t.qp w.q.val).msn = x.msn + 1 ∧ t.out = s1.out ++ [.rdma w.q.val (s.hub.eth.mark w.tag false) (.ack w.psn 0 (x.msn + 1))] ∧ t.cells = s.cells)
          ∧ (∀ k off, windowLets s x.session w.key w.va.toNat w.len true = true → cellAddr w.va.toNat = some (k, off) → (s.cell k).bankDown off w.len = false → memWf (s.cell k).mem = true →
            ∃ t, exec (.rdmaWritePacket w) s = .next t ∧ (∀ i < w.len, memGet (t.cell k).mem (off + i) = w.data.getD i 0)
              ∧ (∀ a, a < off ∨ off + w.len ≤ a → memGet (t.cell k).mem a = memGet (s.cell k).mem a) ∧ (t.cell k).full = (s.cell k).full ∧ t.hbm = s.hbm
              ∧ t.out = s1.out ++ [.rdma w.q.val (s.hub.eth.mark w.tag false) (.ack w.psn 0 (x.msn + 1))])))
      ∧ (y.state = .connected →
        (y.kind ≠ .data ∨ 16 ≤ r.outstanding → exec (.rdmaReadRequest r) s = .next (sendAck s2 r.q.val r.psn 0x61))
        ∧ (y.kind = .data → r.outstanding < 16 → psnPlace y.epsn r.psn ≠ .ahead → windowLets s y.session r.key r.va.toNat r.len false = false →
          exec (.rdmaReadRequest r) s = .next (sendAck s2 r.q.val r.psn 0x62))
        ∧ (y.kind = .data → r.outstanding < 16 → psnPlace y.epsn r.psn = .expected → windowLets s y.session r.key r.va.toNat r.len false = true → cellAddr r.va.toNat = none →
          0 < r.len → r.len ≤ 4096 → s.hbm.errs = [] → s.hbm.poison = [] →
          ∃ t, exec (.rdmaReadRequest r) s = .next t ∧ t.out = s2.out ++ [.rdma r.q.val (s.hub.eth.mark r.tag false) (.readResp r.psn (memRead s.hbm.mem r.va.toNat r.len) true)]
            ∧ t.hbm.mem = s.hbm.mem ∧ t.cells = s.cells ∧ (t.qp r.q.val).epsn = y.epsn + 1 ∧ (t.qp r.q.val).msn = y.msn + 1))
    ∧ (let qos := s.hub.eth.qos
      let mark := fun (dscp : BitVec 6) => (⟨r.tag.map fun t => qos.extractLsb' 0 3 ++ t.extractLsb' 0 13, qos.extractLsb' 0 3, dscp, true, true⟩ : RoceMark)
      s.hub.eth.mark r.tag false = mark (qos.extractLsb' 3 6) ∧ s.hub.eth.mark r.tag true = mark (qos.extractLsb' 9 6)
      ∧ (r.ce = false → s2.out = s.out)
      ∧ (r.ce = true → y.lastCnp = none → s2.out = s.out ++ [.rdma r.q.val (mark (qos.extractLsb' 9 6)) .cnp] ∧ (s2.qp r.q.val).lastCnp = some s.hub.tick)
      ∧ ∀ v, r.ce = true → y.lastCnp = some v → s2.out = if v + 5000 ≤ s.hub.tick then s.out ++ [.rdma r.q.val (mark (qos.extractLsb' 9 6)) .cnp] else s.out)

/-- The module as requester: an acknowledgement takes what it covers from the sends that wait, a NAK of sequence or of a receiver that is not ready sends them again, the latter without end, any other ends the connection, and after 7 retries the queue pair is in error (R331, R332). -/
def Obligations.SendsAreAcknowledged : Prop :=
  ∀ (s : State) (q : Fin 64) (psn : BitVec 24) (ce : Bool) (g : VlanTag),
    let x := s.qp q.val
    let s1 := qpHears s q.val 0 ce g
    let mk := s.hub.eth.mark g false
    x.state = .connected → x.kind ≠ .event →
      (s.ethOn = true → ∃ t, exec (.rdmaAckReceived q psn ⟨0, ce, g⟩) s = .next t
        ∧ t.qp q.val = { s1.qp q.val with unacked := x.unacked.filter fun e => psnPlace psn e.1 == .ahead, retries := 0 } ∧ (∀ i, i ≠ q.val → t.qp i = s.qp i) ∧ t.out = s1.out)
      ∧ (s.ethOn = true → ∃ t, exec (.rdmaAckReceived q psn ⟨0x60, ce, g⟩) s = .next t ∧ (t.qp q.val).state = .connected
        ∧ t.out = s1.out ++ (x.unacked.filter fun e => psnPlace (psn - 1) e.1 == .ahead).map fun e => .rdma q.val mk (.send e.1 e.2))
      ∧ (s.ethOn = true → ∃ t, exec (.rdmaAckReceived q psn ⟨0x2E, ce, g⟩) s = .next t ∧ (t.qp q.val).state = .connected ∧ (t.qp q.val).retries = 0
        ∧ t.out = s1.out ++ (x.unacked.filter fun e => psnPlace (psn - 1) e.1 == .ahead).map fun e => .rdma q.val mk (.send e.1 e.2))
      ∧ (s.ethOn = true → ∃ t, exec (.rdmaAckReceived q psn ⟨0x63, ce, g⟩) s = .next t ∧ (t.qp q.val).state = .error ∧ (t.qp q.val).unacked = [] ∧ t.out = s1.out ++ [.rdma q.val mk .dreq])
      ∧ (x.unacked ≠ [] →
        (x.retries < 7 → ∃ t, exec (.qpRetryTimeout q) s = .next t ∧ t.qp q.val = { x with retries := x.retries + 1 }
          ∧ t.out = s.out ++ x.unacked.map fun e => .rdma q.val (s.hub.eth.mark x.tag false) (.send e.1 e.2))
        ∧ (7 ≤ x.retries → ∃ t, exec (.qpRetryTimeout q) s = .next t ∧ (t.qp q.val).state = .error ∧ t.out = s.out ++ [.rdma q.val (s.hub.eth.mark x.tag false) .dreq]
          ∧ t.flt = s.flt.push (s.unitRec 3 0x0604 none none (leBytes 4 (0x100 + q.val) ++ [0]))))

/-- A SEND on a mailbox queue pair: out of turn, too long or for a full mailbox it is answered and the request buffer is not touched; a repeated request is answered from the kept response; a header that breaks a rule, an unknown code, a wrong mailbox, a wrong session, a missing privilege and an apply that the command does not take are turned away with their status (R328, R330, R338, R343, R344, R346, R348, R352). -/
def Obligations.RequestsReachFirmware : Prop :=
  ∀ (s : State) (m : Msg) (n : Nat),
    let x := s.qp m.q.val
    let s1 := qpHears s m.q.val (48 + m.payload.length) m.ce m.tag
    (s.ethOn = true →
      (x.state ≠ .connected → exec (.identGet m) s = .next (ethDrop s))
      ∧ (x.state = .connected → x.kind = .data ∨ x.kind = .event → exec (.unitsGet m) s = .next (sendAck s1 m.q.val m.psn 0x61))
      ∧ (x.state = .connected → x.kind = .mailbox n →
        (psnPlace x.epsn m.psn = .ahead → x.nakSent = false → exec (.challenge m) s = .next (sendAck (s1.modQp m.q.val fun z => { z with nakSent := true }) m.q.val x.epsn 0x60))
        ∧ (psnPlace x.epsn m.psn = .duplicate → exec (.quote m) s = .next (sendAck s1 m.q.val (x.epsn - 1) 0))
        ∧ (psnPlace x.epsn m.psn = .expected → 4048 < m.payload.length → exec (.bookWrite m) s = .next (sendAck s1 m.q.val m.psn 0x61))
        ∧ (psnPlace x.epsn m.psn = .expected → m.payload.length ≤ 4048 → (s.mbx n).req.isSome = true → exec (.jobStatus m) s = .next (sendAck s1 m.q.val m.psn 0x2E))
        ∧ (∀ psn k ce g, psnPlace x.epsn psn = .expected → k < 48 ∨ 4096 < k → exec (.sendToBusyMailbox m.q psn ⟨k, ce, g⟩) s = .next (sendAck (qpHears s m.q.val k ce g) m.q.val psn 0x61))
      ∧ (∀ psn k ce g, psnPlace x.epsn psn = .expected → 48 ≤ k → k ≤ 4096 → (s.mbx n).req.isSome = true →
        exec (.sendToBusyMailbox m.q psn ⟨k, ce, g⟩) s = .next (sendAck (qpHears s m.q.val k ce g) m.q.val psn 0x2E))
        ∧ (∀ psn k ce g, 48 ≤ k → k ≤ 4096 → (s.mbx n).req = none → exec (.sendToBusyMailbox m.q psn ⟨k, ce, g⟩) s = .next s)))
    ∧ (∀ k, Mailed s n m → s.hub.mail.waiting = [] → (s.mbx n).kept = some k → k.code = 0x0307 → k.seq = m.seq →
      exec (.jobKill m) s = .next (sendOn (s.sendTaken m) m.q.val k.bytes))
    ∧ (Mailed s n m → s.hub.mail.waiting = [] → s.executing = [] → (s.mbx n).kept = none →
      let t := s.inHand n 0x0303 m
      (∀ status, precheck s n 0x0303 m = some status → exec (.jobAssign m) s = .next (respond t n status []))
      ∧ (headerOk m = false → precheck s n 0x0303 m = some 0x0100)
      ∧ (headerOk m = true →
        (n = 0 → precheck s n 0x0303 m = some 0x0105)
        ∧ (n ≠ 0 → m.session ≠ (s.mbx n).session → precheck s n 0x0303 m = some 0x0103)
        ∧ (n ≠ 0 → m.session = (s.mbx n).session → (s.privOf m.session).getLsbD 0 = false → precheck s n 0x0303 m = some 0x0104)
        ∧ (n ≠ 0 → m.session = (s.mbx n).session → (s.privOf m.session).getLsbD 0 = true → precheck s n 0x0303 m = if m.flags.getLsbD 2 then some 0x0301 else if s.hubReach then none else some 0x0201)
        ∧ (∀ code, cmdNeeds code.toNat = none → exec (.unknownCommand m code) s = .next (respond (s.inHand n code m) n 0x0101 []))))

/-- The response to a request is the header of R345 with the request's command, tag, session, job and epoch, then the payload; it is kept, sent and counted, and the mailbox is free again (R343 to R346, R361, R362). -/
def Obligations.ResponsesAreSentAndKept : Prop :=
  ∀ (s : State) (n status : Nat) (payload : List Byte) (r : Req), (s.mbx n).req = some r → (n ≠ 0 → (s.mbx n).session ≠ 0) →
    let t := respond s n status payload
    let bytes := leBytes 2 0x4D42 ++ [1, 1] ++ leBytes 2 r.code.toNat ++ leBytes 2 status ++ leBytes 4 r.m.seq.toNat ++ leBytes 4 r.m.session.toNat
      ++ leBytes 4 payload.length ++ leBytes 4 0 ++ leBytes 8 r.m.applyAt.toNat ++ leBytes 4 r.m.job.toNat ++ leBytes 12 0 ++ payload
    (t.mbx n).req = none ∧ (t.mbx n).kept = some ⟨r.code, r.m.seq, bytes⟩ ∧ (∀ k, k ≠ n → t.mbx k = s.mbx k) ∧ n ∉ t.hub.mail.waiting
      ∧ (r.lost = true → t.out = s.out)
    ∧ ((s.qp r.m.q.val).state = .connected → r.lost = false →
        t.out = s.out ++ [.rdma r.m.q.val (s.hub.eth.mark (s.qp r.m.q.val).tag false) (.send (s.qp r.m.q.val).txPsn bytes)] ∧ (t.qp r.m.q.val).unacked = (s.qp r.m.q.val).unacked ++ [((s.qp r.m.q.val).txPsn, bytes)])
      ∧ ((s.qp r.m.q.val).state ≠ .connected → t.out = s.out)
      ∧ t.hub.mail.requests = (if 0x0100 ≤ status ∧ status ≤ 0x0105 then s.hub.mail.requests else satAdd32 s.hub.mail.requests 1)
      ∧ t.hub.mail.errors = (if 0x0100 ≤ status then satAdd32 s.hub.mail.errors 1 else s.hub.mail.errors)
      ∧ t.cells = s.cells ∧ t.jobs = s.jobs ∧ t.hbm = s.hbm ∧ t.regions = s.regions ∧ t.flt = s.flt ∧ t.hub.mail.sessions = s.hub.mail.sessions

/-- Identity, sessions and security: what IDENT_GET, UNITS_GET, CHALLENGE and QUOTE answer; SESSION_OPEN opens a session for a signed nonce; closing it takes its mailboxes, windows and queue pairs; DEBUG_UNLOCK opens a scope that ends with its time (R349 to R352, R360, R440 to R446). -/
def Obligations.SessionsAndSecurity : Prop :=
  ∀ (s : State) (n : Nat) (m : Msg),
    (Served s n 0x0101 m → m.payload = [] → let t := s.inHand n 0x0101 m
      exec (.identGet m) s = .next (done t n (leBytes 4 0x03074C4D ++ leBytes 4 0xA1 ++ leBytes 8 Config.fuseSerial.toNat ++ leBytes 2 s.hub.fab.moduleId.toNat
        ++ [BitVec.ofNat 8 (b2n s.hub.sec.bootedB), 0] ++ leBytes 4 s.hub.sec.version.toNat ++ leBytes 6 Config.fuseMac.toNat)))
    ∧ (Served s n 0x0102 m → m.payload = [] → let t := s.inHand n 0x0102 m
      exec (.unitsGet m) s = .next (done t n ((List.range 16).map (fun r => (s.rgn r).state.setWidth 8) ++ [byteOf fun i => (s.rgn i).failed, byteOf fun i => (s.rgn (8 + i)).failed, 0, 0]
        ++ (List.range 300).map fun k => byteOf fun i => (s.blk (8 * k + i)).isFenced (8 * k + i))))
    ∧ (Served s n 0x0201 m → m.payload.length = 1 → let t := s.inHand n 0x0201 m; let slot := leAt m.payload 0 1
      (s.key slot = none → exec (.challenge m) s = .next (deny (t.logHub 0x0611 (leBytes 1 slot ++ beBytes 16 (s.qp m.q.val).src.gid.toNat)) n 0x0400))
      ∧ ((s.key slot).isSome = true → let v := Config.nonce s.hub.mail.draws
        exec (.challenge m) s = .next (done (t.modMail fun x => { x with draws := x.draws + 1, nonces := (x.nonces.filter fun o => o.slot != slot) ++ [⟨slot, v, s.hub.tick⟩] }) n (digestBytes v))))
    ∧ (∀ k, Served s n 0x0202 m → m.payload.length = 420 → leAt m.payload 1 1 ≤ 1 → zeroAt m 2 4 = true →
      let slot := leAt m.payload 0 1; let test := leAt m.payload 1 1 == 1; let nonce := (m.payload.drop 4).take 32; let src := (s.qp m.q.val).src
      s.key slot = some k → s.nonceOk slot nonce = true → (test = true → k.priv.getLsbD 2 = true) → s.hub.mail.sessions.length < 16 → s.freeBoxes ≠ [] →
        let signed := pssVerify k.modulus.toNat (nonce ++ leBytes 8 Config.fuseSerial.toNat ++ beBytes 16 src.gid.toNat) (m.payload.drop 36)
        let num := nextSession s.hub.mail.opened
        ∃ t, exec (.sessionOpen m) s = .next t ∧ t.cells = s.cells ∧ t.jobs = s.jobs
          ∧ (signed = true → t.hub.mail.sessions = s.hub.mail.sessions ++ [⟨num, slot, test, k.priv, src, none, [], 0, 0, false⟩] ∧ num ≠ 0
            ∧ (∀ b ∈ s.freeBoxes.take 2, t.mbx b = { Mbx.reset with session := num }) ∧ (∀ b, b ≠ n → b ∉ s.freeBoxes.take 2 → t.mbx b = s.mbx b)
            ∧ (t.mbx n).kept = some ⟨0x0202, m.seq, responseBytes 0x0202 m 0 (leBytes 4 num.toNat ++ leBytes 4 k.priv.toNat ++ leBytes 8 (boxMask (s.freeBoxes.take 2)))⟩)
          ∧ (signed = false → t = deny ((s.inHand n 0x0202 m).logHub 0x0611 (leBytes 1 slot ++ beBytes 16 src.gid.toNat)) n 0x0400))
    ∧ (Served s n 0x0203 m → m.payload = [] → (s.session m.session).isSome = true →
      ∃ t, exec (.sessionClose m) s = .next t ∧ t.session m.session = none ∧ (∀ w ∈ t.hub.eth.windows, w.2.session ≠ m.session)
        ∧ (∀ b < 64, (s.mbx b).session = m.session → (t.mbx b).session = 0)
        ∧ (∀ q < 64, (s.qp q).session = m.session → (s.qp q).kind ≠ .mailbox 0 → (t.qp q).state = .free ∨ (t.qp q).state = .error))
    ∧ (Served s n 0x0204 m → m.payload.length = 32 → let t := s.inHand n 0x0204 m; let b := quoteBody s m.payload; let chain := Config.certChain.take 3276
      exec (.quote m) s = .next (done t n (b ++ beBytes 384 (Config.attestSign (digestWord b)).toNat ++ leBytes 4 chain.length ++ chain)))
    ∧ (∀ k, Served s n 0x0205 m → m.payload.length = 512 → leAt m.payload 0 4 = 0x31474244 → zeroAt m 6 8 = true → zeroAt m 56 128 = true → leAt m.payload 5 1 < 16 →
      1 ≤ leAt m.payload 12 4 → leAt m.payload 12 4 ≤ 86400 → leAt m.payload 8 4 = m.session.toNat → leAt m.payload 16 8 = Config.fuseSerial.toNat →
      let slot := leAt m.payload 4 1; let t := s.inHand n 0x0205 m
      s.nonceOk slot ((m.payload.drop 24).take 32) = true → s.key slot = some k → k.priv.getLsbD 3 = true →
        exec (.debugUnlock m) s = .next (if pssVerify k.modulus.toNat (m.payload.take 128) (m.payload.drop 128) = true then
            done (((t.modMail fun x => { x with nonces := x.nonces.filter fun o => o.slot != slot }).modSec fun x =>
              { x.extend 5 m.payload with dbg := some ⟨m.session, BitVec.ofNat 4 (leAt m.payload 5 1), s.hub.tick + leAt m.payload 12 4 * 100000000⟩ }).logHub 0x0906
                (leBytes 4 m.session.toNat ++ leBytes 1 (leAt m.payload 5 1))) n []
          else deny (t.logHub 0x0905 (leBytes 1 slot)) n 0x0400))
    ∧ (Served s n 0x0206 m → m.payload.length = 1 → let k := leAt m.payload 0 1; let t := s.inHand n 0x0206 m
      let mine := (List.range 64).filter fun i => i != 0 && (s.mbx i).session == m.session
      1 ≤ k → k ≤ 6 → mine.length + k ≤ 8 → k ≤ s.freeBoxes.length →
        exec (.mailboxBind m) s = .next (done (bindBoxes t m.session (s.freeBoxes.take k)) n (leBytes 8 (boxMask (mine ++ s.freeBoxes.take k)))))
    ∧ (∀ num, (s.session num).isSome = true → s.hub.mail.waiting = [] → (∀ b < 64, (s.mbx b).session = num → (s.mbx b).req = none) → (∀ q < 64, (s.qp q).state = .connected → (s.qp q).session = num → (s.qp q).kind = .mailbox 0) →
      ∃ t, exec (.sessionIdleClose num) s = .next t ∧ t.session num = none ∧ (∀ b < 64, (s.mbx b).session = num → (t.mbx b).session = 0))
    ∧ (s.hub.sec.dbg.isSome = true → (∀ r < 16, (s.rclk r).debugClk = false) →
      ∃ t, exec .debugExpiry s = .next t ∧ t.hub.sec.dbg = none ∧ t.cells = s.cells ∧ t.jobs = s.jobs)

/-- Books, jobs and staged changes: a book is staged piece by piece; a job is assigned from it, started, read, ended, killed and claimed; cues are added to, and changes are staged, applied or taken back (R240, R252, R351 to R355, R358). -/
def Obligations.BooksAndJobs : Prop :=
  ∀ (s : State) (n : Nat) (m : Msg),
    let gone := fun (o : Res) (j : Job) => ∃ u, o = .next u ∧ u.job j.id = none ∧ ∀ r ∈ j.rgns, (s.rgn r).state = 5 → (u.rgn r).state = 6 ∧ (u.rgn r).owner = none
    (Served s n 0x0301 m → let t := s.inHand n 0x0301 m; let len := leAt m.payload 0 8
      s.hub.takeover = false → m.payload.length = 8 → 0 < len → len ≤ 512 * 2 ^ 20 → (s.stagingOf m.session) = none →
        (s.stagedMib + mib len ≤ 768 → exec (.bookBegin m) s = .next (done (t.modSession m.session fun x => { x with staging := some ⟨len, []⟩ }) n []))
        ∧ (768 < s.stagedMib + mib len → exec (.bookBegin m) s = .next (deny t n 0x0202)))
    ∧ (∀ g, Served s n 0x0302 m → let t := s.inHand n 0x0302 m; let off := leAt m.payload 0 8; let data := m.payload.drop 8
      s.stagingOf m.session = some g → data ≠ [] → data.length ≤ 4032 → off % 64 = 0 → off + data.length ≤ g.len → data.length % 64 = 0 ∨ off + data.length = g.len →
        exec (.bookWrite m) s = .next (done (t.modSession m.session fun x => { x with staging := some { g with data := memWrite g.data off data } }) n []))
    ∧ (∀ g, Served s n 0x0303 m → let t := s.inHand n 0x0303 m; let mask : BitVec 16 := BitVec.ofNat 16 (leAt m.payload 0 2); let rs := (List.range 16).filter fun r => mask.getLsbD r
      s.hub.takeover = false → m.payload.length = 8 → m.job ≠ 0 → mask ≠ 0 → leAt m.payload 2 2 < 0xFFF → leAt m.payload 4 4 < 2 → s.stagingOf m.session = some g → s.job m.job = none →
      (∀ r < 16, mask.getLsbD r = true → (s.rgn r).owner = none ∧ (s.rgn r).failed = false) →
        exec (.jobAssign m) s = .next (drain (tryLoad (rs.foldl (wantRegion m.job) { t with jobs := t.jobs ++ [newJob t m (memRead g.data 0 g.len)] }) m.job))
        ∧ ((∀ r ∈ rs, (s.rgn r).state = 0) → ∃ u, exec (.jobAssign m) s = .next u ∧ u.job m.job = some (newJob t m (memRead g.data 0 g.len))
          ∧ (∀ r ∈ rs, (u.rgn r).owner = some m.job ∧ (u.rgn r).state = 1 ∧ (u.rgn r).goal = .assign m.job) ∧ (u.mbx n).req = some ⟨0x0303, m, true, false⟩ ∧ u.cells = s.cells))
    ∧ (∀ j, s.job m.job = some j → j.session = m.session →
      (Served s n 0x0304 m → let t := s.inHand n 0x0304 m
        m.payload = [] → s.loaded j = true → j.begun = false → j.faulted = false →
          (j.root = true → j.t0 = none → let now := s.jobTick j; let t0 := now + bookStartLead j.img; let own := s.hub.fab.moduleId.toNat
            exec (.jobStart m) s = .next (drain (done (sendEach (sendEach (j.rgns.foldl (fun s r => s.modRgn r fun g => { g with tick := now }) (t.modJob j.id fun j => { j with t0 := some t0 })) j j.others fun d => timePacket own d 0 j.id (64 * now)) j j.others
              fun d => timePacket own d 1 j.id t0) n (leBytes 8 t0))))
          ∧ (∀ v, j.root = false → j.t0 = some v → exec (.jobStart m) s = .next (done t n (leBytes 8 v)))
          ∧ (j.root = false → j.t0 = none → exec (.jobStart m) s = .next t))
      ∧ (Served s n 0x0305 m → let t := s.inHand n 0x0305 m
        m.payload = [] → exec (.jobStatus m) s = .next (done t n (leBytes 8 j.epoch ++ leBytes 4 (jobStatus j) ++ (List.range 16).map (fun r => (s.rgn r).state.setWidth 8)
          ++ leBytes 4 0 ++ (match j.cause with | some c => faultBytes (c.parts.headD c) | none => leBytes 32 0))))
      ∧ (Served s n 0x0306 m → let t := s.inHand n 0x0306 m
        m.payload = [] → s.loaded j = true →
          (s.atRest j = true ∨ j.faulted = true → exec (.jobEnd m) s = .next (drain (releaseJob (done t n []) j.id)) ∧ gone (exec (.jobEnd m) s) j)
          ∧ (s.atRest j = false → j.faulted = false → exec (.jobEnd m) s = .next (deny t n 0x0201)))
      ∧ (Served s n 0x0307 m → let t := s.inHand n 0x0307 m
        m.payload = [] → exec (.jobKill m) s = .next (drain (releaseJob (done t n []) j.id)) ∧ gone (exec (.jobKill m) s) j)
      ∧ (Served s n 0x0309 m → let t := s.inHand n 0x0309 m; let cue := leAt m.payload 0 2
        m.payload.length = 8 → cue < 8192 → zeroAt m 2 4 = true →
          (jobCue j cue = false → exec (.cueAdd m) s = .next (deny t n 0x0200))
          ∧ (jobCue j cue = true → s.loaded j = true → exec (.cueAdd m) s = .next (drain (addCue (done t n []) cue (BitVec.ofNat 32 (leAt m.payload 4 4))))
            ∧ (s.cueLost cue = false → (s.cue cue).armed = false → ∃ u, exec (.cueAdd m) s = .next u ∧ (u.cue cue).value = (s.cue cue).value + BitVec.ofNat 32 (leAt m.payload 4 4) ∧ u.cells = s.cells)))
      ∧ (Served s n 0x030A m → let t := s.inHand n 0x030A m
        s.loaded j = true → paletteForm j m = true →
          (j.running = false → m.flags.getLsbD 2 = false → leAt m.payload 0 2 = j.pos → exec (.paletteWrite m) s = .next (done (paletteApply t m) n [])
            ∧ ∀ c < 128, bitAt (leAt m.payload 4 16) c = true → let key := (leAt m.payload 2 1 * 150 + leAt m.payload 3 1) * 128 + c; let off := leAt m.payload 20 2
              (s.cell key).bankDown off (192 * leAt m.payload 22 1) = false → memWf (s.cell key).mem = true →
                ∃ u, exec (.paletteWrite m) s = .next u ∧ ∀ x, memGet (u.cell key).mem x =
                  if off ≤ x ∧ x < off + 192 * leAt m.payload 22 1 then (m.payload.drop 24).getD (x - off) 0 else memGet (s.cell key).mem x)
          ∧ (j.running = true → m.flags.getLsbD 2 = false → exec (.paletteWrite m) s = .next (deny t n 0x0301))
          ∧ (j.running = true → m.flags.getLsbD 2 = true → j.past m.applyAt.toNat = false → j.root = true → j.staged.length < 64 → j.others = [] →
            exec (.paletteWrite m) s = .next (respond (t.modJob j.id fun j => { j with staged := j.staged ++ [⟨m.applyAt.toNat, 0x030A, m⟩] }) n 1 [])))
      ∧ (∀ c, Served s n 0x030B m → let t := s.inHand n 0x030B m
        m.payload.length = 4 → j.staged.find? (fun c => c.m.seq == BitVec.ofNat 32 (leAt m.payload 0 4)) = some c →
          (j.past c.epoch = false → underHold c.code = false →
            exec (.stageCancel m) s = .next (done (t.modJob j.id fun j => { j with staged := j.staged.filter fun x => !(x == c) }) n []))
          ∧ (j.past c.epoch = true → exec (.stageCancel m) s = .next (deny t n 0x0300))))
    ∧ (∀ j, s.job m.job = some j → Served s n 0x0308 m → let t := s.inHand n 0x0308 m
      m.payload = [] → s.session j.session = none → j.keySlot = s.slotOfSession m.session → j.events = [] → j.lostEvents = 0 →
        ∃ t', exec (.jobClaim m) s = .next t' ∧ t'.job m.job = some { j with session := m.session } ∧ t'.cells = t.cells ∧ t'.out = (done t n []).out)

/-- Transfer windows, ports, routing, identifiers and addresses: a window is registered over a range of the job and taken back; ports are enabled, disabled, retrained and split; routes wait in a shadow until they are committed (R272, R274, R287 to R294, R325, R333, R337, R352, R356). -/
def Obligations.WindowsPortsAndRoutes : Prop :=
  ∀ (s : State) (n : Nat) (m : Msg),
    (∀ j i, Served s n 0x0401 m → let t := s.inHand n 0x0401 m; let p := m.payload
      s.job m.job = some j → j.session = m.session → s.loaded j = true → p.length = 24 → zeroAt m 1 8 = true → 1 ≤ leAt p 0 1 → leAt p 0 1 ≤ 3 → windowSpan s j (leAt p 8 8) (leAt p 16 8) = true →
      i < 256 → (∀ w ∈ s.hub.eth.windows, w.1 ≠ i) → (∀ k < i, ∃ w ∈ s.hub.eth.windows, w.1 = k) →
        let key := windowKey i s.hub.eth.regs
        exec (.windowRegister m) s = .next (done (t.modEth fun e => { e with regs := e.regs + 1, windows := mapPut e.windows i (Window.mk key m.session j.id (bitAt (leAt p 0 1) 0) (bitAt (leAt p 0 1) 1) (leAt p 8 8) (leAt p 16 8)) }) n (leBytes 4 key.toNat)))
    ∧ (∀ w, Served s n 0x0402 m → let t := s.inHand n 0x0402 m; let key : Word := BitVec.ofNat 32 (leAt m.payload 0 4)
      m.payload.length = 4 → s.hub.eth.windows.find? (fun w => w.2.key == key) = some w →
        (w.2.session = m.session → exec (.windowDeregister m) s = .next (done (t.modEth fun e => { e with windows := e.windows.filter fun w => w.2.key != key }) n []))
        ∧ (w.2.session ≠ m.session → exec (.windowDeregister m) s = .next (deny t n 0x0200)))
    ∧ (Served s n 0x0403 m → m.payload.length = 2 → let t := s.inHand n 0x0403 m
      let ws := ((s.hub.eth.windows.filter fun w => Nat.ble (leAt m.payload 0 2) w.1 && w.2.session == m.session).map (·.2)).take 125
      exec (.windowList m) s = .next (done t n (leBytes 4 ws.length ++ ws.flatMap fun w =>
        leBytes 4 w.key.toNat ++ leBytes 4 (b2n w.rd + 2 * b2n w.wr) ++ leBytes 8 w.base ++ leBytes 8 w.len ++ leBytes 4 w.job.toNat ++ leBytes 4 0)))
    ∧ (Served s n 0x0501 m → let t := s.inHand n 0x0501 m; let p := leAt m.payload 0 1; let act := leAt m.payload 1 1; let x := s.port p
      m.payload.length = 2 → p < 24 → (s.rgn (portRegion p)).failed = false →
        (act = 0 → x.state = 0 → exec (.portSet m) s = .next (done t n []))
      ∧ (act = 0 → x.state ≠ 0 → ∃ u, exec (.portSet m) s = .next u ∧ (u.port p).state = 0 ∧ (u.mbx n).req = none)
        ∧ (act = 1 → x.state = 0 → exec (.portSet m) s = .next (done (t.modPort p fun x => { x with state := 1, fails := 0, retrains := [], peerValid := false, before := none }) n []))
        ∧ (act = 2 → x.state ≠ 3 → exec (.portSet m) s = .next (deny t n 0x0201))
        ∧ (act = 2 → x.state = 3 → exec (.portSet m) s = .next (drain (done (enterRetrain t p 5) n [])))
        ∧ (act = 3 → x.state = 0 → x.split = false → exec (.portSet m) s = .next (done (t.modPort p fun x => { x with split := true }) n [])))
    ∧ (Served s n 0x0502 m → m.payload = [] → let t := s.inHand n 0x0502 m
      exec (.neighboursGet m) s = .next (done t n ((List.range 48).flatMap fun p =>
        leBytes 4 ((portReg s p 0).getD 0) ++ leBytes 4 ((portReg s p 0x10).getD 0) ++ leBytes 8 (s.port p).peerSerial.toNat)))
    ∧ (Served s n 0x0503 m → m.payload.length = 2 → let t := s.inHand n 0x0503 m; let id := leAt m.payload 0 2
      id < 0xFFF → (s.noJobs = true → exec (.moduleIdSet m) s = .next (drain (done (setModuleId t (BitVec.ofNat 12 id)) n [])))
        ∧ (s.noJobs = false → exec (.moduleIdSet m) s = .next (deny t n 0x0201)))
    ∧ (Served s n 0x0504 m → let t := s.inHand n 0x0504 m; let k := leAt m.payload 4 2; let first := leAt m.payload 2 2; let es := (List.range k).map fun i => leAt m.payload (8 + 4 * i) 4
      leAt m.payload 0 1 = 63 → 1 ≤ k → k ≤ 1000 → m.payload.length = 8 + 4 * k → first + k ≤ 4096 → zeroAt m 1 2 = true → zeroAt m 6 8 = true → es.all routeEntryOk = true →
        exec (.routeWrite m) s = .next (done (t.modFab fun f => { f with shadow := shadowPut f.shadow first es }) n []))
    ∧ (Served s n 0x0505 m → let t := s.inHand n 0x0505 m
      m.payload.length = 10 → field (leAt m.payload 0 8) 48 15 = 0 → m.job = 0 → m.flags.getLsbD 2 = false → exec (.routeCommit m) s = .next (done (routeApply t (leAt m.payload 0 8)) n [])
        ∧ ∃ u, exec (.routeCommit m) s = .next u ∧ u.hub.fab.table = (if bitAt (leAt m.payload 0 8) 63 then s.hub.fab.shadow else s.hub.fab.table)
          ∧ (∀ p < 48, (u.port p).table = if bitAt (leAt m.payload 0 8) p then (s.port p).shadow else (s.port p).table) ∧ u.cells = s.cells)
    ∧ (Served s n 0x0506 m → let t := s.inHand n 0x0506 m; let p := leAt m.payload 0 1
      m.payload.length = 1 → p < 24 → (s.rgn (portRegion p)).failed = false → s.hub.fab.freewheel = false → exec (.clockSourceSet m) s = .next (done (t.modFab fun f => { f with srcPort := BitVec.ofNat 6 p }) n []))
    ∧ (Served s n 0x0507 m → let id := leAt m.payload 16 2
      leAt m.payload 0 2 = 1 → m.payload.length = 18 → zeroAt m 2 8 = true → id < 0xFFF → leAt m.payload 8 8 = Config.fuseSerial.toNat → s.noJobs = true → (∀ p < 48, (s.port p).peerValid = false) →
        ∃ t, exec (.idDistribute m) s = .next t ∧ t.hub.fab.moduleId = BitVec.ofNat 12 id ∧ (t.mbx n).req = none ∧ (t.mbx n).kept = some ⟨0x0507, m.seq, responseBytes 0x0507 m 0 [0]⟩)
    ∧ (Served s n 0x0508 m → let t := s.inHand n 0x0508 m; let p := m.payload; let sel := leAt p 0 1; let w := fun (o : Nat) => BitVec.ofNat 32 (leAt p o 4)
      p.length = 36 → zeroAt m 1 4 = true →
        (sel = 0 → exec (.portConfig m) s = .next (done t n []))
        ∧ (sel = 4 → leAt p 32 4 < 2 ^ 16 → exec (.portConfig m) s = .next ((done t n []).modEth fun e => { e with qos := BitVec.ofNat 16 (leAt p 32 4) }))
        ∧ (sel = 1 → s.hub.eth.ipv4Valid = false → exec (.portConfig m) s = .next ((done t n []).modEth fun e =>
          { e with ipv4 := w 4, mask := w 8, gateway := w 12, ipv4Valid := true, dhcp := false, client := false, leaseSec := 0 })))

/-- Power, regions, registers, digests, the log, resets, the test block and firmware: each command has its effect and answers (R240, R319, R352, R355, R357, R391, R392, R406, R417, R437, R449). -/
def Obligations.RegistersLogAndFirmware : Prop :=
  ∀ (s : State) (n : Nat) (m : Msg),
    let p := m.payload
    let down := fun (o : Res) => ∃ u, o = .next u ∧ u.cells = [] ∧ u.jobs = [] ∧ u.hub.clk.hubReady = false ∧ u.hub.clk.nextCause = 3 ∧ u.hbm.mem = s.hbm.mem
    (Served s n 0x0601 m → let t := s.inHand n 0x0601 m
      p.length = 4 → m.flags.getLsbD 2 = false →
        (120 ≤ leAt p 0 4 → leAt p 0 4 ≤ 624 → exec (.capSet m) s = .next (done (t.modPwr fun x => { x with cap := leAt p 0 4 }) n []))
        ∧ (leAt p 0 4 < 120 ∨ 624 < leAt p 0 4 → exec (.capSet m) s = .next (deny t n 0x0102)))
    ∧ (∀ j, Served s n 0x0602 m → let t := s.inHand n 0x0602 m
      s.job m.job = some j → j.session = m.session → s.loaded j = true → p.length = 12 → j.running = false → m.flags.getLsbD 2 = false →
        (poolOk (bookModules j.img) (leAt p 0 4) (leAt p 4 4) (leAt p 8 4) = true →
          exec (.poolSet m) s = .next (done (poolApply t j.id (leAt p 0 4) (leAt p 4 4) (leAt p 8 4)) n [])
          ∧ ∃ u, exec (.poolSet m) s = .next u ∧ (∃ j', u.job j.id = some j' ∧ j'.pool = some (leAt p 0 4, leAt p 4 4, leAt p 8 4))
            ∧ (∀ i, s.slotOf j.id = some i → (u.slotNo i).alloc = poolShare (leAt p 0 4) (bookModules j.img) j.pos) ∧ u.cells = s.cells)
        ∧ (poolOk (bookModules j.img) (leAt p 0 4) (leAt p 4 4) (leAt p 8 4) = false → exec (.poolSet m) s = .next (deny t n 0x0102)))
    ∧ (Served s n 0x0603 m → p.length = 3 → leAt p 2 1 ≤ 1 → (∀ r < 16, bitAt (leAt p 0 2) r = true → (s.rgn r).failed = false) →
      ∃ t, exec (.regionReady m) s = .next t ∧ (∀ r < 16, bitAt (leAt p 0 2) r = true → (t.rgn r).heldReady = (leAt p 2 1 == 1)
        ∧ (t.rgn r).state = if leAt p 2 1 = 1 ∧ (s.rgn r).state = 0 then 1 else (s.rgn r).state) ∧ (∀ r, 16 ≤ r ∨ bitAt (leAt p 0 2) r = false → t.rgn r = s.rgn r) ∧ t.cells = s.cells)
    ∧ (Served s n 0x0604 m → p = [] → let t := s.inHand n 0x0604 m; let r := readRegs (t.requesterOf m.session) (powerOffsets.map fun o => 0x400000300000 + o) t
      exec (.powerGet m) s = .next (drain (done r.1 n r.2)))
    ∧ (∀ a, Served s n 0x0701 m → leAt p 0 2 = 1 → p.length = 16 → zeroAt m 2 8 = true → a = leAt p 8 8 → let t := s.inHand n 0x0701 m; let r := readAccess t (t.requesterOf m.session) a 4
      exec (.regRead m) s = .next (drain (done r.1 n (leBytes 4 r.2.toNat))))
    ∧ (Served s n 0x0702 m → let t := s.inHand n 0x0702 m; let w := done t n []
      leAt p 0 2 = 1 → p.length = 24 → zeroAt m 2 8 = true → leAt p 20 4 = 0 → m.flags.getLsbD 2 = false →
        exec (.regWrite m) s = .next (drain (writeAccess w (t.requesterOf m.session) (leAt p 8 8) 4 (BitVec.ofNat 32 (leAt p 16 4)))))
    ∧ (∀ j, Served s n 0x0703 m → let t := s.inHand n 0x0703 m
      s.job m.job = some j → j.session = m.session → p.length = 4 → leAt p 0 2 < 4096 →
        let es := (s.hub.bkt.newest.filter fun e => leAt e 8 4 == j.id.toNat && field (leAt e 12 4) 0 12 == leAt p 0 2 && leAt e 14 2 == leAt p 2 2).take 62
        exec (.digestGet m) s = .next (done t n (leBytes 4 es.length ++ es.flatten)))
    ∧ (Served s n 0x0801 m → let t := s.inHand n 0x0801 m; let rs := (s.flt.from (leAt p 0 4)).take (leAt p 4 2)
      p.length = 6 → 1 ≤ leAt p 4 2 → leAt p 4 2 ≤ 125 → rs ≠ [] →
        exec (.logRead m) s = .next (done t n (leBytes 4 (((rs.getLast?.map (·.1)).getD 0 + 1) % 2 ^ 32) ++ rs.flatMap fun r => faultBytes r.2)))
    ∧ (Served s n 0x0802 m → let t := s.inHand n 0x0802 m
      p = [] → exec (.logClear m) s = .next (done (t.modFlt fun l => { l with ring := [], oldest := l.next, persist := [] }) n []))
    ∧ (Served s n 0x0803 m → let t := s.inHand n 0x0803 m
      p.length = 4 → zeroAt m 1 2 = true →
        (leAt p 0 1 = 0 → leAt p 2 2 = 0 → exec (.resetw m) s = .next (drain (moduleReset (done t n []))) ∧ down (exec (.resetw m) s))
        ∧ (∀ r < 16, leAt p 0 1 = 1 → leAt p 2 2 = 2 ^ r → (s.rgn r).failed = false → exec (.resetw m) s = .next (drain (regionReset (done t n []) r 3))
          ∧ ((s.rgn r).owner = none → (s.rgn r).state = 3 → ∃ u, exec (.resetw m) s = .next u ∧ (u.rgn r).state = 2 ∧ (u.rgn r).scrubPending = true ∧ ∀ q, q ≠ r → u.rgn q = s.rgn q)))
    ∧ (Served s n 0x0901 m → let t := s.inHand n 0x0901 m; let w := done t n []
      leAt p 0 2 = 1 → p.length = 24 → zeroAt m 2 8 = true → leAt p 20 4 = 0 →
        (s.isTest m.session = true → exec (.testWrite m) s = .next (drain (writeAccess w (.test m.session) (leAt p 8 8) 4 (BitVec.ofNat 32 (leAt p 16 4)))))
        ∧ (s.isTest m.session = false → exec (.testWrite m) s = .next (deny t n 0x0104)))
    ∧ (Served s n 0x0902 m → s.isTest m.session = true → leAt p 0 2 = 1 → p.length = 16 → zeroAt m 2 8 = true →
      let t := s.inHand n 0x0902 m; let r := readAccess t (.test m.session) (leAt p 8 8) 4
      exec (.testRead m) s = .next (drain (done r.1 n (leBytes 4 r.2.toNat))))
    ∧ (Served s n 0x0A01 m → let t := s.inHand n 0x0A01 m
      s.hub.takeover = false → p.length = 4 → 0 < leAt p 0 4 → leAt p 0 4 ≤ 48 * 2 ^ 20 →
        (s.hub.sec.fw = none → exec (.fwBegin m) s = .next (done (t.modSec fun x => { x with fw := some ⟨m.session, leAt p 0 4, []⟩ }) n []))
        ∧ (∀ f, s.hub.sec.fw = some f → f.session ≠ m.session → exec (.fwBegin m) s = .next (deny t n 0x0200)))
    ∧ (∀ f, s.hub.sec.fw = some f → f.session = m.session →
      (Served s n 0x0A02 m → let t := s.inHand n 0x0A02 m
        9 ≤ p.length → p.length ≤ 4040 → zeroAt m 4 8 = true → leAt p 0 4 + (p.length - 8) ≤ f.len →
          exec (.fwWrite m) s = .next (done (t.modSec fun x => { x with fw := some { f with data := memWrite f.data (leAt p 0 4) (p.drop 8) } }) n []))
      ∧ (Served s n 0x0A03 m → let t := s.inHand n 0x0A03 m; let img := memRead f.data 0 f.len; let r := s.hub.sec.imageReason img
        p = [] →
          exec (.fwCommit m) s = .next (if r = 0 then done (t.modSec fun x => (x.commit img).extend 3 (fwDigest img)) n []
            else respond ((t.modSec fun x => { x with fw := none }).logHub 0x0904 [BitVec.ofNat 8 r]) n 0x0401 (leBytes 4 r))))
    ∧ (Served s n 0x0A04 m → let t := s.inHand n 0x0A04 m
      p.length = 1 → leAt p 0 1 ≤ 1 →
        ((s.hub.sec.slot (leAt p 0 1 == 1)).valid = true → exec (.fwActivate m) s = .next (drain (moduleReset (done (t.modSec fun x => { x with preferB := leAt p 0 1 == 1 }) n []))) ∧ down (exec (.fwActivate m) s)
          ∧ ∃ u, exec (.fwActivate m) s = .next u ∧ u.hub.sec.preferB = (leAt p 0 1 == 1))
        ∧ ((s.hub.sec.slot (leAt p 0 1 == 1)).valid = false → exec (.fwActivate m) s = .next (respond t n 0x0401 (leBytes 4 7))))

/-- Words laid out by hand from the tables of fields give their instructions, and a word with a reserved opcode, a set reserved bit or a reserved field gives none (R170 to R173, R176 to R195). -/
def Obligations.KnownWordsDecode : Prop :=
  decodeCell 0x0000000000000000 = some (⟨0, false⟩, .nop)
  ∧ decodeCell 0x0150000000000000 = some (⟨2, true⟩, .halt)
  ∧ decodeCell 0x020010000A00000A = some (⟨0, false⟩, .loop ⟨1, false, 0, 5, 10⟩)
  ∧ decodeCell 0x12000D0000FFFFFF = some (⟨0, false⟩, .addi 3 4 0xFFFFFF)
  ∧ decodeCell 0x1800105500000000 = some (⟨0, false⟩, .cmp ⟨2, 1, 5, false, 4, 0⟩)
  ∧ decodeCell 0x2000201803F80000 = some (⟨0, false⟩, .wload ⟨1, 0, 0, false, 6, 0, false, 0, 127, false⟩)
  ∧ decodeCell 0x3000280000000000 = some (⟨0, false⟩, .aclr 2 true)
  ∧ decodeCell 0x4000048D02A80007 = some (⟨0, false⟩, .vec .add ⟨false, false, 1, 2, 3, 4, 0, 0xA, 0xA, false, 0, 0, 7⟩)
  ∧ decodeCell 0x5200095A60110000 = some (⟨0, false⟩, .put ⟨2, 5, 6, true, 3, 0x11, 0⟩)
  ∧ decodeCell 0x6000049980000000 = some (⟨0, false⟩, .csend ⟨1, 2, 1, true, 3⟩)
  ∧ decodeCell 0x7000000000000000 = none ∧ decodeCell 0x0000000000000001 = none ∧ decodeCell 0x3000300000000000 = none

/-- Every instruction that the first stage accepts has a word that decodes to it with every operand: no bit of an encoding is dropped (R170 to R195). A word that decodes is the word of what it decodes to: two words never stand for one instruction, and no reserved bit is ignored (R171, R173). -/
def Obligations.EncodedInstructionsDecode : Prop :=
  (∀ (p : Pred) (op : CellOp), stage1 op = true → decodeCell (encodeCell p op) = some (p, op))
  ∧ (∀ (w : DWord) (p : Pred) (op : CellOp), decodeCell w = some (p, op) → encodeCell p op = w ∧ stage1 op = true)

/-- The state after power-on holds the values that the specification gives for reset: no identifier and no clock source port, the cap of 15.6 kW, point 0 with the cap point 5, the reset cause 1, ports disabled, regions asleep and scrub-pending, tags of A, B and W, the density threshold of one half, P0 true, registers, cues and memories zero, no job, no traffic and no record (R84, R103, R142, R168, R241, R268, R298, R382, R406, R456). -/
def Obligations.ResetHoldsTheStatedValues : Prop :=
  let s := State.reset
  s.hub.fab.moduleId = 0xFFF ∧ s.hub.fab.srcPort = 63 ∧ s.hub.pwr.cap = 624 ∧ s.hub.clk.cause = 1 ∧ s.hub.clk.hubReady = false ∧ s.hub.clk.warmCount = 0
  ∧ (∀ r, (s.rgn r).state = 0 ∧ (s.rgn r).scrubPending = true ∧ (s.rgn r).heldReady = false ∧ (s.rgn r).detour = false ∧ (s.rgn r).linkUp = 0 ∧ (s.rgn r).linkErr = 0 ∧ (s.rgn r).tick = 0)
  ∧ (∀ r, (s.rpwr r).point = 0 ∧ (s.rpwr r).capPoint = 5 ∧ (s.rpwr r).thermal = 11 ∧ (s.rpwr r).droopCeil = 11)
  ∧ (∀ p, (s.port p).state = 0 ∧ (s.port p).peerIdent = 0xFFF ∧ (s.port p).peerValid = false)
  ∧ (∀ i, (s.cue i).value = 0 ∧ (s.cue i).armed = false ∧ (s.cue i).action = 0)
  ∧ (∀ k, (s.cell k).seq.pc = 0 ∧ (s.cell k).seq.state = 0 ∧ (s.cell k).seq.p = 1 ∧ (∀ a, (s.cell k).seq.reg a = 0) ∧ (s.cell k).map = ⟨0, 1, 2⟩ ∧ (s.cell k).regs.threshold = 0x80
    ∧ (s.cell k).full = 0 ∧ ∀ x, memGet (s.cell k).mem x = 0)
  ∧ s.jobs = [] ∧ s.flights = [] ∧ s.pending = [] ∧ s.flt.ring = [] ∧ s.memOk = true

/-- Every step keeps the canonical form of every byte memory: HBM, scratchpads with frames, and instruction stores, so that equal memories are equal data. -/
def Obligations.StepsKeepMemoriesCanonical : Prop :=
  ∀ (s t : State), s.memOk = true → step s = .next t → t.memOk = true
end

