-- ==== Sys2Proof/Laws/Mem.lean ====
section
/-! SUPPORT. Laws of the sparse maps and byte memories: read after write, and that every operation keeps the canonical form. -/
namespace Sys2Proof.Machine

section Maps
variable {α : Type}

@[simp] theorem mapGet_mapPut_same (d : α) (m : SMap α) (x : Nat) (v : α) : mapGet d (mapPut m x v) x = v := by
  induction m with
  | nil => simp [mapPut, mapGet]
  | cons h t ih =>
    obtain ⟨k, w⟩ := h
    simp only [mapPut]
    split
    · simp [mapGet]
    · split
      · simp [mapGet]
      · rename_i h1 h2
        simp [mapGet, h1, h2, ih]

theorem mapGet_mapPut_other (d : α) (m : SMap α) {x y : Nat} (v : α) (h : y ≠ x) : mapGet d (mapPut m x v) y = mapGet d m y := by
  induction m with
  | nil => simp [mapPut, mapGet, h]
  | cons e t ih =>
    obtain ⟨k, w⟩ := e
    simp only [mapPut]
    split
    · rename_i h1
      simp only [mapGet, h, if_false]
      split
      · rename_i h2
        have h3 : y ≠ k := by omega
        have h4 : y < k := by omega
        simp [h3, h4]
      · rfl
    · split
      · rename_i h1 h2
        subst h2
        simp [mapGet, h]
      · simp only [mapGet, ih]

@[simp] theorem mapPut_mapPut (m : SMap α) (x : Nat) (v w : α) : mapPut (mapPut m x v) x w = mapPut m x w := by
  induction m with
  | nil => simp [mapPut]
  | cons e t ih =>
    obtain ⟨k, u⟩ := e
    simp only [mapPut]
    split
    · simp [mapPut]
    · split
      · simp [mapPut]
      · rename_i h1 h2
        simp [mapPut, h1, h2, ih]

variable [DecidableEq α]

/-- A key below the least one that the form allows reads as the default. -/
theorem mapGet_below {d : α} {m : SMap α} {lo x : Nat} (h : mapWfFrom d lo m = true) (hx : x < lo) : mapGet d m x = d := by
  cases m with
  | nil => rfl
  | cons e t =>
    obtain ⟨k, w⟩ := e
    simp only [mapWfFrom, Bool.and_eq_true, decide_eq_true_eq] at h
    have h1 : x ≠ k := by omega
    have h2 : x < k := by omega
    simp [mapGet, h1, h2]

theorem mapWfFrom_mono {d : α} {m : SMap α} {lo lo' : Nat} (h : mapWfFrom d lo m = true) (hl : lo' ≤ lo) : mapWfFrom d lo' m = true := by
  cases m with
  | nil => rfl
  | cons e t =>
    obtain ⟨k, w⟩ := e
    simp only [mapWfFrom, Bool.and_eq_true, decide_eq_true_eq] at h ⊢
    exact ⟨⟨by omega, h.1.2⟩, h.2⟩

theorem mapSet_wfFrom {d : α} {m : SMap α} {lo x : Nat} (v : α) (h : mapWfFrom d lo m = true) (hx : lo ≤ x) :
    mapWfFrom d lo (mapSet d m x v) = true := by
  induction m generalizing lo with
  | nil =>
    simp only [mapSet]
    split
    · rfl
    · simp_all [mapWfFrom]
  | cons e t ih =>
    obtain ⟨k, w⟩ := e
    simp only [mapWfFrom, Bool.and_eq_true, decide_eq_true_eq] at h
    simp only [mapSet]
    split
    · split
      · simp_all [mapWfFrom]
      · simp only [mapWfFrom, Bool.and_eq_true, decide_eq_true_eq]
        exact ⟨⟨hx, by assumption⟩, ⟨by omega, h.1.2⟩, h.2⟩
    · split
      · split
        · exact mapWfFrom_mono h.2 (by omega)
        · rename_i h2 _
          subst h2
          simp_all [mapWfFrom]
      · simp only [mapWfFrom, Bool.and_eq_true, decide_eq_true_eq]
        exact ⟨h.1, ih h.2 (by omega)⟩

/-- A write keeps the canonical form. -/
theorem mapSet_wf {d : α} {m : SMap α} (x : Nat) (v : α) (h : mapWf d m = true) : mapWf d (mapSet d m x v) = true :=
  mapSet_wfFrom v h (Nat.zero_le _)

theorem mapGet_mapSet_from {d : α} {m : SMap α} {lo : Nat} (x y : Nat) (v : α) (h : mapWfFrom d lo m = true) :
    mapGet d (mapSet d m x v) y = if y = x then v else mapGet d m y := by
  induction m generalizing lo with
  | nil =>
    simp only [mapSet]
    split
    · by_cases hy : y = x <;> simp_all [mapGet]
    · by_cases hy : y = x <;> simp [mapGet, hy]
  | cons e t ih =>
    obtain ⟨k, w⟩ := e
    simp only [mapWfFrom, Bool.and_eq_true, decide_eq_true_eq] at h
    have ht := ih h.2
    by_cases h1 : x < k
    · by_cases hv : v = d
      · by_cases hy : y = x
        · have h3 : y ≠ k := by omega
          have h4 : y < k := by omega
          simp [mapSet, h1, hv, hy, mapGet, show x ≠ k by omega]
        · simp [mapSet, h1, hv, hy]
      · by_cases hy : y = x
        · simp [mapSet, h1, hv, mapGet, hy]
        · by_cases h5 : y < x
          · simp [mapSet, h1, hv, mapGet, hy, h5, show y ≠ k by omega, show y < k by omega]
          · simp [mapSet, h1, hv, mapGet, hy, h5]
    · by_cases h2 : x = k
      · subst h2
        by_cases hv : v = d
        · by_cases hy : y = x
          · subst hy
            simp [mapSet, hv, mapGet_below h.2 (Nat.lt_succ_self y)]
          · by_cases h5 : y < x
            · simp [mapSet, hv, mapGet, hy, h5, mapGet_below h.2 (Nat.lt_succ_of_lt h5)]
            · simp [mapSet, hv, mapGet, hy, h5]
        · by_cases hy : y = x
          · simp [mapSet, hv, mapGet, hy]
          · simp [mapSet, hv, mapGet, hy]
      · simp only [mapSet, h1, h2, if_false, mapGet, ht]
        by_cases hy : y = k
        · subst hy
          simp [show y ≠ x by omega]
        · by_cases h5 : y < k
          · simp [hy, h5, show y ≠ x by omega]
          · simp [hy, h5]

/-- Read after write: the written key gives the value, every other key what it gave before. -/
theorem mapGet_mapSet {d : α} {m : SMap α} (x y : Nat) (v : α) (h : mapWf d m = true) :
    mapGet d (mapSet d m x v) y = if y = x then v else mapGet d m y :=
  mapGet_mapSet_from x y v h

theorem mapWfFrom_filter {d : α} (p : Nat → Bool) {m : SMap α} {lo : Nat} (h : mapWfFrom d lo m = true) :
    mapWfFrom d lo (m.filter fun kv => p kv.1) = true := by
  induction m generalizing lo with
  | nil => rfl
  | cons e t ih =>
    obtain ⟨k, w⟩ := e
    simp only [mapWfFrom, Bool.and_eq_true, decide_eq_true_eq] at h
    simp only [List.filter_cons]
    split
    · simp only [mapWfFrom, Bool.and_eq_true, decide_eq_true_eq]
      exact ⟨h.1, ih h.2⟩
    · exact mapWfFrom_mono (ih h.2) (by omega)

theorem mapGet_filter {d : α} (p : Nat → Bool) {m : SMap α} {lo : Nat} (y : Nat) (h : mapWfFrom d lo m = true) :
    mapGet d (m.filter fun kv => p kv.1) y = if p y then mapGet d m y else d := by
  induction m generalizing lo with
  | nil => simp [mapGet]
  | cons e t ih =>
    obtain ⟨k, w⟩ := e
    simp only [mapWfFrom, Bool.and_eq_true, decide_eq_true_eq] at h
    have hi := ih h.2
    simp only [List.filter_cons]
    by_cases hy : y = k
    · subst hy
      by_cases hp : p y
      · simp [hp, mapGet]
      · simp [hp, hi]
    · by_cases h5 : y < k
      · have hb := mapGet_below h.2 (Nat.lt_succ_of_lt h5)
        by_cases hp : p k
        · simp [hp, mapGet, hy, h5]
        · simp [hp, hi, hb, mapGet, hy, h5]
      · by_cases hp : p k
        · simp [hp, mapGet, hy, h5, hi]
        · simp [hp, hi, mapGet, hy, h5]

/-- Removing keys keeps the canonical form. -/
theorem mapDrop_wf {d : α} (p : Nat → Bool) {m : SMap α} (h : mapWf d m = true) : mapWf d (mapDrop p m) = true :=
  mapWfFrom_filter (fun k => !p k) h

theorem mapGet_mapDrop {d : α} (p : Nat → Bool) {m : SMap α} (y : Nat) (h : mapWf d m = true) :
    mapGet d (mapDrop p m) y = if p y then d else mapGet d m y := by
  have := mapGet_filter (d := d) (fun k => !p k) y h
  rw [mapDrop, this]
  cases p y <;> simp

theorem mapWfFrom_append {d : α} {a b : SMap α} {lo mid : Nat} (ha : mapWfFrom d lo a = true) (hb : mapWfFrom d mid b = true)
    (hl : lo ≤ mid) (hk : ∀ e ∈ a, e.1 < mid) : mapWfFrom d lo (a ++ b) = true := by
  induction a generalizing lo with
  | nil => exact mapWfFrom_mono hb hl
  | cons e t ih =>
    obtain ⟨k, w⟩ := e
    simp only [mapWfFrom, Bool.and_eq_true, decide_eq_true_eq] at ha
    simp only [List.cons_append, mapWfFrom, Bool.and_eq_true, decide_eq_true_eq]
    exact ⟨ha.1, ih ha.2 (hk (k, w) (by simp)) fun e he => hk e (by simp [he])⟩

theorem mapGet_append {d : α} {a b : SMap α} {lo mid : Nat} (y : Nat) (ha : mapWfFrom d lo a = true) (hb : mapWfFrom d mid b = true)
    (hk : ∀ e ∈ a, e.1 < mid) : mapGet d (a ++ b) y = if y < mid then mapGet d a y else mapGet d b y := by
  induction a generalizing lo with
  | nil =>
    by_cases h : y < mid
    · simp [h, mapGet, mapGet_below hb h]
    · simp [h]
  | cons e t ih =>
    obtain ⟨k, w⟩ := e
    simp only [mapWfFrom, Bool.and_eq_true, decide_eq_true_eq] at ha
    have hi := ih ha.2 fun e he => hk e (by simp [he])
    have hkm : k < mid := hk (k, w) (by simp)
    simp only [List.cons_append, mapGet, hi]
    by_cases h : y < mid
    · simp [h]
    · simp [h, show y ≠ k by omega, show ¬ y < k by omega]

end Maps

/-! Byte memories. -/

theorem memCells_wfFrom (a lo : Nat) (bs : List Byte) (h : lo ≤ a) : mapWfFrom (0 : Byte) lo (memCells a bs) = true := by
  induction bs generalizing a lo with
  | nil => rfl
  | cons b t ih =>
    simp only [memCells]
    split
    · exact ih (a + 1) lo (by omega)
    · simp only [mapWfFrom, Bool.and_eq_true, decide_eq_true_eq]
      exact ⟨⟨h, by assumption⟩, ih (a + 1) (a + 1) (Nat.le_refl _)⟩

theorem memCells_keys (a : Nat) (bs : List Byte) : ∀ e ∈ memCells a bs, a ≤ e.1 ∧ e.1 < a + bs.length := by
  induction bs generalizing a with
  | nil => simp [memCells]
  | cons b t ih =>
    intro e he
    simp only [memCells] at he
    split at he
    · have := ih (a + 1) e he
      simp only [List.length_cons]
      omega
    · simp only [List.mem_cons] at he
      rcases he with rfl | he
      · simp
      · have := ih (a + 1) e he
        simp only [List.length_cons]
        omega

theorem mapGet_memCells (a : Nat) (bs : List Byte) (y : Nat) :
    mapGet (0 : Byte) (memCells a bs) y = if a ≤ y then bs.getD (y - a) 0 else 0 := by
  induction bs generalizing a with
  | nil => simp [memCells, mapGet]
  | cons b t ih =>
    simp only [memCells]
    split
    · rename_i hb
      rw [ih]
      by_cases h : a ≤ y
      · by_cases h2 : a + 1 ≤ y
        · obtain ⟨n, rfl⟩ : ∃ n, y = a + 1 + n := ⟨y - (a + 1), by omega⟩
          simp [show a ≤ a + 1 + n by omega, show a + 1 + n - a = n + 1 by omega, show a + 1 + n - (a + 1) = n by omega]
        · have : y = a := by omega
          subst this
          simp [hb, h2]
      · simp [h, show ¬ a + 1 ≤ y by omega]
    · simp only [mapGet, ih]
      by_cases h : y = a
      · subst h; simp
      · by_cases h2 : a ≤ y
        · obtain ⟨n, rfl⟩ : ∃ n, y = a + 1 + n := ⟨y - (a + 1), by omega⟩
          simp [show ¬ a + 1 + n = a by omega, show ¬ a + 1 + n < a by omega, show a + 1 + n - a = n + 1 by omega, show a + 1 + n - (a + 1) = n by omega, show a ≤ a + 1 + n by omega]
        · simp [h, h2, show y < a by omega]

/-- Storing bytes keeps the canonical form. -/
theorem memWrite_wf {m : Memory} (a : Nat) (bs : List Byte) (h : memWf m = true) : memWf (memWrite m a bs) = true := by
  have h1 : mapWfFrom (0 : Byte) 0 (m.filter fun kv => Nat.blt kv.1 a) = true := mapWfFrom_filter (fun k => Nat.blt k a) h
  have h3 : mapWfFrom (0 : Byte) (a + bs.length) (m.filter fun kv => Nat.ble (a + bs.length) kv.1) = true := by
    have h4 : ∀ (m : Memory) (lo : Nat), mapWfFrom (0 : Byte) lo m = true →
        mapWfFrom (0 : Byte) (a + bs.length) (m.filter fun kv => Nat.ble (a + bs.length) kv.1) = true := by
      intro m
      induction m with
      | nil => intro _ _; rfl
      | cons e t ih =>
        intro lo hm
        obtain ⟨k, w⟩ := e
        simp only [mapWfFrom, Bool.and_eq_true, decide_eq_true_eq] at hm
        simp only [List.filter_cons]
        split
        · rename_i hk
          have hk' : a + bs.length ≤ k := Nat.le_of_ble_eq_true hk
          have := mapWfFrom_filter (d := (0 : Byte)) (fun k => Nat.ble (a + bs.length) k) hm.2
          simp only [mapWfFrom, Bool.and_eq_true, decide_eq_true_eq]
          exact ⟨⟨hk', hm.1.2⟩, this⟩
        · exact ih (k + 1) hm.2
    exact h4 m 0 h
  have h12 : mapWfFrom (0 : Byte) 0 ((m.filter fun kv => Nat.blt kv.1 a) ++ memCells a bs) = true :=
    mapWfFrom_append h1 (memCells_wfFrom a a bs (Nat.le_refl _)) (Nat.zero_le _) fun e he => by
      have := (List.mem_filter.mp he).2
      simpa [Nat.blt_eq] using this
  exact mapWfFrom_append h12 h3 (Nat.zero_le _) fun e he => by
    rcases List.mem_append.mp he with he | he
    · have := (List.mem_filter.mp he).2
      have : e.1 < a := by simpa [Nat.blt_eq] using this
      omega
    · have := memCells_keys a bs e he
      omega

/-- Read after a store: the stored bytes, and every other byte as before. -/
theorem memGet_memWrite {m : Memory} (a : Nat) (bs : List Byte) (y : Nat) (h : memWf m = true) :
    memGet (memWrite m a bs) y = if a ≤ y ∧ y < a + bs.length then bs.getD (y - a) 0 else memGet m y := by
  have h1 : mapWfFrom (0 : Byte) 0 (m.filter fun kv => Nat.blt kv.1 a) = true := mapWfFrom_filter (fun k => Nat.blt k a) h
  have hk1 : ∀ e ∈ m.filter (fun kv => Nat.blt kv.1 a), e.1 < a := fun e he => by
    have := (List.mem_filter.mp he).2
    simpa [Nat.blt_eq] using this
  have h2 := memCells_wfFrom a a bs (Nat.le_refl _)
  have h12 := mapWfFrom_append h1 h2 (Nat.zero_le _) hk1
  have h3 : mapWfFrom (0 : Byte) 0 (m.filter fun kv => Nat.ble (a + bs.length) kv.1) = true := mapWfFrom_filter (fun k => Nat.ble (a + bs.length) k) h
  have g1 := mapGet_append (d := (0 : Byte)) y h1 h2 hk1
  have g3 := mapGet_filter (d := (0 : Byte)) (fun k => Nat.ble (a + bs.length) k) y h
  have gf := mapGet_filter (d := (0 : Byte)) (fun k => Nat.blt k a) y h
  have hk12 : ∀ e ∈ (m.filter fun kv => Nat.blt kv.1 a) ++ memCells a bs, e.1 < a + bs.length := fun e he => by
    rcases List.mem_append.mp he with he | he
    · have := hk1 e he; omega
    · exact (memCells_keys a bs e he).2
  have h3' : mapWfFrom (0 : Byte) (a + bs.length) (m.filter fun kv => Nat.ble (a + bs.length) kv.1) = true := by
    have h4 : ∀ (l : Memory) (lo : Nat), mapWfFrom (0 : Byte) lo l = true → (∀ e ∈ l, a + bs.length ≤ e.1) → mapWfFrom (0 : Byte) (a + bs.length) l = true := by
      intro l lo hl hk
      cases l with
      | nil => rfl
      | cons e t =>
        obtain ⟨k, w⟩ := e
        simp only [mapWfFrom, Bool.and_eq_true, decide_eq_true_eq] at hl ⊢
        exact ⟨⟨hk (k, w) (by simp), hl.1.2⟩, hl.2⟩
    exact h4 _ 0 h3 fun e he => Nat.le_of_ble_eq_true (List.mem_filter.mp he).2
  have g := mapGet_append (d := (0 : Byte)) y h12 h3' hk12
  simp only [memGet, memWrite, g, g1, g3, gf, mapGet_memCells]
  by_cases ha : y < a
  · simp [show y < a + bs.length by omega, ha, show ¬ a ≤ y by omega, Nat.blt_eq]
  · by_cases hb : y < a + bs.length
    · simp [hb, ha, show a ≤ y by omega]
    · simp [hb, Nat.ble_eq, show a + bs.length ≤ y by omega]

/-- Storing one byte keeps the canonical form. -/
theorem memSet_wf {m : Memory} (a : Nat) (b : Byte) (h : memWf m = true) : memWf (memSet m a b) = true := mapSet_wf a b h

theorem memGet_memSet {m : Memory} (a y : Nat) (b : Byte) (h : memWf m = true) : memGet (memSet m a b) y = if y = a then b else memGet m y :=
  mapGet_mapSet a y b h

/-- Zeroing a range keeps the canonical form. -/
theorem memZero_wf {m : Memory} (a e : Nat) (h : memWf m = true) : memWf (memZero m a e) = true := mapDrop_wf _ h

theorem memGet_memZero {m : Memory} (a e y : Nat) (h : memWf m = true) : memGet (memZero m a e) y = if a ≤ y ∧ y < e then 0 else memGet m y := by
  have := mapGet_mapDrop (d := (0 : Byte)) (fun k => decide (a ≤ k) && decide (k < e)) y h
  simpa [memGet, memZero] using this

theorem memSpan_eq (m : Memory) (a n lo : Nat) (hl : lo = a) (h : mapWfFrom (0 : Byte) lo m = true) :
    memSpan m a n = (List.range' a n).map fun i => memGet m i := by
  subst hl
  induction n generalizing m lo with
  | zero => cases m <;> simp [memSpan]
  | succ n ih =>
    cases m with
    | nil =>
      have := ih [] (lo + 1) rfl
      simp only [memSpan, this, List.range'_succ, List.map_cons]
      simp [memGet, mapGet]
    | cons e t =>
      obtain ⟨k, w⟩ := e
      have hw := h
      simp only [mapWfFrom, Bool.and_eq_true, decide_eq_true_eq] at h
      simp only [memSpan, List.range'_succ, List.map_cons]
      split
      · rename_i hk
        subst hk
        rw [ih t (k + 1) h.2]
        simp only [memGet, mapGet, if_true, List.cons.injEq, true_and]
        refine List.map_congr_left fun i hi => ?_
        have := (List.mem_range'_1.mp hi).1
        simp [show ¬ i = k by omega, show ¬ i < k by omega]
      · rename_i hk
        rw [ih ((k, w) :: t) (lo + 1) (by
          simp only [mapWfFrom, Bool.and_eq_true, decide_eq_true_eq]
          exact ⟨⟨by omega, h.1.2⟩, h.2⟩)]
        simp [memGet, mapGet, show ¬ lo = k by omega, show lo < k by omega]

/-- A read of a range gives its bytes one after another. -/
theorem memRead_eq {m : Memory} (a n : Nat) (h : memWf m = true) : memRead m a n = (List.range' a n).map fun i => memGet m i := by
  have hf : mapWfFrom (0 : Byte) a (m.filter fun kv => Nat.ble a kv.1) = true := by
    have h0 : mapWfFrom (0 : Byte) 0 (m.filter fun kv => Nat.ble a kv.1) = true := mapWfFrom_filter (fun k => Nat.ble a k) h
    have hk : ∀ e ∈ m.filter (fun kv => Nat.ble a kv.1), a ≤ e.1 := fun e he => Nat.le_of_ble_eq_true (List.mem_filter.mp he).2
    revert h0 hk
    generalize m.filter (fun kv => Nat.ble a kv.1) = l
    intro h0 hk
    cases l with
    | nil => rfl
    | cons e t =>
      obtain ⟨k, w⟩ := e
      simp only [mapWfFrom, Bool.and_eq_true, decide_eq_true_eq] at h0 ⊢
      exact ⟨⟨hk (k, w) (by simp), h0.1.2⟩, h0.2⟩
  rw [memRead, memSpan_eq _ a n a rfl hf]
  refine List.map_congr_left fun i hi => ?_
  have hi' := (List.mem_range'_1.mp hi).1
  have := mapGet_filter (d := (0 : Byte)) (fun k => Nat.ble a k) i h
  simp only [memGet, this, Nat.ble_eq, hi', if_true]

end Sys2Proof.Machine
end

