-- ==== Sys2Proof/Laws/State.lean ====
section
/-! SUPPORT. One lemma per field per update of the state, and what each update gives. -/
namespace Sys2Proof.Machine

/-! setCell changes cells only. -/

section setCell
variable (s : State) (k : Nat) (c : Cell)
@[simp] theorem State.setCell_pending : (s.setCell k c).pending = s.pending := rfl
@[simp] theorem State.setCell_blocks : (s.setCell k c).blocks = s.blocks := rfl
@[simp] theorem State.setCell_regions : (s.setCell k c).regions = s.regions := rfl
@[simp] theorem State.setCell_cues : (s.setCell k c).cues = s.cues := rfl
@[simp] theorem State.setCell_hbm : (s.setCell k c).hbm = s.hbm := rfl
@[simp] theorem State.setCell_flights : (s.setCell k c).flights = s.flights := rfl
@[simp] theorem State.setCell_nextId : (s.setCell k c).nextId = s.nextId := rfl
@[simp] theorem State.setCell_jobs : (s.setCell k c).jobs = s.jobs := rfl
@[simp] theorem State.setCell_flt : (s.setCell k c).flt = s.flt := rfl
@[simp] theorem State.setCell_hub : (s.setCell k c).hub = s.hub := rfl
@[simp] theorem State.setCell_out : (s.setCell k c).out = s.out := rfl
@[simp] theorem State.setCell_fresh : (s.setCell k c).fresh = s.fresh := rfl
end setCell

/-! modCell changes cells only. -/

section modCell
variable (s : State) (k : Nat) (f : Cell → Cell)
@[simp] theorem State.modCell_pending : (s.modCell k f).pending = s.pending := rfl
@[simp] theorem State.modCell_blocks : (s.modCell k f).blocks = s.blocks := rfl
@[simp] theorem State.modCell_regions : (s.modCell k f).regions = s.regions := rfl
@[simp] theorem State.modCell_cues : (s.modCell k f).cues = s.cues := rfl
@[simp] theorem State.modCell_hbm : (s.modCell k f).hbm = s.hbm := rfl
@[simp] theorem State.modCell_flights : (s.modCell k f).flights = s.flights := rfl
@[simp] theorem State.modCell_nextId : (s.modCell k f).nextId = s.nextId := rfl
@[simp] theorem State.modCell_jobs : (s.modCell k f).jobs = s.jobs := rfl
@[simp] theorem State.modCell_flt : (s.modCell k f).flt = s.flt := rfl
@[simp] theorem State.modCell_hub : (s.modCell k f).hub = s.hub := rfl
@[simp] theorem State.modCell_out : (s.modCell k f).out = s.out := rfl
@[simp] theorem State.modCell_fresh : (s.modCell k f).fresh = s.fresh := rfl
end modCell

/-! modBlk changes blocks only. -/

section modBlk
variable (s : State) (k : Nat) (f : Block → Block)
@[simp] theorem State.modBlk_pending : (s.modBlk k f).pending = s.pending := rfl
@[simp] theorem State.modBlk_cells : (s.modBlk k f).cells = s.cells := rfl
@[simp] theorem State.modBlk_regions : (s.modBlk k f).regions = s.regions := rfl
@[simp] theorem State.modBlk_cues : (s.modBlk k f).cues = s.cues := rfl
@[simp] theorem State.modBlk_hbm : (s.modBlk k f).hbm = s.hbm := rfl
@[simp] theorem State.modBlk_flights : (s.modBlk k f).flights = s.flights := rfl
@[simp] theorem State.modBlk_nextId : (s.modBlk k f).nextId = s.nextId := rfl
@[simp] theorem State.modBlk_jobs : (s.modBlk k f).jobs = s.jobs := rfl
@[simp] theorem State.modBlk_flt : (s.modBlk k f).flt = s.flt := rfl
@[simp] theorem State.modBlk_hub : (s.modBlk k f).hub = s.hub := rfl
@[simp] theorem State.modBlk_out : (s.modBlk k f).out = s.out := rfl
@[simp] theorem State.modBlk_fresh : (s.modBlk k f).fresh = s.fresh := rfl
end modBlk

/-! modRgn changes regions only. -/

section modRgn
variable (s : State) (r : Nat) (f : Region → Region)
@[simp] theorem State.modRgn_pending : (s.modRgn r f).pending = s.pending := rfl
@[simp] theorem State.modRgn_cells : (s.modRgn r f).cells = s.cells := rfl
@[simp] theorem State.modRgn_blocks : (s.modRgn r f).blocks = s.blocks := rfl
@[simp] theorem State.modRgn_cues : (s.modRgn r f).cues = s.cues := rfl
@[simp] theorem State.modRgn_hbm : (s.modRgn r f).hbm = s.hbm := rfl
@[simp] theorem State.modRgn_flights : (s.modRgn r f).flights = s.flights := rfl
@[simp] theorem State.modRgn_nextId : (s.modRgn r f).nextId = s.nextId := rfl
@[simp] theorem State.modRgn_jobs : (s.modRgn r f).jobs = s.jobs := rfl
@[simp] theorem State.modRgn_flt : (s.modRgn r f).flt = s.flt := rfl
@[simp] theorem State.modRgn_hub : (s.modRgn r f).hub = s.hub := rfl
@[simp] theorem State.modRgn_out : (s.modRgn r f).out = s.out := rfl
@[simp] theorem State.modRgn_fresh : (s.modRgn r f).fresh = s.fresh := rfl
end modRgn

/-! setCue changes cues only. -/

section setCue
variable (s : State) (i : Nat) (c : Cue)
@[simp] theorem State.setCue_pending : (s.setCue i c).pending = s.pending := rfl
@[simp] theorem State.setCue_cells : (s.setCue i c).cells = s.cells := rfl
@[simp] theorem State.setCue_blocks : (s.setCue i c).blocks = s.blocks := rfl
@[simp] theorem State.setCue_regions : (s.setCue i c).regions = s.regions := rfl
@[simp] theorem State.setCue_hbm : (s.setCue i c).hbm = s.hbm := rfl
@[simp] theorem State.setCue_flights : (s.setCue i c).flights = s.flights := rfl
@[simp] theorem State.setCue_nextId : (s.setCue i c).nextId = s.nextId := rfl
@[simp] theorem State.setCue_jobs : (s.setCue i c).jobs = s.jobs := rfl
@[simp] theorem State.setCue_flt : (s.setCue i c).flt = s.flt := rfl
@[simp] theorem State.setCue_hub : (s.setCue i c).hub = s.hub := rfl
@[simp] theorem State.setCue_out : (s.setCue i c).out = s.out := rfl
@[simp] theorem State.setCue_fresh : (s.setCue i c).fresh = s.fresh := rfl
end setCue

/-! emit changes out only. -/

section emit
variable (s : State) (o : Out)
@[simp] theorem State.emit_pending : (s.emit o).pending = s.pending := rfl
@[simp] theorem State.emit_cells : (s.emit o).cells = s.cells := rfl
@[simp] theorem State.emit_blocks : (s.emit o).blocks = s.blocks := rfl
@[simp] theorem State.emit_regions : (s.emit o).regions = s.regions := rfl
@[simp] theorem State.emit_cues : (s.emit o).cues = s.cues := rfl
@[simp] theorem State.emit_hbm : (s.emit o).hbm = s.hbm := rfl
@[simp] theorem State.emit_flights : (s.emit o).flights = s.flights := rfl
@[simp] theorem State.emit_nextId : (s.emit o).nextId = s.nextId := rfl
@[simp] theorem State.emit_jobs : (s.emit o).jobs = s.jobs := rfl
@[simp] theorem State.emit_flt : (s.emit o).flt = s.flt := rfl
@[simp] theorem State.emit_hub : (s.emit o).hub = s.hub := rfl
@[simp] theorem State.emit_fresh : (s.emit o).fresh = s.fresh := rfl
end emit

/-! modJob changes jobs only. -/

section modJob
variable (s : State) (id : Word) (f : Job → Job)
@[simp] theorem State.modJob_pending : (s.modJob id f).pending = s.pending := rfl
@[simp] theorem State.modJob_cells : (s.modJob id f).cells = s.cells := rfl
@[simp] theorem State.modJob_blocks : (s.modJob id f).blocks = s.blocks := rfl
@[simp] theorem State.modJob_regions : (s.modJob id f).regions = s.regions := rfl
@[simp] theorem State.modJob_cues : (s.modJob id f).cues = s.cues := rfl
@[simp] theorem State.modJob_hbm : (s.modJob id f).hbm = s.hbm := rfl
@[simp] theorem State.modJob_flights : (s.modJob id f).flights = s.flights := rfl
@[simp] theorem State.modJob_nextId : (s.modJob id f).nextId = s.nextId := rfl
@[simp] theorem State.modJob_flt : (s.modJob id f).flt = s.flt := rfl
@[simp] theorem State.modJob_hub : (s.modJob id f).hub = s.hub := rfl
@[simp] theorem State.modJob_out : (s.modJob id f).out = s.out := rfl
@[simp] theorem State.modJob_fresh : (s.modJob id f).fresh = s.fresh := rfl
end modJob

/-! toBlock changes blocks only. -/

section toBlock
variable (s : State) (k : Nat) (r : Rec)
@[simp] theorem State.toBlock_pending : (s.toBlock k r).pending = s.pending := rfl
@[simp] theorem State.toBlock_cells : (s.toBlock k r).cells = s.cells := rfl
@[simp] theorem State.toBlock_regions : (s.toBlock k r).regions = s.regions := rfl
@[simp] theorem State.toBlock_cues : (s.toBlock k r).cues = s.cues := rfl
@[simp] theorem State.toBlock_hbm : (s.toBlock k r).hbm = s.hbm := rfl
@[simp] theorem State.toBlock_flights : (s.toBlock k r).flights = s.flights := rfl
@[simp] theorem State.toBlock_nextId : (s.toBlock k r).nextId = s.nextId := rfl
@[simp] theorem State.toBlock_jobs : (s.toBlock k r).jobs = s.jobs := rfl
@[simp] theorem State.toBlock_flt : (s.toBlock k r).flt = s.flt := rfl
@[simp] theorem State.toBlock_hub : (s.toBlock k r).hub = s.hub := rfl
@[simp] theorem State.toBlock_out : (s.toBlock k r).out = s.out := rfl
@[simp] theorem State.toBlock_fresh : (s.toBlock k r).fresh = s.fresh := rfl
end toBlock

/-! toRegion changes regions only. -/

section toRegion
variable (s : State) (g : Nat) (r : Rec)
@[simp] theorem State.toRegion_pending : (s.toRegion g r).pending = s.pending := rfl
@[simp] theorem State.toRegion_cells : (s.toRegion g r).cells = s.cells := rfl
@[simp] theorem State.toRegion_blocks : (s.toRegion g r).blocks = s.blocks := rfl
@[simp] theorem State.toRegion_cues : (s.toRegion g r).cues = s.cues := rfl
@[simp] theorem State.toRegion_hbm : (s.toRegion g r).hbm = s.hbm := rfl
@[simp] theorem State.toRegion_flights : (s.toRegion g r).flights = s.flights := rfl
@[simp] theorem State.toRegion_nextId : (s.toRegion g r).nextId = s.nextId := rfl
@[simp] theorem State.toRegion_jobs : (s.toRegion g r).jobs = s.jobs := rfl
@[simp] theorem State.toRegion_flt : (s.toRegion g r).flt = s.flt := rfl
@[simp] theorem State.toRegion_hub : (s.toRegion g r).hub = s.hub := rfl
@[simp] theorem State.toRegion_out : (s.toRegion g r).out = s.out := rfl
@[simp] theorem State.toRegion_fresh : (s.toRegion g r).fresh = s.fresh := rfl
end toRegion

/-! log changes flt only. -/

section log
variable (s : State) (r : Rec)
@[simp] theorem State.log_pending : (s.log r).pending = s.pending := rfl
@[simp] theorem State.log_cells : (s.log r).cells = s.cells := rfl
@[simp] theorem State.log_blocks : (s.log r).blocks = s.blocks := rfl
@[simp] theorem State.log_regions : (s.log r).regions = s.regions := rfl
@[simp] theorem State.log_cues : (s.log r).cues = s.cues := rfl
@[simp] theorem State.log_hbm : (s.log r).hbm = s.hbm := rfl
@[simp] theorem State.log_flights : (s.log r).flights = s.flights := rfl
@[simp] theorem State.log_nextId : (s.log r).nextId = s.nextId := rfl
@[simp] theorem State.log_jobs : (s.log r).jobs = s.jobs := rfl
@[simp] theorem State.log_hub : (s.log r).hub = s.hub := rfl
@[simp] theorem State.log_out : (s.log r).out = s.out := rfl
@[simp] theorem State.log_fresh : (s.log r).fresh = s.fresh := rfl
end log

/-! logHub changes flt only. -/

section logHub
variable (s : State) (cls : Nat) (d : List Byte)
@[simp] theorem State.logHub_pending : (s.logHub cls d).pending = s.pending := rfl
@[simp] theorem State.logHub_cells : (s.logHub cls d).cells = s.cells := rfl
@[simp] theorem State.logHub_blocks : (s.logHub cls d).blocks = s.blocks := rfl
@[simp] theorem State.logHub_regions : (s.logHub cls d).regions = s.regions := rfl
@[simp] theorem State.logHub_cues : (s.logHub cls d).cues = s.cues := rfl
@[simp] theorem State.logHub_hbm : (s.logHub cls d).hbm = s.hbm := rfl
@[simp] theorem State.logHub_flights : (s.logHub cls d).flights = s.flights := rfl
@[simp] theorem State.logHub_nextId : (s.logHub cls d).nextId = s.nextId := rfl
@[simp] theorem State.logHub_jobs : (s.logHub cls d).jobs = s.jobs := rfl
@[simp] theorem State.logHub_hub : (s.logHub cls d).hub = s.hub := rfl
@[simp] theorem State.logHub_out : (s.logHub cls d).out = s.out := rfl
@[simp] theorem State.logHub_fresh : (s.logHub cls d).fresh = s.fresh := rfl
end logHub

/-! logPort changes flt only. -/

section logPort
variable (s : State) (cls port : Nat) (d : List Byte)
@[simp] theorem State.logPort_pending : (s.logPort cls port d).pending = s.pending := rfl
@[simp] theorem State.logPort_cells : (s.logPort cls port d).cells = s.cells := rfl
@[simp] theorem State.logPort_blocks : (s.logPort cls port d).blocks = s.blocks := rfl
@[simp] theorem State.logPort_regions : (s.logPort cls port d).regions = s.regions := rfl
@[simp] theorem State.logPort_cues : (s.logPort cls port d).cues = s.cues := rfl
@[simp] theorem State.logPort_hbm : (s.logPort cls port d).hbm = s.hbm := rfl
@[simp] theorem State.logPort_flights : (s.logPort cls port d).flights = s.flights := rfl
@[simp] theorem State.logPort_nextId : (s.logPort cls port d).nextId = s.nextId := rfl
@[simp] theorem State.logPort_jobs : (s.logPort cls port d).jobs = s.jobs := rfl
@[simp] theorem State.logPort_hub : (s.logPort cls port d).hub = s.hub := rfl
@[simp] theorem State.logPort_out : (s.logPort cls port d).out = s.out := rfl
@[simp] theorem State.logPort_fresh : (s.logPort cls port d).fresh = s.fresh := rfl
end logPort

/-! launch changes flights, nextId only. -/

section launch
variable (s : State) (f : Flight)
@[simp] theorem State.launch_pending : (s.launch f).pending = s.pending := rfl
@[simp] theorem State.launch_cells : (s.launch f).cells = s.cells := rfl
@[simp] theorem State.launch_blocks : (s.launch f).blocks = s.blocks := rfl
@[simp] theorem State.launch_regions : (s.launch f).regions = s.regions := rfl
@[simp] theorem State.launch_cues : (s.launch f).cues = s.cues := rfl
@[simp] theorem State.launch_hbm : (s.launch f).hbm = s.hbm := rfl
@[simp] theorem State.launch_jobs : (s.launch f).jobs = s.jobs := rfl
@[simp] theorem State.launch_flt : (s.launch f).flt = s.flt := rfl
@[simp] theorem State.launch_hub : (s.launch f).hub = s.hub := rfl
@[simp] theorem State.launch_out : (s.launch f).out = s.out := rfl
@[simp] theorem State.launch_fresh : (s.launch f).fresh = s.fresh := rfl
end launch

/-! land changes flights only. -/

section land
variable (s : State) (id : Nat)
@[simp] theorem State.land_pending : (s.land id).pending = s.pending := rfl
@[simp] theorem State.land_cells : (s.land id).cells = s.cells := rfl
@[simp] theorem State.land_blocks : (s.land id).blocks = s.blocks := rfl
@[simp] theorem State.land_regions : (s.land id).regions = s.regions := rfl
@[simp] theorem State.land_cues : (s.land id).cues = s.cues := rfl
@[simp] theorem State.land_hbm : (s.land id).hbm = s.hbm := rfl
@[simp] theorem State.land_nextId : (s.land id).nextId = s.nextId := rfl
@[simp] theorem State.land_jobs : (s.land id).jobs = s.jobs := rfl
@[simp] theorem State.land_flt : (s.land id).flt = s.flt := rfl
@[simp] theorem State.land_hub : (s.land id).hub = s.hub := rfl
@[simp] theorem State.land_out : (s.land id).out = s.out := rfl
@[simp] theorem State.land_fresh : (s.land id).fresh = s.fresh := rfl
end land

/-! modFlt changes flt only. -/

section modFlt
variable (s : State) (f : FltLog → FltLog)
@[simp] theorem State.modFlt_pending : (s.modFlt f).pending = s.pending := rfl
@[simp] theorem State.modFlt_cells : (s.modFlt f).cells = s.cells := rfl
@[simp] theorem State.modFlt_blocks : (s.modFlt f).blocks = s.blocks := rfl
@[simp] theorem State.modFlt_regions : (s.modFlt f).regions = s.regions := rfl
@[simp] theorem State.modFlt_cues : (s.modFlt f).cues = s.cues := rfl
@[simp] theorem State.modFlt_hbm : (s.modFlt f).hbm = s.hbm := rfl
@[simp] theorem State.modFlt_flights : (s.modFlt f).flights = s.flights := rfl
@[simp] theorem State.modFlt_nextId : (s.modFlt f).nextId = s.nextId := rfl
@[simp] theorem State.modFlt_jobs : (s.modFlt f).jobs = s.jobs := rfl
@[simp] theorem State.modFlt_hub : (s.modFlt f).hub = s.hub := rfl
@[simp] theorem State.modFlt_out : (s.modFlt f).out = s.out := rfl
@[simp] theorem State.modFlt_fresh : (s.modFlt f).fresh = s.fresh := rfl
end modFlt

/-! modHub changes hub only. -/

section modHub
variable (s : State) (f : Hub → Hub)
@[simp] theorem State.modHub_pending : (s.modHub f).pending = s.pending := rfl
@[simp] theorem State.modHub_cells : (s.modHub f).cells = s.cells := rfl
@[simp] theorem State.modHub_blocks : (s.modHub f).blocks = s.blocks := rfl
@[simp] theorem State.modHub_regions : (s.modHub f).regions = s.regions := rfl
@[simp] theorem State.modHub_cues : (s.modHub f).cues = s.cues := rfl
@[simp] theorem State.modHub_hbm : (s.modHub f).hbm = s.hbm := rfl
@[simp] theorem State.modHub_flights : (s.modHub f).flights = s.flights := rfl
@[simp] theorem State.modHub_nextId : (s.modHub f).nextId = s.nextId := rfl
@[simp] theorem State.modHub_jobs : (s.modHub f).jobs = s.jobs := rfl
@[simp] theorem State.modHub_flt : (s.modHub f).flt = s.flt := rfl
@[simp] theorem State.modHub_out : (s.modHub f).out = s.out := rfl
@[simp] theorem State.modHub_fresh : (s.modHub f).fresh = s.fresh := rfl
end modHub

/-! modClk changes hub only, and of the hub clk only. -/

section modClk
variable (s : State) (f : Clk → Clk)
@[simp] theorem State.modClk_pending : (s.modClk f).pending = s.pending := rfl
@[simp] theorem State.modClk_cells : (s.modClk f).cells = s.cells := rfl
@[simp] theorem State.modClk_blocks : (s.modClk f).blocks = s.blocks := rfl
@[simp] theorem State.modClk_regions : (s.modClk f).regions = s.regions := rfl
@[simp] theorem State.modClk_cues : (s.modClk f).cues = s.cues := rfl
@[simp] theorem State.modClk_hbm : (s.modClk f).hbm = s.hbm := rfl
@[simp] theorem State.modClk_flights : (s.modClk f).flights = s.flights := rfl
@[simp] theorem State.modClk_nextId : (s.modClk f).nextId = s.nextId := rfl
@[simp] theorem State.modClk_jobs : (s.modClk f).jobs = s.jobs := rfl
@[simp] theorem State.modClk_flt : (s.modClk f).flt = s.flt := rfl
@[simp] theorem State.modClk_out : (s.modClk f).out = s.out := rfl
@[simp] theorem State.modClk_fresh : (s.modClk f).fresh = s.fresh := rfl
@[simp] theorem State.modClk_hub_tick : (s.modClk f).hub.tick = s.hub.tick := rfl
@[simp] theorem State.modClk_hub_fab : (s.modClk f).hub.fab = s.hub.fab := rfl
@[simp] theorem State.modClk_hub_bkt : (s.modClk f).hub.bkt = s.hub.bkt := rfl
@[simp] theorem State.modClk_hub_eth : (s.modClk f).hub.eth = s.hub.eth := rfl
@[simp] theorem State.modClk_hub_mail : (s.modClk f).hub.mail = s.hub.mail := rfl
@[simp] theorem State.modClk_hub_pwr : (s.modClk f).hub.pwr = s.hub.pwr := rfl
@[simp] theorem State.modClk_hub_sec : (s.modClk f).hub.sec = s.hub.sec := rfl
@[simp] theorem State.modClk_hub_tst : (s.modClk f).hub.tst = s.hub.tst := rfl
@[simp] theorem State.modClk_hub_hostRgn : (s.modClk f).hub.hostRgn = s.hub.hostRgn := rfl
@[simp] theorem State.modClk_hub_takeover : (s.modClk f).hub.takeover = s.hub.takeover := rfl
@[simp] theorem State.modClk_hub_detourDue : (s.modClk f).hub.detourDue = s.hub.detourDue := rfl
@[simp] theorem State.modClk_hub_latch : (s.modClk f).hub.latch = s.hub.latch := rfl
@[simp] theorem State.modClk_hub_sramCorr : (s.modClk f).hub.sramCorr = s.hub.sramCorr := rfl
@[simp] theorem State.modClk_hub_colErrs : (s.modClk f).hub.colErrs = s.hub.colErrs := rfl
@[simp] theorem State.modClk_hub_cellFails : (s.modClk f).hub.cellFails = s.hub.cellFails := rfl
@[simp] theorem State.modClk_hub_flashCols : (s.modClk f).hub.flashCols = s.hub.flashCols := rfl
@[simp] theorem State.modClk_hub_flashCells : (s.modClk f).hub.flashCells = s.hub.flashCells := rfl
@[simp] theorem State.modClk_hub_flashBlocks : (s.modClk f).hub.flashBlocks = s.hub.flashBlocks := rfl
@[simp] theorem State.modClk_hub_flashRgns : (s.modClk f).hub.flashRgns = s.hub.flashRgns := rfl
@[simp] theorem State.modClk_hub_flashFull : (s.modClk f).hub.flashFull = s.hub.flashFull := rfl
end modClk

/-! modRclk changes hub only, and of the hub clk only. -/

section modRclk
variable (s : State) (r : Nat) (f : RgnClk → RgnClk)
@[simp] theorem State.modRclk_pending : (s.modRclk r f).pending = s.pending := rfl
@[simp] theorem State.modRclk_cells : (s.modRclk r f).cells = s.cells := rfl
@[simp] theorem State.modRclk_blocks : (s.modRclk r f).blocks = s.blocks := rfl
@[simp] theorem State.modRclk_regions : (s.modRclk r f).regions = s.regions := rfl
@[simp] theorem State.modRclk_cues : (s.modRclk r f).cues = s.cues := rfl
@[simp] theorem State.modRclk_hbm : (s.modRclk r f).hbm = s.hbm := rfl
@[simp] theorem State.modRclk_flights : (s.modRclk r f).flights = s.flights := rfl
@[simp] theorem State.modRclk_nextId : (s.modRclk r f).nextId = s.nextId := rfl
@[simp] theorem State.modRclk_jobs : (s.modRclk r f).jobs = s.jobs := rfl
@[simp] theorem State.modRclk_flt : (s.modRclk r f).flt = s.flt := rfl
@[simp] theorem State.modRclk_out : (s.modRclk r f).out = s.out := rfl
@[simp] theorem State.modRclk_fresh : (s.modRclk r f).fresh = s.fresh := rfl
@[simp] theorem State.modRclk_hub_tick : (s.modRclk r f).hub.tick = s.hub.tick := rfl
@[simp] theorem State.modRclk_hub_fab : (s.modRclk r f).hub.fab = s.hub.fab := rfl
@[simp] theorem State.modRclk_hub_bkt : (s.modRclk r f).hub.bkt = s.hub.bkt := rfl
@[simp] theorem State.modRclk_hub_eth : (s.modRclk r f).hub.eth = s.hub.eth := rfl
@[simp] theorem State.modRclk_hub_mail : (s.modRclk r f).hub.mail = s.hub.mail := rfl
@[simp] theorem State.modRclk_hub_pwr : (s.modRclk r f).hub.pwr = s.hub.pwr := rfl
@[simp] theorem State.modRclk_hub_sec : (s.modRclk r f).hub.sec = s.hub.sec := rfl
@[simp] theorem State.modRclk_hub_tst : (s.modRclk r f).hub.tst = s.hub.tst := rfl
@[simp] theorem State.modRclk_hub_hostRgn : (s.modRclk r f).hub.hostRgn = s.hub.hostRgn := rfl
@[simp] theorem State.modRclk_hub_takeover : (s.modRclk r f).hub.takeover = s.hub.takeover := rfl
@[simp] theorem State.modRclk_hub_detourDue : (s.modRclk r f).hub.detourDue = s.hub.detourDue := rfl
@[simp] theorem State.modRclk_hub_latch : (s.modRclk r f).hub.latch = s.hub.latch := rfl
@[simp] theorem State.modRclk_hub_sramCorr : (s.modRclk r f).hub.sramCorr = s.hub.sramCorr := rfl
@[simp] theorem State.modRclk_hub_colErrs : (s.modRclk r f).hub.colErrs = s.hub.colErrs := rfl
@[simp] theorem State.modRclk_hub_cellFails : (s.modRclk r f).hub.cellFails = s.hub.cellFails := rfl
@[simp] theorem State.modRclk_hub_flashCols : (s.modRclk r f).hub.flashCols = s.hub.flashCols := rfl
@[simp] theorem State.modRclk_hub_flashCells : (s.modRclk r f).hub.flashCells = s.hub.flashCells := rfl
@[simp] theorem State.modRclk_hub_flashBlocks : (s.modRclk r f).hub.flashBlocks = s.hub.flashBlocks := rfl
@[simp] theorem State.modRclk_hub_flashRgns : (s.modRclk r f).hub.flashRgns = s.hub.flashRgns := rfl
@[simp] theorem State.modRclk_hub_flashFull : (s.modRclk r f).hub.flashFull = s.hub.flashFull := rfl
end modRclk

/-! modJtag changes hub only, and of the hub clk only. -/

section modJtag
variable (s : State) (f : Jtag → Jtag)
@[simp] theorem State.modJtag_pending : (s.modJtag f).pending = s.pending := rfl
@[simp] theorem State.modJtag_cells : (s.modJtag f).cells = s.cells := rfl
@[simp] theorem State.modJtag_blocks : (s.modJtag f).blocks = s.blocks := rfl
@[simp] theorem State.modJtag_regions : (s.modJtag f).regions = s.regions := rfl
@[simp] theorem State.modJtag_cues : (s.modJtag f).cues = s.cues := rfl
@[simp] theorem State.modJtag_hbm : (s.modJtag f).hbm = s.hbm := rfl
@[simp] theorem State.modJtag_flights : (s.modJtag f).flights = s.flights := rfl
@[simp] theorem State.modJtag_nextId : (s.modJtag f).nextId = s.nextId := rfl
@[simp] theorem State.modJtag_jobs : (s.modJtag f).jobs = s.jobs := rfl
@[simp] theorem State.modJtag_flt : (s.modJtag f).flt = s.flt := rfl
@[simp] theorem State.modJtag_out : (s.modJtag f).out = s.out := rfl
@[simp] theorem State.modJtag_fresh : (s.modJtag f).fresh = s.fresh := rfl
@[simp] theorem State.modJtag_hub_tick : (s.modJtag f).hub.tick = s.hub.tick := rfl
@[simp] theorem State.modJtag_hub_fab : (s.modJtag f).hub.fab = s.hub.fab := rfl
@[simp] theorem State.modJtag_hub_bkt : (s.modJtag f).hub.bkt = s.hub.bkt := rfl
@[simp] theorem State.modJtag_hub_eth : (s.modJtag f).hub.eth = s.hub.eth := rfl
@[simp] theorem State.modJtag_hub_mail : (s.modJtag f).hub.mail = s.hub.mail := rfl
@[simp] theorem State.modJtag_hub_pwr : (s.modJtag f).hub.pwr = s.hub.pwr := rfl
@[simp] theorem State.modJtag_hub_sec : (s.modJtag f).hub.sec = s.hub.sec := rfl
@[simp] theorem State.modJtag_hub_tst : (s.modJtag f).hub.tst = s.hub.tst := rfl
@[simp] theorem State.modJtag_hub_hostRgn : (s.modJtag f).hub.hostRgn = s.hub.hostRgn := rfl
@[simp] theorem State.modJtag_hub_takeover : (s.modJtag f).hub.takeover = s.hub.takeover := rfl
@[simp] theorem State.modJtag_hub_detourDue : (s.modJtag f).hub.detourDue = s.hub.detourDue := rfl
@[simp] theorem State.modJtag_hub_latch : (s.modJtag f).hub.latch = s.hub.latch := rfl
@[simp] theorem State.modJtag_hub_sramCorr : (s.modJtag f).hub.sramCorr = s.hub.sramCorr := rfl
@[simp] theorem State.modJtag_hub_colErrs : (s.modJtag f).hub.colErrs = s.hub.colErrs := rfl
@[simp] theorem State.modJtag_hub_cellFails : (s.modJtag f).hub.cellFails = s.hub.cellFails := rfl
@[simp] theorem State.modJtag_hub_flashCols : (s.modJtag f).hub.flashCols = s.hub.flashCols := rfl
@[simp] theorem State.modJtag_hub_flashCells : (s.modJtag f).hub.flashCells = s.hub.flashCells := rfl
@[simp] theorem State.modJtag_hub_flashBlocks : (s.modJtag f).hub.flashBlocks = s.hub.flashBlocks := rfl
@[simp] theorem State.modJtag_hub_flashRgns : (s.modJtag f).hub.flashRgns = s.hub.flashRgns := rfl
@[simp] theorem State.modJtag_hub_flashFull : (s.modJtag f).hub.flashFull = s.hub.flashFull := rfl
end modJtag

/-! modBkt changes hub only, and of the hub bkt only. -/

section modBkt
variable (s : State) (f : Buckets → Buckets)
@[simp] theorem State.modBkt_pending : (s.modBkt f).pending = s.pending := rfl
@[simp] theorem State.modBkt_cells : (s.modBkt f).cells = s.cells := rfl
@[simp] theorem State.modBkt_blocks : (s.modBkt f).blocks = s.blocks := rfl
@[simp] theorem State.modBkt_regions : (s.modBkt f).regions = s.regions := rfl
@[simp] theorem State.modBkt_cues : (s.modBkt f).cues = s.cues := rfl
@[simp] theorem State.modBkt_hbm : (s.modBkt f).hbm = s.hbm := rfl
@[simp] theorem State.modBkt_flights : (s.modBkt f).flights = s.flights := rfl
@[simp] theorem State.modBkt_nextId : (s.modBkt f).nextId = s.nextId := rfl
@[simp] theorem State.modBkt_jobs : (s.modBkt f).jobs = s.jobs := rfl
@[simp] theorem State.modBkt_flt : (s.modBkt f).flt = s.flt := rfl
@[simp] theorem State.modBkt_out : (s.modBkt f).out = s.out := rfl
@[simp] theorem State.modBkt_fresh : (s.modBkt f).fresh = s.fresh := rfl
@[simp] theorem State.modBkt_hub_tick : (s.modBkt f).hub.tick = s.hub.tick := rfl
@[simp] theorem State.modBkt_hub_fab : (s.modBkt f).hub.fab = s.hub.fab := rfl
@[simp] theorem State.modBkt_hub_eth : (s.modBkt f).hub.eth = s.hub.eth := rfl
@[simp] theorem State.modBkt_hub_mail : (s.modBkt f).hub.mail = s.hub.mail := rfl
@[simp] theorem State.modBkt_hub_pwr : (s.modBkt f).hub.pwr = s.hub.pwr := rfl
@[simp] theorem State.modBkt_hub_clk : (s.modBkt f).hub.clk = s.hub.clk := rfl
@[simp] theorem State.modBkt_hub_sec : (s.modBkt f).hub.sec = s.hub.sec := rfl
@[simp] theorem State.modBkt_hub_tst : (s.modBkt f).hub.tst = s.hub.tst := rfl
@[simp] theorem State.modBkt_hub_hostRgn : (s.modBkt f).hub.hostRgn = s.hub.hostRgn := rfl
@[simp] theorem State.modBkt_hub_takeover : (s.modBkt f).hub.takeover = s.hub.takeover := rfl
@[simp] theorem State.modBkt_hub_detourDue : (s.modBkt f).hub.detourDue = s.hub.detourDue := rfl
@[simp] theorem State.modBkt_hub_latch : (s.modBkt f).hub.latch = s.hub.latch := rfl
@[simp] theorem State.modBkt_hub_sramCorr : (s.modBkt f).hub.sramCorr = s.hub.sramCorr := rfl
@[simp] theorem State.modBkt_hub_colErrs : (s.modBkt f).hub.colErrs = s.hub.colErrs := rfl
@[simp] theorem State.modBkt_hub_cellFails : (s.modBkt f).hub.cellFails = s.hub.cellFails := rfl
@[simp] theorem State.modBkt_hub_flashCols : (s.modBkt f).hub.flashCols = s.hub.flashCols := rfl
@[simp] theorem State.modBkt_hub_flashCells : (s.modBkt f).hub.flashCells = s.hub.flashCells := rfl
@[simp] theorem State.modBkt_hub_flashBlocks : (s.modBkt f).hub.flashBlocks = s.hub.flashBlocks := rfl
@[simp] theorem State.modBkt_hub_flashRgns : (s.modBkt f).hub.flashRgns = s.hub.flashRgns := rfl
@[simp] theorem State.modBkt_hub_flashFull : (s.modBkt f).hub.flashFull = s.hub.flashFull := rfl
end modBkt

/-! modFab changes hub only, and of the hub fab only. -/

section modFab
variable (s : State) (f : Fabric → Fabric)
@[simp] theorem State.modFab_pending : (s.modFab f).pending = s.pending := rfl
@[simp] theorem State.modFab_cells : (s.modFab f).cells = s.cells := rfl
@[simp] theorem State.modFab_blocks : (s.modFab f).blocks = s.blocks := rfl
@[simp] theorem State.modFab_regions : (s.modFab f).regions = s.regions := rfl
@[simp] theorem State.modFab_cues : (s.modFab f).cues = s.cues := rfl
@[simp] theorem State.modFab_hbm : (s.modFab f).hbm = s.hbm := rfl
@[simp] theorem State.modFab_flights : (s.modFab f).flights = s.flights := rfl
@[simp] theorem State.modFab_nextId : (s.modFab f).nextId = s.nextId := rfl
@[simp] theorem State.modFab_jobs : (s.modFab f).jobs = s.jobs := rfl
@[simp] theorem State.modFab_flt : (s.modFab f).flt = s.flt := rfl
@[simp] theorem State.modFab_out : (s.modFab f).out = s.out := rfl
@[simp] theorem State.modFab_fresh : (s.modFab f).fresh = s.fresh := rfl
@[simp] theorem State.modFab_hub_tick : (s.modFab f).hub.tick = s.hub.tick := rfl
@[simp] theorem State.modFab_hub_bkt : (s.modFab f).hub.bkt = s.hub.bkt := rfl
@[simp] theorem State.modFab_hub_eth : (s.modFab f).hub.eth = s.hub.eth := rfl
@[simp] theorem State.modFab_hub_mail : (s.modFab f).hub.mail = s.hub.mail := rfl
@[simp] theorem State.modFab_hub_pwr : (s.modFab f).hub.pwr = s.hub.pwr := rfl
@[simp] theorem State.modFab_hub_clk : (s.modFab f).hub.clk = s.hub.clk := rfl
@[simp] theorem State.modFab_hub_sec : (s.modFab f).hub.sec = s.hub.sec := rfl
@[simp] theorem State.modFab_hub_tst : (s.modFab f).hub.tst = s.hub.tst := rfl
@[simp] theorem State.modFab_hub_hostRgn : (s.modFab f).hub.hostRgn = s.hub.hostRgn := rfl
@[simp] theorem State.modFab_hub_takeover : (s.modFab f).hub.takeover = s.hub.takeover := rfl
@[simp] theorem State.modFab_hub_detourDue : (s.modFab f).hub.detourDue = s.hub.detourDue := rfl
@[simp] theorem State.modFab_hub_latch : (s.modFab f).hub.latch = s.hub.latch := rfl
@[simp] theorem State.modFab_hub_sramCorr : (s.modFab f).hub.sramCorr = s.hub.sramCorr := rfl
@[simp] theorem State.modFab_hub_colErrs : (s.modFab f).hub.colErrs = s.hub.colErrs := rfl
@[simp] theorem State.modFab_hub_cellFails : (s.modFab f).hub.cellFails = s.hub.cellFails := rfl
@[simp] theorem State.modFab_hub_flashCols : (s.modFab f).hub.flashCols = s.hub.flashCols := rfl
@[simp] theorem State.modFab_hub_flashCells : (s.modFab f).hub.flashCells = s.hub.flashCells := rfl
@[simp] theorem State.modFab_hub_flashBlocks : (s.modFab f).hub.flashBlocks = s.hub.flashBlocks := rfl
@[simp] theorem State.modFab_hub_flashRgns : (s.modFab f).hub.flashRgns = s.hub.flashRgns := rfl
@[simp] theorem State.modFab_hub_flashFull : (s.modFab f).hub.flashFull = s.hub.flashFull := rfl
end modFab

/-! setPort changes hub only, and of the hub fab only. -/

section setPort
variable (s : State) (p : Nat) (x : Port)
@[simp] theorem State.setPort_pending : (s.setPort p x).pending = s.pending := rfl
@[simp] theorem State.setPort_cells : (s.setPort p x).cells = s.cells := rfl
@[simp] theorem State.setPort_blocks : (s.setPort p x).blocks = s.blocks := rfl
@[simp] theorem State.setPort_regions : (s.setPort p x).regions = s.regions := rfl
@[simp] theorem State.setPort_cues : (s.setPort p x).cues = s.cues := rfl
@[simp] theorem State.setPort_hbm : (s.setPort p x).hbm = s.hbm := rfl
@[simp] theorem State.setPort_flights : (s.setPort p x).flights = s.flights := rfl
@[simp] theorem State.setPort_nextId : (s.setPort p x).nextId = s.nextId := rfl
@[simp] theorem State.setPort_jobs : (s.setPort p x).jobs = s.jobs := rfl
@[simp] theorem State.setPort_flt : (s.setPort p x).flt = s.flt := rfl
@[simp] theorem State.setPort_out : (s.setPort p x).out = s.out := rfl
@[simp] theorem State.setPort_fresh : (s.setPort p x).fresh = s.fresh := rfl
@[simp] theorem State.setPort_hub_tick : (s.setPort p x).hub.tick = s.hub.tick := rfl
@[simp] theorem State.setPort_hub_bkt : (s.setPort p x).hub.bkt = s.hub.bkt := rfl
@[simp] theorem State.setPort_hub_eth : (s.setPort p x).hub.eth = s.hub.eth := rfl
@[simp] theorem State.setPort_hub_mail : (s.setPort p x).hub.mail = s.hub.mail := rfl
@[simp] theorem State.setPort_hub_pwr : (s.setPort p x).hub.pwr = s.hub.pwr := rfl
@[simp] theorem State.setPort_hub_clk : (s.setPort p x).hub.clk = s.hub.clk := rfl
@[simp] theorem State.setPort_hub_sec : (s.setPort p x).hub.sec = s.hub.sec := rfl
@[simp] theorem State.setPort_hub_tst : (s.setPort p x).hub.tst = s.hub.tst := rfl
@[simp] theorem State.setPort_hub_hostRgn : (s.setPort p x).hub.hostRgn = s.hub.hostRgn := rfl
@[simp] theorem State.setPort_hub_takeover : (s.setPort p x).hub.takeover = s.hub.takeover := rfl
@[simp] theorem State.setPort_hub_detourDue : (s.setPort p x).hub.detourDue = s.hub.detourDue := rfl
@[simp] theorem State.setPort_hub_latch : (s.setPort p x).hub.latch = s.hub.latch := rfl
@[simp] theorem State.setPort_hub_sramCorr : (s.setPort p x).hub.sramCorr = s.hub.sramCorr := rfl
@[simp] theorem State.setPort_hub_colErrs : (s.setPort p x).hub.colErrs = s.hub.colErrs := rfl
@[simp] theorem State.setPort_hub_cellFails : (s.setPort p x).hub.cellFails = s.hub.cellFails := rfl
@[simp] theorem State.setPort_hub_flashCols : (s.setPort p x).hub.flashCols = s.hub.flashCols := rfl
@[simp] theorem State.setPort_hub_flashCells : (s.setPort p x).hub.flashCells = s.hub.flashCells := rfl
@[simp] theorem State.setPort_hub_flashBlocks : (s.setPort p x).hub.flashBlocks = s.hub.flashBlocks := rfl
@[simp] theorem State.setPort_hub_flashRgns : (s.setPort p x).hub.flashRgns = s.hub.flashRgns := rfl
@[simp] theorem State.setPort_hub_flashFull : (s.setPort p x).hub.flashFull = s.hub.flashFull := rfl
end setPort

/-! modPort changes hub only, and of the hub fab only. -/

section modPort
variable (s : State) (p : Nat) (f : Port → Port)
@[simp] theorem State.modPort_pending : (s.modPort p f).pending = s.pending := rfl
@[simp] theorem State.modPort_cells : (s.modPort p f).cells = s.cells := rfl
@[simp] theorem State.modPort_blocks : (s.modPort p f).blocks = s.blocks := rfl
@[simp] theorem State.modPort_regions : (s.modPort p f).regions = s.regions := rfl
@[simp] theorem State.modPort_cues : (s.modPort p f).cues = s.cues := rfl
@[simp] theorem State.modPort_hbm : (s.modPort p f).hbm = s.hbm := rfl
@[simp] theorem State.modPort_flights : (s.modPort p f).flights = s.flights := rfl
@[simp] theorem State.modPort_nextId : (s.modPort p f).nextId = s.nextId := rfl
@[simp] theorem State.modPort_jobs : (s.modPort p f).jobs = s.jobs := rfl
@[simp] theorem State.modPort_flt : (s.modPort p f).flt = s.flt := rfl
@[simp] theorem State.modPort_out : (s.modPort p f).out = s.out := rfl
@[simp] theorem State.modPort_fresh : (s.modPort p f).fresh = s.fresh := rfl
@[simp] theorem State.modPort_hub_tick : (s.modPort p f).hub.tick = s.hub.tick := rfl
@[simp] theorem State.modPort_hub_bkt : (s.modPort p f).hub.bkt = s.hub.bkt := rfl
@[simp] theorem State.modPort_hub_eth : (s.modPort p f).hub.eth = s.hub.eth := rfl
@[simp] theorem State.modPort_hub_mail : (s.modPort p f).hub.mail = s.hub.mail := rfl
@[simp] theorem State.modPort_hub_pwr : (s.modPort p f).hub.pwr = s.hub.pwr := rfl
@[simp] theorem State.modPort_hub_clk : (s.modPort p f).hub.clk = s.hub.clk := rfl
@[simp] theorem State.modPort_hub_sec : (s.modPort p f).hub.sec = s.hub.sec := rfl
@[simp] theorem State.modPort_hub_tst : (s.modPort p f).hub.tst = s.hub.tst := rfl
@[simp] theorem State.modPort_hub_hostRgn : (s.modPort p f).hub.hostRgn = s.hub.hostRgn := rfl
@[simp] theorem State.modPort_hub_takeover : (s.modPort p f).hub.takeover = s.hub.takeover := rfl
@[simp] theorem State.modPort_hub_detourDue : (s.modPort p f).hub.detourDue = s.hub.detourDue := rfl
@[simp] theorem State.modPort_hub_latch : (s.modPort p f).hub.latch = s.hub.latch := rfl
@[simp] theorem State.modPort_hub_sramCorr : (s.modPort p f).hub.sramCorr = s.hub.sramCorr := rfl
@[simp] theorem State.modPort_hub_colErrs : (s.modPort p f).hub.colErrs = s.hub.colErrs := rfl
@[simp] theorem State.modPort_hub_cellFails : (s.modPort p f).hub.cellFails = s.hub.cellFails := rfl
@[simp] theorem State.modPort_hub_flashCols : (s.modPort p f).hub.flashCols = s.hub.flashCols := rfl
@[simp] theorem State.modPort_hub_flashCells : (s.modPort p f).hub.flashCells = s.hub.flashCells := rfl
@[simp] theorem State.modPort_hub_flashBlocks : (s.modPort p f).hub.flashBlocks = s.hub.flashBlocks := rfl
@[simp] theorem State.modPort_hub_flashRgns : (s.modPort p f).hub.flashRgns = s.hub.flashRgns := rfl
@[simp] theorem State.modPort_hub_flashFull : (s.modPort p f).hub.flashFull = s.hub.flashFull := rfl
end modPort

/-! modSlot changes hub only, and of the hub pwr only. -/

section modSlot
variable (s : State) (i : Nat) (f : JobSlot → JobSlot)
@[simp] theorem State.modSlot_pending : (s.modSlot i f).pending = s.pending := rfl
@[simp] theorem State.modSlot_cells : (s.modSlot i f).cells = s.cells := rfl
@[simp] theorem State.modSlot_blocks : (s.modSlot i f).blocks = s.blocks := rfl
@[simp] theorem State.modSlot_regions : (s.modSlot i f).regions = s.regions := rfl
@[simp] theorem State.modSlot_cues : (s.modSlot i f).cues = s.cues := rfl
@[simp] theorem State.modSlot_hbm : (s.modSlot i f).hbm = s.hbm := rfl
@[simp] theorem State.modSlot_flights : (s.modSlot i f).flights = s.flights := rfl
@[simp] theorem State.modSlot_nextId : (s.modSlot i f).nextId = s.nextId := rfl
@[simp] theorem State.modSlot_jobs : (s.modSlot i f).jobs = s.jobs := rfl
@[simp] theorem State.modSlot_flt : (s.modSlot i f).flt = s.flt := rfl
@[simp] theorem State.modSlot_out : (s.modSlot i f).out = s.out := rfl
@[simp] theorem State.modSlot_fresh : (s.modSlot i f).fresh = s.fresh := rfl
@[simp] theorem State.modSlot_hub_tick : (s.modSlot i f).hub.tick = s.hub.tick := rfl
@[simp] theorem State.modSlot_hub_fab : (s.modSlot i f).hub.fab = s.hub.fab := rfl
@[simp] theorem State.modSlot_hub_bkt : (s.modSlot i f).hub.bkt = s.hub.bkt := rfl
@[simp] theorem State.modSlot_hub_eth : (s.modSlot i f).hub.eth = s.hub.eth := rfl
@[simp] theorem State.modSlot_hub_mail : (s.modSlot i f).hub.mail = s.hub.mail := rfl
@[simp] theorem State.modSlot_hub_clk : (s.modSlot i f).hub.clk = s.hub.clk := rfl
@[simp] theorem State.modSlot_hub_sec : (s.modSlot i f).hub.sec = s.hub.sec := rfl
@[simp] theorem State.modSlot_hub_tst : (s.modSlot i f).hub.tst = s.hub.tst := rfl
@[simp] theorem State.modSlot_hub_hostRgn : (s.modSlot i f).hub.hostRgn = s.hub.hostRgn := rfl
@[simp] theorem State.modSlot_hub_takeover : (s.modSlot i f).hub.takeover = s.hub.takeover := rfl
@[simp] theorem State.modSlot_hub_detourDue : (s.modSlot i f).hub.detourDue = s.hub.detourDue := rfl
@[simp] theorem State.modSlot_hub_latch : (s.modSlot i f).hub.latch = s.hub.latch := rfl
@[simp] theorem State.modSlot_hub_sramCorr : (s.modSlot i f).hub.sramCorr = s.hub.sramCorr := rfl
@[simp] theorem State.modSlot_hub_colErrs : (s.modSlot i f).hub.colErrs = s.hub.colErrs := rfl
@[simp] theorem State.modSlot_hub_cellFails : (s.modSlot i f).hub.cellFails = s.hub.cellFails := rfl
@[simp] theorem State.modSlot_hub_flashCols : (s.modSlot i f).hub.flashCols = s.hub.flashCols := rfl
@[simp] theorem State.modSlot_hub_flashCells : (s.modSlot i f).hub.flashCells = s.hub.flashCells := rfl
@[simp] theorem State.modSlot_hub_flashBlocks : (s.modSlot i f).hub.flashBlocks = s.hub.flashBlocks := rfl
@[simp] theorem State.modSlot_hub_flashRgns : (s.modSlot i f).hub.flashRgns = s.hub.flashRgns := rfl
@[simp] theorem State.modSlot_hub_flashFull : (s.modSlot i f).hub.flashFull = s.hub.flashFull := rfl
end modSlot

/-! modEth changes hub only, and of the hub eth only. -/

section modEth
variable (s : State) (f : Eth → Eth)
@[simp] theorem State.modEth_pending : (s.modEth f).pending = s.pending := rfl
@[simp] theorem State.modEth_cells : (s.modEth f).cells = s.cells := rfl
@[simp] theorem State.modEth_blocks : (s.modEth f).blocks = s.blocks := rfl
@[simp] theorem State.modEth_regions : (s.modEth f).regions = s.regions := rfl
@[simp] theorem State.modEth_cues : (s.modEth f).cues = s.cues := rfl
@[simp] theorem State.modEth_hbm : (s.modEth f).hbm = s.hbm := rfl
@[simp] theorem State.modEth_flights : (s.modEth f).flights = s.flights := rfl
@[simp] theorem State.modEth_nextId : (s.modEth f).nextId = s.nextId := rfl
@[simp] theorem State.modEth_jobs : (s.modEth f).jobs = s.jobs := rfl
@[simp] theorem State.modEth_flt : (s.modEth f).flt = s.flt := rfl
@[simp] theorem State.modEth_out : (s.modEth f).out = s.out := rfl
@[simp] theorem State.modEth_fresh : (s.modEth f).fresh = s.fresh := rfl
@[simp] theorem State.modEth_hub_tick : (s.modEth f).hub.tick = s.hub.tick := rfl
@[simp] theorem State.modEth_hub_fab : (s.modEth f).hub.fab = s.hub.fab := rfl
@[simp] theorem State.modEth_hub_bkt : (s.modEth f).hub.bkt = s.hub.bkt := rfl
@[simp] theorem State.modEth_hub_mail : (s.modEth f).hub.mail = s.hub.mail := rfl
@[simp] theorem State.modEth_hub_pwr : (s.modEth f).hub.pwr = s.hub.pwr := rfl
@[simp] theorem State.modEth_hub_clk : (s.modEth f).hub.clk = s.hub.clk := rfl
@[simp] theorem State.modEth_hub_sec : (s.modEth f).hub.sec = s.hub.sec := rfl
@[simp] theorem State.modEth_hub_tst : (s.modEth f).hub.tst = s.hub.tst := rfl
@[simp] theorem State.modEth_hub_hostRgn : (s.modEth f).hub.hostRgn = s.hub.hostRgn := rfl
@[simp] theorem State.modEth_hub_takeover : (s.modEth f).hub.takeover = s.hub.takeover := rfl
@[simp] theorem State.modEth_hub_detourDue : (s.modEth f).hub.detourDue = s.hub.detourDue := rfl
@[simp] theorem State.modEth_hub_latch : (s.modEth f).hub.latch = s.hub.latch := rfl
@[simp] theorem State.modEth_hub_sramCorr : (s.modEth f).hub.sramCorr = s.hub.sramCorr := rfl
@[simp] theorem State.modEth_hub_colErrs : (s.modEth f).hub.colErrs = s.hub.colErrs := rfl
@[simp] theorem State.modEth_hub_cellFails : (s.modEth f).hub.cellFails = s.hub.cellFails := rfl
@[simp] theorem State.modEth_hub_flashCols : (s.modEth f).hub.flashCols = s.hub.flashCols := rfl
@[simp] theorem State.modEth_hub_flashCells : (s.modEth f).hub.flashCells = s.hub.flashCells := rfl
@[simp] theorem State.modEth_hub_flashBlocks : (s.modEth f).hub.flashBlocks = s.hub.flashBlocks := rfl
@[simp] theorem State.modEth_hub_flashRgns : (s.modEth f).hub.flashRgns = s.hub.flashRgns := rfl
@[simp] theorem State.modEth_hub_flashFull : (s.modEth f).hub.flashFull = s.hub.flashFull := rfl
end modEth

/-! ethCount changes hub only, and of the hub eth only. -/

section ethCount
variable (s : State) (reg n : Nat)
@[simp] theorem State.ethCount_pending : (s.ethCount reg n).pending = s.pending := rfl
@[simp] theorem State.ethCount_cells : (s.ethCount reg n).cells = s.cells := rfl
@[simp] theorem State.ethCount_blocks : (s.ethCount reg n).blocks = s.blocks := rfl
@[simp] theorem State.ethCount_regions : (s.ethCount reg n).regions = s.regions := rfl
@[simp] theorem State.ethCount_cues : (s.ethCount reg n).cues = s.cues := rfl
@[simp] theorem State.ethCount_hbm : (s.ethCount reg n).hbm = s.hbm := rfl
@[simp] theorem State.ethCount_flights : (s.ethCount reg n).flights = s.flights := rfl
@[simp] theorem State.ethCount_nextId : (s.ethCount reg n).nextId = s.nextId := rfl
@[simp] theorem State.ethCount_jobs : (s.ethCount reg n).jobs = s.jobs := rfl
@[simp] theorem State.ethCount_flt : (s.ethCount reg n).flt = s.flt := rfl
@[simp] theorem State.ethCount_out : (s.ethCount reg n).out = s.out := rfl
@[simp] theorem State.ethCount_fresh : (s.ethCount reg n).fresh = s.fresh := rfl
@[simp] theorem State.ethCount_hub_tick : (s.ethCount reg n).hub.tick = s.hub.tick := rfl
@[simp] theorem State.ethCount_hub_fab : (s.ethCount reg n).hub.fab = s.hub.fab := rfl
@[simp] theorem State.ethCount_hub_bkt : (s.ethCount reg n).hub.bkt = s.hub.bkt := rfl
@[simp] theorem State.ethCount_hub_mail : (s.ethCount reg n).hub.mail = s.hub.mail := rfl
@[simp] theorem State.ethCount_hub_pwr : (s.ethCount reg n).hub.pwr = s.hub.pwr := rfl
@[simp] theorem State.ethCount_hub_clk : (s.ethCount reg n).hub.clk = s.hub.clk := rfl
@[simp] theorem State.ethCount_hub_sec : (s.ethCount reg n).hub.sec = s.hub.sec := rfl
@[simp] theorem State.ethCount_hub_tst : (s.ethCount reg n).hub.tst = s.hub.tst := rfl
@[simp] theorem State.ethCount_hub_hostRgn : (s.ethCount reg n).hub.hostRgn = s.hub.hostRgn := rfl
@[simp] theorem State.ethCount_hub_takeover : (s.ethCount reg n).hub.takeover = s.hub.takeover := rfl
@[simp] theorem State.ethCount_hub_detourDue : (s.ethCount reg n).hub.detourDue = s.hub.detourDue := rfl
@[simp] theorem State.ethCount_hub_latch : (s.ethCount reg n).hub.latch = s.hub.latch := rfl
@[simp] theorem State.ethCount_hub_sramCorr : (s.ethCount reg n).hub.sramCorr = s.hub.sramCorr := rfl
@[simp] theorem State.ethCount_hub_colErrs : (s.ethCount reg n).hub.colErrs = s.hub.colErrs := rfl
@[simp] theorem State.ethCount_hub_cellFails : (s.ethCount reg n).hub.cellFails = s.hub.cellFails := rfl
@[simp] theorem State.ethCount_hub_flashCols : (s.ethCount reg n).hub.flashCols = s.hub.flashCols := rfl
@[simp] theorem State.ethCount_hub_flashCells : (s.ethCount reg n).hub.flashCells = s.hub.flashCells := rfl
@[simp] theorem State.ethCount_hub_flashBlocks : (s.ethCount reg n).hub.flashBlocks = s.hub.flashBlocks := rfl
@[simp] theorem State.ethCount_hub_flashRgns : (s.ethCount reg n).hub.flashRgns = s.hub.flashRgns := rfl
@[simp] theorem State.ethCount_hub_flashFull : (s.ethCount reg n).hub.flashFull = s.hub.flashFull := rfl
end ethCount

/-! modQp changes hub only, and of the hub eth only. -/

section modQp
variable (s : State) (q : Nat) (f : Qp → Qp)
@[simp] theorem State.modQp_pending : (s.modQp q f).pending = s.pending := rfl
@[simp] theorem State.modQp_cells : (s.modQp q f).cells = s.cells := rfl
@[simp] theorem State.modQp_blocks : (s.modQp q f).blocks = s.blocks := rfl
@[simp] theorem State.modQp_regions : (s.modQp q f).regions = s.regions := rfl
@[simp] theorem State.modQp_cues : (s.modQp q f).cues = s.cues := rfl
@[simp] theorem State.modQp_hbm : (s.modQp q f).hbm = s.hbm := rfl
@[simp] theorem State.modQp_flights : (s.modQp q f).flights = s.flights := rfl
@[simp] theorem State.modQp_nextId : (s.modQp q f).nextId = s.nextId := rfl
@[simp] theorem State.modQp_jobs : (s.modQp q f).jobs = s.jobs := rfl
@[simp] theorem State.modQp_flt : (s.modQp q f).flt = s.flt := rfl
@[simp] theorem State.modQp_out : (s.modQp q f).out = s.out := rfl
@[simp] theorem State.modQp_fresh : (s.modQp q f).fresh = s.fresh := rfl
@[simp] theorem State.modQp_hub_tick : (s.modQp q f).hub.tick = s.hub.tick := rfl
@[simp] theorem State.modQp_hub_fab : (s.modQp q f).hub.fab = s.hub.fab := rfl
@[simp] theorem State.modQp_hub_bkt : (s.modQp q f).hub.bkt = s.hub.bkt := rfl
@[simp] theorem State.modQp_hub_mail : (s.modQp q f).hub.mail = s.hub.mail := rfl
@[simp] theorem State.modQp_hub_pwr : (s.modQp q f).hub.pwr = s.hub.pwr := rfl
@[simp] theorem State.modQp_hub_clk : (s.modQp q f).hub.clk = s.hub.clk := rfl
@[simp] theorem State.modQp_hub_sec : (s.modQp q f).hub.sec = s.hub.sec := rfl
@[simp] theorem State.modQp_hub_tst : (s.modQp q f).hub.tst = s.hub.tst := rfl
@[simp] theorem State.modQp_hub_hostRgn : (s.modQp q f).hub.hostRgn = s.hub.hostRgn := rfl
@[simp] theorem State.modQp_hub_takeover : (s.modQp q f).hub.takeover = s.hub.takeover := rfl
@[simp] theorem State.modQp_hub_detourDue : (s.modQp q f).hub.detourDue = s.hub.detourDue := rfl
@[simp] theorem State.modQp_hub_latch : (s.modQp q f).hub.latch = s.hub.latch := rfl
@[simp] theorem State.modQp_hub_sramCorr : (s.modQp q f).hub.sramCorr = s.hub.sramCorr := rfl
@[simp] theorem State.modQp_hub_colErrs : (s.modQp q f).hub.colErrs = s.hub.colErrs := rfl
@[simp] theorem State.modQp_hub_cellFails : (s.modQp q f).hub.cellFails = s.hub.cellFails := rfl
@[simp] theorem State.modQp_hub_flashCols : (s.modQp q f).hub.flashCols = s.hub.flashCols := rfl
@[simp] theorem State.modQp_hub_flashCells : (s.modQp q f).hub.flashCells = s.hub.flashCells := rfl
@[simp] theorem State.modQp_hub_flashBlocks : (s.modQp q f).hub.flashBlocks = s.hub.flashBlocks := rfl
@[simp] theorem State.modQp_hub_flashRgns : (s.modQp q f).hub.flashRgns = s.hub.flashRgns := rfl
@[simp] theorem State.modQp_hub_flashFull : (s.modQp q f).hub.flashFull = s.hub.flashFull := rfl
end modQp

/-! emitQp changes out only. -/

section emitQp
variable (s : State) (q : Nat) (o : RdmaOut)
@[simp] theorem State.emitQp_pending : (s.emitQp q o).pending = s.pending := rfl
@[simp] theorem State.emitQp_cells : (s.emitQp q o).cells = s.cells := rfl
@[simp] theorem State.emitQp_blocks : (s.emitQp q o).blocks = s.blocks := rfl
@[simp] theorem State.emitQp_regions : (s.emitQp q o).regions = s.regions := rfl
@[simp] theorem State.emitQp_cues : (s.emitQp q o).cues = s.cues := rfl
@[simp] theorem State.emitQp_hbm : (s.emitQp q o).hbm = s.hbm := rfl
@[simp] theorem State.emitQp_flights : (s.emitQp q o).flights = s.flights := rfl
@[simp] theorem State.emitQp_nextId : (s.emitQp q o).nextId = s.nextId := rfl
@[simp] theorem State.emitQp_jobs : (s.emitQp q o).jobs = s.jobs := rfl
@[simp] theorem State.emitQp_flt : (s.emitQp q o).flt = s.flt := rfl
@[simp] theorem State.emitQp_hub : (s.emitQp q o).hub = s.hub := rfl
@[simp] theorem State.emitQp_fresh : (s.emitQp q o).fresh = s.fresh := rfl
end emitQp

/-! modMail changes hub only, and of the hub mail only. -/

section modMail
variable (s : State) (f : Mail → Mail)
@[simp] theorem State.modMail_pending : (s.modMail f).pending = s.pending := rfl
@[simp] theorem State.modMail_cells : (s.modMail f).cells = s.cells := rfl
@[simp] theorem State.modMail_blocks : (s.modMail f).blocks = s.blocks := rfl
@[simp] theorem State.modMail_regions : (s.modMail f).regions = s.regions := rfl
@[simp] theorem State.modMail_cues : (s.modMail f).cues = s.cues := rfl
@[simp] theorem State.modMail_hbm : (s.modMail f).hbm = s.hbm := rfl
@[simp] theorem State.modMail_flights : (s.modMail f).flights = s.flights := rfl
@[simp] theorem State.modMail_nextId : (s.modMail f).nextId = s.nextId := rfl
@[simp] theorem State.modMail_jobs : (s.modMail f).jobs = s.jobs := rfl
@[simp] theorem State.modMail_flt : (s.modMail f).flt = s.flt := rfl
@[simp] theorem State.modMail_out : (s.modMail f).out = s.out := rfl
@[simp] theorem State.modMail_fresh : (s.modMail f).fresh = s.fresh := rfl
@[simp] theorem State.modMail_hub_tick : (s.modMail f).hub.tick = s.hub.tick := rfl
@[simp] theorem State.modMail_hub_fab : (s.modMail f).hub.fab = s.hub.fab := rfl
@[simp] theorem State.modMail_hub_bkt : (s.modMail f).hub.bkt = s.hub.bkt := rfl
@[simp] theorem State.modMail_hub_eth : (s.modMail f).hub.eth = s.hub.eth := rfl
@[simp] theorem State.modMail_hub_pwr : (s.modMail f).hub.pwr = s.hub.pwr := rfl
@[simp] theorem State.modMail_hub_clk : (s.modMail f).hub.clk = s.hub.clk := rfl
@[simp] theorem State.modMail_hub_sec : (s.modMail f).hub.sec = s.hub.sec := rfl
@[simp] theorem State.modMail_hub_tst : (s.modMail f).hub.tst = s.hub.tst := rfl
@[simp] theorem State.modMail_hub_hostRgn : (s.modMail f).hub.hostRgn = s.hub.hostRgn := rfl
@[simp] theorem State.modMail_hub_takeover : (s.modMail f).hub.takeover = s.hub.takeover := rfl
@[simp] theorem State.modMail_hub_detourDue : (s.modMail f).hub.detourDue = s.hub.detourDue := rfl
@[simp] theorem State.modMail_hub_latch : (s.modMail f).hub.latch = s.hub.latch := rfl
@[simp] theorem State.modMail_hub_sramCorr : (s.modMail f).hub.sramCorr = s.hub.sramCorr := rfl
@[simp] theorem State.modMail_hub_colErrs : (s.modMail f).hub.colErrs = s.hub.colErrs := rfl
@[simp] theorem State.modMail_hub_cellFails : (s.modMail f).hub.cellFails = s.hub.cellFails := rfl
@[simp] theorem State.modMail_hub_flashCols : (s.modMail f).hub.flashCols = s.hub.flashCols := rfl
@[simp] theorem State.modMail_hub_flashCells : (s.modMail f).hub.flashCells = s.hub.flashCells := rfl
@[simp] theorem State.modMail_hub_flashBlocks : (s.modMail f).hub.flashBlocks = s.hub.flashBlocks := rfl
@[simp] theorem State.modMail_hub_flashRgns : (s.modMail f).hub.flashRgns = s.hub.flashRgns := rfl
@[simp] theorem State.modMail_hub_flashFull : (s.modMail f).hub.flashFull = s.hub.flashFull := rfl
end modMail

/-! loseAnswers changes hub only, and of the hub mail only. -/

section loseAnswers
variable (s : State) (q : Nat)
@[simp] theorem State.loseAnswers_pending : (s.loseAnswers q).pending = s.pending := rfl
@[simp] theorem State.loseAnswers_cells : (s.loseAnswers q).cells = s.cells := rfl
@[simp] theorem State.loseAnswers_blocks : (s.loseAnswers q).blocks = s.blocks := rfl
@[simp] theorem State.loseAnswers_regions : (s.loseAnswers q).regions = s.regions := rfl
@[simp] theorem State.loseAnswers_cues : (s.loseAnswers q).cues = s.cues := rfl
@[simp] theorem State.loseAnswers_hbm : (s.loseAnswers q).hbm = s.hbm := rfl
@[simp] theorem State.loseAnswers_flights : (s.loseAnswers q).flights = s.flights := rfl
@[simp] theorem State.loseAnswers_nextId : (s.loseAnswers q).nextId = s.nextId := rfl
@[simp] theorem State.loseAnswers_jobs : (s.loseAnswers q).jobs = s.jobs := rfl
@[simp] theorem State.loseAnswers_flt : (s.loseAnswers q).flt = s.flt := rfl
@[simp] theorem State.loseAnswers_out : (s.loseAnswers q).out = s.out := rfl
@[simp] theorem State.loseAnswers_fresh : (s.loseAnswers q).fresh = s.fresh := rfl
@[simp] theorem State.loseAnswers_hub_tick : (s.loseAnswers q).hub.tick = s.hub.tick := rfl
@[simp] theorem State.loseAnswers_hub_fab : (s.loseAnswers q).hub.fab = s.hub.fab := rfl
@[simp] theorem State.loseAnswers_hub_bkt : (s.loseAnswers q).hub.bkt = s.hub.bkt := rfl
@[simp] theorem State.loseAnswers_hub_eth : (s.loseAnswers q).hub.eth = s.hub.eth := rfl
@[simp] theorem State.loseAnswers_hub_pwr : (s.loseAnswers q).hub.pwr = s.hub.pwr := rfl
@[simp] theorem State.loseAnswers_hub_clk : (s.loseAnswers q).hub.clk = s.hub.clk := rfl
@[simp] theorem State.loseAnswers_hub_sec : (s.loseAnswers q).hub.sec = s.hub.sec := rfl
@[simp] theorem State.loseAnswers_hub_tst : (s.loseAnswers q).hub.tst = s.hub.tst := rfl
@[simp] theorem State.loseAnswers_hub_hostRgn : (s.loseAnswers q).hub.hostRgn = s.hub.hostRgn := rfl
@[simp] theorem State.loseAnswers_hub_takeover : (s.loseAnswers q).hub.takeover = s.hub.takeover := rfl
@[simp] theorem State.loseAnswers_hub_detourDue : (s.loseAnswers q).hub.detourDue = s.hub.detourDue := rfl
@[simp] theorem State.loseAnswers_hub_latch : (s.loseAnswers q).hub.latch = s.hub.latch := rfl
@[simp] theorem State.loseAnswers_hub_sramCorr : (s.loseAnswers q).hub.sramCorr = s.hub.sramCorr := rfl
@[simp] theorem State.loseAnswers_hub_colErrs : (s.loseAnswers q).hub.colErrs = s.hub.colErrs := rfl
@[simp] theorem State.loseAnswers_hub_cellFails : (s.loseAnswers q).hub.cellFails = s.hub.cellFails := rfl
@[simp] theorem State.loseAnswers_hub_flashCols : (s.loseAnswers q).hub.flashCols = s.hub.flashCols := rfl
@[simp] theorem State.loseAnswers_hub_flashCells : (s.loseAnswers q).hub.flashCells = s.hub.flashCells := rfl
@[simp] theorem State.loseAnswers_hub_flashBlocks : (s.loseAnswers q).hub.flashBlocks = s.hub.flashBlocks := rfl
@[simp] theorem State.loseAnswers_hub_flashRgns : (s.loseAnswers q).hub.flashRgns = s.hub.flashRgns := rfl
@[simp] theorem State.loseAnswers_hub_flashFull : (s.loseAnswers q).hub.flashFull = s.hub.flashFull := rfl
end loseAnswers

/-! modMbx changes hub only, and of the hub mail only. -/

section modMbx
variable (s : State) (n : Nat) (f : Mbx → Mbx)
@[simp] theorem State.modMbx_pending : (s.modMbx n f).pending = s.pending := rfl
@[simp] theorem State.modMbx_cells : (s.modMbx n f).cells = s.cells := rfl
@[simp] theorem State.modMbx_blocks : (s.modMbx n f).blocks = s.blocks := rfl
@[simp] theorem State.modMbx_regions : (s.modMbx n f).regions = s.regions := rfl
@[simp] theorem State.modMbx_cues : (s.modMbx n f).cues = s.cues := rfl
@[simp] theorem State.modMbx_hbm : (s.modMbx n f).hbm = s.hbm := rfl
@[simp] theorem State.modMbx_flights : (s.modMbx n f).flights = s.flights := rfl
@[simp] theorem State.modMbx_nextId : (s.modMbx n f).nextId = s.nextId := rfl
@[simp] theorem State.modMbx_jobs : (s.modMbx n f).jobs = s.jobs := rfl
@[simp] theorem State.modMbx_flt : (s.modMbx n f).flt = s.flt := rfl
@[simp] theorem State.modMbx_out : (s.modMbx n f).out = s.out := rfl
@[simp] theorem State.modMbx_fresh : (s.modMbx n f).fresh = s.fresh := rfl
@[simp] theorem State.modMbx_hub_tick : (s.modMbx n f).hub.tick = s.hub.tick := rfl
@[simp] theorem State.modMbx_hub_fab : (s.modMbx n f).hub.fab = s.hub.fab := rfl
@[simp] theorem State.modMbx_hub_bkt : (s.modMbx n f).hub.bkt = s.hub.bkt := rfl
@[simp] theorem State.modMbx_hub_eth : (s.modMbx n f).hub.eth = s.hub.eth := rfl
@[simp] theorem State.modMbx_hub_pwr : (s.modMbx n f).hub.pwr = s.hub.pwr := rfl
@[simp] theorem State.modMbx_hub_clk : (s.modMbx n f).hub.clk = s.hub.clk := rfl
@[simp] theorem State.modMbx_hub_sec : (s.modMbx n f).hub.sec = s.hub.sec := rfl
@[simp] theorem State.modMbx_hub_tst : (s.modMbx n f).hub.tst = s.hub.tst := rfl
@[simp] theorem State.modMbx_hub_hostRgn : (s.modMbx n f).hub.hostRgn = s.hub.hostRgn := rfl
@[simp] theorem State.modMbx_hub_takeover : (s.modMbx n f).hub.takeover = s.hub.takeover := rfl
@[simp] theorem State.modMbx_hub_detourDue : (s.modMbx n f).hub.detourDue = s.hub.detourDue := rfl
@[simp] theorem State.modMbx_hub_latch : (s.modMbx n f).hub.latch = s.hub.latch := rfl
@[simp] theorem State.modMbx_hub_sramCorr : (s.modMbx n f).hub.sramCorr = s.hub.sramCorr := rfl
@[simp] theorem State.modMbx_hub_colErrs : (s.modMbx n f).hub.colErrs = s.hub.colErrs := rfl
@[simp] theorem State.modMbx_hub_cellFails : (s.modMbx n f).hub.cellFails = s.hub.cellFails := rfl
@[simp] theorem State.modMbx_hub_flashCols : (s.modMbx n f).hub.flashCols = s.hub.flashCols := rfl
@[simp] theorem State.modMbx_hub_flashCells : (s.modMbx n f).hub.flashCells = s.hub.flashCells := rfl
@[simp] theorem State.modMbx_hub_flashBlocks : (s.modMbx n f).hub.flashBlocks = s.hub.flashBlocks := rfl
@[simp] theorem State.modMbx_hub_flashRgns : (s.modMbx n f).hub.flashRgns = s.hub.flashRgns := rfl
@[simp] theorem State.modMbx_hub_flashFull : (s.modMbx n f).hub.flashFull = s.hub.flashFull := rfl
end modMbx

/-! modSession changes hub only, and of the hub mail only. -/

section modSession
variable (s : State) (n : Word) (f : Session → Session)
@[simp] theorem State.modSession_pending : (s.modSession n f).pending = s.pending := rfl
@[simp] theorem State.modSession_cells : (s.modSession n f).cells = s.cells := rfl
@[simp] theorem State.modSession_blocks : (s.modSession n f).blocks = s.blocks := rfl
@[simp] theorem State.modSession_regions : (s.modSession n f).regions = s.regions := rfl
@[simp] theorem State.modSession_cues : (s.modSession n f).cues = s.cues := rfl
@[simp] theorem State.modSession_hbm : (s.modSession n f).hbm = s.hbm := rfl
@[simp] theorem State.modSession_flights : (s.modSession n f).flights = s.flights := rfl
@[simp] theorem State.modSession_nextId : (s.modSession n f).nextId = s.nextId := rfl
@[simp] theorem State.modSession_jobs : (s.modSession n f).jobs = s.jobs := rfl
@[simp] theorem State.modSession_flt : (s.modSession n f).flt = s.flt := rfl
@[simp] theorem State.modSession_out : (s.modSession n f).out = s.out := rfl
@[simp] theorem State.modSession_fresh : (s.modSession n f).fresh = s.fresh := rfl
@[simp] theorem State.modSession_hub_tick : (s.modSession n f).hub.tick = s.hub.tick := rfl
@[simp] theorem State.modSession_hub_fab : (s.modSession n f).hub.fab = s.hub.fab := rfl
@[simp] theorem State.modSession_hub_bkt : (s.modSession n f).hub.bkt = s.hub.bkt := rfl
@[simp] theorem State.modSession_hub_eth : (s.modSession n f).hub.eth = s.hub.eth := rfl
@[simp] theorem State.modSession_hub_pwr : (s.modSession n f).hub.pwr = s.hub.pwr := rfl
@[simp] theorem State.modSession_hub_clk : (s.modSession n f).hub.clk = s.hub.clk := rfl
@[simp] theorem State.modSession_hub_sec : (s.modSession n f).hub.sec = s.hub.sec := rfl
@[simp] theorem State.modSession_hub_tst : (s.modSession n f).hub.tst = s.hub.tst := rfl
@[simp] theorem State.modSession_hub_hostRgn : (s.modSession n f).hub.hostRgn = s.hub.hostRgn := rfl
@[simp] theorem State.modSession_hub_takeover : (s.modSession n f).hub.takeover = s.hub.takeover := rfl
@[simp] theorem State.modSession_hub_detourDue : (s.modSession n f).hub.detourDue = s.hub.detourDue := rfl
@[simp] theorem State.modSession_hub_latch : (s.modSession n f).hub.latch = s.hub.latch := rfl
@[simp] theorem State.modSession_hub_sramCorr : (s.modSession n f).hub.sramCorr = s.hub.sramCorr := rfl
@[simp] theorem State.modSession_hub_colErrs : (s.modSession n f).hub.colErrs = s.hub.colErrs := rfl
@[simp] theorem State.modSession_hub_cellFails : (s.modSession n f).hub.cellFails = s.hub.cellFails := rfl
@[simp] theorem State.modSession_hub_flashCols : (s.modSession n f).hub.flashCols = s.hub.flashCols := rfl
@[simp] theorem State.modSession_hub_flashCells : (s.modSession n f).hub.flashCells = s.hub.flashCells := rfl
@[simp] theorem State.modSession_hub_flashBlocks : (s.modSession n f).hub.flashBlocks = s.hub.flashBlocks := rfl
@[simp] theorem State.modSession_hub_flashRgns : (s.modSession n f).hub.flashRgns = s.hub.flashRgns := rfl
@[simp] theorem State.modSession_hub_flashFull : (s.modSession n f).hub.flashFull = s.hub.flashFull := rfl
end modSession

/-! modPwr changes hub only, and of the hub pwr only. -/

section modPwr
variable (s : State) (f : Power → Power)
@[simp] theorem State.modPwr_pending : (s.modPwr f).pending = s.pending := rfl
@[simp] theorem State.modPwr_cells : (s.modPwr f).cells = s.cells := rfl
@[simp] theorem State.modPwr_blocks : (s.modPwr f).blocks = s.blocks := rfl
@[simp] theorem State.modPwr_regions : (s.modPwr f).regions = s.regions := rfl
@[simp] theorem State.modPwr_cues : (s.modPwr f).cues = s.cues := rfl
@[simp] theorem State.modPwr_hbm : (s.modPwr f).hbm = s.hbm := rfl
@[simp] theorem State.modPwr_flights : (s.modPwr f).flights = s.flights := rfl
@[simp] theorem State.modPwr_nextId : (s.modPwr f).nextId = s.nextId := rfl
@[simp] theorem State.modPwr_jobs : (s.modPwr f).jobs = s.jobs := rfl
@[simp] theorem State.modPwr_flt : (s.modPwr f).flt = s.flt := rfl
@[simp] theorem State.modPwr_out : (s.modPwr f).out = s.out := rfl
@[simp] theorem State.modPwr_fresh : (s.modPwr f).fresh = s.fresh := rfl
@[simp] theorem State.modPwr_hub_tick : (s.modPwr f).hub.tick = s.hub.tick := rfl
@[simp] theorem State.modPwr_hub_fab : (s.modPwr f).hub.fab = s.hub.fab := rfl
@[simp] theorem State.modPwr_hub_bkt : (s.modPwr f).hub.bkt = s.hub.bkt := rfl
@[simp] theorem State.modPwr_hub_eth : (s.modPwr f).hub.eth = s.hub.eth := rfl
@[simp] theorem State.modPwr_hub_mail : (s.modPwr f).hub.mail = s.hub.mail := rfl
@[simp] theorem State.modPwr_hub_clk : (s.modPwr f).hub.clk = s.hub.clk := rfl
@[simp] theorem State.modPwr_hub_sec : (s.modPwr f).hub.sec = s.hub.sec := rfl
@[simp] theorem State.modPwr_hub_tst : (s.modPwr f).hub.tst = s.hub.tst := rfl
@[simp] theorem State.modPwr_hub_hostRgn : (s.modPwr f).hub.hostRgn = s.hub.hostRgn := rfl
@[simp] theorem State.modPwr_hub_takeover : (s.modPwr f).hub.takeover = s.hub.takeover := rfl
@[simp] theorem State.modPwr_hub_detourDue : (s.modPwr f).hub.detourDue = s.hub.detourDue := rfl
@[simp] theorem State.modPwr_hub_latch : (s.modPwr f).hub.latch = s.hub.latch := rfl
@[simp] theorem State.modPwr_hub_sramCorr : (s.modPwr f).hub.sramCorr = s.hub.sramCorr := rfl
@[simp] theorem State.modPwr_hub_colErrs : (s.modPwr f).hub.colErrs = s.hub.colErrs := rfl
@[simp] theorem State.modPwr_hub_cellFails : (s.modPwr f).hub.cellFails = s.hub.cellFails := rfl
@[simp] theorem State.modPwr_hub_flashCols : (s.modPwr f).hub.flashCols = s.hub.flashCols := rfl
@[simp] theorem State.modPwr_hub_flashCells : (s.modPwr f).hub.flashCells = s.hub.flashCells := rfl
@[simp] theorem State.modPwr_hub_flashBlocks : (s.modPwr f).hub.flashBlocks = s.hub.flashBlocks := rfl
@[simp] theorem State.modPwr_hub_flashRgns : (s.modPwr f).hub.flashRgns = s.hub.flashRgns := rfl
@[simp] theorem State.modPwr_hub_flashFull : (s.modPwr f).hub.flashFull = s.hub.flashFull := rfl
end modPwr

/-! modRpwr changes hub only, and of the hub pwr only. -/

section modRpwr
variable (s : State) (r : Nat) (f : RgnPwr → RgnPwr)
@[simp] theorem State.modRpwr_pending : (s.modRpwr r f).pending = s.pending := rfl
@[simp] theorem State.modRpwr_cells : (s.modRpwr r f).cells = s.cells := rfl
@[simp] theorem State.modRpwr_blocks : (s.modRpwr r f).blocks = s.blocks := rfl
@[simp] theorem State.modRpwr_regions : (s.modRpwr r f).regions = s.regions := rfl
@[simp] theorem State.modRpwr_cues : (s.modRpwr r f).cues = s.cues := rfl
@[simp] theorem State.modRpwr_hbm : (s.modRpwr r f).hbm = s.hbm := rfl
@[simp] theorem State.modRpwr_flights : (s.modRpwr r f).flights = s.flights := rfl
@[simp] theorem State.modRpwr_nextId : (s.modRpwr r f).nextId = s.nextId := rfl
@[simp] theorem State.modRpwr_jobs : (s.modRpwr r f).jobs = s.jobs := rfl
@[simp] theorem State.modRpwr_flt : (s.modRpwr r f).flt = s.flt := rfl
@[simp] theorem State.modRpwr_out : (s.modRpwr r f).out = s.out := rfl
@[simp] theorem State.modRpwr_fresh : (s.modRpwr r f).fresh = s.fresh := rfl
@[simp] theorem State.modRpwr_hub_tick : (s.modRpwr r f).hub.tick = s.hub.tick := rfl
@[simp] theorem State.modRpwr_hub_fab : (s.modRpwr r f).hub.fab = s.hub.fab := rfl
@[simp] theorem State.modRpwr_hub_bkt : (s.modRpwr r f).hub.bkt = s.hub.bkt := rfl
@[simp] theorem State.modRpwr_hub_eth : (s.modRpwr r f).hub.eth = s.hub.eth := rfl
@[simp] theorem State.modRpwr_hub_mail : (s.modRpwr r f).hub.mail = s.hub.mail := rfl
@[simp] theorem State.modRpwr_hub_clk : (s.modRpwr r f).hub.clk = s.hub.clk := rfl
@[simp] theorem State.modRpwr_hub_sec : (s.modRpwr r f).hub.sec = s.hub.sec := rfl
@[simp] theorem State.modRpwr_hub_tst : (s.modRpwr r f).hub.tst = s.hub.tst := rfl
@[simp] theorem State.modRpwr_hub_hostRgn : (s.modRpwr r f).hub.hostRgn = s.hub.hostRgn := rfl
@[simp] theorem State.modRpwr_hub_takeover : (s.modRpwr r f).hub.takeover = s.hub.takeover := rfl
@[simp] theorem State.modRpwr_hub_detourDue : (s.modRpwr r f).hub.detourDue = s.hub.detourDue := rfl
@[simp] theorem State.modRpwr_hub_latch : (s.modRpwr r f).hub.latch = s.hub.latch := rfl
@[simp] theorem State.modRpwr_hub_sramCorr : (s.modRpwr r f).hub.sramCorr = s.hub.sramCorr := rfl
@[simp] theorem State.modRpwr_hub_colErrs : (s.modRpwr r f).hub.colErrs = s.hub.colErrs := rfl
@[simp] theorem State.modRpwr_hub_cellFails : (s.modRpwr r f).hub.cellFails = s.hub.cellFails := rfl
@[simp] theorem State.modRpwr_hub_flashCols : (s.modRpwr r f).hub.flashCols = s.hub.flashCols := rfl
@[simp] theorem State.modRpwr_hub_flashCells : (s.modRpwr r f).hub.flashCells = s.hub.flashCells := rfl
@[simp] theorem State.modRpwr_hub_flashBlocks : (s.modRpwr r f).hub.flashBlocks = s.hub.flashBlocks := rfl
@[simp] theorem State.modRpwr_hub_flashRgns : (s.modRpwr r f).hub.flashRgns = s.hub.flashRgns := rfl
@[simp] theorem State.modRpwr_hub_flashFull : (s.modRpwr r f).hub.flashFull = s.hub.flashFull := rfl
end modRpwr

/-! modSec changes hub only, and of the hub sec only. -/

section modSec
variable (s : State) (f : Sec → Sec)
@[simp] theorem State.modSec_pending : (s.modSec f).pending = s.pending := rfl
@[simp] theorem State.modSec_cells : (s.modSec f).cells = s.cells := rfl
@[simp] theorem State.modSec_blocks : (s.modSec f).blocks = s.blocks := rfl
@[simp] theorem State.modSec_regions : (s.modSec f).regions = s.regions := rfl
@[simp] theorem State.modSec_cues : (s.modSec f).cues = s.cues := rfl
@[simp] theorem State.modSec_hbm : (s.modSec f).hbm = s.hbm := rfl
@[simp] theorem State.modSec_flights : (s.modSec f).flights = s.flights := rfl
@[simp] theorem State.modSec_nextId : (s.modSec f).nextId = s.nextId := rfl
@[simp] theorem State.modSec_jobs : (s.modSec f).jobs = s.jobs := rfl
@[simp] theorem State.modSec_flt : (s.modSec f).flt = s.flt := rfl
@[simp] theorem State.modSec_out : (s.modSec f).out = s.out := rfl
@[simp] theorem State.modSec_fresh : (s.modSec f).fresh = s.fresh := rfl
@[simp] theorem State.modSec_hub_tick : (s.modSec f).hub.tick = s.hub.tick := rfl
@[simp] theorem State.modSec_hub_fab : (s.modSec f).hub.fab = s.hub.fab := rfl
@[simp] theorem State.modSec_hub_bkt : (s.modSec f).hub.bkt = s.hub.bkt := rfl
@[simp] theorem State.modSec_hub_eth : (s.modSec f).hub.eth = s.hub.eth := rfl
@[simp] theorem State.modSec_hub_mail : (s.modSec f).hub.mail = s.hub.mail := rfl
@[simp] theorem State.modSec_hub_pwr : (s.modSec f).hub.pwr = s.hub.pwr := rfl
@[simp] theorem State.modSec_hub_clk : (s.modSec f).hub.clk = s.hub.clk := rfl
@[simp] theorem State.modSec_hub_tst : (s.modSec f).hub.tst = s.hub.tst := rfl
@[simp] theorem State.modSec_hub_hostRgn : (s.modSec f).hub.hostRgn = s.hub.hostRgn := rfl
@[simp] theorem State.modSec_hub_takeover : (s.modSec f).hub.takeover = s.hub.takeover := rfl
@[simp] theorem State.modSec_hub_detourDue : (s.modSec f).hub.detourDue = s.hub.detourDue := rfl
@[simp] theorem State.modSec_hub_latch : (s.modSec f).hub.latch = s.hub.latch := rfl
@[simp] theorem State.modSec_hub_sramCorr : (s.modSec f).hub.sramCorr = s.hub.sramCorr := rfl
@[simp] theorem State.modSec_hub_colErrs : (s.modSec f).hub.colErrs = s.hub.colErrs := rfl
@[simp] theorem State.modSec_hub_cellFails : (s.modSec f).hub.cellFails = s.hub.cellFails := rfl
@[simp] theorem State.modSec_hub_flashCols : (s.modSec f).hub.flashCols = s.hub.flashCols := rfl
@[simp] theorem State.modSec_hub_flashCells : (s.modSec f).hub.flashCells = s.hub.flashCells := rfl
@[simp] theorem State.modSec_hub_flashBlocks : (s.modSec f).hub.flashBlocks = s.hub.flashBlocks := rfl
@[simp] theorem State.modSec_hub_flashRgns : (s.modSec f).hub.flashRgns = s.hub.flashRgns := rfl
@[simp] theorem State.modSec_hub_flashFull : (s.modSec f).hub.flashFull = s.hub.flashFull := rfl
end modSec

/-! modTest changes hub only, and of the hub tst only. -/

section modTest
variable (s : State) (f : Test → Test)
@[simp] theorem State.modTest_pending : (s.modTest f).pending = s.pending := rfl
@[simp] theorem State.modTest_cells : (s.modTest f).cells = s.cells := rfl
@[simp] theorem State.modTest_blocks : (s.modTest f).blocks = s.blocks := rfl
@[simp] theorem State.modTest_regions : (s.modTest f).regions = s.regions := rfl
@[simp] theorem State.modTest_cues : (s.modTest f).cues = s.cues := rfl
@[simp] theorem State.modTest_hbm : (s.modTest f).hbm = s.hbm := rfl
@[simp] theorem State.modTest_flights : (s.modTest f).flights = s.flights := rfl
@[simp] theorem State.modTest_nextId : (s.modTest f).nextId = s.nextId := rfl
@[simp] theorem State.modTest_jobs : (s.modTest f).jobs = s.jobs := rfl
@[simp] theorem State.modTest_flt : (s.modTest f).flt = s.flt := rfl
@[simp] theorem State.modTest_out : (s.modTest f).out = s.out := rfl
@[simp] theorem State.modTest_fresh : (s.modTest f).fresh = s.fresh := rfl
@[simp] theorem State.modTest_hub_tick : (s.modTest f).hub.tick = s.hub.tick := rfl
@[simp] theorem State.modTest_hub_fab : (s.modTest f).hub.fab = s.hub.fab := rfl
@[simp] theorem State.modTest_hub_bkt : (s.modTest f).hub.bkt = s.hub.bkt := rfl
@[simp] theorem State.modTest_hub_eth : (s.modTest f).hub.eth = s.hub.eth := rfl
@[simp] theorem State.modTest_hub_mail : (s.modTest f).hub.mail = s.hub.mail := rfl
@[simp] theorem State.modTest_hub_pwr : (s.modTest f).hub.pwr = s.hub.pwr := rfl
@[simp] theorem State.modTest_hub_clk : (s.modTest f).hub.clk = s.hub.clk := rfl
@[simp] theorem State.modTest_hub_sec : (s.modTest f).hub.sec = s.hub.sec := rfl
@[simp] theorem State.modTest_hub_hostRgn : (s.modTest f).hub.hostRgn = s.hub.hostRgn := rfl
@[simp] theorem State.modTest_hub_takeover : (s.modTest f).hub.takeover = s.hub.takeover := rfl
@[simp] theorem State.modTest_hub_detourDue : (s.modTest f).hub.detourDue = s.hub.detourDue := rfl
@[simp] theorem State.modTest_hub_latch : (s.modTest f).hub.latch = s.hub.latch := rfl
@[simp] theorem State.modTest_hub_sramCorr : (s.modTest f).hub.sramCorr = s.hub.sramCorr := rfl
@[simp] theorem State.modTest_hub_colErrs : (s.modTest f).hub.colErrs = s.hub.colErrs := rfl
@[simp] theorem State.modTest_hub_cellFails : (s.modTest f).hub.cellFails = s.hub.cellFails := rfl
@[simp] theorem State.modTest_hub_flashCols : (s.modTest f).hub.flashCols = s.hub.flashCols := rfl
@[simp] theorem State.modTest_hub_flashCells : (s.modTest f).hub.flashCells = s.hub.flashCells := rfl
@[simp] theorem State.modTest_hub_flashBlocks : (s.modTest f).hub.flashBlocks = s.hub.flashBlocks := rfl
@[simp] theorem State.modTest_hub_flashRgns : (s.modTest f).hub.flashRgns = s.hub.flashRgns := rfl
@[simp] theorem State.modTest_hub_flashFull : (s.modTest f).hub.flashFull = s.hub.flashFull := rfl
end modTest
/-! What an update gives. -/

section Reads
variable (s : State) (k j : Nat)
@[simp] theorem State.cell_setCell (c : Cell) : (s.setCell k c).cell k = c := mapGet_mapPut_same _ _ _ _
theorem State.cell_setCell_other (c : Cell) {k j : Nat} (h : j ≠ k) : (s.setCell k c).cell j = s.cell j := mapGet_mapPut_other _ _ _ h
@[simp] theorem State.cell_modCell (f : Cell → Cell) : (s.modCell k f).cell k = f (s.cell k) := mapGet_mapPut_same _ _ _ _
theorem State.cell_modCell_other (f : Cell → Cell) {k j : Nat} (h : j ≠ k) : (s.modCell k f).cell j = s.cell j := mapGet_mapPut_other _ _ _ h
@[simp] theorem State.setCell_setCell (c d : Cell) : (s.setCell k c).setCell k d = s.setCell k d := by simp [State.setCell]
@[simp] theorem State.modCell_setCell (f : Cell → Cell) (c : Cell) : (s.setCell k c).modCell k f = s.setCell k (f c) := by simp [State.modCell]
@[simp] theorem State.setCell_modCell (f : Cell → Cell) (c : Cell) : (s.modCell k f).setCell k c = s.setCell k c := by simp [State.modCell]
@[simp] theorem State.modCell_modCell (f g : Cell → Cell) : (s.modCell k f).modCell k g = s.modCell k fun c => g (f c) := by simp [State.modCell]
@[simp] theorem State.blk_modBlk (f : Block → Block) : (s.modBlk k f).blk k = f (s.blk k) := mapGet_mapPut_same _ _ _ _
theorem State.blk_modBlk_other (f : Block → Block) {k j : Nat} (h : j ≠ k) : (s.modBlk k f).blk j = s.blk j := mapGet_mapPut_other _ _ _ h
@[simp] theorem State.rgn_modRgn (f : Region → Region) : (s.modRgn k f).rgn k = f (s.rgn k) := mapGet_mapPut_same _ _ _ _
theorem State.rgn_modRgn_other (f : Region → Region) {k j : Nat} (h : j ≠ k) : (s.modRgn k f).rgn j = s.rgn j := mapGet_mapPut_other _ _ _ h
@[simp] theorem State.modRgn_modRgn (f g : Region → Region) : (s.modRgn k f).modRgn k g = s.modRgn k fun r => g (f r) := by simp [State.modRgn, State.rgn]
@[simp] theorem State.cue_setCue (c : Cue) : (s.setCue k c).cue k = c := mapGet_mapPut_same _ _ _ _
theorem State.cue_setCue_other (c : Cue) {k j : Nat} (h : j ≠ k) : (s.setCue k c).cue j = s.cue j := mapGet_mapPut_other _ _ _ h
@[simp] theorem State.modHub_hub (f : Hub → Hub) : (s.modHub f).hub = f s.hub := rfl
@[simp] theorem State.modClk_hub_clk (f : Clk → Clk) : (s.modClk f).hub.clk = f s.hub.clk := rfl
@[simp] theorem State.modBkt_hub_bkt (f : Buckets → Buckets) : (s.modBkt f).hub.bkt = f s.hub.bkt := rfl
@[simp] theorem State.modFab_hub_fab (f : Fabric → Fabric) : (s.modFab f).hub.fab = f s.hub.fab := rfl
@[simp] theorem State.modEth_hub_eth (f : Eth → Eth) : (s.modEth f).hub.eth = f s.hub.eth := rfl
@[simp] theorem State.modMail_hub_mail (f : Mail → Mail) : (s.modMail f).hub.mail = f s.hub.mail := rfl
@[simp] theorem State.modPwr_hub_pwr (f : Power → Power) : (s.modPwr f).hub.pwr = f s.hub.pwr := rfl
@[simp] theorem State.modSec_hub_sec (f : Sec → Sec) : (s.modSec f).hub.sec = f s.hub.sec := rfl
@[simp] theorem State.port_setPort (x : Port) : (s.setPort k x).port k = x := mapGet_mapPut_same _ _ _ _
theorem State.port_setPort_other (x : Port) {k j : Nat} (h : j ≠ k) : (s.setPort k x).port j = s.port j := mapGet_mapPut_other _ _ _ h
@[simp] theorem State.port_modPort (f : Port → Port) : (s.modPort k f).port k = f (s.port k) := mapGet_mapPut_same _ _ _ _
@[simp] theorem State.mbx_modMbx (f : Mbx → Mbx) : (s.modMbx k f).mbx k = f (s.mbx k) := mapGet_mapPut_same _ _ _ _
theorem State.mbx_modMbx_other (f : Mbx → Mbx) {k j : Nat} (h : j ≠ k) : (s.modMbx k f).mbx j = s.mbx j := mapGet_mapPut_other _ _ _ h
@[simp] theorem State.mbx_modMail_keep (f : Mail → Mail) (h : ∀ m, (f m).mbx = m.mbx) : (s.modMail f).mbx k = s.mbx k := by
  simp [State.mbx, h]
@[simp] theorem State.emit_out (o : Out) : (s.emit o).out = s.out ++ [o] := rfl
@[simp] theorem State.log_flt (r : Rec) : (s.log r).flt = s.flt.push r := rfl
end Reads

/-! Putting a cell back with its events: the cell, and the records at its block's aggregator. -/

theorem State.put_none (s : State) (k : Nat) (c : Cell) : s.put k ⟨c, []⟩ = s.setCell k c := rfl

theorem State.put_fold_cells (l : List Ev) (s : State) (b k : Nat) :
    (l.foldl (fun s e => s.toBlock b (s.cellRec k e)) s).cells = s.cells := by
  induction l generalizing s with
  | nil => rfl
  | cons e t ih => simp [ih]

@[simp] theorem State.cell_put (s : State) (k : Nat) (x : Fx) : (s.put k x).cell k = x.c := by
  simp only [State.put, State.cell, State.put_fold_cells]
  exact mapGet_mapPut_same _ _ _ _

theorem State.cell_put_other (s : State) (x : Fx) {k j : Nat} (h : j ≠ k) : (s.put k x).cell j = s.cell j := by
  simp only [State.put, State.cell, State.put_fold_cells]
  exact mapGet_mapPut_other _ _ _ h

theorem State.put_fold_pending (l : List Ev) (s : State) (b k : Nat) : (l.foldl (fun s e => s.toBlock b (s.cellRec k e)) s).pending = s.pending := by
  induction l generalizing s with
  | nil => rfl
  | cons e t ih => simp [ih]
@[simp] theorem State.put_pending (s : State) (k : Nat) (x : Fx) : (s.put k x).pending = s.pending := by simp [State.put, State.put_fold_pending]
@[simp] theorem State.fx_pending (s : State) (k : Nat) (f : Fx → Fx) : (s.fx k f).pending = s.pending := by simp [State.fx]
theorem State.put_fold_regions (l : List Ev) (s : State) (b k : Nat) : (l.foldl (fun s e => s.toBlock b (s.cellRec k e)) s).regions = s.regions := by
  induction l generalizing s with
  | nil => rfl
  | cons e t ih => simp [ih]
@[simp] theorem State.put_regions (s : State) (k : Nat) (x : Fx) : (s.put k x).regions = s.regions := by simp [State.put, State.put_fold_regions]
@[simp] theorem State.fx_regions (s : State) (k : Nat) (f : Fx → Fx) : (s.fx k f).regions = s.regions := by simp [State.fx]
theorem State.put_fold_cues (l : List Ev) (s : State) (b k : Nat) : (l.foldl (fun s e => s.toBlock b (s.cellRec k e)) s).cues = s.cues := by
  induction l generalizing s with
  | nil => rfl
  | cons e t ih => simp [ih]
@[simp] theorem State.put_cues (s : State) (k : Nat) (x : Fx) : (s.put k x).cues = s.cues := by simp [State.put, State.put_fold_cues]
@[simp] theorem State.fx_cues (s : State) (k : Nat) (f : Fx → Fx) : (s.fx k f).cues = s.cues := by simp [State.fx]
theorem State.put_fold_hbm (l : List Ev) (s : State) (b k : Nat) : (l.foldl (fun s e => s.toBlock b (s.cellRec k e)) s).hbm = s.hbm := by
  induction l generalizing s with
  | nil => rfl
  | cons e t ih => simp [ih]
@[simp] theorem State.put_hbm (s : State) (k : Nat) (x : Fx) : (s.put k x).hbm = s.hbm := by simp [State.put, State.put_fold_hbm]
@[simp] theorem State.fx_hbm (s : State) (k : Nat) (f : Fx → Fx) : (s.fx k f).hbm = s.hbm := by simp [State.fx]
theorem State.put_fold_flights (l : List Ev) (s : State) (b k : Nat) : (l.foldl (fun s e => s.toBlock b (s.cellRec k e)) s).flights = s.flights := by
  induction l generalizing s with
  | nil => rfl
  | cons e t ih => simp [ih]
@[simp] theorem State.put_flights (s : State) (k : Nat) (x : Fx) : (s.put k x).flights = s.flights := by simp [State.put, State.put_fold_flights]
@[simp] theorem State.fx_flights (s : State) (k : Nat) (f : Fx → Fx) : (s.fx k f).flights = s.flights := by simp [State.fx]
theorem State.put_fold_nextId (l : List Ev) (s : State) (b k : Nat) : (l.foldl (fun s e => s.toBlock b (s.cellRec k e)) s).nextId = s.nextId := by
  induction l generalizing s with
  | nil => rfl
  | cons e t ih => simp [ih]
@[simp] theorem State.put_nextId (s : State) (k : Nat) (x : Fx) : (s.put k x).nextId = s.nextId := by simp [State.put, State.put_fold_nextId]
@[simp] theorem State.fx_nextId (s : State) (k : Nat) (f : Fx → Fx) : (s.fx k f).nextId = s.nextId := by simp [State.fx]
theorem State.put_fold_jobs (l : List Ev) (s : State) (b k : Nat) : (l.foldl (fun s e => s.toBlock b (s.cellRec k e)) s).jobs = s.jobs := by
  induction l generalizing s with
  | nil => rfl
  | cons e t ih => simp [ih]
@[simp] theorem State.put_jobs (s : State) (k : Nat) (x : Fx) : (s.put k x).jobs = s.jobs := by simp [State.put, State.put_fold_jobs]
@[simp] theorem State.fx_jobs (s : State) (k : Nat) (f : Fx → Fx) : (s.fx k f).jobs = s.jobs := by simp [State.fx]
theorem State.put_fold_flt (l : List Ev) (s : State) (b k : Nat) : (l.foldl (fun s e => s.toBlock b (s.cellRec k e)) s).flt = s.flt := by
  induction l generalizing s with
  | nil => rfl
  | cons e t ih => simp [ih]
@[simp] theorem State.put_flt (s : State) (k : Nat) (x : Fx) : (s.put k x).flt = s.flt := by simp [State.put, State.put_fold_flt]
@[simp] theorem State.fx_flt (s : State) (k : Nat) (f : Fx → Fx) : (s.fx k f).flt = s.flt := by simp [State.fx]
theorem State.put_fold_hub (l : List Ev) (s : State) (b k : Nat) : (l.foldl (fun s e => s.toBlock b (s.cellRec k e)) s).hub = s.hub := by
  induction l generalizing s with
  | nil => rfl
  | cons e t ih => simp [ih]
@[simp] theorem State.put_hub (s : State) (k : Nat) (x : Fx) : (s.put k x).hub = s.hub := by simp [State.put, State.put_fold_hub]
@[simp] theorem State.fx_hub (s : State) (k : Nat) (f : Fx → Fx) : (s.fx k f).hub = s.hub := by simp [State.fx]
theorem State.put_fold_out (l : List Ev) (s : State) (b k : Nat) : (l.foldl (fun s e => s.toBlock b (s.cellRec k e)) s).out = s.out := by
  induction l generalizing s with
  | nil => rfl
  | cons e t ih => simp [ih]
@[simp] theorem State.put_out (s : State) (k : Nat) (x : Fx) : (s.put k x).out = s.out := by simp [State.put, State.put_fold_out]
@[simp] theorem State.fx_out (s : State) (k : Nat) (f : Fx → Fx) : (s.fx k f).out = s.out := by simp [State.fx]
theorem State.put_fold_fresh (l : List Ev) (s : State) (b k : Nat) : (l.foldl (fun s e => s.toBlock b (s.cellRec k e)) s).fresh = s.fresh := by
  induction l generalizing s with
  | nil => rfl
  | cons e t ih => simp [ih]
@[simp] theorem State.put_fresh (s : State) (k : Nat) (x : Fx) : (s.put k x).fresh = s.fresh := by simp [State.put, State.put_fold_fresh]
@[simp] theorem State.fx_fresh (s : State) (k : Nat) (f : Fx → Fx) : (s.fx k f).fresh = s.fresh := by simp [State.fx]
@[simp] theorem State.cell_fx (s : State) (k : Nat) (f : Fx → Fx) : (s.fx k f).cell k = (f (Fx.of (s.cell k))).c := State.cell_put s k _

end Sys2Proof.Machine
end

