-- ==== Sys2Proof/Laws/Dispatch.lean ====
section
/-! SUPPORT. What dispatch does with an instruction that the cell takes: the one place where it is unfolded. -/
namespace Sys2Proof.Machine

/-- Putting a cell back does not depend on what stood there. -/
@[simp] theorem put_setCell (s : State) (k : Nat) (c : Cell) (x : Fx) : (s.setCell k c).put k x = s.put k x := by
  simp only [State.put, State.setCell_setCell]

@[simp] theorem put_modCell (s : State) (k : Nat) (f : Cell → Cell) (x : Fx) : (s.modCell k f).put k x = s.put k x := put_setCell _ _ _ _

@[simp] theorem fx_modCell (s : State) (k : Nat) (f : Cell → Cell) (g : Fx → Fx) : (s.modCell k f).fx k g = s.put k (g (Fx.of (f (s.cell k)))) := by
  simp [State.fx]

theorem setSeq_same (c : Cell) (f : Seq → Seq) (h : f c.seq = c.seq) : c.setSeq f = c := by
  cases c; simp_all [Cell.setSeq]

theorem clearHeld_same (c : Cell) (h : c.seq.held = none) : (c.setSeq fun q => { q with held := none }) = c := by
  refine setSeq_same c _ ?_
  cases hq : c.seq
  simp_all

theorem pc_next (p : BitVec 17) : BitVec.ofNat 17 (p.toNat + 8) = p + 8 := by
  apply BitVec.eq_of_toNat_eq
  simp [BitVec.toNat_add]

/-- Going to the next instruction. -/
theorem Fx.next_eq (x : Fx) : x.next = x.map (Cell.setSeq Seq.skip) := by
  simp only [Fx.next, Fx.goto, Fx.map, Cell.setSeq, Seq.skip, pc_next]

/-- An instruction is numbered, and the next one stands at the PC. -/
theorem Fx.number_eq (x : Fx) : x.number = x.map (Cell.setSeq Seq.onward) := by
  simp only [Fx.number, Fx.next_eq, Fx.map, Cell.setSeq, Seq.onward, Seq.skip]

/-- Going to an offset inside the store. -/
theorem Fx.goto_in (x : Fx) (n : Nat) (h : n < 0x20000) : x.goto n = x.map (Cell.setSeq fun q => { q with pc := BitVec.ofNat 17 n, pcOut := false }) := by
  have e : Nat.ble 0x20000 n = false := by
    cases hb : Nat.ble 0x20000 n
    · rfl
    · have := Nat.le_of_ble_eq_true hb; omega
  simp only [Fx.goto, e]

/-- An instruction that the cell takes is attempted. -/
theorem dispatch_ready {s : State} {k : Nat} {p : Pred} {op : CellOp} (seen : List MarginObs) (h : Ready s k p op) :
    dispatch s k p op seen = attempt s k ⟨p, op, seen, false⟩ := by
  simp only [dispatch, arrive, h.may, h.free, h.fetch, Option.isNone_none, Bool.and_self, if_true, h.form, h.guard, Bool.not_true, Bool.false_eq_true, if_false]

/-- A control or scalar instruction that no stop suppresses is executed at dispatch. -/
theorem attempt_control {s : State} {k : Nat} {p : Pred} {op : CellOp} {seen : List MarginObs} (h : Sound s k p op seen) (hu : unitOf op = none)
    (hs : (s.cell k).seq.mutes op = false) :
    attempt s k ⟨p, op, seen, false⟩ = controlStep (s.modCell k id) k (s.taken k p op seen) ⟨p, op, seen, false⟩ := by
  have hc := clearHeld_same (s.cell k) h.free
  have hm : s.modCell k (Cell.setSeq fun q => { q with held := none }) = s.modCell k id := by
    simp only [State.modCell, hc, id]
  have hi : (s.modCell k id).identOf k = s.identOf k := by simp [State.identOf, State.rgn]
  have hj : (s.modCell k id).jobOf (cellRgn k) = s.jobOf (cellRgn k) := by simp [State.jobOf, State.job, State.rgn]
  have hr := h.range
  simp only [State.taken] at hr
  simp only [attempt, hm, State.cell_modCell, id, hs, h.regs, h.format, hi, hj, hr, hu, State.taken, Bool.false_eq_true, if_false]

theorem dispatch_control {s : State} {k : Nat} {p : Pred} {op : CellOp} {seen : List MarginObs} (h : Sound s k p op seen) (hu : unitOf op = none)
    (hs : (s.cell k).seq.mutes op = false) : dispatch s k p op seen = controlStep (s.modCell k id) k (s.taken k p op seen) ⟨p, op, seen, false⟩ := by
  rw [dispatch_ready seen h.toReady, attempt_control h hu hs]

/-- An instruction whose unit's queue is empty is put there and the unit tries to issue it. -/
theorem attempt_open {s : State} {k : Nat} {p : Pred} {op : CellOp} {seen : List MarginObs} {u : CellUnit} (h : Open s k p op seen u) :
    attempt s k ⟨p, op, seen, false⟩ = tryIssue (enqueue (s.modCell k id) k u (s.taken k p op seen)) k u := by
  have hc := clearHeld_same (s.cell k) h.free
  have hm : s.modCell k (Cell.setSeq fun q => { q with held := none }) = s.modCell k id := by
    simp only [State.modCell, hc, id]
  have hsup : (s.cell k).seq.mutes op = false := by
    have := h.unit
    cases op <;> simp_all [unitOf, Seq.mutes]
  have hi : (s.modCell k id).identOf k = s.identOf k := by simp [State.identOf, State.rgn]
  have hj : (s.modCell k id).jobOf (cellRgn k) = s.jobOf (cellRgn k) := by simp [State.jobOf, State.job, State.rgn]
  have hr := h.range
  have hf := h.frames
  simp only [State.taken] at hr hf
  simp only [attempt, hm, State.cell_modCell, id, hsup, h.regs, h.format, hi, hj, hr, h.unit, h.queue, hf, State.taken, Bool.false_eq_true, if_false, List.length_nil,
    ne_eq, not_true_eq_false, show ¬ (4 ≤ 0) by omega]

/-- The cell once an instruction other than LD stands in its unit's queue. -/
theorem enqueue_cell {s : State} {k : Nat} {p : Pred} {op : CellOp} {seen : List MarginObs} {u : CellUnit} (h : Ready s k p op) (hld : ∀ rd ra imm, op ≠ .ld rd ra imm) :
    enqueue (s.modCell k id) k u (s.taken k p op seen) =
      s.setCell k ((s.sent k).setUnits fun v => v.setQueue u ((s.cell k).units.queue u ++ [s.taken k p op seen])) := by
  have hop : (s.taken k p op seen).op = op := rfl
  simp only [enqueue, fx_modCell, id, hop, Fx.number_eq]
  cases op with
  | ld rd ra imm => exact absurd rfl (hld rd ra imm)
  | _ => rfl

/-! Room in the activity allowance does not depend on what a cell that is no more active holds. -/

theorem filter_mapPut {α : Type} (d : α) (f : Nat × α → Bool) (m : SMap α) (k : Nat) (v : α) (hd : f (k, d) = false)
    (h : f (k, v) = f (k, mapGet d m k)) : ((mapPut m k v).filter f).length = (m.filter f).length := by
  induction m with
  | nil =>
    have : f (k, v) = false := by rw [h]; exact hd
    simp [mapPut, this]
  | cons e t ih =>
    obtain ⟨j, w⟩ := e
    simp only [mapPut]
    by_cases h1 : k < j
    · have h2 : f (k, v) = false := by rw [h]; simp [mapGet, h1, show k ≠ j by omega, hd]
      simp [h1, h2]
    · by_cases h2 : k = j
      · subst h2
        have h3 : f (k, v) = f (k, w) := by simpa [mapGet] using h
        simp [List.filter_cons, h3]
        split <;> rfl
      · have := ih (by simpa [mapGet, h1, h2] using h)
        simp only [h1, h2, if_false, List.filter_cons]
        split <;> simp [this]

theorem rampRoom_setCell (s : State) (k : Nat) (c : Cell) (h : c.active = (s.cell k).active) : (s.setCell k c).rampRoom k = s.rampRoom k := by
  have h1 : (s.setCell k c).activeIn (cellRgn k) = s.activeIn (cellRgn k) := by
    refine filter_mapPut Cell.reset _ s.cells k c ?_ ?_
    · simp [Cell.active, Cell.reset, Units.reset]
    · simp only [h]; rfl
  have h2 : (s.setCell k c).rpwr (cellRgn k) = s.rpwr (cellRgn k) := rfl
  simp only [State.rampRoom, State.cell_setCell, h, h1, h2]

theorem setQueue_same (v : Units) (u : CellUnit) (q : QI) (h : v.queue u = []) : (v.setQueue u (v.queue u ++ [q])).setQueue u [] = v := by
  cases v
  cases u <;> simp_all [Units.setQueue, Units.queue]

theorem queue_setQueue (v : Units) (u : CellUnit) (l : List QI) : (v.setQueue u l).queue u = l := by cases u <;> rfl

/-- The cell in which a unit issues an instruction that it takes at dispatch. -/
theorem sent_issue (s : State) (k : Nat) (u : CellUnit) (q : QI) (h : (s.cell k).units.queue u = []) :
    ((s.sent k).setUnits fun v => v.setQueue u ((s.cell k).units.queue u ++ [q])).setUnits (fun v => v.setQueue u []) = s.sent k := by
  have := setQueue_same (s.cell k).units u q h
  simp only [Cell.setUnits, State.sent, Cell.setSeq, this]

/-- A vector instruction that finds its unit free issues at dispatch. -/
theorem dispatch_vector {s : State} {k : Nat} {p : Pred} {kd : VecKind} {f : VecF} {seen : List MarginObs} (h : Open s k p (.vec kd f) seen .vector)
    (hv : (s.cell k).units.vec = none) (hr : s.rampRoom k = true) :
    dispatch s k p (.vec kd f) seen =
      let r := issueVector (isLead (cellNo k)) (s.seedOf k) (Fx.of (s.sent k)) (s.taken k p (.vec kd f) seen)
      s.put k (r.1.map (Cell.setUnits fun v => { v with vec := some r.2 })) := by
  rw [dispatch_ready seen h.toReady, attempt_open h, enqueue_cell h.toReady (by simp)]
  have e1 : ∀ c : Cell, c.active = (s.cell k).active → (s.setCell k c).rampRoom k = true := fun c hc => by rw [rampRoom_setCell s k c hc, hr]
  have e2 := e1 ((s.sent k).setUnits fun v => v.setQueue .vector ((s.cell k).units.queue .vector ++ [s.taken k p (.vec kd f) seen])) rfl
  have e3 : ((s.sent k).setUnits fun v => v.setQueue .vector ((s.cell k).units.queue .vector ++ [s.taken k p (.vec kd f) seen])).units.queue .vector
      = [s.taken k p (.vec kd f) seen] := by simp [Cell.setUnits, queue_setQueue, h.queue]
  have e4 : ((s.sent k).setUnits fun v => v.setQueue .vector ((s.cell k).units.queue .vector ++ [s.taken k p (.vec kd f) seen])).units.vec = none := hv
  simp only [tryIssue, State.cell_setCell, e3, e4, e2, sent_issue s k .vector _ h.queue, Option.isSome_none, Bool.not_true, Bool.or_self, Bool.false_eq_true, if_false, put_setCell]
  rfl

/-- An accumulator instruction that finds its unit free issues at dispatch. -/
theorem dispatch_acc {s : State} {k : Nat} {p : Pred} {op : CellOp} {seen : List MarginObs} (h : Open s k p op seen .acc)
    (hv : (s.cell k).units.acc = none) :
    dispatch s k p op seen =
      let r := issueAcc (isLead (cellNo k)) (Fx.of (s.sent k)) (s.taken k p op seen)
      s.put k (r.1.map (Cell.setUnits fun v => { v with acc := some r.2 })) := by
  rw [dispatch_ready seen h.toReady, attempt_open h, enqueue_cell h.toReady (by have := h.unit; intro rd ra imm e; subst e; simp [unitOf] at this)]
  have e3 : ((s.sent k).setUnits fun v => v.setQueue .acc ((s.cell k).units.queue .acc ++ [s.taken k p op seen])).units.queue .acc
      = [s.taken k p op seen] := by simp [Cell.setUnits, queue_setQueue, h.queue]
  have e4 : ((s.sent k).setUnits fun v => v.setQueue .acc ((s.cell k).units.queue .acc ++ [s.taken k p op seen])).units.acc = none := hv
  simp only [tryIssue, State.cell_setCell, e3, e4, sent_issue s k .acc _ h.queue, Option.isSome_none, Bool.false_eq_true, if_false, put_setCell]

/-- An array instruction whose track and slots allow it issues at dispatch. -/
theorem dispatch_array {s : State} {k : Nat} {p : Pred} {op : CellOp} {seen : List MarginObs} (h : Open s k p op seen .array)
    (ha : (s.cell k).arrayReady (s.taken k p op seen) = true) (hr : onCompute op = true → s.rampRoom k = true) :
    dispatch s k p op seen =
      let r := issueArray (isLead (cellNo k)) (Fx.of (s.sent k)) (s.taken k p op seen)
      s.put k (r.1.map (Cell.setUnits fun v => if onCompute op then { v with comp := some r.2 } else { v with wload := some r.2 })) := by
  rw [dispatch_ready seen h.toReady, attempt_open h, enqueue_cell h.toReady (by have := h.unit; intro rd ra imm e; subst e; simp [unitOf] at this)]
  have e1 : ∀ c : Cell, c.active = (s.cell k).active → (onCompute op && !(s.setCell k c).rampRoom k) = false := fun c hc => by
    rw [rampRoom_setCell s k c hc]
    cases ho : onCompute op
    · rfl
    · simp [hr ho]
  have e2 := e1 ((s.sent k).setUnits fun v => v.setQueue .array ((s.cell k).units.queue .array ++ [s.taken k p op seen])) rfl
  have e3 : ((s.sent k).setUnits fun v => v.setQueue .array ((s.cell k).units.queue .array ++ [s.taken k p op seen])).units.queue .array
      = [s.taken k p op seen] := by simp [Cell.setUnits, queue_setQueue, h.queue]
  have e4 : ((s.sent k).setUnits fun v => v.setQueue .array ((s.cell k).units.queue .array ++ [s.taken k p op seen])).arrayReady (s.taken k p op seen) = true := ha
  have e5 : (s.taken k p op seen).op = op := rfl
  simp only [tryIssue, State.cell_setCell, e3, e4, e5, e2, sent_issue s k .array _ h.queue, Bool.not_true, Bool.or_self, Bool.false_eq_true, if_false, put_setCell]

/-- A memory instruction other than LD that finds its engine free issues at dispatch. -/
theorem dispatch_memory {s : State} {k : Nat} {p : Pred} {op : CellOp} {seen : List MarginObs} (h : Open s k p op seen .memory)
    (hl : ∀ rd ra imm, op ≠ .ld rd ra imm) (hm : (s.cell k).units.mem = none) (ho : (s.cell k).awaitsData = false) :
    dispatch s k p op seen = issueMem (s.setCell k (s.sent k)) k (s.taken k p op seen) := by
  rw [dispatch_ready seen h.toReady, attempt_open h, enqueue_cell h.toReady hl]
  have e3 : ((s.sent k).setUnits fun v => v.setQueue .memory ((s.cell k).units.queue .memory ++ [s.taken k p op seen])).units.queue .memory
      = [s.taken k p op seen] := by simp [Cell.setUnits, queue_setQueue, h.queue]
  have e4 : ((s.sent k).setUnits fun v => v.setQueue .memory ((s.cell k).units.queue .memory ++ [s.taken k p op seen])).units.mem = none := hm
  have e5 : ((s.sent k).setUnits fun v => v.setQueue .memory ((s.cell k).units.queue .memory ++ [s.taken k p op seen])).awaitsData = false := ho
  simp only [tryIssue, State.cell_setCell, e3, e4, e5, sent_issue s k .memory _ h.queue, Option.isSome_none, Bool.or_self, Bool.false_eq_true, if_false, State.setCell_setCell]

/-- LD issues at dispatch where its engine is free, and its register is pending. -/
theorem dispatch_ld {s : State} {k : Nat} {p : Pred} {rd ra : AReg} {imm : BitVec 16} {seen : List MarginObs} (h : Open s k p (.ld rd ra imm) seen .memory)
    (hm : (s.cell k).units.mem = none) (ho : (s.cell k).awaitsData = false) :
    dispatch s k p (.ld rd ra imm) seen =
      issueMem (s.setCell k ((s.sent k).setSeq fun q => { q with pendingA := setBit q.pendingA rd.toNat true })) k (s.taken k p (.ld rd ra imm) seen) := by
  have e0 : enqueue (s.modCell k id) k .memory (s.taken k p (.ld rd ra imm) seen) =
      s.setCell k ((((s.sent k).setSeq fun q => { q with pendingA := setBit q.pendingA rd.toNat true }).setUnits fun v =>
        v.setQueue .memory ((s.cell k).units.queue .memory ++ [s.taken k p (.ld rd ra imm) seen]))) := by
    have hop : (s.taken k p (.ld rd ra imm) seen).op = .ld rd ra imm := rfl
    simp only [enqueue, fx_modCell, id, hop, Fx.number_eq]
    rfl
  rw [dispatch_ready seen h.toReady, attempt_open h, e0]
  have e6 := setQueue_same (s.cell k).units .memory (s.taken k p (.ld rd ra imm) seen) h.queue
  have e3 : (s.cell k).units.queue .memory = [] := h.queue
  simp only [tryIssue, State.cell_setCell, Cell.setUnits, queue_setQueue, State.sent, Cell.setSeq, e3, List.nil_append]
  rw [e3, List.nil_append] at e6
  have e4 : ((s.cell k).units.setQueue .memory [s.taken k p (.ld rd ra imm) seen]).mem = none := hm
  have e5 : (((s.cell k).units.setQueue .memory [s.taken k p (.ld rd ra imm) seen]).outst.any fun o => o.block.isSome || o.level == 0) = false := ho
  simp only [Cell.awaitsData, e4, e5, e6, Option.isSome_none, Bool.or_self, Bool.false_eq_true, if_false, State.setCell_setCell]

end Sys2Proof.Machine
end

