-- ==== Sys2Proof/Tests/Slice0.lean ====
section
/-! SUPPORT. Witnesses that the hypotheses of the statements can be met together, well-formedness checks that refuse, words laid out by hand, and single steps with results worked out from the rules. -/
namespace Sys2Proof.Tests

/-! Elaborated one after another: many theorems at once need more threads than the check allows. -/
set_option Elab.async false

open Machine

/-! Small states. -/

/-- A job of one region that runs. -/
def job7 : Job :=
  { id := 7, session := 1, keySlot := 0, img := [], pos := 0, regions := 1, rootIdent := 0, root := true, t0 := some 0, begun := true, epoch := 0, sTick := 0, kSteps := 0, kSrc := 0,
    checks := 0, selfSteps := 0, faulted := false, cause := none, faultDue := none, fired := [], staged := [], applied := [], chg := none, nextInst := [], homePorts := [], beats := [],
    events := [], lostEvents := 0, kOf := [], doneAt := [], slack := none, ran := 0, ended := 0, pool := none, allocs := [], reports := [], allocDue := [] }
/-- Cell 0, a lead cell, runs a program of eight instructions. -/
def cellOn : Cell := { Cell.reset with seq := { Seq.reset with state := 1, imgLen := 64 } }
/-- Region 0 runs the job. -/
def rgnOn : Region := { Region.reset with state := 5, scrubPending := false, owner := some 7, ident := 0 }
/-- The hub runs. -/
def hubOn : Hub := { Hub.reset with clk := { Clk.reset with hubReady := true, stage := .ready, pclk := true, refOk := true, sclkOk := true, pwrEn := true, bulk := true } }
/-- A state with one cell that runs. -/
def st (c : Cell) : State := { State.reset with cells := [(0, c)], regions := [(0, rgnOn)], jobs := [job7], hub := hubOn }
/-- Cell 0 of block 0 of region 0. -/
def c0 : CellId := ⟨0, 0, 0⟩
/-- P0 without negation. -/
def always : Pred := ⟨0, false⟩
/-- The cell with a sequencer changed. -/
def onSeq (f : Seq → Seq) : Cell := { cellOn with seq := f cellOn.seq }

/-- Every instruction that the first stage accepts is ready on a cell that runs. -/
theorem st_ready (op : CellOp) (h : stage1 op = true) (h2 : cellOn.seq.pends op = false) : Ready (st cellOn) 0 always op :=
  ⟨⟨by decide, rfl, by decide, h⟩, by decide, h2⟩
/-- And sound, if its formats and operands are. -/
theorem st_sound (op : CellOp) (seen : List MarginObs) (h : stage1 op = true) (h2 : cellOn.seq.pends op = false) (h3 : formatBad op = false)
    (h4 : rangeBad true 0 (some job7) cellOn (mkQI cellOn always op seen) = false) : Sound (st cellOn) 0 always op seen :=
  ⟨st_ready op h h2, h3, h4⟩
/-! Witnesses: states and operands that meet the hypotheses of each statement, clause by clause. -/

theorem witness_EmptyQueueCountsTick : (st cellOn).pending = [] ∧ (st cellOn).hub.clk.hubReady = true ∧ (st cellOn).hub.mail.waiting = [] := ⟨rfl, rfl, rfl⟩

theorem witness_ScalarInstructionsWriteTheirResult :
    Ready (st cellOn) 0 always (.li 15 0xFFFFFFFF) ∧ Ready (st cellOn) 0 always (.alu .add 0 15 15) ∧ Ready (st cellOn) 0 always (.addi 0 15 0x800000)
      ∧ Ready (st cellOn) 0 always (.alu .sub 1 1 1) ∧ Ready (st cellOn) 0 always (.alu .and 2 1 0) ∧ Ready (st cellOn) 0 always (.alu .or 2 1 0)
      ∧ Ready (st cellOn) 0 always (.shift false ⟨1, 2, 3, true, false, 31⟩) ∧ Ready (st cellOn) 0 always (.shift true ⟨1, 2, 3, false, true, 0⟩)
      ∧ Ready (st cellOn) 0 always (.cmp ⟨0, 1, 2, true, 5, 0x800000⟩) ∧ Ready (st cellOn) 0 always .nop :=
  ⟨st_ready _ rfl rfl, st_ready _ rfl rfl, st_ready _ rfl rfl, st_ready _ rfl rfl, st_ready _ rfl rfl, st_ready _ rfl rfl, st_ready _ rfl rfl, st_ready _ rfl rfl,
   st_ready _ rfl rfl, st_ready _ rfl rfl⟩

/-- An open loop of L1 that ends at instruction 0. -/
def inLoop : State := st (onSeq fun q => { q with loops := [⟨false, 0, 0⟩, ⟨true, 0, 0⟩, ⟨false, 0, 0⟩, ⟨false, 0, 0⟩] })
theorem witness_LoopsAndBranches :
    (Sound (st cellOn) 0 always (.loop ⟨1, false, 0, 7, 1⟩) [] ∧ ((st cellOn).cell 0).seq.loops.getD 1 ⟨false, 0, 0⟩ = ⟨false, 0, 0⟩ ∧ 0 + 8 * 7 + 8 < 0x20000)
      ∧ (Ready inLoop 0 always (.endloop 1) ∧ (inLoop.cell 0).seq.loops.getD 1 ⟨false, 0, 0⟩ = ⟨true, 0, 0⟩)
      ∧ Ready (st cellOn) 0 always (.br 16383) ∧ (0 : Int) + 8 * (16383#15).toInt < 0x20000 ∧ Ready (st cellOn) 0 always (.brp 3) ∧ ((st cellOn).cell 0).seq.reg 3 = 0
      ∧ ((st cellOn).cell 0).seq.loops.length = 4
      ∧ (Sound inLoop 0 always (.loop ⟨1, false, 0, 7, 1⟩) [] ∧ ((inLoop.cell 0).seq.loops.getD 1 ⟨false, 0, 0⟩).opened = true)
      ∧ Ready inLoop 0 always (.endloop 0) ∧ ((inLoop.cell 0).seq.loops.getD 0 ⟨false, 0, 0⟩).opened = false := by
  refine ⟨⟨st_sound _ _ rfl rfl rfl rfl, rfl, by decide⟩, ⟨⟨⟨by decide, rfl, by decide, rfl⟩, by decide, rfl⟩, rfl⟩, st_ready _ rfl rfl, by decide, st_ready _ rfl rfl, rfl, rfl,
    ⟨⟨⟨⟨by decide, rfl, by decide, rfl⟩, by decide, rfl⟩, rfl, by decide⟩, rfl⟩, ⟨⟨by decide, rfl, by decide, rfl⟩, by decide, rfl⟩, rfl⟩

theorem witness_FalsePredicateSkips : Arrives (st cellOn) 0 .swatch ∧ ((st cellOn).cell 0).seq.holds ⟨7, false⟩ = false := ⟨(st_ready .swatch rfl rfl).toArrives, rfl⟩

/-- A0 is pending. -/
def pendA : State := st (onSeq fun q => { q with pendingA := 1 })
/-- The accumulator queue holds four instructions. -/
def fullAcc : State := let i := mkQI cellOn always .apromo []; st { cellOn with units := { cellOn.units with accQ := [i, i, i, i] } }
theorem witness_DispatchWaitsOrStops :
    (Arrives pendA 0 (.addi 1 0 0) ∧ (pendA.cell 0).seq.holds always = true ∧ (pendA.cell 0).seq.mutes (.addi 1 0 0) = false ∧ (0 : AReg) ∈ regsOf (.addi 1 0 0)
        ∧ (pendA.cell 0).seq.pendingA.getLsbD 0 = true)
      ∧ (Sound fullAcc 0 always .apromo [] ∧ unitOf .apromo = some .acc ∧ 4 ≤ ((fullAcc.cell 0).units.queue .acc).length)
      ∧ ((st (onSeq fun q => { q with wait := some .epoch })).cell 0).seq.wait = some .epoch
      ∧ ((st (onSeq fun q => { q with held := some ⟨always, .nop, [], false⟩ })).cell 0).seq.held = some ⟨always, .nop, [], false⟩
      ∧ (decodeCell 0x7000000000000000 = none ∧ (st cellOn).mayDispatch 0 = true ∧ ((st cellOn).cell 0).seq.held = none ∧ (st cellOn).fetchStop 0 = none)
      ∧ (((st cellOn).cell 0).seq.running = true ∧ ((st cellOn).rgn 0).assigned = true ∧ wantedLine ((st cellOn).cell 0).seq = some 0 ∧ ((st cellOn).blk 0).istoreErrs = []) := by
  refine ⟨⟨⟨by decide, rfl, by decide, rfl⟩, rfl, rfl, by decide, rfl⟩,
    ⟨⟨⟨⟨by decide, rfl, by decide, rfl⟩, by decide, rfl⟩, rfl, by decide⟩, rfl, by decide⟩, rfl, rfl, ⟨by decide, by decide, rfl, by decide⟩, ⟨by decide, by decide, by decide, rfl⟩⟩

/-- The accumulator path holds instruction 0. -/
def busyAcc : State := st { cellOn with seq := { cellOn.seq with nextSeq := 1 }, units := { cellOn.units with accQ := [mkQI cellOn always .apromo []] } }
/-- Arrival counter 15 stands at 3. -/
def arrived3 : Cell := cellOn.setMr fun r => { r with arrival := setAt r.arrival 15 (3, false) }
/-- A remote write of the cell is outstanding. -/
def outCell : Cell := { cellOn with units := { cellOn.units with outst := [⟨0, 1, 1, 0, true, none⟩] } }
/-- The cell waits. -/
def waitCell (w : Wait) (c : Cell) : Cell := { c with seq := { c.seq with wait := some w } }
theorem witness_WaitsHoldAndEnd :
    (Ready (st cellOn) 0 always .halt ∧ ((st cellOn).cell 0).fenced 0 0 = true) ∧ (Ready (st cellOn) 0 always (.fence 4) ∧ ((st cellOn).cell 0).fenced 4 0 = true)
      ∧ (Ready (st arrived3) 0 always (.waitc ⟨15, false, 0, 3⟩) ∧ 3 ≤ ((st arrived3).cell 0).arrivals 15) ∧ (Ready (st arrived3) 0 always (.waitc ⟨15, false, 0, 4⟩) ∧ ((st arrived3).cell 0).arrivals 15 < 4)
      ∧ (Sound (st cellOn) 0 always (.cuewait ⟨127, 0, 0⟩) [] ∧ reached ((st cellOn).cue 127).value 0 = true) ∧ (Sound (st cellOn) 0 always (.cuewait ⟨128, 0, 1⟩) [] ∧ reached ((st cellOn).cue 128).value 1 = false)
      ∧ (Ready busyAcc 0 always .halt ∧ (busyAcc.cell 0).fenced 0 1 = false) ∧ (Ready (st { outCell with seq := { cellOn.seq with nextSeq := 1 } }) 0 always (.fence 1)
        ∧ ((st { outCell with seq := { cellOn.seq with nextSeq := 1 } }).cell 0).fenced 1 1 = false)
      ∧ ((st (waitCell (.cue 5 0) cellOn)).cell 0).seq.wait = some (.cue 5 0) ∧ reached ((st (waitCell (.cue 5 0) cellOn)).cue 5).value 0 = true
      ∧ (((st (waitCell (.ctr 15 3 0) arrived3)).cell 0).seq.wait = some (.ctr 15 3 0) ∧ 3 ≤ ((st (waitCell (.ctr 15 3 0) arrived3)).cell 0).arrivals 15)
      ∧ (((st (waitCell (.fence 2 0) cellOn)).cell 0).seq.wait = some (.fence 2 0) ∧ ((st (waitCell (.fence 2 0) cellOn)).cell 0).fenced 2 0 = true)
      ∧ (let s := st (waitCell (.ctr 15 3 (2 ^ 24)) cellOn); (s.cell 0).seq.wait = some (.ctr 15 3 (2 ^ 24)) ∧ (s.cell 0).seq.held = none ∧ (s.cell 0).seq.stopPending = false ∧ (s.cell 0).seq.running = true
        ∧ (s.cell 0).arrivals 15 < 3 ∧ s.timeoutOf 0 < 2 ^ 24) := by
  refine ⟨⟨st_ready _ rfl rfl, by decide⟩, ⟨st_ready _ rfl rfl, by decide⟩, ⟨⟨⟨by decide, rfl, by decide, rfl⟩, by decide, rfl⟩, by decide⟩, ⟨⟨⟨by decide, rfl, by decide, rfl⟩, by decide, rfl⟩, by decide⟩,
    ⟨st_sound _ _ rfl rfl rfl rfl, by decide⟩, ⟨st_sound _ _ rfl rfl rfl rfl, by decide⟩, ⟨⟨⟨by decide, rfl, by decide, rfl⟩, by decide, rfl⟩, by decide⟩,
    ⟨⟨⟨by decide, rfl, by decide, rfl⟩, by decide, rfl⟩, by decide⟩, rfl, by decide, ⟨rfl, by decide⟩, ⟨rfl, by decide⟩, ⟨rfl, rfl, rfl, rfl, by decide, by decide⟩⟩

theorem witness_SignalsCountOnCues :
    (Sound (st cellOn) 0 always (.cuesig ⟨true, 511, false, 0, 0, false, 1⟩) [] ∧ ((st cellOn).cell 0).seq.sigs.length < 4) ∧ Sound (st cellOn) 0 always (.cuesig ⟨false, 128, false, 0, 0, false, 65535⟩) []
      ∧ (((st (onSeq fun q => { q with sigs := [⟨128, 1, true, 0, none⟩] })).cell 0).seq.sigs = [⟨128, 1, true, 0, none⟩]
        ∧ ((st (onSeq fun q => { q with sigs := [⟨128, 1, true, 0, none⟩] })).cell 0).visible 0 0 (sigScope 0 ⟨128, 1, true, 0, none⟩) 0 = true ∧ ((st cellOn).cue 128).armed = false
        ∧ (st cellOn).cueLost 128 = false ∧ ({ st cellOn with regions := [(0, { rgnOn with state := 7 })] } : State).cueLost 0 = true) :=
  ⟨⟨st_sound _ _ rfl rfl rfl rfl, by decide⟩, st_sound _ _ rfl rfl rfl rfl, rfl, by decide, rfl, by decide, by decide⟩

/-- A weight-class window spans the scratchpad. -/
def windowed : Cell := cellOn.setMr fun r => { r with win := setAt r.win 0 (BitVec.ofNat 32 (512 * 2 ^ 9 + 2 ^ 19 + 2 ^ 20)) }
theorem witness_SetcfgConfigures :
    Sound (st cellOn) 0 always (.setcfg ⟨1, false, 0, 255⟩) [] ∧ Sound (st cellOn) 0 always (.setcfg ⟨2, false, 0, 1⟩) [] ∧ Sound (st windowed) 0 always (.setcfg ⟨0x13, false, 0, 0x5FE⟩) [] :=
  ⟨st_sound _ _ rfl rfl rfl rfl, st_sound _ _ rfl rfl rfl rfl, ⟨⟨⟨by decide, rfl, by decide, rfl⟩, by decide, rfl⟩, rfl, by decide⟩⟩
/-- What `Open` asks of an instruction on cell 0 of a small state, as one check. -/
def opens (c : Cell) (op : CellOp) (seen : List MarginObs) (u : CellUnit) : Bool :=
  (st c).mayDispatch 0 && c.seq.held.isNone && ((st c).fetchStop 0).isNone
    && stage1 op && !c.seq.pends op && !formatBad op && !rangeBad true 0 (some job7) c (mkQI c always op seen) && decide (unitOf op = some u) && (c.units.queue u).isEmpty
    && framesOf c (mkQI c always op seen) &&& c.busyOthers u == 0
theorem opens_open {c : Cell} {op : CellOp} {seen : List MarginObs} {u : CellUnit} (h : opens c op seen u = true) : Open (st c) 0 always op seen u := by
  simp only [opens, Bool.and_eq_true, decide_eq_true_eq, Bool.not_eq_true', beq_iff_eq, Option.isNone_iff_eq_none, List.isEmpty_iff] at h
  obtain ⟨⟨⟨⟨⟨⟨⟨⟨⟨h1, h2⟩, h3⟩, h4⟩, h5⟩, h6⟩, h7⟩, h8⟩, h9⟩, h10⟩ := h
  exact ⟨⟨⟨⟨h1, h2, h3, h4⟩, rfl, h5⟩, h6, h7⟩, h8, h9, h10⟩

/-- Both slots are valid. -/
def validCell : Cell := { cellOn with slot0 := { Slot.reset with valid := true }, slot1 := { Slot.reset with valid := true } }
/-- No slot of an untagged cell blocks. -/
theorem plain_tagMode (i : Nat) : cellOn.tagMode i = 0 := by
  have h : cellOn.winOf i = none := by
    have e : winHas 0#32 i = false := by simp [winHas, winBase, winLen, field, Nat.blt, Nat.ble]
    simp [Cell.winOf, cellOn, Cell.reset, MemRegs.reset, e]
  simp [Cell.tagMode, h]
/-- Margin failure of the last vector. -/
def seen1 : List MarginObs := [⟨63, 2, 3, 15, 3, [0xFF]⟩]
theorem witness_ArrayInstructionsIssue :
    (Open (st cellOn) 0 always (.wload ⟨1, 0, 2, false, 0, 0, false, 0, 127, false⟩) [] .array ∧ ((st cellOn).cell 0).arrayReady ((st cellOn).taken 0 always (.wload ⟨1, 0, 2, false, 0, 0, false, 0, 127, false⟩) []) = true)
      ∧ (let op := CellOp.mvm false ⟨1, false, false, 1, 2, 63, 0, 0, 0, 0, true, false, 0, false, 0, false⟩
        Open (st validCell) 0 always op seen1 .array ∧ ((st validCell).cell 0).arrayReady ((st validCell).taken 0 always op seen1) = true ∧ (st validCell).rampRoom 0 = true)
      ∧ (let op := CellOp.mvm true ⟨1, false, false, 0, 0, 0, 63, 0, 0, 0, true, false, 0, false, 0, false⟩
        Open (st validCell) 0 always op [] .array ∧ ((st validCell).cell 0).arrayReady ((st validCell).taken 0 always op []) = true)
      ∧ (Open (st cellOn) 0 always .swatch seen1 .array ∧ ((st cellOn).cell 0).arrayReady ((st cellOn).taken 0 always .swatch seen1) = true)
      ∧ (Open (st cellOn) 0 always (.slotinv 1) [] .array ∧ ((st cellOn).cell 0).arrayReady ((st cellOn).taken 0 always (.slotinv 1) []) = true) :=
  ⟨⟨opens_open (by decide), by decide⟩, ⟨opens_open (by decide), by decide, by decide⟩, ⟨opens_open (by decide), by decide⟩, ⟨opens_open (by decide), by decide⟩, ⟨opens_open (by decide), by decide⟩⟩

/-- A WLOAD of a 2:4 INT4 tile is done. -/
def wloadDone : Run := { (Run.start (mkQI cellOn always (.wload ⟨1, 0, 0, false, 0, 0, false, 0, 0, false⟩) [])).finish with next := 0 }
/-- The WLOAD of one INT4 row of zeros into slot 1. -/
def wl : WloadF := ⟨1, 0, 0, false, 0, 0, false, 0, 0, false⟩
theorem witness_WloadWritesSlot :
    (Open (st cellOn) 0 always (.wload wl) [] .array ∧ cellOn.arrayReady ((st cellOn).taken 0 always (.wload wl) []) = true ∧ localOk true 0 (tileLen 0 false) = true
        ∧ cellOn.bankDown 0 (tileLen 0 false) = false ∧ cellOn.firstEmpty (slotsOf 0 (tileLen 0 false)) = none ∧ cellOn.errs = [] ∧ cellOn.poison = 0 ∧ (∀ i, cellOn.tagMode i ≠ 2))
      ∧ (({ cellOn with units := { cellOn.units with wload := some wloadDone } }).units.wload = some wloadDone ∧ wloadDone.qi.op = .wload wl ∧ wloadDone.done = true ∧ wloadDone.next = 0) := by
  refine ⟨⟨opens_open (by decide), by decide, by decide, by decide, by decide, rfl, rfl, ?_⟩, rfl, rfl, rfl, rfl⟩
  intro i; rw [plain_tagMode]; decide

/-- The vector registers of the witnesses: A0 the sources and the destination, A1 the count one. -/
def vcell : Cell := onSeq fun q => { q with a := setAt (setAt q.a 1 1) 2 64 }
theorem witness_AccumulatorInstructions :
    cellOn.units.acc = none ∧ (Open (st cellOn) 0 always (.aclr 2 true) [] .acc ∧ isLead 0 = true) ∧ (Open (st cellOn) 0 always (.amov 0 2) [] .acc
        ∧ (cellOn.frame (cellOn.map.resolve 0)).treeOpen = false ∧ (cellOn.frame (cellOn.map.resolve 2)).treeOpen = false ∧ cellOn.errs = [])
      ∧ (Ready (st cellOn) 0 always (.arot 0) ∧ (cellOn.frame cellOn.map.a.toNat).treeOpen = false) ∧ Open (st cellOn) 0 always .apromo [] .acc :=
  ⟨rfl, ⟨opens_open (by decide), rfl⟩, ⟨opens_open (by decide), by decide, by decide, rfl⟩, ⟨st_ready _ rfl rfl, by decide⟩, opens_open (by decide)⟩

/-- The last column of tile A to address 0. -/
def ad : AdrainF := ⟨0, 63, 0, 0⟩
set_option maxRecDepth 20000 in
theorem witness_AccumulatorFramesClearedAndCopied :
    (cellOn.units.acc = none ∧ Open (st cellOn) 0 always (.aclr 0 false) [] .acc ∧ memWf cellOn.mem = true)
      ∧ (Open (st cellOn) 0 always (.adrain ad) [] .acc ∧ (cellOn.frame 0).treeOpen = false ∧ 63 + 0 < seqCols (shapeO (cellOn.frame 0).shape) ∧ cellOn.errs = []
        ∧ localOk true 0 128 = true ∧ cellOn.bankDown 0 128 = false
        ∧ shapeO (cellOn.frame 0).shape = 32 ∧ ∀ i, cellOn.blocksWrite i = false) := by
  refine ⟨⟨rfl, opens_open (by decide), rfl⟩, opens_open (by decide), by decide, by decide, rfl, by decide, by decide, by decide, fun i => ?_⟩
  simp [Cell.blocksWrite, Cell.tagged, plain_tagMode]

/-- Fields of a vector instruction of one FP32 element at address 0. -/
def vf : VecF := ⟨false, false, 0, 0, 0, 1, 0, 10, 10, false, 0, 0, 0⟩
theorem vcell_tagMode (i : Nat) : vcell.tagMode i = 0 := plain_tagMode i
set_option maxRecDepth 20000 in
theorem witness_ElementwiseVectorResults :
    (Open (st vcell) 0 always (.vec .add vf) [] .vector ∧ Open (st vcell) 0 always (.vec .mul vf) [] .vector ∧ Open (st vcell) 0 always (.vec .fma vf) [] .vector
        ∧ Open (st vcell) 0 always (.vec .max vf) [] .vector ∧ Open (st vcell) 0 always (.vec .min vf) [] .vector ∧ Open (st vcell) 0 always (.vec .exp2 vf) [] .vector
        ∧ Open (st vcell) 0 always (.vec .rcp vf) [] .vector ∧ Open (st vcell) 0 always (.vec .rsq vf) [] .vector)
      ∧ vcell.units.vec = none ∧ (st vcell).rampRoom 0 = true ∧ (((st vcell).taken 0 always (.vec .add vf) []).count vf.rn).getD 0 = 1 ∧ vcell.errs = [] ∧ vcell.poison = 0
      ∧ (∀ r ∈ vecReads .fma ((st vcell).taken 0 always (.vec .fma vf) []) vf 1 ++ vecDests true .fma ((st vcell).taken 0 always (.vec .fma vf) []) vf 1 8, vcell.bankDown r.1 r.2 = false) ∧ vcell.firstEmpty (vecNeeds .fma ((st vcell).taken 0 always (.vec .fma vf) []) vf 1) = none
      ∧ (∀ b0 b1 b2 b3 : Byte, localOk true 0 [b0, b1, b2, b3].length = true ∧ vcell.bankDown 0 [b0, b1, b2, b3].length = false) ∧ ∀ n, vcell.blocksWrite n = false := by
  refine ⟨⟨opens_open (by decide), opens_open (by decide), opens_open (by decide), opens_open (by decide), opens_open (by decide), opens_open (by decide), opens_open (by decide), opens_open (by decide)⟩,
    rfl, by decide, by decide, rfl, rfl, by decide +kernel, by decide +kernel, fun _ _ _ _ => ⟨rfl, by simp only [List.length]; decide⟩, fun n => ?_⟩
  simp [Cell.blocksWrite, Cell.tagged, vcell_tagMode]

/-- The cell with its scratchpad in a weight-class window. -/
def wcell : Cell := { vcell with seq := { vcell.seq with a := setAt (setAt vcell.seq.a 1 128) 6 128 }, mr := { vcell.mr with win := setAt vcell.mr.win 0 (BitVec.ofNat 32 (512 * 2 ^ 9 + 2 ^ 19)) } }
theorem wcell_tagMode (i : Nat) : wcell.tagMode i = 0 := by
  unfold Cell.tagMode
  cases h : wcell.winOf i with
  | none => rfl
  | some w =>
    have m : w ∈ wcell.mr.win := List.mem_of_find?_eq_some h
    have : wcell.mr.win.all (fun w => Nat.beq (winMode w) 0) = true := rfl
    exact Nat.eq_of_beq_eq_true (List.all_eq_true.1 this w m)
/-- With a scale record of one tensor group at slot 8, which stream 0 reaches, and A7 at its address. -/
def pcell : Cell :=
  { wcell with
    seq := { wcell.seq with a := setAt wcell.seq.a 7 512 }, mem := memWrite [] 512 [0, 12, 1, 0, 0, 0, 0, 0, 127],
    mr := { wcell.mr with streams := [⟨0, 0, true, 8, 1, 8⟩] } }
theorem pcell_tagMode (i : Nat) : pcell.tagMode i = 0 := wcell_tagMode i
/-- What `VecRuns` asks of an instruction on that cell, as one check. -/
def vruns (kd : VecKind) (f : VecF) : Bool :=
  let q := (st pcell).taken 0 always (.vec kd f) []
  let m := (q.count f.rn).getD 0
  opens pcell (.vec kd f) [] .vector && (noCount kd || m != 0) && ((palAddr kd q f).all fun a => pcell.palOk a && !pcell.bankDown a 192)
    && ((palAddr kd q f).head?.all fun a => !palRangeBad true kd q f m (pcell.pal a))
    && [true, false].all fun sure => (vecReads kd q f m ++ vecDests sure kd q f m 1320).all fun r => localOk true r.1 r.2 && !pcell.bankDown r.1 r.2
theorem vruns_of {kd : VecKind} {f : VecF} (h : vruns kd f = true) : VecRuns (st pcell) 0 always kd f := by
  simp only [vruns, Bool.and_eq_true, Bool.or_eq_true, bne_iff_ne, List.all_eq_true, Bool.not_eq_true', Option.all_eq_true_iff_get] at h
  obtain ⟨⟨⟨⟨h1, h2⟩, h3⟩, h4⟩, h5⟩ := h
  refine ⟨opens_open h1, rfl, by decide, h2, rfl, rfl, pcell_tagMode, h3, fun a ha => ?_, fun sure r hr => h5 sure (by cases sure <;> simp) r hr⟩
  have e : ((palAddr kd ((st pcell).taken 0 always (.vec kd f) []) f).head?.get (Option.isSome_of_mem ha)) = a := Option.get_of_mem _ ha
  exact e ▸ h4 (Option.isSome_of_mem ha)
/-- Its coordinate group at A4 to A6. -/
def vf4 : VecF := { vf with rc := 4 }
/-- The forms of a vector instruction: VCVT with deq, VSTAT over channels, VSCL over an explicit record. -/
def vfDq : VecF := { vf4 with sub := 4 }
def vfCh : VecF := { vf4 with fd := 0, sub := 1 }
def vfRc : VecF := { vf4 with fs := 0, fd := 0, rx := 7 }
set_option maxRecDepth 20000 in
theorem witness_VectorInstructionsIssue :
    (VecRuns (st pcell) 0 always .sclDerive { vf with fd := 0, sub := 1 } ∧ VecRuns (st pcell) 0 always .sclPush { vf with rn := 0, fs := 0, fd := 0, sub := 2 }
        ∧ VecRuns (st pcell) 0 always .sclPushAdvance { vf with rn := 0, fs := 0, fd := 0, sub := 3 } ∧ VecRuns (st pcell) 0 always .sclMerge { vf with rn := 0, fs := 0, fd := 0, sub := 4 }
        ∧ VecRuns (st pcell) 0 always .had vf4 ∧ VecRuns (st pcell) 0 always .prune24 vf4 ∧ VecRuns (st pcell) 0 always .red vf4 ∧ VecRuns (st pcell) 0 always .cvt vf ∧ vfDeq vf = false)
      ∧ (VecRuns (st pcell) 0 always .stat { vf4 with fd := 0 } ∧ VecRuns (st pcell) 0 always .stat vfCh ∧ vfCh.sub.getLsbD 0 = true ∧ (((st pcell).taken 0 always (.vec .stat vfCh) []).coord 4 128).isSome = true)
      ∧ (let q := (st pcell).taken 0 always (.vec .cvt vfDq) []
        VecRuns (st pcell) 0 always .cvt vfDq ∧ vfDeq vfDq = true ∧ (recOf (memRead pcell.mem 512 64)).group = 3
        ∧ pcell.judge (slotsOf (q.addr 0) (opLen 10 128)) (pcell.mr.stream 0 q.seq)
          (fun g n => if g = 3 then n == 1 else match q.coord 4 128 with | some c => n == groupCount c g 128 | none => true) = .ok (some (recOf (memRead pcell.mem 512 64))))
      ∧ (let l := memRead pcell.mem 512 (recLen (leNat (memRead pcell.mem 512 8)))
        VecRuns (st pcell) 0 always .sclConvert vfRc ∧ localOk true 512 l.length = true ∧ pcell.bankDown 512 l.length = false ∧ (recOf l).group = 3 ∧ recOk l 3 (groupCount ⟨0, 0, 128⟩ 3 128) = true) :=
  ⟨⟨vruns_of (by decide +kernel), vruns_of (by decide +kernel), vruns_of (by decide +kernel), vruns_of (by decide +kernel), vruns_of (by decide +kernel), vruns_of (by decide +kernel), vruns_of (by decide +kernel),
    vruns_of (by decide +kernel), rfl⟩, ⟨vruns_of (by decide +kernel), vruns_of (by decide +kernel), rfl, by decide +kernel⟩, ⟨vruns_of (by decide +kernel), rfl, by decide +kernel, by decide +kernel⟩,
    vruns_of (by decide +kernel), by decide +kernel, by decide +kernel, by decide +kernel, by decide +kernel⟩

/-- Operands of memory instructions: A1 the count 1, A2 a descriptor of member 0, channel 3 and one element, A3 the count 64, A4 and A5 the address of cell 0 in its own module, A6 and A7 that of HBM. -/
def mcell : Cell :=
  { onSeq fun q => { q with a := setAt (setAt (setAt (setAt (setAt q.a 1 1) 2 128) 3 64) 5 0xFFF01000) 7 0xFFF00000 } with
    mem := memWrite [] 128 ([1] ++ List.replicate 15 0 ++ [3, 0, 0, 0, 1]) }
theorem mcell_tagMode (i : Nat) : mcell.tagMode i = 0 := plain_tagMode i
/-- A memory instruction that runs. -/
def mrun (op : CellOp) : Run := Run.start (mkQI mcell always op [])
/-- A slot of cell 0 from A0 to its own slot 0, and to HBM. -/
def putf : PutF := ⟨4, 0, 3, false, 0, 0xFF, 8⟩
def getf : XferF := ⟨0, 4, 3, true, 15⟩
def hrd : XferF := ⟨0, 6, 3, false, 0⟩
def hwr : XferF := ⟨6, 0, 3, false, 0⟩
def stw : StF := ⟨true, 0, 0, 1, 0, 0x7FFC⟩
/-- Sixty-four bytes from A0 to A3. -/
def stc : StF := ⟨false, 3, 0, 3, 7, 0⟩
theorem witness_WordsAndTags :
    (Open (st mcell) 0 always (.ld 31 0 0x7FFC) [] .memory ∧ mcell.units.mem = none ∧ mcell.awaitsData = false ∧ mcell.errs = [] ∧ mcell.poison = 0
        ∧ mcell.bankDown 0x7FFC 4 = false ∧ mcell.firstEmpty (slotsOf 0x7FFC 4) = none)
      ∧ (let b := mcell.setUnits fun u => { u with mem := some { mrun (.ld 31 0 4) with done := true } }
        b.seq.wait = none ∧ b.seq.held = none ∧ ∃ r, b.units.mem = some r ∧ r.done = true ∧ r.qi.op = .ld 31 0 4)
      ∧ (Open (st mcell) 0 always (.st stw) [] .memory ∧ stw.form = true ∧ memWf mcell.mem = true ∧ mcell.bankDown 0x7FFC 4 = false ∧ mcell.blocksWrite (0x7FFC / 64) = false)
      ∧ (let q := (st mcell).taken 0 always (.st stc) []
        Open (st mcell) 0 always (.st stc) [] .memory ∧ stc.form = false ∧ (q.count stc.rn).getD 0 = 64 ∧ q.addr stc.ra = 0 ∧ q.addr stc.rd = 64 ∧ mcell.bankDown 0 64 = false ∧ mcell.bankDown 64 64 = false ∧ mcell.awaitsData = false)
      ∧ (Open (st mcell) 0 always (.tagset true 0 1) [] .memory ∧ Open (st mcell) 0 always (.tagset false 0 1) [] .memory ∧ mcell.bankDown 0 64 = false) := by
  refine ⟨⟨opens_open (by decide), rfl, rfl, rfl, rfl, by decide, by decide⟩, ⟨rfl, rfl, _, rfl, rfl, rfl⟩, ⟨opens_open (by decide), rfl, by decide +kernel, by decide, ?_⟩,
    ⟨opens_open (by decide), rfl, by decide, by decide, by decide, by decide, by decide, rfl⟩, opens_open (by decide), opens_open (by decide), by decide⟩
  simp [Cell.blocksWrite, Cell.tagged, mcell_tagMode]

/-- The module offers cell 0 unless it was shipped with block 0 fenced: then it is within reach of its own instructions. -/
theorem own_range (whole : (st mcell).offers 0 = true) : ((st mcell).setCell 0 ((st mcell).sent 0)).cellRange 0 0x100000000000 64 = true := by
  have h : ((st mcell).setCell 0 ((st mcell).sent 0)).offers 0 = (st mcell).offers 0 := rfl
  have a : cellAddr 0x100000000000 = some (0, 0) := by decide
  have o : (((st mcell).setCell 0 ((st mcell).sent 0)).rgn (cellRgn 0)).owner = some 7 := rfl
  simp only [State.cellRange, a, State.jobCell, h, whole, o]; decide
theorem own_allowed (whole : (st mcell).offers 0 = true) :
    let refuses := fun op => memRefused ((st mcell).setCell 0 ((st mcell).sent 0)) 0 ((st mcell).taken 0 always op [])
    refuses (.get getf) = none ∧ refuses (.put putf) = none ∧ refuses (.accw putf 0) = none := by
  have d : ((st mcell).setCell 0 ((st mcell).sent 0)).cell 0 = (st mcell).sent 0 := rfl
  have b : ((st mcell).sent 0).bankDown 0 64 = false := by decide
  have g : gaLocal (((st mcell).taken 0 always (.get getf) []).pair 4) = 0x100000000000 := by decide
  have p : gaLocal (((st mcell).taken 0 always (.put putf) []).pair 4) = 0x100000000000 := by decide
  have r := own_range whole
  refine ⟨?_, ?_, ?_⟩
  · show (if ((st mcell).sent 0).bankDown 0 64 then some (cellBase 0 + 0) else none).or (if State.cellRange _ 0 (gaLocal (((st mcell).taken 0 always (.get getf) []).pair 4)) 64 then none else some _) = none
    rw [b, g, r]; rfl
  · show (if ((st mcell).sent 0).bankDown 0 64 then some (cellBase 0 + 0) else none).or (if (_ && !State.cellRange _ 0 (gaLocal (((st mcell).taken 0 always (.put putf) []).pair 4)) 64) then some _ else none) = none
    rw [b, p, r]; rfl
  · show (if ((st mcell).sent 0).bankDown 0 64 then some (cellBase 0 + 0) else none).or (if (_ && !State.cellRange _ 0 (gaLocal (((st mcell).taken 0 always (.put putf) []).pair 4)) 64) then some _ else none) = none
    rw [b, p, r]; rfl
theorem witness_MemoryInstructionsIssue (whole : (st mcell).offers 0 = true) :
    let may := fun op => Open (st mcell) 0 always op [] .memory ∧ memRefused ((st mcell).setCell 0 ((st mcell).sent 0)) 0 ((st mcell).taken 0 always op []) = none
    mcell.units.mem = none ∧ mcell.units.outst = [] ∧ may (.get getf) ∧ may (.hbmrd hrd) ∧ may (.put putf) ∧ may (.accw putf 0) ∧ may (.hbmwr hwr) ∧ may (.csend ⟨0, 1, 0, false, 2⟩) ∧ may (.crecv ⟨0, 1, 2, true, 2⟩)
      ∧ (let q := (st mcell).taken 0 always (.hbmwr hwr) []; q.count 3 = some 64 ∧ mcell.firstEmpty [q.addr 0 / 64] = none)
      ∧ (let d := memRead mcell.mem 128 32
        (((st mcell).taken 0 always (.csend ⟨0, 1, 0, false, 2⟩) []).addr 2 = 128 ∧ ((st mcell).taken 0 always (.csend ⟨0, 1, 0, false, 2⟩) []).count 1 = some 1)
          ∧ bitAt (descMembers d) (cellNo 0) = true ∧ descBad ((st mcell).imgOf 0) d 1 = false ∧ isRoot ((st mcell).imgOf 0) d 0 = true ∧ descChan d = 3
          ∧ ((st mcell).blk 0).chan 3 = Chan.reset ∧ Chan.reset.held 0 + combGroups 0 1 ≤ 8 ∧ ((st mcell).blk 0).chans.length = 4) :=
  ⟨rfl, rfl, ⟨opens_open (by decide), (own_allowed whole).1⟩, ⟨opens_open (by decide), by decide +kernel⟩, ⟨opens_open (by decide), (own_allowed whole).2.1⟩, ⟨opens_open (by decide), (own_allowed whole).2.2⟩,
    ⟨opens_open (by decide), by decide +kernel⟩, ⟨opens_open (by decide +kernel), by decide +kernel⟩, ⟨opens_open (by decide +kernel), by decide +kernel⟩, by decide +kernel, by decide +kernel⟩

theorem witness_PutSendsItsSlotOrIsRefused (whole : (st mcell).offers 0 = true) :
    (let q := (st mcell).taken 0 always (.put putf) [];
      Open (st mcell) 0 always (.put putf) [] .memory ∧ mcell.units.mem = none ∧ mcell.units.outst = [] ∧ memRefused ((st mcell).setCell 0 ((st mcell).sent 0)) 0 q = none
        ∧ q.count putf.rn = some 64 ∧ gaOwn ((st mcell).identOf 0) (q.pair putf.rd) = true ∧ mcell.firstEmpty [q.addr putf.ra / 64] = none ∧ mcell.errs = [] ∧ mcell.poison = 0)
      ∧ (let c := { mcell with seq := { mcell.seq with a := setAt mcell.seq.a 5 0xFFF0100F } };
        Open (st c) 0 always (.put putf) [] .memory ∧ c.seq.stopPending = false ∧ (memRefused ((st c).setCell 0 ((st c).sent 0)) 0 ((st c).taken 0 always (.put putf) [])).isSome = true) :=
  ⟨⟨opens_open (by decide), rfl, rfl, (own_allowed whole).2.1, by decide, by decide, by decide, rfl, rfl⟩, opens_open (by decide), rfl, by decide +kernel⟩

/-- Cell 0 with a unit's queue or run changed. -/
def unitsOn (f : Units → Units) : Cell := vcell.setUnits f
/-- An entry of a queue. -/
def qi (op : CellOp) : QI := mkQI vcell always op []
theorem witness_UnitsIssueAndComplete :
    (let b := unitsOn fun u => { u with vecQ := [qi (.vec .add vf)] };
      b.seq.wait = none ∧ b.seq.held = none ∧ b.units.vec = none ∧ (st b).rampRoom 0 = true
        ∧ (issueVector true ((st b).seedOf 0) (Fx.of (b.setUnits fun u => { u with vecQ := [] })) (qi (.vec .add vf))).1.c.seq = b.seq)
      ∧ (let b := unitsOn fun u => { u with accQ := [qi (.aclr 0 false)] }
        b.seq.wait = none ∧ b.seq.held = none ∧ b.units.acc = none)
      ∧ (let b := unitsOn fun u => { u with arrQ := [qi (.slotinv 1)] }
        b.seq.wait = none ∧ b.seq.held = none ∧ b.arrayReady (qi (.slotinv 1)) = true)
      ∧ (let r := { Run.start (qi .apromo) with done := true }
        let b := unitsOn fun u => { u with vec := some r, acc := some r, comp := some r }
        b.seq.wait = none ∧ b.seq.held = none ∧ b.units.vec = some r ∧ b.units.acc = some r ∧ b.units.comp = some r ∧ r.done = true ∧ b.units.view = []) := by
  refine ⟨⟨rfl, rfl, rfl, by decide, ?_⟩, ⟨rfl, rfl, rfl⟩, ⟨rfl, rfl, by decide⟩, rfl, rfl, rfl, rfl, rfl, rfl, rfl⟩
  decide +kernel

theorem witness_BlockedAccessGoesOnOrTimesOut :
    let r := { mrun (.ld 31 0 4) with blocked := some ⟨0, false, 2 ^ 24, false⟩ }
    let b := mcell.setUnits fun u => { u with mem := some r }
    b.units.mem = some r ∧ b.isFull 0 = false ∧ b.firstEmpty (slotsOf 4 4) = none ∧ b.errs = [] ∧ b.poison = 0 ∧ b.seq.wait = none ∧ b.seq.held = none ∧ b.seq.stopPending = false ∧ b.seq.running = true
      ∧ ({ b with full := 1 } : Cell).isFull 0 = true ∧ ({ b with full := 1 } : Cell).firstEmpty (slotsOf 4 4) = none
      ∧ (st b).timeoutOf 0 < 2 ^ 24 :=
  ⟨rfl, by decide +kernel, by decide, rfl, rfl, rfl, rfl, rfl, rfl, by decide +kernel, by decide +kernel, by decide⟩

/-! Traffic, combines, scrubs. -/
theorem witness_RemoteWritesLand :
    (cellOn.mr.arrival.length = 16 ∧ (cellOn.mr.arrival.getD 15 (0, false)).1 ≠ 0xFFFF ∧ ({ cellOn with mr := { cellOn.mr with arrival := List.replicate 16 (0xFFFF, true) } } : Cell).mr.arrival.getD 15 (0, false) = (0xFFFF, true))
      ∧ (let w : RemoteWrite := ⟨0xFFF, 0, 0, 0x100000007FC0, List.replicate 64 0xAB, 0xFF, true, none, none, none⟩
        let a : RemoteWrite := { w with acc := some 0 }
        let s := { st cellOn with flights := [(3, .write w), (4, .write a)] }
        s.arriving 3 = some (.write w) ∧ s.arriving 4 = some (.write a) ∧ w.acc = none ∧ w.ctr = none ∧ cellAddr w.addr = some (0, 0x7FC0) ∧ (s.rgn (cellRgn 0)).owner.isSome = true ∧ (s.cell 0).units.port = none
          ∧ 0x7FC0 % 64 = 0 ∧ w.data.length = 64 ∧ (s.cell 0).blocksWrite (0x7FC0 / 64) = false ∧ memWf (s.cell 0).mem = true ∧ (s.cell 0).errs = []
          ∧ (∀ d, accwAdd 3 [] d = accwAdd 3 [] d)) := by
  refine ⟨⟨by decide, by decide, rfl⟩, rfl, rfl, rfl, rfl, by decide, by decide, rfl, rfl, rfl, ?_, rfl, rfl, fun _ => rfl⟩
  have e : ∀ w : RemoteWrite, ({ st cellOn with flights := [(3, .write w), (4, .write { w with acc := some 0 })] } : State).cell 0 = cellOn := fun _ => rfl
  rw [e]; simp [Cell.blocksWrite, Cell.tagged, plain_tagMode]
/-- Sixty-four bytes of zeros added to an empty slot. -/
theorem witness_accw_length : (accwAdd 1 (memRead [] 0 64) (List.replicate 64 0)).1.length = 64 := by decide +kernel

/-- The cell with one request under way. -/
def ocell : Cell := cellOn.setUnits fun u => { u with outst := [⟨5, 0, 1, 0, true, none⟩] }
theorem witness_TrafficArrives :
    let s := { st ocell with flights := [(1, .getReq 0 5 0x100000000000 0x40 64 none), (2, .getData 0 5 0x40 (List.replicate 64 1) 0 false none), (3, .hbmRead 0 5 0 0x40 none), (5, .ack 0 5)] }
    let w := { st ocell with flights := [(4, .hbmWrite 0 5 0x40 (List.replicate 64 1) 0 false none)] }
    (s.arriving 1 = some (.getReq 0 5 0x100000000000 0x40 64 none) ∧ cellAddr 0x100000000000 = some (0, 0) ∧ (s.cell 0).errs = [])
      ∧ (s.arriving 2 = some (.getData 0 5 0x40 (List.replicate 64 1) 0 false none) ∧ (s.cell 0).seq.wait = none ∧ (s.cell 0).seq.held = none
        ∧ (s.cell 0).units.outst.any (fun o => o.seq == 5) = true ∧ (∀ o ∈ (s.cell 0).units.outst, o.block = none) ∧ 0x40 % 64 = 0 ∧ memWf (s.cell 0).mem = true
        ∧ (Nat.blt 0x40 0x8000 && (s.cell 0).blocksWrite (0x40 / 64)) = false)
      ∧ (s.arriving 3 = some (.hbmRead 0 5 0 0x40 none) ∧ s.hbmFirst 3 (.hbmRead 0 5 0 0x40 none) = true ∧ s.hbm.errs = [] ∧ memWf s.hbm.mem = true ∧ flipsMax 64 [511] ≤ 1 ∧ 1 < flipsMax 64 [510, 511]
        ∧ (s.cell 0).seq.running = true)
      ∧ (w.arriving 4 = some (.hbmWrite 0 5 0x40 (List.replicate 64 1) 0 false none) ∧ w.hbmFirst 4 (.hbmWrite 0 5 0x40 (List.replicate 64 1) 0 false none) = true ∧ memWf w.hbm.mem = true)
      ∧ s.arriving 5 = some (.ack 0 5) := by
  refine ⟨⟨rfl, by decide, rfl⟩, ⟨rfl, rfl, rfl, rfl, by decide, rfl, rfl, ?_⟩, ⟨rfl, by decide, rfl, rfl, by decide +kernel, by decide +kernel, rfl⟩, ⟨rfl, by decide, rfl⟩, rfl⟩
  have e : ∀ f, ({ st ocell with flights := f } : State).cell 0 = ocell := fun _ => rfl
  have m : ∀ i, ocell.tagMode i = 0 := plain_tagMode
  rw [e]; simp [Cell.blocksWrite, Cell.tagged, m]

/-- A member descriptor: members 0 and 1 of a block, channel 3, level 0. -/
def desc0 : List Byte := [3, 0, 0, 0, 0, 0, 0, 0, 0, 0, 0, 0, 0, 0, 0, 0, 3, 0, 0, 0, 1, 0, 0, 0]
/-- The operand of one member. -/
def sub0 (w : Nat) : Sub := ⟨w, desc0, 0, false, 1, [List.replicate 4 0], [], 1, false, 0⟩
/-- A channel with the operands of two members, and one with a group for the root. -/
def chan0 : Chan := { Chan.reset with subs := [sub0 0, sub0 1] }
def blk0 (c : Chan) : Block := { Block.reset with chans := setAt Block.reset.chans 3 c }
/-- An image of `n` bytes from `pos` on that holds these bytes, in order of address, and zeros. -/
def imageF (n : Nat) : Nat → List (Nat × Byte) → List Byte
  | pos, [] => List.replicate (n - pos) 0
  | pos, (a, b) :: l => List.replicate (a - pos) 0 ++ b :: imageF n (a + 1) l
def image (n : Nat) (l : List (Nat × Byte)) : List Byte := imageF n 0 l
/-- An image with one reduction tree of level 1 over blocks 0 and 149, rooted in block 0. -/
def treeImg : List Byte := image 0xE8 [(0x14, 1), (0x80, 7), (0x84, 0x48), (0x88, 0xA0), (0xA0, 1), (0xA4, 8), (0xA8, 1), (0xB8, 1), (0xB8 + 18, 0x20)]
/-- The CRECV of one value that waits for its channel. -/
def crecvRun : Run := { mrun (.crecv ⟨0, 1, 0, false, 2⟩) with begun := true, value := 3, at_ := 3 + 2 ^ 128 * 3 + 2 ^ 160, idle := 2 ^ 24 }
/-- The operand of a block at level 1, on channel 0. -/
def sub1 (w : Nat) : Sub := { sub0 w with desc := [3, 0, 0, 0, 0, 0, 0, 0, 0, 0, 0, 0, 0, 0, 0, 0, 4, 0, 0, 0, 1, 0, 0, 0], sats := [0] }
theorem witness_CombinesAdvance :
    (let s := { st cellOn with blocks := [(0, blk0 chan0)] }
      let cn := (s.blk 0).chan 3
      (s.blk 0).nextChan = some 3 ∧ cn.ready = some [sub0 0, sub0 1] ∧ (s.blk 0).chans.length = 4 ∧ descLevel desc0 = 0 ∧ (∀ x ∈ cn.subs, x.idx = cn.ended ∧ x.m ≠ 0))
      ∧ (let b := mcell.setUnits fun u => { u with mem := some crecvRun }
        let s := { st b with blocks := [(0, blk0 { Chan.reset with out := [⟨0, [0, 0, 0, 0], 0⟩] })] };
        (s.cell 0).units.mem = some crecvRun ∧ crecvRun.done = false ∧ crecvRun.blocked = none ∧ onChan crecvRun 3 = true ∧ ((s.blk 0).chan 3).out = [⟨combKey (runDesc crecvRun), [0, 0, 0, 0], 0⟩] ∧ (s.blk 0).chans.length = 4
          ∧ crecvRun.qi.addr 0 % 64 = 0 ∧ (∀ i, mcell.blocksWrite i = false)
          ∧ combWaits s 0 = some (3, runDesc crecvRun) ∧ s.timeoutOf 0 < crecvRun.idle ∧ (∀ x ∈ runDesc crecvRun :: ((s.blk 0).chan 3).descs, descLevel x = 0) ∧ (s.cell 0).seq.running = true ∧ (s.cell 0).seq.wait = none)
      ∧ (let cn : Chan := { Chan.reset with subs := [sub1 0, sub1 149] }
        let s : State := { st cellOn with regions := [(0, { rgnOn with chans := setAt rgnOn.chans 0 cn })], jobs := [{ job7 with img := treeImg }] };
        ((combTree (s.rgnImg 0) (sub1 0).desc).map fun t => (t.level, membersOf t.blocks 150, treeRoot 0 t)) = some (1, [0, 149], 0) ∧ (∀ w ∈ [0, 149], ((s.rgn 0).chan 0).first w = some (sub1 w))
          ∧ ((s.rgn 0).chan 0).failed = false ∧ (s.blk 0).chans.length = 4 ∧ ((s.blk 0).chan 0).failed = false ∧ (s.cell 0).units.mem = none) := by
  refine ⟨⟨by decide +kernel, by decide +kernel, rfl, by decide, by decide⟩, ⟨rfl, rfl, rfl, rfl, by decide, rfl, by decide, fun i => ?_, by decide, by decide, by decide, rfl, rfl⟩,
    ⟨by decide +kernel, by decide +kernel, rfl, rfl, rfl, rfl⟩⟩
  simp [Cell.blocksWrite, Cell.tagged, mcell_tagMode]

/-- An MVM reads slot 1. -/
def scanning : Cell := validCell.setUnits fun u => { u with comp := some (Run.start (mkQI validCell always (.mvm false ⟨1, false, false, 1, 2, 63, 0, 0, 0, 0, true, false, 0, false, 0, false⟩) [])) }
theorem witness_ScrubsCorrectOrMark :
    (let s := st cellOn;
      ((s.cell 0).slot 1).writing = false ∧ (s.cell 0).slotBusy 1 = false ∧ mapGet [] ((s.cell 0).slot 1).errs 127 = []
        ∧ mapGet [] s.hbm.errs (15 * 2 ^ 30 + 0x2FFFFFFF) = [] ∧ flipsMax 64 ([] ++ [511]) ≤ 1 ∧ 1 < flipsMax 64 ([] ++ [510, 511])
        ∧ (s.blk (blkKey 15 149)).badLines.contains 2047 = false ∧ (s.blk (blkKey 15 149)).istoreErrs = [])
      ∧ (let one := Slot.reset.upset 127 [287]
        (((List.range 6).map (one.flipsOf 127)).flatten ≠ [] ∧ ∀ w < 6, (one.flipsOf 127 w).length ≤ 1) ∧ 1 < ((Slot.reset.upset 127 [254, 287]).flipsOf 127 3).length)
      ∧ (let t := { Slot.reset with valid := true, sparse := true, four := true }
        let one := t.upset 0 [288, 431]
        (∀ w < 6, (one.flipsOf 0 w).length ≤ 1) ∧ (one.flipsOf 0 5).length = 1 ∧ 1 < ((t.upset 0 [288, 416]).flipsOf 0 4).length)
      ∧ (scanning.slotBusy 1 = true ∧ scanning.seq.running = true ∧ scanning.seq.wait = none)
      ∧ wcell.weightClass 511 = true ∧ mapGet [] wcell.errs 511 = [] ∧ wcell.seq.running = true ∧ wcell.seq.wait = none := by
  refine ⟨⟨rfl, by decide, by decide, by decide +kernel, by decide, by decide, by decide +kernel, by decide +kernel⟩, by decide +kernel, by decide +kernel, by decide +kernel, by decide +kernel, rfl, rfl, rfl⟩

/-! Registers and debug. -/
/-- What `Permits` asks, as one check. -/
def permits (s : State) (q : Requester) (w : Bool) (p : Place) : Bool := s.hub.clk.hubReady && mayAccess s q w p && (wordAt s p).isSome && !scrubHeld s q p && !asleepHeld s p
theorem permits_of {s : State} {q : Requester} {w : Bool} {p : Place} (h : permits s q w p = true) : Permits s q w p := by
  simp only [permits, Bool.and_eq_true, Bool.not_eq_true'] at h
  exact ⟨h.1.1.1.1, h.1.1.1.2, h.1.1.2, h.1.2, h.2⟩

theorem witness_RegisterWrites :
    let s := st cellOn
    permits s .firmware true (place 0x10000000000C) ∧ (mayAccess s (.host 1) true (place 0x400000600048) = false ∧ s.hub.clk.hubReady = true)
      ∧ (place 0xBFFFFFFFC = .hbm 0xBFFFFFFFC ∧ permits s .firmware true (.hbm 0xBFFFFFFFC) ∧ memWf s.hbm.mem = true) ∧ permits s .firmware true (.cell (cellKey c0) (0xF000 + 0xFFC))
      ∧ (permits s .firmware true (.blk (blkKey 0 0) 0xDC) ∧ ∀ ch < 4, ∀ d ∈ s.openDescs (blkKey 0 0) ch (s.imgOf 0), bitAt (descMembers d) 127 = false) ∧ permits s .firmware true (.rgn 0 0x200)
      ∧ (s.hub.takeover = false ∧ s.hub.hostRgn < 16 ∧ permits s .firmware true (.cue 0 511 1) ∧ (s.cue 511).armed = false) := by decide +kernel

theorem witness_RegisterReads :
    let s := st cellOn
    s.hub.latch = none
      ∧ (permits s .firmware false (place 0x10000000E24C) ∧ (wordAt s (place 0x10000000E24C)).isSome = true ∧ place 0x10000000E24C = .cell 0 0xE24C ∧ isCounter (.cell 0 0xE24C) = true)
      ∧ (permits s .firmware false (place 0x300000000140) ∧ place 0x300000000140 = .rgn 0 0x140 ∧ rgnCounter 0x140 = true)
      ∧ (permits s .firmware false (place 0x400000300018) ∧ isLow (place 0x400000300018) = true ∧ permits s .firmware false (place 0x40000030001C)) := by decide +kernel

/-- A test session of number 9. -/
def testSession : Session := ⟨9, 7, true, 4, ⟨1, 1⟩, none, [], 0, 0, false⟩
theorem witness_DebugHaltsAndInjections :
    (let s := st cellOn;
      permits s .firmware true (.cell 0 0xE600) ∧ (s.cell 0).seq.dbgHalt = false ∧ (s.cell 0).seq.wait = none ∧ (onSeq fun q => { q with wait := some (.cue 3 1) }).seq.wait = some (.cue 3 1))
      ∧ (let halted := onSeq fun q => { q with dbgHalt := true }
        let s := { st halted with blocks := [(0, { Block.reset with istore := memWrite [] 0 (leBytes 8 0x12000D0000FFFFFF) })] };
        (s.cell 0).seq.dbgHalt = true ∧ (s.cell 0).seq.held = none ∧ (s.cell 0).seq.stopDue = false ∧ (s.cell 0).seq.running = true ∧ s.jobOf (cellRgn 0) = some job7 ∧ job7.begun = true ∧ job7.chg = none
          ∧ (s.rgn (cellRgn 0)).assigned = true ∧ (s.blk (cellBlk 0)).istoreErrs = []
          ∧ decodeCell (BitVec.ofNat 64 (leNat (memRead (s.blk (cellBlk 0)).istore 0 8))) = some (always, .addi 3 4 0xFFFFFF)
          ∧ (onSeq fun q => { q with dbgHalt := true, stopDue := true }).seq.stopDue = true)
      ∧ (let s := { st wcell with hub := { hubOn with mail := { hubOn.mail with sessions := [testSession] }, tst := { hubOn.tst with mask := 1, injAddr := 0x100000007FFC } } }
        let i := fun a kd => ({ s with hub := { s.hub with tst := { s.hub.tst with pending := some ⟨a, kd, 63, 255⟩ } } } : State)
        permits s (.test 9) true (.hub 0x600048) ∧ injectTarget (dropForced s) 0 0x100000007FFC = true ∧ (place 0x100000007FFC = .cell 0 0x7FFC ∧ place 0x40 = .hbm 0x40)
          ∧ (i 0x40 1).hub.tst.pending = some ⟨0x40, 1, 63, 255⟩ ∧ (i 0x100000007FFC 3).hub.tst.pending = some ⟨0x100000007FFC, 3, 63, 255⟩ ∧ (i 0x100000007FFC 0).hub.tst.pending = some ⟨0x100000007FFC, 0, 63, 255⟩) := by decide +kernel

/-! Jobs and regions. -/
/-- A book of one module with a lead of 100 ticks and one epoch-done cue, cue 200. -/
def img1 : List Byte := image 0x110 [(0x14, 2), (0x24, 1), (0x80, 1), (0x84, 0x40), (0x88, 0xC0), (0x90, 6), (0x94, 16), (0x99, 1), (0xD4, 100), (0x100, 0xC8), (0x101, 0x20)]
/-- A book of two modules. -/
def img2 : List Byte := image 0x110 [(0x14, 2), (0x24, 2), (0x80, 1), (0x84, 0x40), (0x88, 0xC0), (0x90, 6), (0x94, 16), (0x99, 1), (0xD4, 100), (0x100, 0xC8), (0x101, 0x20)]
def job1 : Job := { job7 with img := img1 }
def job2 : Job := { job7 with img := img2 }
/-- A state in which a job runs. -/
def jst (j : Job) : State := { st cellOn with jobs := [j] }
set_option maxRecDepth 4000 in
theorem witness_EpochsAdvance :
    (jst job1).job 7 = some job1 ∧ job1.faulted = false ∧ job1.t0 = some 0 ∧ job1.begun = true ∧ job1.chg = none ∧ ({ job1 with begun := false } : Job).begun = false
      ∧ epochDone job1 = false ∧ epochDone { job1 with fired := [(200, 1)] } = true ∧ job1.checks + 1 ≤ bookHoldLimit job1.img ∧ bookModules job1.img = 1 ∧ job1.pos = 0 ∧ job1.kSteps = job1.checks
      ∧ ((jst job1).jobTickTo job1 (job1.deadline + 256 * job1.checks - bookHoldLead job1.img)).jobTick job1 < job1.boundary
      ∧ bookHoldLimit job1.img < ({ job1 with checks := 4096 } : Job).checks + 1 ∧ job1.staged = [] ∧ job1.allocDue = [] ∧ job1.pool = none ∧ (jst job1).hub.detourDue = 0 ∧ ((jst job1).cues.map (·.1)).Nodup
      ∧ ∀ k ∈ (jst job1).cellsOf job1, ((jst job1).cell k).seq.wait ≠ some .epoch := by decide +kernel

/-- The root holds a change; and the other module of the job. -/
def held2 : Job := { job2 with chg := some ⟨3, [0], false⟩ }
def held1 : Job := { held2 with chg := some ⟨16384, [0], true⟩, root := false, pos := 1 }
set_option maxRecDepth 4000 in
theorem witness_ChangeHoldsAndHeartbeats :
    (jst held2).job 7 = some held2 ∧ held2.faulted = false ∧ held2.root = true ∧ 3 < bookChangeLimit held2.img ∧ bookChangeLimit held2.img ≤ 16384 ∧ 1 < bookModules held2.img ∧ 1 ∉ [0]
      ∧ (jst held1).job 7 = some held1 ∧ held1.root = false ∧ (∀ k ∈ (jst held1).cellsOf held1, ((jst held1).cell k).seq.held = none ∧ ((jst held1).cell k).seq.wait = none) ∧ held1.holds = [] ∧ (jst held1).hub.detourDue = 0
      ∧ (∀ x ∈ (jst held1).cues, x.2.action ≠ 4) ∧ ((jst held1).cues.map (·.1)).Nodup ∧ job2.begun = true ∧ job2.others.contains 1 = true ∧ held1.rootPos == 0 := by decide +kernel

/-- JOB_START of job 7 executes in mailbox 1. -/
def startReq : Req := ⟨0x0304, ⟨1, 0, false, none, 0x4C4D, 1, 0, 0, 5, 1, 16, 0, 0, 7, 0, []⟩, true, false⟩
theorem witness_JobFaultsAndReports :
    (let j := { job1 with faultDue := some (State.reset.unitRec 3 0x0412 none none []) };
      (jst j).job 7 = some j ∧ j.faulted = false ∧ j.faultDue.isSome = true ∧ j.others = [] ∧ ∀ i ∈ (jst j).hub.bkt.insts, i.job ≠ 7)
      ∧ ((jst job1).job 7 = some job1 ∧ job1.faultDue = none)
      ∧ ({ jst job1 with hub := { hubOn with mail := { hubOn.mail with mbx := [(1, ⟨1, some startReq, none⟩)] } } } : State).executingFor 0x0304 7 = some 1
      ∧ (let j := { job2 with pool := some (1, 2, 3) }; j.root = true ∧ 1 < bookModules j.img ∧ (mapPut j.reports 1 (5, 11)).length ≠ bookModules j.img)
      ∧ ((jst job1).hub.clk.hubReady = true ∧ (jst job1).cueLost 0 = false ∧ ((jst job1).cue 0).armed = false) := by decide +kernel

/-- A state with one region changed. -/
def rst (r : Nat) (f : Region → Region) : State := { State.reset with regions := [(r, f Region.reset)], hub := hubOn }
theorem witness_RegionsWakeScrubAndSleep :
    (rst 0 id).hub.mail.waiting = [] ∧ (rst 0 id).hub.mail.releasing = []
      ∧ (let g := (rst 15 fun g => { g with state := 1, scrubPending := false }).rgn 15; g.state = 1 ∧ g.scrubPending = false ∧ g.goal = .none ∧ g.downWanted = false ∧ g.owner = none)
      ∧ (let g := (rst 15 fun g => { g with state := 1 }).rgn 15; g.state = 1 ∧ g.scrubPending = true) ∧ 15 ≠ (rst 0 id).hub.hostRgn ∧ (∀ q < 16, ((rst 15 fun g => { g with state := 1 }).rgn q).failed = false)
      ∧ (let s := rst 15 fun g => { g with state := 2 };
        (s.rgn 15).goal = .none ∧ (s.rgn 15).downWanted = false ∧ s.hub.flashCols = [] ∧ s.hub.flashCells = [] ∧ s.hub.flashBlocks = [] ∧ memWf s.hbm.mem = true)
      ∧ (let g := (rst 0 fun g => { g with state := 3 }).rgn 0; g.state = 3 ∧ g.heldReady = false ∧ g.owner = none) ∧ ((rst 0 fun g => { g with state := 6 }).rgn 0).state = 6 := by decide +kernel

theorem witness_PowerIsMeasured :
    (rgnOn.awake = true ∧ ((rst 3 fun g => { g with state := 3 }).rgn 3).awake = true ∧ ((rst 3 fun g => { g with state := 3 }).rgn 3).owner = none)
      ∧ (let f : RegionFit := ⟨3, [300], [2], [1]⟩; fitOf f = none)
      ∧ (let f : RegionFit := ⟨3, [20, 22], [10, 11], [10, 11]⟩; fitOf f = none)
      ∧ (let f : RegionFit := ⟨3, [200, 300], [100, 200], [100, 100]⟩; fitOf f = some (16384, 16384))
      ∧ hubOn.clk.stage ≠ .off ∧ hubOn.clk.hubReady = true ∧ (st cellOn).alertCause = false := by decide +kernel

/-! Power, start-up, records. -/
/-- The small state with the clocks, a region's power control or a port changed. -/
def clk (f : Clk → Clk) : State := { st cellOn with hub := { hubOn with clk := f hubOn.clk } }
def pwr (f : RgnPwr → RgnPwr) : State := { st cellOn with hub := { hubOn with pwr := { hubOn.pwr with rgns := [(0, f RgnPwr.reset)] } } }
theorem witness_OperatingPointsStep :
    (let x := (pwr fun x => { x with phase := .rail 11, point := 10 }).rpwr 0; x.phase = .rail 11 ∧ x.point < 11 ∧ x.halted = false)
      ∧ (let s := pwr fun x => { x with phase := .slew 11, point := 10, capPoint := 11 }
        (s.rpwr 0).phase = .slew 11 ∧ (s.rpwr 0).halted = false ∧ (s.rgn 0).awake = true ∧ (s.rpwr 0).target = 11 ∧ (s.rclk 0).gated = false)
      ∧ (let s := { rst 0 id with hub := { hubOn with pwr := { hubOn.pwr with cap := 4, inputs := [200000], slots := [(0, { JobSlot.reset with live := true, capPoint := 11 })] } } }
        (∀ q < 16, (s.rgn q).awake = false) ∧ s.hub.pwr.capNow < s.ctlPower ∧ ∃ i ∈ s.liveSlots, (s.slotNo i).capPoint ≠ 0) := by decide +kernel

theorem witness_DroopAndTemperature :
    ((st cellOn).rgn 0).awake = true ∧ (pwr fun x => { x with stretched := true }).drooping 0 = false ∧ ((pwr fun x => { x with stretched := true }).rpwr 0).stretched = true
      ∧ ((pwr id).rpwr 0).warn = false ∧ (∀ u ∈ ((pwr id).rpwr 0).temps, u < 380) ∧ (pwr id).hub.clk.hubReady = true
      ∧ ((pwr fun x => { x with warn := true, hbmTemp := 371 }).rpwr 0).warn = true ∧ (∀ u ∈ [371, 0], u < 372) ∧ ((pwr id).rpwr 0).hbmTemp < 380
      ∧ [379, 380].findIdx? (fun t => Nat.ble 380 t) = some 1 := by decide +kernel

theorem witness_StartUpRunsInOrder :
    (let c := (clk fun c => { c with stage := .off }).hub.clk; c.stage = .off)
      ∧ (let c := (clk fun c => { c with stage := .porHold }).hub.clk; c.stage ≠ .off ∧ c.stage = .porHold)
      ∧ (let c := (clk fun c => { c with stage := .standby, inRange := true }).hub.clk; c.stage = .standby ∧ c.pwrEn = true ∧ c.bulk = true ∧ c.inRange = true)
      ∧ (clk fun c => { c with stage := .rails }).hub.clk.stage = .rails
      ∧ (let c := (clk fun c => { c with stage := .waitRef, refOk := false }).hub.clk; c.stage = .waitRef ∧ c.refOk = false)
      ∧ (let c := (clk fun c => { c with stage := .waitRef }).hub.clk; c.stage = .waitRef ∧ c.refOk = true ∧ c.sclkOk = true ∧ c.blackout = false ∧ c.rstLow = false)
      ∧ (clk fun c => { c with stage := .waitPll }).hub.clk.stage = .waitPll ∧ (clk fun c => { c with stage := .boot }).hub.clk.stage = .boot
      ∧ (let c := (clk fun c => { c with stage := .rails, pwrEn := false, hubReady := false }).hub.clk; c.pwrEn = false ∧ c.stage.powered = true ∧ c.hubReady = false) := by decide

theorem witness_ClocksAndResets :
    (clk id).aon = true ∧ (clk fun c => { c with goodWindows := 0 }).hub.clk.goodWindows = 0 ∧ 1 ≤ (clk fun c => { c with goodWindows := 1 }).hub.clk.goodWindows ∧ (clk id).hub.clk.refOk = true
      ∧ (clk id).hub.clk.sclkOk = true ∧ (clk fun c => { c with stage := .boot }).hub.clk.stage = .boot ∧ (clk fun c => { c with stage := .boot }).aon = true ∧ (clk id).flights = []
      ∧ (∀ q < 16, ((rst 0 id).rgn q).failed = false) ∧ (∀ p < 48, (takeWaiting ((clk id).port p)).1 = []) ∧ (clk id).hub.clk.pclk = true
      ∧ (let s := { rst 3 (fun g => { g with state := 3 }) with hub := { hubOn with clk := { hubOn.clk with rgns := [(3, { RgnClk.reset with pllLocked := true, gated := true, attempts := 2 })] } } }
        (s.rgn 3).awake = true ∧ (s.rclk 3).pllLocked = true ∧ (s.rclk 3).gated = true ∧ (s.rgn 3).owner = none ∧ s.flights = [] ∧ ∀ p < 48, (takeWaiting (s.port p)).1 = [])
      ∧ (((rst 0 id).rgn 15).state = 0 ∧ ((rst 0 id).rgn 15).owner = none ∧ 15 ≠ (rst 0 id).hub.hostRgn ∧ (rst 0 id).hub.mail.releasing = []) ∧ (clk id).hub.clk.trip = false
      ∧ ((clk id).hub.clk.stage.powered = true ∧ (clk id).hub.clk.stage ≠ .rails ∧ (clk id).hub.clk.blackout = false)
      ∧ (clk fun c => { c with rstLow := true }).hub.clk.rstLow = true ∧ (clk fun c => { c with rstLow := true, trip := true }).hub.clk.trip = true := by decide +kernel

/-- A record of a unit, and the record of a stop. -/
def rec1 : Rec := State.reset.unitRec 2 0x0704 (some 0) none []
def full64 : Aggr := ⟨List.replicate 64 { rec1 with cell := 1 }, false⟩
theorem witness_RecordsReachTheLog :
    (let s := { st cellOn with blocks := [(0, { Block.reset with transit := [rec1] })] };
      (s.blk 0).transit = [rec1] ∧ ((s.blk 0).aggr.add rec1).isSome = true ∧ full64.add rec1 = none ∧ rec1.isStop = false)
      ∧ (({ rgnOn with transit := [rec1] } : Region).transit = [rec1] ∧ (rgnOn.aggr.add rec1).isSome = true)
      ∧ (rgnOn.transit = [] ∧ ({ recs := [rec1], lost := true } : Aggr).take.isSome = true ∧ (({ recs := [rec1], lost := true } : Aggr).take.map fun x => (x.1.isStop, (rgnOn.aggr.add x.1).isSome)) = some (false, true))
      ∧ (rec1.level ≠ 0 ∧ rgnOn.owner.isSome = true ∧ rec1.detail.length ≤ 12 ∧ FltLog.reset.ring.length < 16384)
      ∧ ((st cellOn).hub.clk.hubReady = true ∧ (st cellOn).hub.eth.drops = 0 ∧ (st cellOn).hub.mail.rejected = 0 ∧ (st cellOn).hub.pwr.extreme = none ∧ (rst 0 id).jobs = [])
      ∧ (let s := { rst 0 id with hub := { hubOn with takeover := true } }; s.hub.takeover = true ∧ (s.rgn s.hub.hostRgn).owner = none ∧ (s.rgn s.hub.hostRgn).failed = false) := by decide +kernel
/-- A full ring. -/
theorem witness_full_ring : ({ FltLog.reset with ring := List.replicate 16384 (0, rec1) } : FltLog).ring.length = 16384 := List.length_replicate

theorem witness_JtagPortScansPins :
    (clk fun c => { c with jtag := { c.jtag with trst := true } }).hub.clk.jtag.trst = true ∧ (clk id).hub.clk.stage ≠ .off ∧ Jtag.reset.rise true true false 0 = Jtag.reset
      ∧ (Jtag.reset.rise true true false 0).tap = .reset
      ∧ (let j := { Jtag.reset with tap := .captureDr, op := .sample }; j.tap = .captureDr ∧ j.op = .sample) ∧ ({ Jtag.reset with op := .clamp } : Jtag).op = .clamp ∧ ({ Jtag.reset with op := .highz } : Jtag).op = .highz := by decide

/-! The fabric. -/
/-- A state with port 0, or another, in a state. -/
def prt (f : Port → Port) : State := { st cellOn with hub := { hubOn with fab := { hubOn.fab with moduleId := 5, ports := [(0, f { Port.reset with state := 3 })] } } }
theorem witness_LinksTrainAndRetrain :
    (prt id).portExists 0 = true ∧ ((prt fun x => { x with state := 1 }).port 0).state = 1 ∧ ((prt fun x => { x with state := 2 }).port 0).state = 2 ∧ ((prt fun x => { x with state := 4 }).port 0).state = 4
      ∧ ((prt id).port 0).state = 3 ∧ ((prt fun x => { x with replay := [⟨1, 0, false, [], 1, []⟩] }).port 0).replay ≠ [] ∧ (recentRetrains (prt id).hub.tick ((prt id).port 0).retrains).length < 31
      ∧ (takeWaiting ((prt id).port 0)).1 = []
      ∧ (let r : TrainResult := ⟨true, 7, [1, 1, 1, 1], (prt id).isSplit 0, 40, false, 0⟩
        (r.half = (prt id).isSplit 0 ∧ r.skew ≤ 40 ∧ r.misconnected = false) ∧ 40 < ({ r with skew := 41 } : TrainResult).skew ∧ ({ r with misconnected := true } : TrainResult).misconnected = true
          ∧ ({ r with half := !(prt id).isSplit 0 } : TrainResult).half ≠ (prt id).isSplit 0)
      ∧ (prt id).hub.fab.srcPort.toNat ≠ 0 ∧ (prt id).hub.fab.freewheel = false ∧ ({ (prt id).hub.fab with srcPort := 0 } : Fabric).srcPort.toNat = 0 := by decide +kernel

/-- A flit with a word of header and a body of zeros. -/
def flit (w : Nat) : List Byte := let l := leBytes 4 w ++ List.replicate 56 0; l ++ leBytes 4 (crc32 l)
/-- A partner that owes credits. -/
def owing : Port := ({ Port.reset with state := 3 }).modTx 0 fun v => { v with adv := 7 }
theorem witness_FlitsAreTakenInOrder :
    let s := prt fun _ => owing
    let x := s.port 0
    let good := fun f => f.length = 64 ∧ crc32 (f.take 60) = leAt f 60 4
    (s.portExists 0 = true ∧ x.live = true ∧ x.resume = false) ∧ ¬ good (List.replicate 64 0) ∧ good (flit (2 ^ 29)) ∧ good (flit (7 * 2 ^ 29 + 2 ^ 27))
      ∧ (((prt id).port 0).txOf 0).adv < (((prt id).port 0).txOf 0).credits + field (leAt (flit (2 ^ 29)) 0 4) 29 3
      ∧ (x.txOf 0).credits + field (leAt (flit (7 * 2 ^ 29)) 0 4) 29 3 ≤ (x.txOf 0).adv ∧ bitAt (leAt (flit (7 * 2 ^ 29)) 0 4) 26 = false
      ∧ bitAt (leAt (flit (2 ^ 27)) 0 4) 27 = true ∧ field (leAt (flit 2) 0 4) 0 12 ≠ (x.rxSeq + 1) % 4096 ∧ field (leAt (flit (x.rxSeq + 1)) 0 4) 0 12 = (x.rxSeq + 1) % 4096
      ∧ (x.rxOf 0).occ < s.bufSize 0 0 ∧ s.bufSize 0 0 ≤ (({ x with rx := [{ x.rxOf 0 with occ := 65536 }] } : Port).rxOf 0).occ
      ∧ x.rxCount % 10 = 0 ∧ (x.codeword 16).codeLost = false ∧ (x.codeword 17).codeLost = true ∧ ({ x with rxCount := 9, codeLost := true } : Port).rxCount % 10 ≠ 0
      ∧ ({ x with resume := true } : Port).resume = true := by decide +kernel

/-- A book of two modules, 5 and 6, with their first regions; an epoch-done cue, cue 200; and one bucket of one module, of 1 MiB of FP32 from HBM 0 to HBM 0x100000, done cue 201. -/
def img3 : List Byte := image 0x900 [(0x14, 4), (0x24, 2), (0x80, 1), (0x84, 0x40), (0x88, 0xC0), (0x90, 2), (0x94, 0x80), (0x95, 4), (0x99, 1), (0xA0, 6), (0xA4, 16), (0xA8, 0x80), (0xA9, 5),
  (0xB0, 7), (0xB4, 0x90), (0xB5, 2), (0xB8, 0xC0), (0xB9, 5), (0xD4, 100), (0x100, 5), (0x102, 1), (0x340, 6), (0x342, 1), (0x580, 0xC8), (0x581, 0x20),
  (0x5C0, 1), (0x5C4, 8), (0x5C8, 3), (0x5D4, 0xC9), (0x5E2, 0x10), (0x648, 1)]
/-- The same with both modules in the bucket. -/
def img5 : List Byte := img3.set 0x648 3
def job3 : Job := { job7 with img := img3 }
/-- Module 5 with port 0 up and a job. -/
def fab (j : Job) (f : Port → Port) : State := { prt f with jobs := [j] }
/-- A packet from cell 0 of module 6. -/
def pk (ty vc len dst : Nat) (h1 h2 : Nat) : Packet := ⟨mkH0 ty vc len dst 6 0 false, BitVec.ofNat 64 h1, BitVec.ofNat 64 h2, List.replicate (64 * len) 0⟩
set_option maxRecDepth 8000 in
theorem witness_PacketsReachTheirTargets :
    (let s := fab job3 id
      let w := pk 1 0 1 5 0 0
      let a := pk 2 0 1 5 0 0
      let c := pk 3 2 0 5 (200 + 3 * 2 ^ 32) 7
      (heldByChange s w = false ∧ packetFor s 0 w 1 = true ∧ slotOk (takeArrived s 0 w) 0 6 0 none = true) ∧ (heldByChange s a = false ∧ packetFor s 0 a 2 = true)
        ∧ (heldByChange s c = false ∧ packetFor s 0 c 3 = true ∧ (takeArrived s 0 c).job 7 = some job3 ∧ jobCue job3 200 = true ∧ (takeArrived s 0 c).cueLost 200 = false ∧ ((takeArrived s 0 c).cue 200).armed = false))
      ∧ (let s := fab job3 id
        let c := pk 3 2 0 5 (200 + 3 * 2 ^ 32) 8
        heldByChange s c = false ∧ packetFor s 0 c 3 = true ∧ (takeArrived s 0 c).job 8 = none)
      ∧ (let s := fab job3 id
        let f := pk 1 0 1 9 0x100000000000 0
        s.carries 0 f = true ∧ goodPacket f = true ∧ forHere s 0 f = false ∧ hType f.h0 ≠ 8 ∧ hDst f.h0 ≠ 0xFFF ∧ s.hub.fab.moduleId ≠ 0xFFF ∧ hHops f.h0 < 31 ∧ ¬ hType f.h0 = 7
          ∧ 31 ≤ hHops (f.h0 + BitVec.ofNat 64 (31 * 2 ^ 59)))
      ∧ (let s := fab job3 id
        let b := pk 1 1 1 5 0x100000000000 0
        badReason b = some 2 ∧ s.carries 0 b = true ∧ hType b.h0 ≠ 0 ∧ ((takeArrived s 0 b).port 0).lastNak = none ∧ ¬ hType b.h0 = 9) := by decide +kernel

set_option maxRecDepth 8000 in
theorem witness_JobPacketsKeepTime :
    (let s := fab job3 id
      let h := pk 6 2 0 5 0 (1 + 7 * 2 ^ 32)
      packetFor s 0 h 6 = true ∧ (takeArrived s 0 h).job 7 = some job3 ∧ bitAt (1 + 7 * 2 ^ 32) 16 = false ∧ bitAt (1 + 7 * 2 ^ 32) 17 = false ∧ job3.faulted = false ∧ job3.begun = true ∧ job3.chg = none ∧ h.h1.toNat = job3.epoch ∧ job3.kSteps < 1
        ∧ (takeArrived s 0 h).jobTick job3 < job3.boundary)
      ∧ (let h := pk 6 2 0 5 1 (1 + 7 * 2 ^ 32)
        let later := { job3 with kOf := [(1, 1, 6)] }
        let past := { job3 with epoch := 2 }
        packetFor (fab later id) 0 h 6 = true ∧ packetFor (fab past id) 0 h 6 = true ∧ h.h1.toNat = 1 ∧ 1 ≤ (mapGet (0, 0) later.kOf 1).1 ∧ (mapGet (0, 0) job3.kOf 1).1 < 1 ∧ (mapGet (0, 0) past.kOf 1).1 < 1
          ∧ h.h1.toNat ≠ later.epoch ∧ job3.epoch < h.h1.toNat ∧ h.h1.toNat < past.epoch)
      ∧ (let s := { fab job3 id with regions := [(0, { rgnOn with tick := 2 ^ 40 })] }
        let h := pk 6 2 0 5 0 (1 + 7 * 2 ^ 32)
        packetFor s 0 h 6 = true ∧ job3.boundary ≤ (takeArrived s 0 h).jobTick job3)
      ∧ (let s := fab job3 id
        let h := pk 6 2 0 5 0 (2 ^ 16 + 7 * 2 ^ 32)
        packetFor s 0 h 6 = true ∧ bitAt (2 ^ 16 + 7 * 2 ^ 32) 16 = true ∧ ∀ i ∈ s.hub.bkt.insts, i.job ≠ 7)
      ∧ (let j := { job3 with begun := false, root := false, t0 := none }
        let s := fab j id
        let a := pk 7 2 0 5 (0 + 7 * 2 ^ 32) 640
        let n := pk 7 2 0 5 (1 + 7 * 2 ^ 32) 640
        (packetFor s 0 a 7 = true ∧ (takeArrived s 0 a).job (timeJob a) = some j ∧ j.begun = false ∧ j.root = false ∧ field a.h1.toNat 0 8 = 0)
          ∧ packetFor s 0 n 7 = true ∧ field n.h1.toNat 0 8 = 1 ∧ (takeArrived s 0 n).executingFor 0x0304 (timeJob n) = none ∧ s.hub.mail.waiting = [])
      ∧ (let s := fab job3 id
        let b := pk 7 2 0 5 (2 + 7 * 2 ^ 32) 640
        packetFor s 0 b 7 = true ∧ field b.h1.toNat 0 8 = 2 ∧ (takeArrived s 0 b).job (timeJob b) = some job3 ∧ bookPosition job3.img (hSrc b.h0) = some 1) := by decide +kernel

set_option maxRecDepth 8000 in
theorem witness_ManagementAndFabricClock :
    (let s := { fab job3 id with regions := [] }
      let i := pk 8 3 0 0xFFF 1 (6 + 0x4C4D * 2 ^ 32 + 0x0307 * 2 ^ 48)
      let n := pk 9 3 0 5 (1 + 2 ^ 32) 0
      let u := pk 9 3 0 5 2 (mkH0 1 0 1 6 5 0 false).toNat
      let v := pk 9 3 0 5 2 0
      let f := pk 9 3 1 5 3 0
      localFor s 0 i 8 = true ∧ ((takeArrived s 0 i).port 0).before = none ∧ ((takeArrived s 0 i).port 0).state = 3 ∧ (BitVec.ofNat 12 i.h2.toNat == s.hub.fab.moduleId) = false
        ∧ localFor s 0 n 9 = true ∧ field n.h1.toNat 0 8 = 1 ∧ localFor s 0 u 9 = true ∧ field u.h1.toNat 0 8 = 2 ∧ hSrc u.h2 = s.hub.fab.moduleId.toNat ∧ (takeArrived s 0 u).jobOf (hRegion u.h2) = none ∧ isJobType u.h2 = true
        ∧ localFor s 0 v 9 = true ∧ hSrc v.h2 ≠ s.hub.fab.moduleId.toNat ∧ localFor s 0 f 9 = true ∧ field f.h1.toNat 0 8 = 3
        ∧ s.portExists 0 = true ∧ (s.port 0).live = true ∧ knownNames s = [] ∧ s.noJobs = true ∧ s.hub.mail.waiting = [] ∧ s.executing = [] ∧ (fab job3 id).noJobs = false)
      ∧ (let s := { fab job3 id with hub := { (fab job3 id).hub with fab := { (fab job3 id).hub.fab with names := [(77, 3, 0, 0)], srcPort := 0 } } }
        s.hub.fab.names.find? (fun x => x.1 == 77 && x.2.1 == 3) = some (77, 3, 0, 0) ∧ (s.port 0).live = true ∧ (s.portExists s.hub.fab.srcPort.toNat = true ∧ (s.port s.hub.fab.srcPort.toNat).state = 3) ∧ s.hub.fab.srcPort ≠ 63 ∧ s.hub.fab.freewheel = false ∧ ({ s.hub.fab with freewheel := true } : Fabric).freewheel = true)
      ∧ (let s := fab job3 fun x => { x with sums := [1, 0, 0] }; (∀ q < 48, q ≠ 0 → (s.port q).sums.sum = 0) ∧ (s.port 0).sums.sum ≠ 0) := by decide +kernel
/-- A serial number other than this module's. -/
theorem witness_other_serial : Config.fuseSerial + 1 ≠ Config.fuseSerial := by
  generalize Config.fuseSerial = x
  intro h
  bv_omega


/-- An instance of bucket 0, alone. -/
def inst0 : BktInst := ⟨7, 0, 0, none, [], none, [], none, 0⟩
def bst (i : BktInst) : State := { fab job3 id with hub := { (fab job3 id).hub with bkt := { (fab job3 id).hub.bkt with insts := [i] } } }
set_option maxRecDepth 8000 in
theorem witness_BucketsCompleteAndReport :
    (bst inst0).job 7 = some job3 ∧ (bst inst0).inst 7 0 0 = some inst0 ∧ (fabDesc job3.img 0).map (fun d => (d.fmt, d.doneCue, d.bytes, d.src, d.dst)) = some (0, 201, 0x100000, 0, 0x100000)
      ∧ inst0.contrib = none ∧ (bst inst0).hbm.errs = [] ∧ (bst inst0).hbm.poison = [] ∧ inst0.kids = [] ∧ inst0.up = none ∧ memWf (bst inst0).hbm.mem = true
      ∧ (fabDesc job3.img 0).map (fun d => (parentPosition (d.members 2) 0, kidPositions (d.members 2) 0)) = some (none, []) ∧ bookModules job3.img = 2
      ∧ ({ inst0 with contrib := some ([0, 0, 0, 0], []), result := some ([0, 0, 0, 0], []) } : BktInst).contrib.isSome = true
      ∧ nonfinites 0 ([0, 0, 0, 0], []) = [] ∧ (bst inst0).cueLost 201 = false ∧ ((bst inst0).cue 201).armed = false := by decide +kernel

/-! The Ethernet port and mailboxes. -/
/-- A session with all rights that has staged a book of 64 bytes. -/
def session1 : Session := ⟨1, 0, false, 0xF, ⟨1, 1⟩, some ⟨64, []⟩, [], 0, 0, false⟩
/-- A queue pair that is connected. -/
def qpOn (k : QpKind) (n : Word) : Qp := { Qp.reset with state := .connected, kind := k, session := n, src := ⟨1, 1⟩ }
/-- A window of session 1 over the first 4,096 bytes of HBM and one over cell 0. -/
def windows1 : SMap Window := [(0, ⟨0x100, 1, 7, true, true, 0, 4096⟩), (1, ⟨0x201, 1, 7, true, true, 0x100000000000, 0x8000⟩)]
/-- Queue pairs: 2 of mailbox 0, 3 of mailbox 1, 4 to 6 for data. -/
def qps1 : SMap Qp :=
  [(2, qpOn (.mailbox 0) 0), (3, qpOn (.mailbox 1) 1), (4, { qpOn .data 1 with unacked := [(5, [1])] }), (5, { qpOn .data 1 with state := .connecting }), (6, { qpOn .data 1 with state := .error })]
def eth1 : Eth := { Eth.reset with linkUp := true, client := true, ipv4 := 0x0A000001, ipv4Valid := true, dhcp := true, windows := windows1, qps := qps1 }
/-- Session 1 has mailbox 1, and slot 0 a nonce. -/
def mail1 : Mail := { Mail.reset with mbx := [(1, { Mbx.reset with session := 1 })], sessions := [session1], nonces := [⟨0, 5, 0⟩] }
/-- A key with all rights in slot 0. -/
def keys1 : List (Option OpKey) := some ⟨BitVec.ofNat 3072 (2 ^ 3071), 0xF⟩ :: List.replicate 7 none
/-- The port linked, and a session. -/
def nst (s : State) : State := { s with hub := { s.hub with eth := eth1, mail := mail1, sec := { s.hub.sec with keys := keys1 } } }
/-- Module 5 with job 3 that runs, and the port. -/
def mst : State := nst (fab job3 id)
/-- A request on queue pair `q`. -/
def msg (q : Fin 64) (session job : Word) (flags : Byte) (payload : List Byte) : Msg := ⟨q, 0, false, none, 0x4D42, 1, flags, 0, 5, session, BitVec.ofNat 32 payload.length, 0, 0, job, 0, payload⟩
/-- What `Served` asks, as one check. -/
def served (s : State) (n : Nat) (code : BitVec 16) (m : Msg) : Bool :=
  decide (n < 64) && s.ethOn && decide ((s.qp m.q.val).state = .connected) && decide ((s.qp m.q.val).kind = .mailbox n) && decide (psnPlace (s.qp m.q.val).epsn m.psn = .expected)
    && decide (m.payload.length ≤ 4048) && (s.mbx n).req.isNone && (n == 0 || (s.mbx n).session != 0) && (s.mbx n).kept.isNone && s.hub.mail.waiting.isEmpty && s.executing.isEmpty && (precheck s n code.toNat m).isNone
theorem served_of {s : State} {n : Nat} {code : BitVec 16} {m : Msg} (h : served s n code m = true) : Served s n code m := by
  simp only [served, Bool.and_eq_true, decide_eq_true_eq, Option.isNone_iff_eq_none, List.isEmpty_iff, Bool.or_eq_true, beq_iff_eq, bne_iff_ne] at h
  obtain ⟨⟨⟨⟨⟨⟨⟨⟨⟨⟨⟨h1, h2⟩, h3⟩, h4⟩, h5⟩, h6⟩, h7⟩, h8⟩, h9⟩, h10⟩, h11⟩, h12⟩ := h
  exact ⟨⟨h1, h2, h3, h4, h5, h6, h7, fun h => h8.resolve_left h⟩, fun k e => by simp [h9] at e, h10, h11, h12⟩

set_option maxRecDepth 8000 in
theorem witness_BucketPacketsAndFailures :
    (let r := pk 4 1 1 5 (7 * 2 ^ 32) (2 ^ 32)
      let b := pk 5 1 1 5 (7 * 2 ^ 32) (2 ^ 32)
      (bst inst0).job (pktJob r) = some job3 ∧ job3.chg = none ∧ (bst inst0).inst 7 (pktBucket r) (pktInst r) = some inst0 ∧ (fabDesc job3.img (pktBucket r)).isSome = true
        ∧ packetFor (bst inst0) 0 r 4 = true ∧ packetFor (bst inst0) 0 b 5 = true
        ∧ ((fab job3 id).inst 7 (pktBucket r) (pktInst r) = none ∧ startedBefore job3 (pktBucket r) (pktInst r) = false ∧ earlyBytes (fab job3 id).hub.bkt (job3.home 0) + r.data.length ≤ 2 ^ 21 ∧ packetFor (fab job3 id) 0 r 4 = true))
      ∧ (let r := pk 4 1 1 5 (7 * 2 ^ 32) (2 ^ 32)
        let s := { fab job3 id with hub := { (fab job3 id).hub with bkt := { (fab job3 id).hub.bkt with early := [⟨r, 0, 0, 100000⟩] } } }
        s.hub.bkt.early.any (fun e => e.k == r && Nat.ble 100000 e.age) = true ∧ (fab job3 id).hub.bkt.early.any (fun e => e.k == r && Nat.ble 100000 e.age) = false ∧ s.job (pktJob r) = some job3
          ∧ ({ s with jobs := [] } : State).job (pktJob r) = none)
      ∧ (let r := pk 4 1 1 5 (7 * 2 ^ 32) (2 ^ 32)
        let i := { inst0 with kids := [(1, [])] }
        (bst i).inst 7 0 0 = some i ∧ i.contrib = none ∧ packetFor (bst i) 0 r 4 = true ∧ hPoison r.h0 = false ∧ hPoison (mkH0 4 1 1 5 6 0 true) = true
          ∧ (fabDesc job3.img 0).map (fun d => (bktBad job3 d i r, bktBad job3 d i { r with h0 := mkH0 4 1 1 5 6 0 true })) = some (none, none) ∧ packetFor (bst i) 0 { r with h0 := mkH0 4 1 1 5 6 0 true } 4 = true)
      ∧ (let j := { job3 with img := img5, pos := 1, root := false }
        let s := { bst inst0 with jobs := [j] }
        let b := pk 5 1 1 5 (7 * 2 ^ 32) 0
        s.inst 7 0 0 = some inst0 ∧ packetFor s 0 b 5 = true
          ∧ (fabDesc img5 0).map (fun d => (bktBad j d inst0 b, kidPositions (d.members (bookModules img5)) 1, decide ((addUnits inst0.got 0 (packetUnits d.fmt b)).length < d.units))) = some (none, [], true))
      ∧ (let j := { job3 with chg := some ⟨1, [0], false⟩ }; j.chg.isSome = true ∧ packetFor (fab j id) 0 (pk 4 1 1 5 (7 * 2 ^ 32) (2 ^ 32)) 4 = true ∧ j.faulted = false) := by decide +kernel

theorem witness_LinkAndAddresses :
    ((st cellOn).hub.clk.hubReady = true ∧ (st cellOn).hub.eth.linkUp = false ∧ (st cellOn).hub.eth.client = false ∧ (st cellOn).hub.eth.ipv4Valid = false)
      ∧ (let s := mst
        s.ethOn = true ∧ s.hub.eth.client = true ∧ s.hub.eth.ipv4Valid = true ∧ s.hub.eth.dhcp = true ∧ s.hub.tick < s.hub.eth.echoTick + 100000000 ∧ s.hub.eth.echo6 < 1000)
      ∧ (let e := { mst.hub.eth with echo4 := 1000, ipv6Valid := true, dhcp := false, ipv4Valid := false }; 1000 ≤ e.echo4 ∧ e.ipv6Valid = true ∧ e.dhcp = false ∧ e.ipv4Valid = false ∧ e.asked = none ∧ e.client = true)
      ∧ (let d : DhcpReply := ⟨.ack, some 5, 0x0A000002, 0xFFFFFF00, 0, 600⟩
        let e := { mst.hub.eth with dhcp := false, ipv4Valid := false, asked := some 0x0A000002 }
        ({ d with kind := .offer } : DhcpReply).kind = .offer ∧ d.kind = .ack ∧ e.asked = some d.addr ∧ e.ipv4Valid = false ∧ mst.hub.eth.asked ≠ some d.addr ∧ ({ d with kind := .nak } : DhcpReply).kind = .nak
          ∧ e.asked.isSome = true ∧ e.dhcp = false) := by decide +kernel

/-- A request names the module's own address, whatever its link-local address is. -/
theorem witness_owns : mst.hub.eth.owns (mapped 0x0A000001) = true := by rw [Eth.owns, Bool.or_eq_true]; exact .inr (by decide)
theorem witness_PausesAndConnections :
    mst.ethOn = true ∧ mst.hub.eth.qos.getLsbD 15 = false ∧ ({ eth1 with qos := 0x8000 } : Eth).qos.getLsbD 15 = true
      ∧ (let r : CmReq := ⟨⟨1, 1⟩, mapped 0x0A000001, 0, 0, 4096, 0, some 7⟩; mst.boxConns 0 < 8 ∧ cmJudge mst r = .inl (.mailbox 0) ∧ cmJudge mst { r with mtu := 1024 } = .inr 26)
      ∧ mapped 0x0A000001 = mapped mst.hub.eth.ipv4 ∧ (mst.qp 0).state = .free ∧ (mst.qp 5).state = .connecting ∧ (mst.qp 5).kind ≠ .event ∧ (mst.qp 6).state = .error ∧ (mst.qp 4).state = .connected
      ∧ (let t := { mst with hub := { mst.hub with eth := { eth1 with qps := (List.range 64).map fun i => (i, qpOn .data 1) } } }; ∀ q < 64, (t.qp q).state ≠ .free) := by decide +kernel

set_option maxRecDepth 8000 in
theorem witness_RdmaReadsAndWrites :
    (mst.ethOn = true ∧ mst.hub.eth.pfcEn = false ∧ mst.hub.eth.pfcSent = false ∧ (mst.qp 5).state ≠ .connected ∧ (mst.qp 4).state = .connected ∧ (mst.qp 3).kind ≠ .data ∧ (mst.qp 4).kind = .data)
      ∧ (psnPlace 0 1 = .ahead ∧ psnPlace 0 0x7FFFFF = .ahead ∧ psnPlace 0 0x800000 = .duplicate ∧ psnPlace (mst.qp 4).epsn 0 = .expected ∧ (mst.qp 4).nakSent = false ∧ (mst.qp 4).write = none)
      ∧ (let s := { mst with regions := [(0, { rgnOn with scrubPending := false })] }
        windowLets s 1 0x100 4032 64 true = true ∧ cellAddr 4032 = none ∧ windowLets s 1 0x100 4033 64 true = false ∧ windowLets s 1 0x201 0x100000007FC0 64 true = true ∧ cellAddr 0x100000007FC0 = some (0, 0x7FC0)
          ∧ windowLets s 1 0x100 0 4096 false = true ∧ windowLets s 2 0x100 0 4096 false = false ∧ s.hbm.errs = [] ∧ s.hbm.poison = [] ∧ memWf s.hbm.mem = true ∧ memWf (s.cell 0).mem = true
          ∧ (s.cell 0).bankDown 0x7FC0 64 = false)
      ∧ (foreignOp (.unsupported 0) = true ∧ foreignOp .only = false ∧ writeForm (mst.qp 4) ⟨4, .last, 0, 0x100, 0, 8, true, some 3, 2 ^ 21, []⟩ = false ∧ (mst.qp 4).lastCnp = none
        ∧ ({ mst.qp 4 with lastCnp := some 0 } : Qp).lastCnp = some 0 ∧ (⟨4, 0, 0x100, 0, 4096, true, none, 15⟩ : RdmaRead).outstanding < 16) := by decide +kernel

theorem witness_SendsAreAcknowledged :
    mst.ethOn = true ∧ (mst.qp 4).state = .connected ∧ (mst.qp 4).kind ≠ .event ∧ (mst.qp 4).unacked ≠ [] ∧ (mst.qp 4).retries < 7 ∧ 7 ≤ ({ mst.qp 4 with retries := 7 } : Qp).retries := by decide +kernel

theorem witness_RequestsReachFirmware :
    ({ mst with hub := { mst.hub with mail := { mst.hub.mail with mbx := [(1, ⟨1, some startReq, none⟩)] } } } : State).mbx 1 = ⟨1, some startReq, none⟩ ∧ psnPlace (mst.qp 3).epsn 0 = .expected ∧ (mst.ethOn = true ∧ (mst.qp 5).state ≠ .connected ∧ (mst.qp 4).state = .connected ∧ (mst.qp 4).kind = .data ∧ (mst.qp 3).state = .connected ∧ (mst.qp 3).kind = .mailbox 1 ∧ (mst.mbx 1).req = none
        ∧ (({ mst.mbx 1 with req := some startReq } : Mbx).req.isSome = true) ∧ (msg 3 1 7 0 (List.replicate 4048 0)).payload.length ≤ 4048 ∧ 4048 < (msg 3 1 7 0 (List.replicate 4049 0)).payload.length)
      ∧ served mst 1 0x0304 (msg 3 1 7 0 []) ∧ mst.hub.mail.waiting = [] ∧ mst.executing = [] ∧ (mst.mbx 1).kept = none ∧ (({ mst.mbx 1 with kept := some ⟨0x0307, 5, []⟩ } : Mbx).kept = some ⟨0x0307, 5, []⟩)
      ∧ precheck mst 1 0x0303 (msg 3 1 7 4 []) = some 0x0301 ∧ headerOk (msg 3 1 7 4 []) = true ∧ headerOk { msg 3 1 7 0 [] with magic := 0 } = false ∧ (mst.mbx 1).session = 1 ∧ (mst.privOf 1).getLsbD 0 = true
      ∧ cmdNeeds 0x0100 = none ∧ cmdNeeds 0xFFFF = none ∧ served mst 0 0x0101 (msg 2 0 0 0 []) := by decide +kernel

theorem witness_ResponsesAreSentAndKept :
    let s := { mst with hub := { mst.hub with mail := { mst.hub.mail with mbx := [(1, ⟨1, some startReq, none⟩)] } } }
    (s.mbx 1).req = some startReq ∧ (1 ≠ 0 → (s.mbx 1).session ≠ 0) ∧ (s.qp startReq.m.q.val).state ≠ .connected ∧ (s.qp 3).state = .connected ∧ startReq.lost = false ∧ ({ startReq with lost := true } : Req).lost = true := by decide +kernel

theorem leBytes_length (n x : Nat) : (leBytes n x).length = n := by induction n generalizing x with | zero => rfl | succ n ih => simp [leBytes, ih]
theorem leNat_leBytes (n x : Nat) : leNat (leBytes n x) = x % 256 ^ n := by
  induction n generalizing x with
  | zero => simp [leBytes, leNat, Nat.mod_one]
  | succ n ih =>
    simp only [leBytes, leNat, ih, BitVec.toNat_ofNat]
    rw [show 256 ^ (n + 1) = 256 * 256 ^ n by rw [Nat.pow_succ, Nat.mul_comm], Nat.mod_mul]
theorem leAt_mid (a b : List Byte) (n v : Nat) : leAt (a ++ (leBytes n v ++ b)) a.length n = v % 256 ^ n := by
  rw [leAt, List.drop_left, List.take_left' (leBytes_length n v), leNat_leBytes]

/-- The state in which session 1 has staged nothing, and one in which the job has another form. -/
def nst0 (f : Session → Session) : State := { mst with hub := { mst.hub with mail := { mail1 with sessions := [f session1] } } }
def jms (j : Job) : State := nst (fab j id)
/-- A DEBUG_UNLOCK token of session 1, with an unsigned signature. -/
def token : List Byte := [0x44, 0x42, 0x47, 0x31, 0, 15, 0, 0, 1, 0, 0, 0, 1, 0, 0, 0] ++ (leBytes 8 Config.fuseSerial.toNat ++ (digestBytes 5 ++ List.replicate 456 0))
theorem witness_token_serial : leAt token 16 8 = Config.fuseSerial.toNat :=
  (leAt_mid [0x44, 0x42, 0x47, 0x31, 0, 15, 0, 0, 1, 0, 0, 0, 1, 0, 0, 0] _ 8 _).trans (Nat.mod_eq_of_lt Config.fuseSerial.isLt)
set_option maxRecDepth 8000 in
theorem witness_SessionsAndSecurity :
    (served mst 1 0x0101 (msg 3 1 0 0 []) ∧ served mst 0 0x0102 (msg 2 0 0 0 []) ∧ served mst 0 0x0201 (msg 2 0 0 0 [7]) ∧ mst.key 7 = none ∧ (mst.key 0).isSome = true)
      ∧ (let m := msg 2 0 0 0 ([0, 1, 0, 0] ++ digestBytes 5 ++ List.replicate 384 0)
        served mst 0 0x0202 m ∧ m.payload.length = 420 ∧ leAt m.payload 1 1 ≤ 1 ∧ zeroAt m 2 4 = true ∧ mst.nonceOk (leAt m.payload 0 1) ((m.payload.drop 4).take 32) = true
          ∧ (mst.key 0).map (fun k => k.priv.getLsbD 2) = some true ∧ mst.hub.mail.sessions.length < 16 ∧ mst.freeBoxes ≠ [])
      ∧ (served mst 1 0x0203 (msg 3 1 0 0 []) ∧ (mst.session 1).isSome = true) ∧ served mst 1 0x0204 (msg 3 1 0 0 (List.replicate 32 0))
      ∧ (let m := msg 3 1 0 0 token
        served mst 1 0x0205 m ∧ m.payload.length = 512 ∧ leAt m.payload 0 4 = 0x31474244 ∧ zeroAt m 6 8 = true ∧ zeroAt m 56 128 = true ∧ leAt m.payload 5 1 < 16 ∧ 1 ≤ leAt m.payload 12 4
          ∧ leAt m.payload 12 4 ≤ 86400 ∧ leAt m.payload 8 4 = m.session.toNat ∧ mst.nonceOk (leAt m.payload 4 1) ((m.payload.drop 24).take 32) = true
          ∧ (mst.key 0).map (fun k => k.priv.getLsbD 3) = some true)
      ∧ (served mst 1 0x0206 (msg 3 1 0 0 [6]) ∧ ((List.range 64).filter fun i => i != 0 && (mst.mbx i).session == 1).length + 6 ≤ 8 ∧ 6 ≤ mst.freeBoxes.length)
      ∧ (let s := { mst with hub := { mst.hub with eth := { eth1 with qps := [(3, qpOn (.mailbox 0) 1)] } } }; (s.session 1).isSome = true ∧ s.hub.mail.waiting = [] ∧ (∀ b < 64, (s.mbx b).session = 1 → (s.mbx b).req = none) ∧ ∀ q < 64, (s.qp q).state = .connected → (s.qp q).session = 1 → (s.qp q).kind = .mailbox 0)
      ∧ (let s := { mst with hub := { mst.hub with sec := { mst.hub.sec with dbg := some ⟨1, 15, 9⟩ } } }; s.hub.sec.dbg.isSome = true ∧ ∀ r < 16, (s.rclk r).debugClk = false) := by decide +kernel

/-- The two forms of job 3: not begun, and without its session. -/
def jobNew : Job := { job3 with begun := false, t0 := none }
/-- A palette write of one record of zeros to block 0 of region 0, and where it may go. -/
def palMsg (flags : Byte) : Msg := { msg 3 1 7 flags (List.replicate 22 0 ++ [1, 0] ++ List.replicate 192 0) with applyAt := 4 }
def img4 : List Byte := img3.set 0x140 1
set_option maxRecDepth 8000 in
theorem witness_BooksAndJobs :
    (served (nst0 fun x => { x with staging := none }) 1 0x0301 (msg 3 1 0 0 (leBytes 8 64)) ∧ (nst0 fun x => { x with staging := none }).stagingOf 1 = none ∧ mst.hub.takeover = false ∧ mst.stagedMib + mib 64 ≤ 768
        ∧ 768 < (nst0 fun x => { x with num := 2, staging := some ⟨512 * 2 ^ 20, []⟩ }).stagedMib + mib (512 * 2 ^ 20))
      ∧ (served mst 1 0x0302 (msg 3 1 0 0 (leBytes 8 0 ++ List.replicate 64 1)) ∧ mst.stagingOf 1 = some ⟨64, []⟩)
      ∧ (served mst 1 0x0303 (msg 3 1 8 0 [2, 0, 0, 0, 0, 0, 0, 0]) ∧ mst.job 8 = none ∧ ∀ r < 16, (BitVec.ofNat 16 2).getLsbD r = true → (mst.rgn r).owner = none ∧ (mst.rgn r).failed = false ∧ (mst.rgn r).state = 0)
      ∧ (served (jms jobNew) 1 0x0304 (msg 3 1 7 0 []) ∧ (jms jobNew).job 7 = some jobNew ∧ jobNew.session = 1 ∧ (jms jobNew).loaded jobNew = true ∧ jobNew.begun = false ∧ jobNew.root = true ∧ jobNew.t0 = none)
      ∧ (served mst 1 0x0305 (msg 3 1 7 0 []) ∧ served mst 1 0x0306 (msg 3 1 7 0 []) ∧ mst.atRest job3 = false ∧ ({ mst with cells := [] } : State).atRest job3 = true ∧ served mst 1 0x0307 (msg 3 1 7 0 []) ∧ (mst.rgn 0).state = 5)
      ∧ (served mst 1 0x0309 (msg 3 1 7 0 [0xFF, 1, 0, 0, 1, 0, 0, 0]) ∧ jobCue job3 511 = true ∧ jobCue job3 127 = false ∧ jobCue job3 512 = false ∧ mst.loaded job3 = true ∧ mst.cueLost 511 = false ∧ (mst.cue 511).armed = false)
      ∧ (let j := { jobNew with img := img4 }
        served (jms j) 1 0x030A (palMsg 0) ∧ (jms j).loaded j = true ∧ j.running = false ∧ (palMsg 0).flags.getLsbD 2 = false ∧ leAt (palMsg 0).payload 0 2 = j.pos ∧ ((jms j).cell 0).bankDown 0 192 = false)
      ∧ (let j := { job3 with img := img4 }
        served (jms j) 1 0x030A (palMsg 4) ∧ served (jms j) 1 0x030A (palMsg 0) ∧ j.running = true ∧ (palMsg 4).flags.getLsbD 2 = true ∧ j.root = true)
      ∧ (let j := { job3 with staged := [⟨4, 0x0702, msg 3 1 7 4 []⟩] }
        let m := msg 3 1 7 0 [5, 0, 0, 0]
        served (jms j) 1 0x030B m ∧ (j.staged.find? (fun c => c.m.seq == BitVec.ofNat 32 (leAt m.payload 0 4))).isSome = true ∧ j.past 4 = false ∧ underHold 0x0702 = false ∧ j.past 0 = true)
      ∧ (let j := { job3 with session := 99 }
        served (jms j) 1 0x0308 (msg 3 1 7 0 []) ∧ (jms j).session j.session = none ∧ j.keySlot = (jms j).slotOfSession 1 ∧ j.events = [] ∧ j.lostEvents = 0) := by decide +kernel
/-- The palette record of the witness is in order, in that book and in one of one module, whose job takes a change without another's leave. -/
theorem witness_paletteForm : paletteForm { job3 with img := img4 } (palMsg 4) = true
      ∧ (let j := { job3 with img := img4.set 0x24 1 }
        served (jms j) 1 0x030A (palMsg 4) ∧ paletteForm j (palMsg 4) = true ∧ (jms j).loaded j = true ∧ j.running = true ∧ j.past 4 = false ∧ j.root = true ∧ j.staged.length < 64 ∧ j.others = []) := by decide +kernel
/-- The job of one module takes the change at once: nobody else. -/
theorem witness_alone : job1.others = [] ∧ job1.root = true := by decide +kernel

/-- A distribution of identifier 9 to this module. -/
def distribute : List Byte := [1, 0, 0, 0, 0, 0, 0, 0] ++ (leBytes 8 Config.fuseSerial.toNat ++ [9, 0])
theorem witness_distribute_serial : leAt distribute 8 8 = Config.fuseSerial.toNat :=
  (leAt_mid [1, 0, 0, 0, 0, 0, 0, 0] _ 8 _).trans (Nat.mod_eq_of_lt Config.fuseSerial.isLt)
set_option maxRecDepth 8000 in
theorem witness_WindowsPortsAndRoutes :
    (let m := msg 3 1 7 0 ([3, 0, 0, 0, 0, 0, 0, 0] ++ leBytes 8 0x100000007FC0 ++ leBytes 8 64);
      served mst 1 0x0401 m ∧ mst.job 7 = some job3 ∧ mst.loaded job3 = true ∧ m.payload.length = 24 ∧ zeroAt m 1 8 = true ∧ windowSpan mst job3 (leAt m.payload 8 8) (leAt m.payload 16 8) = true
        ∧ (∀ w ∈ mst.hub.eth.windows, w.1 ≠ 2) ∧ ∀ k < 2, ∃ w ∈ mst.hub.eth.windows, w.1 = k)
      ∧ (served mst 1 0x0402 (msg 3 1 0 0 (leBytes 4 0x100)) ∧ (mst.hub.eth.windows.find? (fun w => w.2.key == 0x100)).map (·.2.session) = some 1) ∧ served mst 1 0x0403 (msg 3 1 0 0 [0, 0])
      ∧ (served mst 1 0x0501 (msg 3 1 0 0 [23, 1]) ∧ (mst.rgn (portRegion 23)).failed = false ∧ (mst.port 23).state = 0 ∧ (mst.port 0).state = 3 ∧ (mst.port 23).split = false ∧ served mst 1 0x0501 (msg 3 1 0 0 [0, 0])) ∧ served mst 1 0x0502 (msg 3 1 0 0 [])
      ∧ (served mst 1 0x0503 (msg 3 1 0 0 [0xFE, 0x0F]) ∧ mst.noJobs = false ∧ ({ mst with regions := [] } : State).noJobs = true)
      ∧ (let m := msg 3 1 0 0 ([63, 0, 0xFF, 0x0F, 1, 0, 0, 0] ++ [0x40, 0, 0, 0]);
        served mst 1 0x0504 m ∧ leAt m.payload 2 2 + 1 ≤ 4096 ∧ zeroAt m 1 2 = true ∧ zeroAt m 6 8 = true ∧ routeEntryOk 0x40 = true)
      ∧ served mst 1 0x0505 (msg 3 1 0 0 (List.replicate 10 0)) ∧ (served mst 1 0x0506 (msg 3 1 0 0 [23]) ∧ mst.hub.fab.freewheel = false)
      ∧ (let s := { mst with regions := [] };
        let m := msg 3 1 0 0 distribute;
        served s 1 0x0507 m ∧ leAt m.payload 0 2 = 1 ∧ m.payload.length = 18 ∧ zeroAt m 2 8 = true ∧ leAt m.payload 16 2 = 9 ∧ s.noJobs = true ∧ ∀ p < 48, (s.port p).peerValid = false)
      ∧ (served mst 1 0x0508 (msg 3 1 0 0 (List.replicate 36 0)) ∧ zeroAt (msg 3 1 0 0 (List.replicate 36 0)) 1 4 = true ∧ ({ eth1 with ipv4Valid := false } : Eth).ipv4Valid = false) := by decide +kernel

/-- One register at an address, for REG_READ; with a value, for REG_WRITE. -/
def regs1 (a : Nat) : List Byte := [1, 0, 0, 0, 0, 0, 0, 0] ++ leBytes 8 a
set_option maxRecDepth 8000 in
theorem witness_RegistersLogAndFirmware :
    (served mst 1 0x0601 (msg 3 1 0 0 (leBytes 4 120)) ∧ served mst 1 0x0601 (msg 3 1 0 0 (leBytes 4 625)))
      ∧ (served (jms jobNew) 1 0x0602 (msg 3 1 7 0 (leBytes 4 240 ++ leBytes 4 120 ++ leBytes 4 624)) ∧ jobNew.running = false ∧ poolOk (bookModules jobNew.img) 240 120 624 = true ∧ poolOk (bookModules jobNew.img) 239 120 624 = false)
      ∧ (served mst 1 0x0603 (msg 3 1 0 0 [0, 0x80, 1]) ∧ (mst.rgn 15).failed = false) ∧ served mst 1 0x0604 (msg 3 1 0 0 []) ∧ served mst 1 0x0701 (msg 3 1 0 0 (regs1 0x400000300000))
      ∧ served mst 1 0x0702 (msg 3 1 0 0 (regs1 0x400000300000 ++ List.replicate 8 0)) ∧ served mst 1 0x0703 (msg 3 1 7 0 [0xFF, 0x0F, 0, 0])
      ∧ (let s := { mst with flt := { mst.flt with ring := [(0, rec1)], next := 1 } }; served s 1 0x0801 (msg 3 1 0 0 [0, 0, 0, 0, 125, 0]) ∧ (s.flt.from 0).take 125 ≠ []) ∧ served mst 1 0x0802 (msg 3 1 0 0 [])
      ∧ (served mst 1 0x0803 (msg 3 1 0 0 [0, 0, 0, 0]) ∧ served mst 1 0x0803 (msg 3 1 0 0 [1, 0, 0, 0x80]) ∧ 2 ^ 15 = leAt [1, 0, 0, 0x80] 2 2
        ∧ (let s := { mst with regions := [(15, { Region.reset with state := 3 })] }; served s 1 0x0803 (msg 3 1 0 0 [1, 0, 0, 0x80]) ∧ (s.rgn 15).owner = none ∧ (s.rgn 15).state = 3 ∧ (s.rgn 15).failed = false))
      ∧ (served mst 1 0x0901 (msg 3 1 0 0 (regs1 0x400000600048 ++ List.replicate 8 0)) ∧ mst.isTest 1 = false)
      ∧ (let s := nst0 fun x => { x with test := true }; served s 1 0x0901 (msg 3 1 0 0 (regs1 0x400000600048 ++ List.replicate 8 0)) ∧ served s 1 0x0902 (msg 3 1 0 0 (regs1 0x400000600048)) ∧ s.isTest 1 = true)
      ∧ (served mst 1 0x0A01 (msg 3 1 0 0 (leBytes 4 (48 * 2 ^ 20))) ∧ mst.hub.sec.fw = none)
      ∧ (let s := { mst with hub := { mst.hub with sec := { mst.hub.sec with fw := some ⟨1, 512, []⟩ } } };
        s.hub.sec.fw = some ⟨1, 512, []⟩ ∧ served s 1 0x0A02 (msg 3 1 0 0 (leBytes 8 511 ++ [1])) ∧ served s 1 0x0A03 (msg 3 1 0 0 []))
      ∧ (served mst 1 0x0A04 (msg 3 1 0 0 [0]) ∧ served mst 1 0x0A04 (msg 3 1 0 0 [1]) ∧ ({ (mst.hub.sec.slot true) with valid := false } : FlashSlot).valid = false ∧ (mst.hub.sec.slot false).valid = true) := by decide +kernel

theorem witness_StepsKeepMemoriesCanonical : State.reset.memOk = true := by decide

/-! Well-formedness: each check refuses an ill-formed command and takes a well-formed one. -/
/-- A request whose payload is one byte too long. -/
def longMsg : Msg := msg 3 1 7 0 (List.replicate 4049 0)
theorem test_wf_instructions :
    Instr.wf (.loopw c0 always ⟨1, false, 0, 0, 10⟩) = false ∧ Instr.wf (.loopw c0 always ⟨1, false, 0, 5, 0⟩) = true ∧ Instr.wf (.fence c0 always 5) = false ∧ Instr.wf (.shl c0 always ⟨0, 0, 0, false, true, 0⟩) = false
      ∧ Instr.wf (.cmp c0 always ⟨2, 1, 5, false, 6, 0⟩) = false ∧ Instr.wf (.reservedInstruction c0 0) = false ∧ Instr.wf (.reservedInstruction c0 1) = true
      ∧ Instr.wf (.addi c0 always 3 4 0xFFFFFF) = true ∧ Instr.wf (.loopw c0 always ⟨1, false, 0, 5, 10⟩) = true := by decide +kernel
theorem test_wf_array :
    Instr.wf (.wload c0 always ⟨1, 8, 0, false, 0, 0, false, 0, 0, false⟩) = false ∧ Instr.wf (.wload c0 always wl) = true ∧ Instr.wf (.mvm c0 always ⟨0, false, false, 1, 2, 63, 0, 0, 0, 0, true, false, 0, false, 0, false⟩ []) = false
      ∧ Instr.wf (.mvmt c0 always ⟨1, false, false, 0, 3, 0, 63, 0, 0, 0, true, false, 0, false, 0, false⟩ []) = false ∧ Instr.wf (.swatch c0 always [⟨64, 0, 0, 0, 0, []⟩]) = false ∧ Instr.wf (.swatch c0 always seen1) = true
      ∧ Instr.wf (.aclr c0 always 3 false) = false ∧ Instr.wf (.adrain c0 always { ad with tile := 3 }) = false ∧ Instr.wf (.amov c0 always 3 0) = false ∧ Instr.wf (.amov c0 always 0 3) = false ∧ Instr.wf (.adrain c0 always ad) = true := by decide +kernel
/-- A suffix that most vector instructions do not have. -/
def vj : VecF := { vf with jit := true }
theorem test_wf_vector :
    Instr.wf (.vadd c0 always vj) = false ∧ Instr.wf (.vmul c0 always vj) = false ∧ Instr.wf (.vfma c0 always vj) = false ∧ Instr.wf (.vmax c0 always vj) = false ∧ Instr.wf (.vmin c0 always vj) = false
      ∧ Instr.wf (.vexp2 c0 always vj) = false ∧ Instr.wf (.vrcp c0 always vj) = false ∧ Instr.wf (.vrsq c0 always vj) = false ∧ Instr.wf (.vcvt c0 always { vf with sub := 2 }) = false ∧ Instr.wf (.vhad c0 always vj) = false
      ∧ Instr.wf (.vsclConvert c0 always vj) = false ∧ Instr.wf (.vsclDerive c0 always vj) = false ∧ Instr.wf (.vsclPush c0 always vj) = false ∧ Instr.wf (.vsclPushAdvance c0 always vj) = false
      ∧ Instr.wf (.vsclMerge c0 always vj) = false ∧ Instr.wf (.vstat c0 always vj) = false ∧ Instr.wf (.vprune24 c0 always vj) = false ∧ Instr.wf (.vred c0 always vj) = false ∧ Instr.wf (.vadd c0 always vf) = true := by decide +kernel
theorem test_wf_memory :
    Instr.wf (.st c0 always { stw with tag := 1 }) = false ∧ Instr.wf (.putw c0 always { putf with rd := 15 }) = false ∧ Instr.wf (.accw c0 always putf 3) = false ∧ Instr.wf (.getw c0 always { getf with ra := 15 }) = false
      ∧ Instr.wf (.hbmrd c0 always { hrd with ra := 15 }) = false ∧ Instr.wf (.hbmwr c0 always { hwr with rd := 15 }) = false ∧ Instr.wf (.csend c0 always ⟨0, 1, 3, false, 2⟩) = false ∧ Instr.wf (.crecv c0 always ⟨0, 1, 3, false, 2⟩) = false
      ∧ Instr.wf (.putw c0 always putf) = true := by decide +kernel
theorem test_wf_events :
    Instr.wf (.arrayScrub c0 0 0 [432]) = false ∧ Instr.wf (.spmScrub c0 0 [512]) = false ∧ Instr.wf (.hbmPatrol 0 0x30000000 []) = false ∧ Instr.wf (.hbmPatrol 0 0 [512]) = false ∧ Instr.wf (.istoreScrub 0 0 0 [512]) = false
      ∧ Instr.wf (.hubSramScrub 0 [2 ^ 48]) = false ∧ Instr.wf (.counterReadClear .firmware 2) = false ∧ Instr.wf (.reg64LowRead .firmware 4) = false ∧ Instr.wf (.registerWrite .firmware 0 8 0) = false
      ∧ Instr.wf (.registerWrite .firmware 1 4 0) = false ∧ Instr.wf (.changeHoldAck 0 4096) = false ∧ Instr.wf (.heartbeatTimeout 0 4096) = false ∧ Instr.wf (.slackReportReceive 0 4096 0 0) = false
      ∧ Instr.wf (.estimatorSample 0 0 []) = false ∧ Instr.wf (.powerCalibration 0 [⟨0, [], [], []⟩]) = false ∧ Instr.wf (.tempSensorRead 0 []) = false := by decide +kernel
theorem test_wf_links :
    Instr.wf (.flitReceive 0 0 []) = false ∧ Instr.wf (.trainingDone 0 ⟨false, 0, [], false, 0, false, 0⟩) = false ∧ Instr.wf (.packetForward 0 { pk 1 0 1 9 0 0 with data := [] }) = false ∧ Instr.wf (.writePacket 0 (pk 2 0 1 5 0 0)) = false
      ∧ Instr.wf (.accwPacket 0 (pk 1 0 1 5 0 0)) = false ∧ Instr.wf (.cuePacket 0 (pk 1 0 1 5 0 0)) = false ∧ Instr.wf (.reducePacket 0 (pk 5 0 1 5 0 0)) = false ∧ Instr.wf (.bcastPacket 0 (pk 4 0 1 5 0 0)) = false
      ∧ Instr.wf (.holdPacket 0 (pk 7 0 0 5 0 0)) = false ∧ Instr.wf (.timeAlign 0 (pk 6 0 0 5 0 0)) = false ∧ Instr.wf (.timeAnnounce 0 (pk 6 0 0 5 0 0)) = false ∧ Instr.wf (.timeBeat 0 (pk 6 0 0 5 0 0)) = false
      ∧ Instr.wf (.identPacket 0 (pk 9 0 0 5 0 0)) = false ∧ Instr.wf (.mgmtNak 0 (pk 8 0 0 5 0 0)) = false ∧ Instr.wf (.mgmtUnreachable 0 (pk 8 0 0 5 0 0)) = false ∧ Instr.wf (.mgmtFirmware 0 (pk 8 0 0 5 0 0)) = false
      ∧ Instr.wf (.earlyStoreTimeout (pk 6 0 0 5 0 0)) = false ∧ Instr.wf (.writePacket 0 (pk 1 0 1 5 0 0)) = true := by decide +kernel
theorem test_wf_port :
    Instr.wf (.dhcpReply ⟨.ack, none, 0, 0, 0, 2 ^ 32⟩) = false ∧ Instr.wf (.pfcFrame 0 []) = false ∧ Instr.wf (.pfcFrame 0 (List.replicate 8 65536)) = false ∧ Instr.wf (.cmReq ⟨⟨0, 0⟩, 0, 0, 0, 4097, 0, none⟩) = false
      ∧ Instr.wf (.rdmaWritePacket ⟨4, .only, 0, 0, 0, 2 ^ 32, false, none, 0, []⟩) = false ∧ Instr.wf (.rdmaReadRequest ⟨4, 0, 0, 0, 2 ^ 32, false, none, 0⟩) = false ∧ Instr.wf (.sendToBusyMailbox 3 0 ⟨9201, false, none⟩) = false
      ∧ Instr.wf (.identGet longMsg) = false ∧ Instr.wf (.fwActivate longMsg) = false ∧ Instr.wf (.unknownCommand longMsg 0) = false ∧ Instr.wf (.identGet (msg 3 1 0 0 [])) = true := by decide +kernel
theorem test_wf_sizes : Instr.wf (.icmpEchoRequest true 0 0 ⟨List.replicate 9201 0, none⟩) = false ∧ Instr.wf (.rdmaWritePacket ⟨4, .only, 0, 0, 0, 0, false, none, 0, List.replicate 4097 0⟩) = false := by decide +kernel

/-! Words laid out by hand from the tables of fields give their instructions. -/
theorem test_decode_sequencer : decodeCell 0x12000D0000FFFFFF = some (⟨0, false⟩, .addi 3 4 0xFFFFFF) ∧ decodeCell 0x020010000A00000A = some (⟨0, false⟩, .loop ⟨1, false, 0, 5, 10⟩)
      ∧ decodeCell 0x1800105500000000 = some (⟨0, false⟩, .cmp ⟨2, 1, 5, false, 4, 0⟩) ∧ decodeCell 0x0150000000000000 = some (⟨2, true⟩, .halt) := by decide +kernel
theorem test_decode_units : decodeCell 0x2000201803F80000 = some (⟨0, false⟩, .wload ⟨1, 0, 0, false, 6, 0, false, 0, 127, false⟩) ∧ decodeCell 0x3000280000000000 = some (⟨0, false⟩, .aclr 2 true)
      ∧ decodeCell 0x4000048D02A80007 = some (⟨0, false⟩, .vec .add ⟨false, false, 1, 2, 3, 4, 0, 0xA, 0xA, false, 0, 0, 7⟩) ∧ decodeCell 0x5200095A60110000 = some (⟨0, false⟩, .put ⟨2, 5, 6, true, 3, 0x11, 0⟩)
      ∧ decodeCell 0x6000049980000000 = some (⟨0, false⟩, .csend ⟨1, 2, 1, true, 3⟩) := by decide +kernel
theorem test_decode_refuses : decodeCell 0x7000000000000000 = none ∧ decodeCell 0x0000000000000001 = none ∧ decodeCell 0x3000300000000000 = none := by decide +kernel

/-! Single steps, with results worked out by hand from the rules. -/
/-- What holds after a command. -/
def after {α : Type} (i : Instr) (s : State) (f : State → α) : Option α :=
  match exec i s with
  | .next t => some (f t)
  | _ => none
/-- A cell with two scalar registers. -/
def ab (a b : Word) : State := st (onSeq fun q => { q with a := setAt (setAt q.a 1 a) 2 b })
/-- A register of cell 0. -/
def regAfter (i : Instr) (s : State) (r : Nat) : Option Word := after i s fun t => (t.cell 0).seq.reg (BitVec.ofNat 4 r)
theorem test_addi_wraps : regAfter (.addi c0 always 1 1 1) (ab 0xFFFFFFFF 0) 1 = some 0 := by decide +kernel
theorem test_addi_sign : regAfter (.addi c0 always 3 1 0xFFFFFF) (ab 0 0) 3 = some 0xFFFFFFFF := by decide +kernel
theorem test_sub_same_register : regAfter (.subw c0 always 2 1 2) (ab 1 2) 2 = some 0xFFFFFFFF := by decide +kernel
theorem test_and_or : regAfter (.andw c0 always 3 1 2) (ab 0xF0F0 0xFF00) 3 = some 0xF000 ∧ regAfter (.orw c0 always 3 1 2) (ab 0xF0F0 0xFF00) 3 = some 0xFFF0 := by decide +kernel
theorem test_pc_moves : (after (.nop c0 always) (ab 0 0) fun t => (t.cell 0).seq.pc) = some 8 := by decide +kernel
theorem test_store_word : (after (.st c0 always ⟨true, 0, 0, 1, 0, 0x10⟩) (ab 0x04030201 0) fun t => (memGet (t.cell 0).mem 0x10, memGet (t.cell 0).mem 0x13, memGet (t.cell 0).mem 0x14)) = some (1, 4, 0) := by decide +kernel
theorem test_aclr_int : (after (.aclr c0 always 1 true) (ab 0 0) fun t => ((t.cell 0).frame 1).int) = some true := by decide +kernel
/-- One command in front runs, the others keep waiting. -/
theorem test_step_takes_front : (match step { State.reset with pending := [.inputEnterRange, .porHoldEnd] } with | .next t => some t.pending.length | _ => none) = some 1 := by decide +kernel
theorem test_power_on : (after .porHoldEnd State.reset fun t => t.hub.clk.stage) = some .standby := by decide +kernel
/-- 15.6 kW is the cap at reset; 623 units are 15.575 kW. -/
theorem test_cap_set : (after (.capSet (msg 3 1 0 0 [0x6F, 2, 0, 0])) mst fun t => t.hub.pwr.cap) = some 623 ∧ (after (.capSet (msg 3 1 0 0 [119, 0, 0, 0])) mst fun t => t.hub.pwr.cap) = some 624 := by decide +kernel
theorem test_cue_add : (after (.cueAdd (msg 3 1 7 0 [200, 0, 0, 0, 3, 0, 0, 0])) mst fun t => (t.cue 200).value) = some 3 := by decide +kernel
theorem test_cue_packet : (after (.cuePacket 0 (pk 3 2 0 5 (200 + 3 * 2 ^ 32) 7)) (fab job3 id) fun t => (t.cue 200).value) = some 3 := by decide +kernel
/-- A temperature of 95.00 °C in steps of 0.25 °C warns. -/
theorem test_hbm_temp : (after (.hbmTempRead 0 380) (pwr id) fun t => (t.rpwr 0).warn) = some true ∧ (after (.hbmTempRead 0 379) (pwr id) fun t => (t.rpwr 0).warn) = some false := by decide +kernel
theorem test_dbg_halt : (after (.dbgHaltWrite .firmware c0 true) (ab 0 0) fun t => (t.cell 0).seq.dbgHalt) = some true := by decide +kernel
/-- The check values of the published algorithms: CRC-32 of "123456789", SHA-256 of "abc". -/
theorem test_crc32 : crc32 [0x31, 0x32, 0x33, 0x34, 0x35, 0x36, 0x37, 0x38, 0x39] = 0xCBF43926 := by decide +kernel
theorem test_sha256 : (sha256 [0x61, 0x62, 0x63]).take 4 = [0xBA, 0x78, 0x16, 0xBF] := by decide +kernel

end Sys2Proof.Tests
end

section
/-! PROOF. Writes of registers by firmware and sessions: what an address names, what a write access does, and what each place takes (spec/00_scope.md R5 to R7; spec/09_scratchpad_hbm.md R197). -/
namespace Sys2Proof.Machine

/-! Places of the addresses that register commands form (R197). -/

theorem place_cellWindow {r b c off : Nat} (hr : r < 16) (hb : b < 150) (hc : c < 128) (ho : off < 0x10000) :
    place (0x100000000000 + r * 2 ^ 32 + b * 2 ^ 24 + c * 2 ^ 16 + off) = .cell ((r * 150 + b) * 128 + c) off := by
  generalize ha : 0x100000000000 + r * 2 ^ 32 + b * 2 ^ 24 + c * 2 ^ 16 + off = a
  have htop : a / 2 ^ 44 = 1 := by omega
  have er : field a 32 12 = r := by unfold field; omega
  have eb : field a 24 8 = b := by unfold field; omega
  have ec : field a 16 8 = c := by unfold field; omega
  have eo : field a 0 16 = off := by unfold field; omega
  have hcell : cellAddr a = some ((r * 150 + b) * 128 + c, off) := by
    simp only [cellAddr, htop, er, eb, ec, eo, hr, hb, hc, and_self, if_true]
  simp only [place, htop, hcell]

theorem place_cellBase (c : CellId) {off : Nat} (ho : off < 0x10000) : place (cellBase (cellKey c) + off) = .cell (cellKey c) off := by
  have hr := c.r.isLt
  have hb := c.b.isLt
  have hc := c.c.isLt
  have er : cellRgn (cellKey c) = c.r.val := by unfold cellRgn cellKey; omega
  have eb : cellBlkNo (cellKey c) = c.b.val := by unfold cellBlkNo cellKey; omega
  have ec : cellNo (cellKey c) = c.c.val := by unfold cellNo cellKey; omega
  rw [cellBase, er, eb, ec]
  exact place_cellWindow hr hb hc ho

theorem place_blkReg {r b off : Nat} (hr : r < 16) (hb : b < 150) (ho : off < 0x1000) :
    place (0x200000000000 + r * 2 ^ 32 + b * 2 ^ 24 + 0x100000 + off) = .blk (blkKey r b) off := by
  generalize ha : 0x200000000000 + r * 2 ^ 32 + b * 2 ^ 24 + 0x100000 + off = a
  have htop : a / 2 ^ 44 = 2 := by omega
  have er : field a 32 12 = r := by unfold field; omega
  have eb : field a 24 8 = b := by unfold field; omega
  have eo : field a 0 24 = 0x100000 + off := by unfold field; omega
  simp only [place, htop, er, eb, eo, show ¬ (16 ≤ r ∨ 150 ≤ b) by omega, show ¬ 0x100000 + off < 0x20000 by omega,
    show 0x100000 ≤ 0x100000 + off ∧ 0x100000 + off < 0x101000 by omega, if_true, if_false, and_self, Nat.add_sub_cancel_left]

theorem place_rgnReg {r off : Nat} (hr : r < 16) (ho : off < 0x1000) : place (0x300000000000 + r * 2 ^ 32 + off) = .rgn r off := by
  generalize ha : 0x300000000000 + r * 2 ^ 32 + off = a
  have htop : a / 2 ^ 44 = 3 := by omega
  have er : field a 32 12 = r := by unfold field; omega
  have eo : field a 0 32 = off := by unfold field; omega
  simp only [place, htop, er, eo, ho, show ¬ 16 ≤ r by omega, if_true, if_false]

theorem place_cueReg {r i n : Nat} (hr : r < 16) (hi : i < 512) (hn : n < 4) :
    place (0x300000000000 + r * 2 ^ 32 + 0x100000 + 16 * i + 4 * n) = .cue r i n := by
  generalize ha : 0x300000000000 + r * 2 ^ 32 + 0x100000 + 16 * i + 4 * n = a
  have htop : a / 2 ^ 44 = 3 := by omega
  have er : field a 32 12 = r := by unfold field; omega
  have eo : field a 0 32 = 0x100000 + 16 * i + 4 * n := by unfold field; omega
  have ei : field a 4 9 = i := by unfold field; omega
  have en : field a 2 2 = n := by unfold field; omega
  simp only [place, htop, er, eo, ei, en, show ¬ 16 ≤ r by omega, show ¬ 0x100000 + 16 * i + 4 * n < 0x1000 by omega,
    show 0x100000 ≤ 0x100000 + 16 * i + 4 * n ∧ 0x100000 + 16 * i + 4 * n < 0x102000 by omega, if_true, if_false, and_self]

/-! A write access. -/

/-- The checks of a write in their order once the hub runs; the latch of R6, which every access clears, bears on none of them. -/
theorem writeAccess_ready {s : State} (q : Requester) (a size : Nat) (v : Word) (h : s.hub.clk.hubReady = true) :
    writeAccess s q a size v =
      if !(size == 4 && a % 4 == 0 && mayAccess s q true (place a) && (wordAt s (place a)).isSome) then refuseAccess s.unlatched q true a
      else if scrubHeld s q (place a) then refuseScrub s.unlatched q (place a) a
      else if asleepHeld s (place a) then s.unlatched
      else storeAt s.unlatched q (place a) v := by
  simp only [writeAccess, h, Bool.not_true, Bool.false_eq_true, if_false]
  rfl

theorem writeAccess_of_permits {s : State} {q : Requester} {a : Nat} {p : Place} (v : Word) (hp : place a = p) (h : Permits s q true p) (ha : a % 4 = 0) :
    writeAccess s q a 4 v = storeAt s.unlatched q p v := by
  subst hp
  simp [writeAccess_ready q a 4 v h.ready, ha, h.may, h.listed, h.clean, h.awake]

theorem writeAccess_of_refused {s : State} {q : Requester} {a size : Nat} (v : Word) (h : s.hub.clk.hubReady = true)
    (hbad : size ≠ 4 ∨ a % 4 ≠ 0 ∨ mayAccess s q true (place a) = false ∨ wordAt s (place a) = none) :
    writeAccess s q a size v = refuseAccess s.unlatched q true a := by
  have hg : (size == 4 && a % 4 == 0 && mayAccess s q true (place a) && (wordAt s (place a)).isSome) = false := by
    rcases hbad with hn | ha | hm | hw
    · simp [hn]
    · simp [ha]
    · simp [hm]
    · simp [hw]
  simp [writeAccess_ready q a size v h, hg]

/-! Commands that write a register, as the store at the register's place. -/

theorem exec_registerWrite_permitted {s : State} {q : Requester} {a : BitVec 48} {p : Place} (v : Word) (hp : place a.toNat = p)
    (h : Permits s q true p) (ha : a.toNat % 4 = 0) : exec (.registerWrite q a 4 v) s = .next (storeAt s.unlatched q p v) :=
  congrArg _ (writeAccess_of_permits v hp h ha)

theorem exec_slotViewWrite_permitted {s : State} {q : Requester} (c : CellId) (off : BitVec 12) (v : Word)
    (h : Permits s q true (.cell (cellKey c) (0xF000 + off.toNat))) (ha : off.toNat % 4 = 0) :
    exec (.slotViewWrite q c off v) s = .next (storeAt s.unlatched q (.cell (cellKey c) (0xF000 + off.toNat)) v) := by
  have hp : place (cellBase (cellKey c) + 0xF000 + off.toNat) = .cell (cellKey c) (0xF000 + off.toNat) := by
    rw [Nat.add_assoc]
    exact place_cellBase c (by omega)
  exact congrArg _ (writeAccess_of_permits v hp h (by unfold cellBase; omega))

theorem exec_cellReset_permitted {s : State} {q : Requester} (r : Fin 16) (n : Fin 150) (j : Fin 4) (v : Word)
    (h : Permits s q true (.blk (blkKey r.val n.val) (0xD0 + 4 * j.val))) :
    exec (.cellReset q r n j v) s = .next (storeAt s.unlatched q (.blk (blkKey r.val n.val) (0xD0 + 4 * j.val)) v) := by
  have hp : place (0x200000000000 + r.val * 2 ^ 32 + n.val * 2 ^ 24 + 0x1000D0 + 4 * j.val) = .blk (blkKey r.val n.val) (0xD0 + 4 * j.val) := by
    rw [← place_blkReg r.isLt n.isLt (by omega : 0xD0 + 4 * j.val < 0x1000)]
    congr 1
    omega
  exact congrArg _ (writeAccess_of_permits v hp h (by omega))

theorem exec_clkRgnCtrlWrite_permitted {s : State} {q : Requester} (r : Fin 16) (v : Word) (h : Permits s q true (.rgn r.val 0x200)) :
    exec (.clkRgnCtrlWrite q r v) s = .next (clkWrite s.unlatched q r.val v) :=
  congrArg _ (writeAccess_of_permits v (place_rgnReg r.isLt (by decide)) h (by omega))

theorem exec_rgnCueAddWrite_permitted {s : State} {q : Requester} (n : Fin 8192) (v : Word) {r : Nat}
    (hr : r = if n.val < 128 then s.hub.hostRgn else n.val / 512) (hr16 : r < 16) (h : Permits s q true (.cue r (n.val % 512) 1)) :
    exec (.rgnCueAddWrite q n v) s = .next (storeAt s.unlatched q (.cue r (n.val % 512) 1) v) := by
  have hb : cueBase s n.val + 4 = 0x300000000000 + r * 2 ^ 32 + 0x100000 + 16 * (n.val % 512) + 4 * 1 := by rw [hr]; rfl
  have hp : place (cueBase s n.val + 4) = .cue r (n.val % 512) 1 := by
    rw [hb]
    exact place_cueReg hr16 (Nat.mod_lt _ (by decide)) (by decide)
  exact congrArg _ (writeAccess_of_permits v hp h (by omega))

/-! What each place takes. -/

theorem memGet_storeAt_hbm (s : State) (q : Requester) (x : Nat) (v : Word) (y : Nat) (h : memWf s.hbm.mem = true) :
    memGet (storeAt s q (.hbm x) v).hbm.mem y = if x ≤ y ∧ y < x + 4 then (leBytes 4 v.toNat).getD (y - x) 0 else memGet s.hbm.mem y :=
  memGet_memWrite x (wordBytes v) y h

theorem storeAt_slotView (s : State) (q : Requester) (k off : Nat) (v : Word) :
    storeAt s q (.cell k (0xF000 + off)) v = viewWrite s k off v := by
  simp only [storeAt, show ¬ 0xF000 + off < 0xE000 by omega, Nat.le_add_right, Nat.add_sub_cancel_left, if_true, if_false]

/-- One set bit of BLK_CELL_RESET_n resets one cell. -/
theorem cellResets_one (s : State) (bk n : Nat) {i : Nat} (hi : i < 32) :
    cellResets s bk n (BitVec.ofNat 32 (2 ^ i)) = cellReset s (bk * 128 + 32 * n + i) := by
  have hbits : ((List.range 32).filter fun j => (BitVec.ofNat 32 (2 ^ i)).getLsbD j) = [i] := by
    revert i
    decide
  rw [cellResets, hbits]
  rfl

theorem storeAt_cellReset (s : State) (q : Requester) (bk j : Nat) (hj : j < 4) {i : Nat} (hi : i < 32) :
    storeAt s q (.blk bk (0xD0 + 4 * j)) (BitVec.ofNat 32 (2 ^ i)) = cellReset s (bk * 128 + 32 * j + i) := by
  rw [← cellResets_one s bk j hi]
  simp only [storeAt, blkWrite, show ¬ 0xD0 + 4 * j = 4 by omega, show 0xD0 ≤ 0xD0 + 4 * j ∧ 0xD0 + 4 * j < 0xE0 by omega,
    show (0xD0 + 4 * j - 0xD0) / 4 = j by omega, and_self, if_true, if_false]

@[simp] theorem State.openDescs_log (s : State) (r : Rec) (bk ch : Nat) (img : List Byte) : (s.log r).openDescs bk ch img = s.openDescs bk ch img := rfl
@[simp] theorem State.imgOf_log (s : State) (r : Rec) (k : Nat) : (s.log r).imgOf k = s.imgOf k := rfl

/-- What a reset leaves of a cell that is a member of no open combine (R376). -/
structure ResetAlone (s t : State) (k : Nat) : Prop where
  units : (t.cell k).units = .reset
  map : (t.cell k).map = ⟨0, 1, 2⟩
  mem : (t.cell k).mem = (s.cell k).mem
  pc : (t.cell k).seq.pc = BitVec.ofNat 17 (s.cell k).seq.entry
  regs : (t.cell k).seq.a = List.replicate 16 0
  arrival : (t.cell k).mr.arrival = List.replicate 16 (0, false)
  others : ∀ l, l ≠ k → t.cell l = s.cell l
  flt : t.flt = (s.log { s.unitRec 0 0x0810 (some (cellRgn k)) (some (cellBlkNo k)) [5, 0] with cell := cellNo k }).flt

theorem cellReset_alone (s : State) (k : Nat)
    (h : ∀ ch < 4, ∀ d ∈ s.openDescs (cellBlk k) ch (s.imgOf k), bitAt (descMembers d) (cellNo k) = false) : ResetAlone s (cellReset s k) k := by
  have hfind : ∀ ch < 4, (s.openDescs (cellBlk k) ch (s.imgOf k)).find? (fun d => bitAt (descMembers d) (cellNo k)) = none := fun ch hch =>
    List.find?_eq_none.mpr fun d hd => by simp [h ch hch d hd]
  have hrange : List.range 4 = [0, 1, 2, 3] := rfl
  simp only [cellReset, hrange, List.foldl, State.openDescs_log, State.imgOf_log, hfind 0 (by decide), hfind 1 (by decide), hfind 2 (by decide), hfind 3 (by decide)]
  exact {
    units := by rw [State.cell_modCell]
    map := by rw [State.cell_modCell]
    mem := by rw [State.cell_modCell]; rfl
    pc := by rw [State.cell_modCell]; rfl
    regs := by rw [State.cell_modCell]; rfl
    arrival := by rw [State.cell_modCell]
    others := fun l hl => by rw [State.cell_modCell_other _ _ hl]; rfl
    flt := rfl }

@[simp] theorem State.openDescs_unlatched (s : State) (bk ch : Nat) (img : List Byte) : s.unlatched.openDescs bk ch img = s.openDescs bk ch img := rfl
@[simp] theorem State.imgOf_unlatched (s : State) (k : Nat) : s.unlatched.imgOf k = s.imgOf k := rfl

theorem cellReset_unlatched_alone (s : State) (k : Nat)
    (h : ∀ ch < 4, ∀ d ∈ s.openDescs (cellBlk k) ch (s.imgOf k), bitAt (descMembers d) (cellNo k) = false) :
    ResetAlone s (cellReset s.unlatched k) k := by
  have ha := cellReset_alone s.unlatched k (by simpa using h)
  exact ⟨ha.units, ha.map, ha.mem, ha.pc, ha.regs, ha.arrival, ha.others, ha.flt⟩

/-- The i-th cell of the j-th group of 32 in a block, located (R197). -/
theorem cell_of_group {r n j i k : Nat} (hn : n < 150) (hj : j < 4) (hi : i < 32) (hk : k = blkKey r n * 128 + 32 * j + i) :
    cellBlk k = blkKey r n ∧ cellRgn k = r ∧ cellBlkNo k = n ∧ cellNo k = 32 * j + i := by
  subst hk
  unfold cellBlk cellRgn cellBlkNo cellNo blkKey
  omega

theorem exec_cellReset_alone {s : State} {q : Requester} (r : Fin 16) (n : Fin 150) (j : Fin 4) (i : Fin 32) {k : Nat}
    (hk : k = blkKey r.val n.val * 128 + 32 * j.val + i.val) (h : Permits s q true (.blk (blkKey r.val n.val) (0xD0 + 4 * j.val)))
    (hopen : ∀ ch < 4, ∀ d ∈ s.openDescs (blkKey r.val n.val) ch (s.imgOf k), bitAt (descMembers d) (cellNo k) = false) :
    ∃ t, exec (.cellReset q r n j (BitVec.ofNat 32 (2 ^ i.val))) s = .next t ∧ ResetAlone s t k := by
  obtain ⟨eb, -, -, -⟩ := cell_of_group n.isLt j.isLt i.isLt hk
  rw [← eb] at hopen
  refine ⟨cellReset s.unlatched k, ?_, cellReset_unlatched_alone s k hopen⟩
  rw [exec_cellReset_permitted r n j _ h, storeAt_cellReset _ _ _ _ j.isLt i.isLt, hk]

/-! CLK_RGN_CTRL (R367, R382). -/

theorem clkValue_inRange (old : BitVec 15) (v : Word) (ha : 16 ≤ v.toNat % 256) (ha' : v.toNat % 256 ≤ 108)
    (hm : 8 ≤ v.toNat / 2 ^ 9 % 64) (hm' : v.toNat / 2 ^ 9 % 64 ≤ 40) : clkValue old v = v.setWidth 15 := by
  apply BitVec.eq_of_toNat_eq
  have ea : field v.toNat 0 8 = v.toNat % 256 := by unfold field; omega
  have em : field v.toNat 9 6 = v.toNat / 2 ^ 9 % 64 := rfl
  simp only [clkValue, ea, em, ha, ha', hm, hm', and_self, if_true, BitVec.toNat_ofNat, BitVec.toNat_setWidth]
  unfold field
  omega

/-- A step of ACLK outside its range keeps the field (R9). -/
theorem clkValue_aclk_kept (old : BitVec 15) (v : Word) (h : v.toNat % 256 < 16 ∨ 108 < v.toNat % 256) :
    (clkValue old v).toNat % 256 = old.toNat % 256 := by
  have ea : ¬ (16 ≤ field v.toNat 0 8 ∧ field v.toNat 0 8 ≤ 108) := by unfold field; omega
  simp only [clkValue, ea, if_false, BitVec.toNat_ofNat]
  unfold field
  omega

@[simp] theorem State.rclk_modRclk (s : State) (r : Nat) (f : RgnClk → RgnClk) : (s.modRclk r f).rclk r = f (s.rclk r) :=
  mapGet_mapPut_same _ _ _ _

theorem ctrl_clkWrite (s : State) (q : Requester) (r : Nat) (v : Word) : ((clkWrite s q r v).rclk r).ctrl = clkValue (s.rclk r).ctrl v :=
  congrArg RgnClk.ctrl (State.rclk_modRclk s r _)

/-! RGN_CUE_ADD (R255 to R257). -/

/-- A cue that is not armed takes an increment and does nothing else. -/
theorem addCue_unarmed {s : State} {i : Nat} (v : Word) (hl : s.cueLost i = false) (ha : (s.cue i).armed = false) :
    addCue s i v = s.setCue i { s.cue i with value := (s.cue i).value + v } := by
  have hf : ({ s.cue i with value := (s.cue i).value + v } : Cue).firings = 0 := by simp [Cue.firings, ha]
  simp [addCue, hl, hf, Cue.afterFire]

/-- The number that a cue has at its place in its region's array (R255, R423). -/
theorem cueAt_of_number {s : State} {n r : Nat} (hr : r = if n < 128 then s.hub.hostRgn else n / 512) (ht : s.hub.takeover = false)
    (h : n < 128 ∨ n / 512 ≠ s.hub.hostRgn ∨ 128 ≤ n % 512) : s.cueAt r (n % 512) = n := by
  by_cases hn : n < 128
  · have hi : n % 512 = n := Nat.mod_eq_of_lt (by omega)
    simp [State.cueAt, hr, hn, hi, ht]
  · have hc : ¬ (n / 512 = s.hub.hostRgn ∧ n % 512 < 128 ∧ s.hub.takeover = false) := by omega
    simp only [State.cueAt, hr, hn, hc, if_false]
    omega

/-- A cue that shows a value is one that the module offers (R19). -/
theorem cueLost_of_listed {s : State} {r i n : Nat} (h : (wordAt s (.cue r i n)).isSome = true) : s.cueLost (s.cueAt r i) = false := by
  cases hl : s.cueLost (s.cueAt r i)
  · rfl
  · simp [wordAt, Place.withdrawn, hl] at h

theorem storeAt_cueAdd_unarmed {s : State} (q : Requester) {r i n : Nat} (v : Word) (hn : s.cueAt r i = n) (hl : s.cueLost n = false)
    (ha : (s.cue n).armed = false) : storeAt s q (.cue r i 1) v = s.setCue n { s.cue n with value := (s.cue n).value + v } := by
  rw [← addCue_unarmed v hl ha, ← hn]
  rfl

/-- Settles O26: each clause is the store at the place that the command's address names. -/
theorem registerWrites : Obligations.RegisterWrites := by
  unfold Obligations.RegisterWrites
  intro s q v
  refine ⟨fun a h ha => exec_registerWrite_permitted v rfl h ha, fun a n hr hbad => congrArg _ (writeAccess_of_refused v hr hbad), ?hbm, ?view, ?reset, ?clock, ?cue⟩
  case hbm =>
    intro a x hp h ha hm
    exact ⟨_, exec_registerWrite_permitted v hp h ha, fun y => memGet_storeAt_hbm s.unlatched q x v y hm⟩
  case view =>
    intro c off h ha
    rw [exec_slotViewWrite_permitted c off v h ha, storeAt_slotView]
    rfl
  case reset =>
    intro r n j i h k hopen
    obtain ⟨t, hexec, ha⟩ := exec_cellReset_alone r n j i rfl h hopen
    obtain ⟨-, er, en, ec⟩ := cell_of_group n.isLt j.isLt i.isLt (rfl : k = _)
    have hflt := ha.flt
    rw [er, en, ec] at hflt
    exact ⟨t, hexec, ha.units, ha.map, ha.mem, ha.pc, ha.regs, ha.arrival, ha.others, hflt⟩
  case clock =>
    intro r h a m
    have hctrl := ctrl_clkWrite s.unlatched q r.val v
    refine ⟨_, exec_clkRgnCtrlWrite_permitted r v h, ?_, ?_, congrArg RgnClk.debugClk (State.rclk_modRclk _ _ _), rfl, rfl⟩
    · intro ha ha' hm hm'
      exact hctrl.trans (clkValue_inRange _ v ha ha' hm hm')
    · intro ha
      rw [hctrl]
      exact clkValue_aclk_kept _ v ha
  case cue =>
    intro n r ht hh hn h ha
    have hr16 : r < 16 := by
      have := n.isLt
      simp only [r]
      split <;> omega
    have hat : s.cueAt r (n.val % 512) = n.val := cueAt_of_number rfl ht hn
    have hl : s.cueLost n.val = false := hat ▸ cueLost_of_listed h.listed
    rw [exec_rgnCueAddWrite_permitted n v rfl hr16 h]
    exact congrArg _ (storeAt_cueAdd_unarmed (s := s.unlatched) q v hat hl ha)

end Sys2Proof.Machine
end

section
/-! PROOF. Signals: the queue of a cell's signals, the signal that leaves it, and what its cue takes (spec/01_module_overview.md R19; spec/07_cell_execution.md R158, R159; spec/11_prompt_books_epochs.md R256, R257). -/
namespace Sys2Proof.Machine

/-! What a signal's departure leaves alone. -/

@[simp] theorem State.cell_setCue (s : State) (i : Nat) (c : Cue) (k : Nat) : (s.setCue i c).cell k = s.cell k := rfl
@[simp] theorem State.cue_setCell (s : State) (k : Nat) (c : Cell) (i : Nat) : (s.setCell k c).cue i = s.cue i := rfl
@[simp] theorem State.cueLost_setCell (s : State) (k : Nat) (c : Cell) (i : Nat) : (s.setCell k c).cueLost i = s.cueLost i := rfl

/-- A cue that the module does not offer takes nothing (R19, R240). -/
theorem addCue_lost {s : State} {i : Nat} (n : Word) (h : s.cueLost i = true) : addCue s i n = s := by
  simp [addCue, h]

/-- Nothing waits at dispatch, so a change in the units releases nothing. -/
theorem settle_unblocked {s : State} {k : Nat} (hw : (s.cell k).seq.wait = none) (hh : (s.cell k).seq.held = none) : settle s k = s := by
  simp only [settle, hw, hh]

/-- The first signal of the queue, once it may leave, adds its count to a cue of this module (R158, R257). -/
theorem releaseSig_local {s : State} {k : Nat} {g : Sig} {rest : List Sig} (hq : (s.cell k).seq.sigs = g :: rest)
    (hv : g.rel = true → (s.cell k).visible (s.identOf k) k (sigScope k g) g.seq = true) (hr : g.remote = none) :
    releaseSig s k = addCue (s.modCell k (Cell.setSeq fun q => { q with sigs := rest })) g.cue g.count := by
  have hmay : (g.rel && !(s.cell k).visible (s.identOf k) k (sigScope k g) g.seq) = false := by
    cases hg : g.rel
    · rfl
    · simp [hv hg]
  simp only [releaseSig, hq, hmay, hr, Bool.false_eq_true, if_false]

/-! CUESIG. -/

/-- The signal that CUESIG sends, with its operands as they stand at dispatch (R147, R158). -/
def Seq.signal (q : Seq) (f : CueSigF) : Sig :=
  ⟨f.cue.toNat, if f.src then q.reg f.rc else f.imm.zeroExtend 32, f.rel, q.nextSeq, if f.remote then some ((q.reg f.rm).setWidth 12) else none⟩

/-- The cell with CUESIG numbered and its signal at the end of the queue. -/
def Cell.queued (c : Cell) (g : Sig) : Cell := c.setSeq fun q => { q.onward with sigs := q.sigs ++ [g] }
@[simp] theorem Cell.queued_sigs (c : Cell) (g : Sig) : (c.queued g).seq.sigs = c.seq.sigs ++ [g] := rfl

/-- CUESIG that finds room in the signal queue enters it, and leaves at once where it is relaxed and alone (R158, R159). -/
theorem dispatch_cuesig {s : State} {k : Nat} {p : Pred} {f : CueSigF} (h : Sound s k p (.cuesig f) []) (hs : (s.cell k).seq.stopPending = false)
    (hroom : (s.cell k).seq.sigs.length < 4) :
    dispatch s k p (.cuesig f) =
      let t := s.setCell k ((s.cell k).queued ((s.cell k).seq.signal f))
      if (s.cell k).seq.sigs.isEmpty && !f.rel then releaseSig t k else t := by
  rw [dispatch_control h rfl hs]
  have hfull : ¬ 4 ≤ (s.cell k).seq.sigs.length := by omega
  simp only [controlStep, State.taken, mkQI, cuesigStep, State.cell_modCell, id, hfull, if_false, fx_modCell, Fx.number_eq]
  rfl

/-- The queue holds the signal where it is a release signal or others stand before it. -/
theorem dispatch_cuesig_queued {s : State} {k : Nat} {p : Pred} {f : CueSigF} (h : Sound s k p (.cuesig f) []) (hs : (s.cell k).seq.stopPending = false)
    (hroom : (s.cell k).seq.sigs.length < 4) (hstay : f.rel = true ∨ (s.cell k).seq.sigs ≠ []) :
    dispatch s k p (.cuesig f) = s.setCell k ((s.cell k).queued ((s.cell k).seq.signal f)) := by
  have hcond : ((s.cell k).seq.sigs.isEmpty && !f.rel) = false := by
    rcases hstay with hrel | hne
    · simp [hrel]
    · simp [hne]
  rw [dispatch_cuesig h hs hroom]
  simp only [hcond, Bool.false_eq_true, if_false]

/-- A relaxed signal that enters an empty queue leaves it at once, and only the instruction's number and place remain (R158). -/
theorem releaseSig_queued_alone {s : State} {k : Nat} {g : Sig} (hempty : (s.cell k).seq.sigs = []) (hrel : g.rel = false) (hr : g.remote = none) :
    releaseSig (s.setCell k ((s.cell k).queued g)) k = addCue (s.setCell k ((s.cell k).setSeq Seq.onward)) g.cue g.count := by
  have hq : ((s.setCell k ((s.cell k).queued g)).cell k).seq.sigs = [g] := by simp [hempty]
  have hback : ((s.cell k).queued g).setSeq (fun q => { q with sigs := [] }) = (s.cell k).setSeq Seq.onward := by
    simp only [Cell.queued, Cell.setSeq, Seq.onward, Seq.skip, hempty]
  rw [releaseSig_local hq (by simp [hrel]) hr, State.modCell_setCell, hback]

/-- A relaxed signal to a cue of this module that finds the queue empty is counted at once. -/
theorem dispatch_cuesig_relaxed {s : State} {k : Nat} {p : Pred} {f : CueSigF} (h : Sound s k p (.cuesig f) []) (hs : (s.cell k).seq.stopPending = false)
    (hrel : f.rel = false) (hempty : (s.cell k).seq.sigs = []) (hlocal : f.remote = false) :
    dispatch s k p (.cuesig f) = addCue (s.setCell k ((s.cell k).setSeq Seq.onward)) f.cue.toNat ((s.cell k).seq.signal f).count := by
  have hr : ((s.cell k).seq.signal f).remote = none := by simp [Seq.signal, hlocal]
  have hcond : ((s.cell k).seq.sigs.isEmpty && !f.rel) = true := by simp [hempty, hrel]
  rw [dispatch_cuesig h hs (by simp [hempty])]
  simp only [hcond, if_true]
  exact releaseSig_queued_alone hempty hrel hr

/-! CUE_SIGNAL_RELEASE. -/

/-- The oldest signal leaves the queue of a cell where nothing waits, and a cue that is not armed takes its count. -/
theorem settle_releaseSig_unarmed {s : State} {k : Nat} {g : Sig} {rest : List Sig} (hq : (s.cell k).seq.sigs = g :: rest)
    (hw : (s.cell k).seq.wait = none) (hh : (s.cell k).seq.held = none)
    (hv : g.rel = true → (s.cell k).visible (s.identOf k) k (sigScope k g) g.seq = true) (hr : g.remote = none)
    (hl : s.cueLost g.cue = false) (ha : (s.cue g.cue).armed = false) :
    settle (releaseSig s k) k = (s.setCell k ((s.cell k).setSeq fun q => { q with sigs := rest })).setCue g.cue { s.cue g.cue with value := (s.cue g.cue).value + g.count } := by
  rw [releaseSig_local hq hv hr, State.modCell, addCue_unarmed g.count (by simpa using hl) (by simpa using ha), State.cue_setCell]
  exact settle_unblocked (by simpa [Cell.setSeq] using hw) (by simpa [Cell.setSeq] using hh)

/-- Settles O8: CUESIG queues its signal or counts it at once, the release command counts the oldest one, and only a cue that the module offers takes a count. -/
theorem signalsCountOnCues : Obligations.SignalsCountOnCues := by
  unfold Obligations.SignalsCountOnCues
  intro s c p
  refine ⟨fun f h hs hroom => ⟨?queued, ?relaxed⟩, ?release, fun i n => addCue_lost n, fun i n => addCue_unarmed n⟩
  case queued =>
    exact fun hstay => congrArg _ (dispatch_cuesig_queued h hs hroom hstay)
  case relaxed =>
    exact fun hrel hempty hlocal => congrArg _ (dispatch_cuesig_relaxed h hs hrel hempty hlocal)
  case release =>
    exact fun g rest hq hw hh hv hr hl ha => congrArg _ (settle_releaseSig_unarmed hq hw hh hv hr hl ha)

end Sys2Proof.Machine
end

section
/-! PROOF. WLOAD and SLOT_WRITE_DONE: a source read slot by slot, what a WLOAD whose source nothing blocks leaves, and the memory that reads otherwise in one span (spec/02_number_formats.md R37; spec/03_cim_cell.md R58; spec/08_instruction_reference.md R181; spec/09_scratchpad_hbm.md R205). -/
namespace Sys2Proof.Machine

/-! The slots of a cell. -/

@[simp] theorem Cell.slot_modSlot (c : Cell) (i : Nat) (g : Slot → Slot) : (c.modSlot i g).slot i = g (c.slot i) := by
  by_cases h : i = 0 <;> simp [Cell.modSlot, Cell.setSlot, Cell.slot, h]

/-- The pair of a slot is left alone. -/
theorem Cell.slot_modSlot_other (c : Cell) {i j : Nat} (g : Slot → Slot) (h : i = 0 ↔ j ≠ 0) : (c.modSlot i g).slot j = c.slot j := by
  by_cases hj : j = 0 <;> simp_all [Cell.modSlot, Cell.setSlot, Cell.slot]

/-- A cell that differs in its array slots only. -/
def Cell.SameButSlots (c d : Cell) : Prop := d = { c with slot0 := d.slot0, slot1 := d.slot1 }

theorem Cell.SameButSlots.trans {c d e : Cell} (h : c.SameButSlots d) (h' : d.SameButSlots e) : c.SameButSlots e := by
  unfold SameButSlots at *
  rw [h', h]

theorem Cell.SameButSlots.mem {c d : Cell} (h : c.SameButSlots d) : d.mem = c.mem := by rw [h]
theorem Cell.SameButSlots.frames {c d : Cell} (h : c.SameButSlots d) : d.frames = c.frames := by rw [h]
theorem Cell.SameButSlots.seq {c d : Cell} (h : c.SameButSlots d) : d.seq = c.seq := by rw [h]

theorem Cell.sameButSlots_modSlot (c : Cell) (i : Nat) (g : Slot → Slot) : c.SameButSlots (c.modSlot i g) := by
  by_cases h : i = 0 <;> simp [SameButSlots, Cell.modSlot, Cell.setSlot, h]

theorem Cell.sameButSlots_foldl (g : Slot → Slot) (l : List Nat) (c : Cell) : c.SameButSlots (l.foldl (fun c i => c.modSlot i g) c) := by
  induction l generalizing c with
  | nil => rfl
  | cons i l ih => exact (c.sameButSlots_modSlot i g).trans (ih _)

theorem Cell.sameButSlots_beginWrite (c : Cell) (l : List Nat) (scaled : Bool) : c.SameButSlots (c.beginWrite l scaled) := Cell.sameButSlots_foldl _ l c

theorem Cell.sameButSlots_tileDone (c : Cell) (l : List Nat) : c.SameButSlots (c.tileDone l) := Cell.sameButSlots_foldl _ l c

theorem Cell.sameButSlots_writeTile (c : Cell) (fmt slot group : Nat) (s24 : Bool) (t : Tile) : c.SameButSlots (c.writeTile fmt slot group s24 t) := by
  unfold Cell.writeTile
  split
  · exact (c.sameButSlots_modSlot 0 _).trans (Cell.sameButSlots_modSlot _ 1 _)
  · exact c.sameButSlots_modSlot slot _

/-! A source read slot by slot (R205). -/

/-- No slot holds an error or poison, and none is emptied by a read. -/
structure Cell.ReadsClean (c : Cell) : Prop where
  intact : c.errs = []
  clean : c.poison = 0
  kept : ∀ i, c.tagMode i ≠ 2

/-- A read of a clean slot changes nothing. -/
theorem Fx.readSlot_clean {x : Fx} (h : x.c.ReadsClean) (i : Nat) : x.readSlot i = x := by
  have hslot : x.checkSlot i = x := by simp [Fx.checkSlot, h.intact, mapGet, flipBitsOf]
  have hframe : x.checkFrame i = x := by simp [Fx.checkFrame, h.intact, mapGet, flipBitsOf, parityBad]
  simp [Fx.readSlot, hslot, hframe, Cell.isPoison, h.clean, h.kept i]

theorem mapHas_mapPut {α : Type} (m : SMap α) (x y : Nat) (v : α) : mapHas (mapPut m x v) y = (y == x || mapHas m y) := by
  induction m with
  | nil => simp [mapPut, mapHas]
  | cons e t ih =>
    obtain ⟨k, w⟩ := e
    simp only [mapPut]
    split
    · simp [mapHas]
    · split
      · rename_i hk
        simp [mapHas, hk]
      · simp [mapHas, ih, Bool.or_left_comm]

/-- The 64 bytes of one slot or frame piece. -/
def Cell.piece (c : Cell) (i : Nat) : List Byte := memRead c.mem (64 * i) 64

/-- A byte range as its slots give it, each read by itself. -/
def Cell.bytesBySlot (c : Cell) (a n : Nat) : List Byte := (((slotsOf a n).flatMap c.piece).drop (a % 64)).take n

/-- Slots that are clean, and full where tagged, are all taken as they stand. -/
theorem Fx.takeSlots_clean {x : Fx} (h : x.c.ReadsClean) {l : List Nat} (hl : x.c.firstEmpty l = none) {got : SMap (List Byte)}
    (hgot : ∀ i, mapHas got i = true → mapGet [] got i = x.c.piece i) :
    ∃ got', x.takeSlots got l = (x, got', none) ∧ ∀ i, i ∈ l ∨ mapHas got i = true → mapGet [] got' i = x.c.piece i := by
  induction l generalizing got with
  | nil => exact ⟨got, rfl, fun i hi => hgot i (by simpa using hi)⟩
  | cons j l ih =>
    obtain ⟨hj, hl⟩ : (x.c.tagged j && !x.c.isFull j) = false ∧ x.c.firstEmpty l = none := by
      simpa only [Cell.firstEmpty, List.find?_eq_none, List.forall_mem_cons, Bool.not_eq_true] using hl
    by_cases hhas : mapHas got j = true
    · obtain ⟨got', htake, hget⟩ := ih hl hgot
      refine ⟨got', by simpa [Fx.takeSlots, hhas] using htake, fun i hi => hget i ?_⟩
      rcases hi with hi | hi
      · rcases List.mem_cons.1 hi with rfl | hi
        · exact .inr hhas
        · exact .inl hi
      · exact .inr hi
    · have hput : ∀ i, mapHas (mapPut got j (x.c.piece j)) i = true → mapGet [] (mapPut got j (x.c.piece j)) i = x.c.piece i := by
        intro i hi
        by_cases hij : i = j
        · subst hij; exact mapGet_mapPut_same _ _ _ _
        · rw [mapGet_mapPut_other _ _ _ hij]
          exact hgot i (by simpa [mapHas_mapPut, hij] using hi)
      obtain ⟨got', htake, hget⟩ := ih hl hput
      refine ⟨got', by simpa [Fx.takeSlots, hhas, hj, Fx.readSlot_clean h, Cell.piece] using htake, fun i hi => hget i ?_⟩
      rcases hi with hi | hi
      · rcases List.mem_cons.1 hi with rfl | hi
        · exact .inr (by simp [mapHas_mapPut])
        · exact .inl hi
      · exact .inr (by simp [mapHas_mapPut, hi])

/-- What a clean source gives an instruction. -/
theorem gather_takeSlots_clean {x : Fx} (h : x.c.ReadsClean) {a n : Nat} (hf : x.c.firstEmpty (slotsOf a n) = none) :
    ∃ got, x.takeSlots [] (slotsOf a n) = (x, got, none) ∧ gather got a n = x.c.bytesBySlot a n := by
  obtain ⟨got, htake, hget⟩ := Fx.takeSlots_clean h hf (got := []) (by simp [mapHas])
  have hpieces : (slotsOf a n).map (mapGet [] got) = (slotsOf a n).map x.c.piece := List.map_congr_left fun i hi => hget i (.inl hi)
  exact ⟨got, htake, by rw [gather, Cell.bytesBySlot, List.flatMap_def, List.flatMap_def, hpieces]⟩

theorem flatMap_range'_pieces (i m : Nat) : ((List.range' i m).flatMap fun j => List.range' (64 * j) 64) = List.range' (64 * i) (64 * m) := by
  induction m generalizing i with
  | zero => rfl
  | succ m ih =>
    rw [List.range'_succ, List.flatMap_cons, ih, Nat.mul_succ 64 m, Nat.add_comm (64 * m), ← List.range'_append_1, Nat.mul_add]

/-- In a canonical memory the slots of a range hold the bytes of the range. -/
theorem Cell.bytesBySlot_of_memWf {c : Cell} (h : memWf c.mem = true) (a n : Nat) : c.bytesBySlot a n = memRead c.mem a n := by
  by_cases hn : n = 0
  · subst hn; rfl
  have hpiece : c.piece = fun i => (List.range' (64 * i) 64).map (memGet c.mem) := funext fun i => memRead_eq _ _ h
  rw [memRead_eq a n h, Cell.bytesBySlot, hpiece, slotsOf, if_neg hn, ← List.map_flatMap, flatMap_range'_pieces, ← List.map_drop, ← List.map_take,
    List.drop_range', List.take_range'_of_length_ge (by omega)]
  congr 2
  omega

/-! WLOAD. -/

/-- Length of a WLOAD's source (R127, R181). -/
abbrev wloadLen (f : WloadF) : Nat := tileLen f.fmt.toNat f.s24

/-- A WLOAD's source address. -/
abbrev State.wloadAt (s : State) (k : Nat) (p : Pred) (f : WloadF) : Nat := (s.taken k p (.wload f) []).addr f.ra

/-- A WLOAD without a record or a palette that issues at dispatch and whose source nothing refuses, blocks or marks (R59, R126, R201, R205, R219). -/
structure WloadRuns (s : State) (k : Nat) (p : Pred) (f : WloadF) : Prop extends Open s k p (.wload f) [] .array where
  ready : (s.cell k).arrayReady (s.taken k p (.wload f) []) = true
  unscaled : f.scaled = false
  noPal : f.palEn = false
  shape : ¬ (f.s24 = true ∧ f.group = 2)
  bounds : localOk (isLead (cellNo k)) (s.wloadAt k p f) (wloadLen f) = true
  bank : (s.cell k).bankDown (s.wloadAt k p f) (wloadLen f) = false
  unblocked : (s.cell k).firstEmpty (slotsOf (s.wloadAt k p f) (wloadLen f)) = none
  source : (s.cell k).ReadsClean

/-- The tile that a WLOAD without a record makes of a source. -/
def State.tileFrom (s : State) (k : Nat) (p : Pred) (f : WloadF) (src : List Byte) : Tile :=
  loadTile f.fmt.toNat f.group.toNat f.s24 f.nrowsM1.toNat src (Config.mxInt8 (s.wloadAt k p f)) none

/-- A slot in which a tile's rows stand and whose write is under way (R58). -/
def Slot.holding (v : Slot) (f : WloadF) (tile : Tile) (rows : List Byte) : Slot :=
  { v.fill f.fmt.toNat f.group.toNat f.s24 tile rows with valid := false, writing := true }

@[simp] theorem Slot.holding_rowValid (v : Slot) (f : WloadF) (tile : Tile) (rows : List Byte) : (v.holding f tile rows).rowValid = tile.rowValid := rfl

/-- A WLOAD has put a tile into its slot, or the halves of a BF16 tile into both, and the rest of the module stands but for the sequencer and the units of its cell (R37, R58). -/
structure TileLoaded (s t : State) (k : Nat) (f : WloadF) (tile : Tile) : Prop where
  single : f.fmt ≠ 8 → (t.cell k).slot f.slot.toNat = ((s.cell k).slot f.slot.toNat).holding f tile tile.hi
    ∧ (t.cell k).slot (1 - f.slot.toNat) = (s.cell k).slot (1 - f.slot.toNat)
  pair : f.fmt = 8 → (t.cell k).slot 0 = ((s.cell k).slot 0).holding f tile tile.hi ∧ (t.cell k).slot 1 = ((s.cell k).slot 1).holding f tile tile.lo
  mem : (t.cell k).mem = (s.cell k).mem
  frames : (t.cell k).frames = (s.cell k).frames
  seq : (t.cell k).seq = (s.cell k).seq.onward
  others : ∀ j, j ≠ k → t.cell j = s.cell j

/-- The cell of a WLOAD that has taken its source: the write of its slots begun, the tile in them. -/
def Cell.loaded (c : Cell) (f : WloadF) (tile : Tile) : Cell :=
  (c.beginWrite (writesSlots (.wload f)) false).writeTile f.fmt.toNat f.slot.toNat f.group.toNat f.s24 tile

theorem Cell.sameButSlots_loaded (c : Cell) (f : WloadF) (tile : Tile) : c.SameButSlots (c.loaded f tile) :=
  (c.sameButSlots_beginWrite _ _).trans (Cell.sameButSlots_writeTile _ _ _ _ _ _)

theorem Cell.loaded_single (c : Cell) {f : WloadF} (tile : Tile) (h : f.fmt ≠ 8) :
    (c.loaded f tile).slot f.slot.toNat = (c.slot f.slot.toNat).holding f tile tile.hi
      ∧ (c.loaded f tile).slot (1 - f.slot.toNat) = c.slot (1 - f.slot.toNat) := by
  have hn : ¬ f.fmt.toNat = 8 := fun e => h (BitVec.eq_of_toNat_eq e)
  have hpair : f.slot.toNat = 0 ↔ 1 - f.slot.toNat ≠ 0 := by have := f.slot.isLt; omega
  simp only [Cell.loaded, Cell.writeTile, Cell.beginWrite, writesSlots, h, hn, if_false, List.foldl_cons, List.foldl_nil, Cell.slot_modSlot,
    Cell.slot_modSlot_other _ _ hpair, and_true]
  rfl

theorem Cell.loaded_pair (c : Cell) {f : WloadF} (tile : Tile) (h : f.fmt = 8) :
    (c.loaded f tile).slot 0 = (c.slot 0).holding f tile tile.hi ∧ (c.loaded f tile).slot 1 = (c.slot 1).holding f tile tile.lo := by
  have hn : f.fmt.toNat = 8 := by rw [h]; rfl
  have h01 : (0 : Nat) = 0 ↔ (1 : Nat) ≠ 0 := by decide
  have h10 : (1 : Nat) = 0 ↔ (0 : Nat) ≠ 0 := by decide
  simp only [Cell.loaded, Cell.writeTile, Cell.beginWrite, writesSlots, if_pos h, if_pos hn, List.foldl_cons, List.foldl_nil, Cell.slot_modSlot,
    Cell.slot_modSlot_other _ _ h01, Cell.slot_modSlot_other _ _ h10]
  exact ⟨rfl, rfl⟩

/-- A WLOAD that passes its checks begins the write of its slots and goes on to its source (R58). -/
theorem issueWload_go {s : State} {k : Nat} {p : Pred} {f : WloadF} (h : WloadRuns s k p f) :
    issueWload (isLead (cellNo k)) (Fx.of (s.sent k)) (s.taken k p (.wload f) []) f =
      wloadGo (Fx.of ((s.sent k).beginWrite (writesSlots (.wload f)) false)) { Run.start (s.taken k p (.wload f) []) with begun := true } f := by
  have hbank : (Fx.of (s.sent k)).c.bankDown (s.wloadAt k p f) (wloadLen f) = false := h.bank
  simp only [issueWload, h.noPal, h.shape, h.bounds, hbank, h.unscaled, Bool.false_eq_true, if_false, false_and, Bool.not_true, or_self]
  rfl

/-- A clean source is taken whole. -/
theorem wloadGo_clean {x : Fx} {r : Run} {f : WloadF} (hs : f.scaled = false) (hr : r.got = []) (hc : x.c.ReadsClean)
    (hf : x.c.firstEmpty (slotsOf (r.qi.addr f.ra) (wloadLen f)) = none) :
    wloadGo x r f = wloadTake x { r with got := [] } f (x.c.bytesBySlot (r.qi.addr f.ra) (wloadLen f)) none := by
  obtain ⟨got, htake, hgather⟩ := gather_takeSlots_clean hc hf
  simp only [wloadGo, hs, hr, htake, hgather, Bool.false_eq_true, if_false]

/-- A source without a palette and without drops goes into the slots and changes nothing else. -/
theorem wloadTake_noDrops {x : Fx} {r : Run} {f : WloadF} {src : List Byte} {tile : Tile} (hp : f.palEn = false)
    (ht : loadTile f.fmt.toNat f.group.toNat f.s24 f.nrowsM1.toNat src (Config.mxInt8 (r.qi.addr f.ra)) none = tile)
    (hrange : tile.dropRange = 0) (hequal : tile.dropEqual = 0) :
    wloadTake x r f src none = (x.map fun c => c.writeTile f.fmt.toNat f.slot.toNat f.group.toNat f.s24 tile, r.finish) := by
  simp only [wloadTake, hp, ht, Fx.metaDrop, hrange, hequal, Bool.false_eq_true, if_false, if_true]

/-- What such a WLOAD issues: the tile that its source makes as its slots give it. -/
theorem issueWload_clean {s : State} {k : Nat} {p : Pred} {f : WloadF} (h : WloadRuns s k p f) {tile : Tile}
    (ht : s.tileFrom k p f ((s.cell k).bytesBySlot (s.wloadAt k p f) (wloadLen f)) = tile) (hrange : tile.dropRange = 0) (hequal : tile.dropEqual = 0) :
    ∃ r, issueWload (isLead (cellNo k)) (Fx.of (s.sent k)) (s.taken k p (.wload f) []) f = (Fx.of ((s.sent k).loaded f tile), r) := by
  obtain ⟨u, hu⟩ : ∃ u, u = (s.sent k).beginWrite (writesSlots (.wload f)) false := ⟨_, rfl⟩
  have hsame : (s.sent k).SameButSlots u := hu ▸ (s.sent k).sameButSlots_beginWrite _ _
  have hbytes : u.bytesBySlot (s.wloadAt k p f) (wloadLen f) = (s.cell k).bytesBySlot (s.wloadAt k p f) (wloadLen f) := by rw [hsame]; rfl
  have hclean : u.ReadsClean := by rw [hsame]; exact ⟨h.source.intact, h.source.clean, h.source.kept⟩
  have hfull : u.firstEmpty (slotsOf (s.wloadAt k p f) (wloadLen f)) = none := by rw [hsame]; exact h.unblocked
  have hgo : wloadGo (Fx.of u) { Run.start (s.taken k p (.wload f) []) with begun := true } f = _ := wloadGo_clean h.unscaled rfl hclean hfull
  rw [issueWload_go h, ← hu, hgo, wloadTake_noDrops h.noPal (hbytes.symm ▸ ht) hrange hequal, Cell.loaded, ← hu]
  exact ⟨_, rfl⟩

/-- A WLOAD whose source nothing blocks or marks loads the tile of its source as its slots give it. -/
theorem exec_wload_tileLoaded {s : State} {c : CellId} {p : Pred} {f : WloadF} (h : WloadRuns s (cellKey c) p f) {tile : Tile}
    (ht : s.tileFrom (cellKey c) p f ((s.cell (cellKey c)).bytesBySlot (s.wloadAt (cellKey c) p f) (wloadLen f)) = tile)
    (hrange : tile.dropRange = 0) (hequal : tile.dropEqual = 0) : ∃ t, exec (.wload c p f) s = .next t ∧ TileLoaded s t (cellKey c) f tile := by
  obtain ⟨r, hissue⟩ := issueWload_clean h ht hrange hequal
  have hdispatch := dispatch_array h.toOpen h.ready (by simp [onCompute])
  rw [show issueArray _ (Fx.of (s.sent (cellKey c))) (s.taken (cellKey c) p (.wload f) []) = _ from hissue] at hdispatch
  refine ⟨_, congrArg Host.Outcome.next hdispatch, ?_⟩
  have hsame := (s.sent (cellKey c)).sameButSlots_loaded f tile
  constructor
  case single => intro hf; rw [State.cell_put]; exact (s.sent (cellKey c)).loaded_single tile hf
  case pair => intro hf; rw [State.cell_put]; exact (s.sent (cellKey c)).loaded_pair tile hf
  case mem => rw [State.cell_put]; exact hsame.mem
  case frames => rw [State.cell_put]; exact hsame.frames
  case seq => rw [State.cell_put]; exact hsame.seq
  case others => exact fun j hj => State.cell_put_other s _ hj

/-- In a canonical memory (R199) that is the tile of the bytes at the source address: what O11 says of WLOAD, with the canonical form as a hypothesis. -/
theorem exec_wload_tileLoaded_of_memWf {s : State} {c : CellId} {p : Pred} {f : WloadF} (h : WloadRuns s (cellKey c) p f)
    (hw : memWf (s.cell (cellKey c)).mem = true) {tile : Tile}
    (ht : s.tileFrom (cellKey c) p f (memRead (s.cell (cellKey c)).mem (s.wloadAt (cellKey c) p f) (wloadLen f)) = tile)
    (hrange : tile.dropRange = 0) (hequal : tile.dropEqual = 0) : ∃ t, exec (.wload c p f) s = .next t ∧ TileLoaded s t (cellKey c) f tile :=
  exec_wload_tileLoaded h (by rw [Cell.bytesBySlot_of_memWf hw, ht]) hrange hequal

/-! SLOT_WRITE_DONE. -/

/-- The last row of a finished WLOAD makes its slot valid, or both slots of a BF16 tile (R37, R58). -/
theorem exec_slotWriteDone_finished {s : State} {c : CellId} {r : Run} {f : WloadF} (hr : (s.cell (cellKey c)).units.wload = some r) (hop : r.qi.op = .wload f)
    (hdone : r.done = true) (hnext : r.next = 0) (hw : (s.cell (cellKey c)).seq.wait = none) (hh : (s.cell (cellKey c)).seq.held = none) :
    exec (.slotWriteDone c) s = .next (s.setCell (cellKey c) (((s.cell (cellKey c)).tileDone (writesSlots (.wload f))).setUnits fun v => { v with wload := none })) := by
  have hseq : ((s.cell (cellKey c)).tileDone (writesSlots (.wload f))).seq = (s.cell (cellKey c)).seq :=
    ((s.cell (cellKey c)).sameButSlots_tileDone _).seq
  have hslot : slotDone s (cellKey c) = settle (s.modCell (cellKey c) fun b => (b.tileDone (writesSlots (.wload f))).setUnits fun v => { v with wload := none }) (cellKey c) := by
    simp only [slotDone, hr, hop, hdone, hnext, beq_self_eq_true, Bool.and_self, if_true]
  refine congrArg Host.Outcome.next (hslot.trans ?_)
  rw [settle_unblocked]
  · rfl
  · simp [Cell.setUnits, hseq, hw]
  · simp [Cell.setUnits, hseq, hh]

/-! A memory that lists an address twice: one span over it reads otherwise than its slots do, so the statement fails there. -/

/-- An entry below the address hides every later one. -/
theorem memSpan_hidden {k a : Nat} (v : Byte) (m : Memory) (h : k < a) (n : Nat) : memSpan ((k, v) :: m) a n = List.replicate n 0 := by
  induction n generalizing a with
  | zero => rfl
  | succ n ih => rw [memSpan, if_neg (by omega), ih (by omega), List.replicate_succ]

/-- Elements that each add nothing add up to nothing. -/
theorem sum_zipWith_zero {g : Nat → Nat → Nat} {l : List Nat} (h : ∀ e ∈ l, ∀ d, g e d = 0) (m : List Nat) : (List.zipWith g l m).sum = 0 := by
  induction l generalizing m with
  | nil => rfl
  | cons e l ih =>
    cases m with
    | nil => rfl
    | cons d m => simp [h e (by simp), ih (fun e' he => h e' (by simp [he])) m]

theorem sum_zipWith_rows_zero {g : Nat → Nat → Nat} {l : List (List Nat)} (h : ∀ r ∈ l, ∀ e ∈ r, ∀ d, g e d = 0) (m : List (List Nat)) :
    (List.zipWith (List.zipWith g) l m).flatten.sum = 0 := by
  induction l generalizing m with
  | nil => rfl
  | cons r l ih =>
    cases m with
    | nil => rfl
    | cons d m =>
      rw [List.zipWith_cons_cons, List.flatten_cons, List.sum_append, sum_zipWith_zero (h r (by simp)), ih (fun r' hr => h r' (by simp [hr]))]

/-- A row of zero bytes holds zero INT4 elements (R31, R181). -/
theorem mem_unpack_zeroRow {src : List Byte} (h : ∀ b ∈ src.take 4096, b = 0) {i e : Nat} (hi : i < 128)
    (he : e ∈ unpack (fmtBits 0) (tileCols 0) ((src.drop (i * rowLen 0)).take (rowLen 0))) : e = 0 := by
  obtain ⟨b, hb, he⟩ := List.mem_flatMap.1 (List.mem_of_mem_take he)
  rw [List.take_drop] at hb
  have hend : i * rowLen 0 + rowLen 0 ≤ 4096 := by rw [show rowLen 0 = 32 from rfl]; omega
  have hzero : b = 0 := h b (List.take_subset_take_left _ hend (List.mem_of_mem_drop hb))
  simpa [hzero] using he

/-- No weight of an INT4 source whose rows are zero is dropped (R128). -/
theorem loadTile_noDrops_of_zeroRows {src : List Byte} (h : ∀ b ∈ src.take 4096, b = 0) (group : Nat) (s24 : Bool) (nrowsM1 : Nat) (mx : Bool) (r : Option ScaleRec) :
    (loadTile 0 group s24 nrowsM1 src mx r).dropRange = 0 ∧ (loadTile 0 group s24 nrowsM1 src mx r).dropEqual = 0 := by
  have hset : elemSet 0 0 = false := by decide
  have hnone : ∀ k, ∀ row ∈ (List.range 128).map (fun i => unpack (fmtBits 0) (tileCols 0) ((src.drop (i * rowLen 0)).take (rowLen 0))),
      ∀ e ∈ row, ∀ d : Nat, b2n (d == k && elemSet 0 e) = 0 := by
    intro k row hr e he d
    obtain ⟨i, hi, rfl⟩ := List.mem_map.1 hr
    rw [mem_unpack_zeroRow h (List.mem_range.1 hi) he, hset, Bool.and_false]
    rfl
  cases s24
  · exact ⟨rfl, rfl⟩
  · exact ⟨sum_zipWith_rows_zero (hnone 1) _, sum_zipWith_rows_zero (hnone 2) _⟩

/-- The row-valid bitmap of a 2:4 INT4 tile is the end of its source (R127). -/
theorem loadTile_rowValid_sparse (group nrowsM1 : Nat) (src : List Byte) (mx : Bool) (r : Option ScaleRec) :
    (loadTile 0 group true nrowsM1 src mx r).rowValid = BitVec.ofNat 256 (leNat ((src.drop 6144).take 32)) := rfl

/-- Not in canonical form: address 0 stands twice before the byte 1 at address 6144, which a span from 0 does not reach. -/
def twiceListed : Memory := [(0, 0), (0, 0), (6144, 1)]

theorem memRead_twiceListed (n : Nat) : memRead twiceListed 0 n = List.replicate n 0 := by
  cases n with
  | zero => rfl
  | succ n =>
    have hspan : memRead twiceListed 0 (n + 1) = 0 :: memSpan [(0, 0), (6144, 1)] 1 n := rfl
    rw [hspan, memSpan_hidden _ _ (by decide), List.replicate_succ]

/-- A 2:4 tile of INT4 weights from address A0 to slot 0. -/
def sparseWload : WloadF := ⟨0, 0, 0, true, 0, 0, false, 0, 127, false⟩

/-- A running cell with that memory. -/
def twiceCell : Cell := { Cell.reset with mem := twiceListed, seq := { Seq.reset with state := 1, imgLen := 64 } }

/-- A command of job 7 on region 0. -/
def assignMsg : Msg := ⟨0, 0, false, none, 0, 0, 0, 0, 0, 1, 0, 0, 0, 7, 0, []⟩

/-- Cell 0 of region 0 runs in job 7. -/
def twiceState : State :=
  { State.reset with
    cells := [(0, twiceCell)], regions := [(0, { Region.reset with state := 5, owner := some 7 })], jobs := [{ newJob State.reset assignMsg [] with begun := true }] }

theorem flatMap_eq_replicate {α β : Type} {g : α → List β} {l : List α} {n : Nat} {b : β} (h : ∀ i ∈ l, g i = List.replicate n b) :
    l.flatMap g = List.replicate (l.length * n) b := by
  induction l with
  | nil => simp
  | cons i l ih =>
    rw [List.flatMap_cons, h i (by simp), ih fun j hj => h j (by simp [hj]), List.replicate_append_replicate, List.length_cons, Nat.succ_mul, Nat.add_comm]

/-- Read by itself, the last slot gives the byte 1. -/
theorem bytesBySlot_twiceCell : twiceCell.bytesBySlot 0 6176 = List.replicate 6144 0 ++ 1 :: List.replicate 31 0 := by
  have hslots : slotsOf 0 6176 = List.range' 0 96 ++ [96] := by decide
  have hzero : ∀ i ∈ List.range' 0 96, twiceCell.piece i = List.replicate 64 0 := by decide +kernel
  have hlast : twiceCell.piece 96 = 1 :: List.replicate 63 0 := by decide
  rw [Cell.bytesBySlot, hslots, List.flatMap_append, flatMap_eq_replicate hzero, List.flatMap_singleton, hlast, List.length_range', Nat.zero_mod, List.drop_zero,
    List.take_append, List.take_of_length_le (by rw [List.length_replicate]; decide), List.length_replicate]
  rfl

/-- The tile of the span over the source. -/
def spanTile : Tile := loadTile 0 0 true 127 (memRead twiceListed 0 6176) (Config.mxInt8 0) none

/-- The tile of the source's slots, each read by itself. -/
def slotTile : Tile := loadTile 0 0 true 127 (twiceCell.bytesBySlot 0 6176) (Config.mxInt8 0) none

theorem spanTile_noDrops : spanTile.dropRange = 0 ∧ spanTile.dropEqual = 0 := by
  refine loadTile_noDrops_of_zeroRows (fun b hb => ?_) 0 true 127 _ none
  rw [memRead_twiceListed] at hb
  exact List.eq_of_mem_replicate (List.mem_of_mem_take hb)

theorem slotTile_noDrops : slotTile.dropRange = 0 ∧ slotTile.dropEqual = 0 := by
  refine loadTile_noDrops_of_zeroRows (fun b hb => ?_) 0 true 127 _ none
  rw [bytesBySlot_twiceCell, List.take_append_of_le_length (by rw [List.length_replicate]; decide)] at hb
  exact List.eq_of_mem_replicate (List.mem_of_mem_take hb)

theorem spanTile_rowValid : spanTile.rowValid = 0 := by
  rw [spanTile, loadTile_rowValid_sparse, memRead_twiceListed, List.drop_replicate, List.take_replicate]
  decide

theorem slotTile_rowValid : slotTile.rowValid = 1 := by
  rw [slotTile, loadTile_rowValid_sparse, bytesBySlot_twiceCell, List.drop_left' List.length_replicate]
  decide

/-- No slot of the cell lies in a window. -/
theorem winOf_twiceCell (i : Nat) : twiceCell.winOf i = none := by
  have hunused : winHas 0 i = false := by simp [winHas, winBase, winLen, field, Nat.blt, Nat.ble]
  refine List.find?_eq_none.2 fun w hw => ?_
  rw [List.eq_of_mem_replicate hw, hunused]
  exact Bool.false_ne_true

theorem readsClean_twiceCell : twiceCell.ReadsClean where
  intact := rfl
  clean := rfl
  kept i := by simp [Cell.tagMode, winOf_twiceCell i]

theorem wloadRuns_twiceState : WloadRuns twiceState (cellKey ⟨0, 0, 0⟩) ⟨0, false⟩ sparseWload where
  may := by decide
  free := rfl
  fetch := by decide
  form := by decide
  guard := by decide
  regs := by decide
  format := by decide
  range := by decide
  unit := rfl
  queue := rfl
  frames := by decide
  ready := by decide
  unscaled := rfl
  noPal := rfl
  shape := by decide
  bounds := by decide
  bank := by decide
  unblocked := by decide
  source := readsClean_twiceCell

/-- Refutes O11: the statement takes the source in one span of any byte memory, canonical or not, and WLOAD reads it slot by slot. Where the scratchpad lists address 0 twice, the row-valid bitmap of a 2:4 tile at address 0 is 0 in the one reading and 1 in the other. In a canonical memory both clauses hold (`exec_wload_tileLoaded_of_memWf`, `exec_slotWriteDone_finished`). -/
theorem not_wloadWritesSlot : ¬ Obligations.WloadWritesSlot := by
  unfold Obligations.WloadWritesSlot
  rintro ⟨hload, -⟩
  have h := wloadRuns_twiceState
  obtain ⟨t, ht, hspan, -⟩ := hload twiceState ⟨0, 0, 0⟩ ⟨0, false⟩ sparseWload h.toOpen h.ready h.unscaled h.noPal h.shape h.bounds h.bank h.unblocked
    h.source.intact h.source.clean h.source.kept spanTile_noDrops.1 spanTile_noDrops.2
  obtain ⟨u, hu, hslot⟩ := exec_wload_tileLoaded h (tile := slotTile) rfl slotTile_noDrops.1 slotTile_noDrops.2
  obtain rfl : t = u := Host.Outcome.next.inj (ht.symm.trans hu)
  have hfilled : (Slot.reset.holding sparseWload spanTile spanTile.hi).rowValid = (Slot.reset.holding sparseWload slotTile slotTile.hi).rowValid :=
    congrArg Slot.rowValid ((hspan (by decide)).1.symm.trans (hslot.single (by decide)).1)
  rw [Slot.holding_rowValid, Slot.holding_rowValid, spanTile_rowValid, slotTile_rowValid] at hfilled
  exact absurd hfilled (by decide)

end Sys2Proof.Machine
end

section
/-! PROOF. The units of a cell: array instructions that issue at dispatch, heads of queues that issue later, runs that complete (spec/03_cim_cell.md R59, R60, R73; spec/07_cell_execution.md R146; spec/08_instruction_reference.md R181 to R185). -/
namespace Sys2Proof.Machine

/-! Issue at dispatch. -/

/-- An array instruction of the write track needs no room in the activity allowance (R59, R395). -/
theorem dispatch_writeTrack {s : State} {k : Nat} {p : Pred} {op : CellOp} {seen : List MarginObs} (h : Open s k p op seen .array)
    (ha : (s.cell k).arrayReady (s.taken k p op seen) = true) (ho : onCompute op = false) :
    dispatch s k p op seen =
      let r := issueArray (isLead (cellNo k)) (Fx.of (s.sent k)) (s.taken k p op seen)
      s.put k (r.1.map (Cell.setUnits fun v => { v with wload := some r.2 })) := by
  rw [dispatch_array h ha (by simp [ho])]
  simp only [ho, Bool.false_eq_true, if_false]

/-- An array instruction of the compute track needs it (R59, R395). -/
theorem dispatch_computeTrack {s : State} {k : Nat} {p : Pred} {op : CellOp} {seen : List MarginObs} (h : Open s k p op seen .array)
    (ha : (s.cell k).arrayReady (s.taken k p op seen) = true) (ho : onCompute op = true) (hr : s.rampRoom k = true) :
    dispatch s k p op seen =
      let r := issueArray (isLead (cellNo k)) (Fx.of (s.sent k)) (s.taken k p op seen)
      s.put k (r.1.map (Cell.setUnits fun v => { v with comp := some r.2 })) := by
  rw [dispatch_array h ha fun _ => hr]
  simp only [ho, if_true]

/-- Settles O10: each array instruction is one of the write track or of the compute track, and `issueArray` is the issue of its kind. -/
theorem arrayInstructionsIssue : Obligations.ArrayInstructionsIssue := by
  unfold Obligations.ArrayInstructionsIssue
  intro s c p seen
  refine ⟨fun f h ha => ?wload, fun f h hr => ?mvm, fun f h hr => ?mvmt, fun h hr => ?swatch, fun slot h ha => ?slotinv⟩
  case wload => exact congrArg _ (dispatch_writeTrack h ha rfl)
  case mvm => exact congrArg _ (dispatch_computeTrack h.1 h.2 rfl hr)
  case mvmt => exact congrArg _ (dispatch_computeTrack h.1 h.2 rfl hr)
  case swatch => exact congrArg _ (dispatch_computeTrack h.1 h.2 rfl hr)
  case slotinv => exact congrArg _ (dispatch_writeTrack h ha rfl)

/-! Issue from a queue. -/

/-- The head of the array queue goes to its track once that and its slots are free (R59, R146). -/
theorem tryIssue_array {s : State} {k : Nat} {q : QI} {rest : List QI} (hq : (s.cell k).units.arrQ = q :: rest) (ha : (s.cell k).arrayReady q = true)
    (hr : onCompute q.op = true → s.rampRoom k = true) :
    tryIssue s k .array =
      let r := issueArray (isLead (cellNo k)) (Fx.of ((s.cell k).setUnits fun u => { u with arrQ := rest })) q
      s.put k (r.1.map (Cell.setUnits fun v => if onCompute q.op then { v with comp := some r.2 } else { v with wload := some r.2 })) := by
  have hroom : (onCompute q.op && !s.rampRoom k) = false := by
    cases ho : onCompute q.op
    · rfl
    · simp [hr ho]
  simp only [tryIssue, Units.queue, hq, ha, hroom, Bool.not_true, Bool.or_self, Bool.false_eq_true, if_false]
  rfl

/-- The units and the slots of a cell change independently. -/
theorem Cell.setUnits_modSlot (c : Cell) (f : Units → Units) (i : Nat) (g : Slot → Slot) : (c.setUnits f).modSlot i g = (c.modSlot i g).setUnits f := by
  by_cases h : i = 0 <;> simp [Cell.modSlot, Cell.setSlot, Cell.slot, Cell.setUnits, h]

/-- SLOTINV at the head of the array queue clears the valid bit of its slot and is done (R59, R60). -/
theorem tryIssue_slotinv {s : State} {k : Nat} {q : QI} {rest : List QI} {slot : BitVec 1} (hq : (s.cell k).units.arrQ = q :: rest)
    (ha : (s.cell k).arrayReady q = true) (hop : q.op = .slotinv slot) :
    tryIssue s k .array = s.setCell k ((((s.cell k).setUnits fun u => { u with arrQ := rest }).modSlot slot.toNat fun v => { v with valid := false }).setUnits fun u =>
      { u with wload := some (Run.start q).finish }) := by
  have hwrite : onCompute q.op = false := by rw [hop]; rfl
  have hissue : ∀ lead x, issueArray lead x q = issueSlotinv x q slot := fun lead x => by simp only [issueArray, hop]
  rw [tryIssue_array hq ha (by simp [hwrite])]
  simp only [hwrite, hissue, Bool.false_eq_true, if_false]
  rfl

/-- The head of the accumulator queue issues once the accumulator path is free (R146). -/
theorem tryIssue_acc {s : State} {k : Nat} {q : QI} {rest : List QI} (hq : (s.cell k).units.accQ = q :: rest) (hu : (s.cell k).units.acc = none) :
    tryIssue s k .acc =
      let r := issueAcc (isLead (cellNo k)) (Fx.of ((s.cell k).setUnits fun u => { u with accQ := rest })) q
      s.put k (r.1.map (Cell.setUnits fun v => { v with acc := some r.2 })) := by
  simp only [tryIssue, Units.queue, hq, hu, Option.isSome_none, Bool.false_eq_true, if_false]
  rfl

/-- The head of the vector queue issues once the vector unit is free and the cell may be active (R146, R395). -/
theorem tryIssue_vector {s : State} {k : Nat} {q : QI} {rest : List QI} (hq : (s.cell k).units.vecQ = q :: rest) (hu : (s.cell k).units.vec = none)
    (hr : s.rampRoom k = true) :
    tryIssue s k .vector =
      let r := issueVector (isLead (cellNo k)) (s.seedOf k) (Fx.of ((s.cell k).setUnits fun u => { u with vecQ := rest })) q
      s.put k (r.1.map (Cell.setUnits fun v => { v with vec := some r.2 })) := by
  simp only [tryIssue, Units.queue, hq, hu, hr, Option.isSome_none, Bool.not_true, Bool.or_self, Bool.false_eq_true, if_false]
  rfl

/-- UNIT_ISSUE of a unit other than the array counts no wait, and releases nothing where nothing waits at dispatch (R73, R146). -/
theorem issueWaited_unblocked {s t : State} {k : Nat} {u : CellUnit} (hu : u ≠ .array) (waited : Nat) (ht : tryIssue s k u = t)
    (hw : (t.cell k).seq.wait = none) (hh : (t.cell k).seq.held = none) : issueWaited s k u waited = t := by
  have hnot : (u == CellUnit.array) = false := by simpa using hu
  simp only [issueWaited, hnot, Bool.false_and, Bool.false_eq_true, if_false, ht]
  exact settle_unblocked hw hh

/-- An array instruction that may issue counts its wait for its slot or track first (R59, R73). -/
theorem issueWaited_array {s t : State} {k : Nat} {q : QI} {rest : List QI} {waited : Nat} (hq : (s.cell k).units.arrQ = q :: rest)
    (ha : (s.cell k).arrayReady q = true) (ht : tryIssue (s.modCell k fun c => c.count rSlotWait waited) k .array = t)
    (hw : (t.cell k).seq.wait = none) (hh : (t.cell k).seq.held = none) : issueWaited s k .array waited = t := by
  simp only [issueWaited, Units.queue, hq, ha, beq_self_eq_true, Bool.and_self, if_true, ht]
  exact settle_unblocked hw hh

/-- ACLR of a tile that the cell has clears its frame and is done (R184). -/
theorem issueAcc_aclr {lead : Bool} {x : Fx} {q : QI} {t : BitVec 2} {int : Bool} (hop : q.op = .aclr t int) (hl : t = 2 → lead = true) :
    issueAcc lead x q =
      let f := q.map.resolve t
      (x.map fun c => { c with mem := memZero c.mem (frameBase f) (frameBase f + 0x2000), errs := mapDrop (fun p => p / 128 == frameBase f / 0x2000) c.errs,
                               frames := setAt c.frames f { Frame.reset with int := int } }, (Run.start q).finish) := by
  have hfit : (t == 2 && !lead) = false := by simpa using hl
  simp only [issueAcc, accMisuseOf, hop, hfit, Bool.false_eq_true, if_false]

/-! Completion. -/

/-- A finished instruction leaves the accumulator path (R146). -/
theorem complete_acc {s : State} {k : Nat} {r : Run} (hr : (s.cell k).units.acc = some r) (hd : r.done = true)
    (hw : (s.cell k).seq.wait = none) (hh : (s.cell k).seq.held = none) :
    complete s k .acc = s.setCell k ((s.cell k).setUnits fun u => { u with acc := none }) := by
  simp only [complete, hr, hd, if_true]
  exact settle_unblocked (by simpa [Cell.setUnits] using hw) (by simpa [Cell.setUnits] using hh)

/-- A finished instruction leaves the vector unit (R146). -/
theorem complete_vector {s : State} {k : Nat} {r : Run} (hr : (s.cell k).units.vec = some r) (hd : r.done = true)
    (hw : (s.cell k).seq.wait = none) (hh : (s.cell k).seq.held = none) :
    complete s k .vector = s.setCell k ((s.cell k).setUnits fun u => { u with vec := none }) := by
  simp only [complete, hr, hd, if_true]
  exact settle_unblocked (by simpa [Cell.setUnits] using hw) (by simpa [Cell.setUnits] using hh)

/-- A finished instruction leaves the compute track; no slot-view write has waited for it (R61, R146). -/
theorem complete_compute {s : State} {k : Nat} {r : Run} (hr : (s.cell k).units.comp = some r) (hd : r.done = true) (hv : (s.cell k).units.view = [])
    (hw : (s.cell k).seq.wait = none) (hh : (s.cell k).seq.held = none) :
    complete s k .array = s.setCell k ((s.cell k).setUnits fun u => { u with comp := none, view := [] }) := by
  have hland : landViews ((s.cell k).setUnits fun u => { u with comp := none }) = (s.cell k).setUnits fun u => { u with comp := none, view := [] } := by
    simp only [landViews, Cell.setUnits, hv, List.foldl_nil]
  simp only [complete, hr, hd, if_true, State.modCell, hland]
  exact settle_unblocked (by simpa [Cell.setUnits] using hw) (by simpa [Cell.setUnits] using hh)

/-- Settles O20: the head of a queue goes to its free unit and nothing that waits at dispatch is released; a finished run leaves its unit. -/
theorem unitsIssueAndComplete : Obligations.UnitsIssueAndComplete := by
  unfold Obligations.UnitsIssueAndComplete
  intro s c q rest r waited k b lead hw hh
  refine ⟨fun kd f _ hq hu hroom hseq => ?vector, fun t int hop hq hu hl => ?acc, fun slot hop hq ha => ?array, fun hr hd => ?vectorDone, fun hr hd => ?accDone,
    fun hr hd hv => ?arrayDone⟩
  case vector =>
    refine congrArg _ (issueWaited_unblocked (by decide) waited (tryIssue_vector hq hu hroom) ?_ ?_)
    · rw [State.cell_put]; exact (congrArg Seq.wait hseq).trans hw
    · rw [State.cell_put]; exact (congrArg Seq.held hseq).trans hh
  case acc =>
    have hissue := tryIssue_acc hq hu
    rw [issueAcc_aclr hop hl] at hissue
    refine congrArg _ (issueWaited_unblocked (by decide) waited hissue ?_ ?_)
    · rw [State.cell_put]; exact hw
    · rw [State.cell_put]; exact hh
  case array =>
    have hcounted : (s.modCell k fun c => c.count rSlotWait waited).cell k = b.count rSlotWait waited := State.cell_modCell ..
    have hissue := tryIssue_slotinv (s := s.modCell k fun c => c.count rSlotWait waited) (k := k) (q := q) (rest := rest)
      (by rw [hcounted]; exact hq) (by rw [hcounted]; exact ha) hop
    rw [State.setCell_modCell, hcounted] at hissue
    have hseq : (((b.count rSlotWait waited).setUnits fun u => { u with arrQ := rest }).modSlot slot.toNat fun v => { v with valid := false }).seq = b.seq :=
      (Cell.sameButSlots_modSlot _ _ _).seq
    refine congrArg _ ((issueWaited_array hq ha hissue ?_ ?_).trans ?_)
    · rw [State.cell_setCell]; exact (congrArg Seq.wait hseq).trans hw
    · rw [State.cell_setCell]; exact (congrArg Seq.held hseq).trans hh
    · rw [Cell.setUnits_modSlot]; rfl
  case vectorDone => exact congrArg _ (complete_vector hr hd hw hh)
  case accDone => exact congrArg _ (complete_acc hr hd hw hh)
  case arrayDone => exact congrArg _ (complete_compute hr hd hv hw hh)

end Sys2Proof.Machine
end

section
/-! PROOF. Scrubs of arrays, scratchpads, HBM and instruction stores: the flips that stand, the words corrected, what cannot be corrected, and the records (spec/03_cim_cell.md R61, R68, R69; spec/06_sparsity.md R129; spec/09_scratchpad_hbm.md R218 to R220; spec/18_faults_fencing.md R419). -/
namespace Sys2Proof.Machine

/-! Maps and byte memories. -/

/-- A value other than the default is read back, in whatever form the map stands. -/
theorem mapGet_mapSet_of_ne {α : Type} [DecidableEq α] {d v : α} (m : SMap α) (x : Nat) (hv : v ≠ d) : mapGet d (mapSet d m x v) x = v := by
  induction m with
  | nil => simp [mapSet, hv, mapGet]
  | cons e t ih =>
    obtain ⟨k, w⟩ := e
    by_cases hlt : x < k
    · simp [mapSet, hlt, hv, mapGet]
    · by_cases heq : x = k
      · simp [mapSet, heq, hv, mapGet]
      · simp [mapSet, hlt, heq, mapGet, ih]

/-- What flips at a base change in the byte at an address. -/
def flipMask (base a : Nat) : List Nat → Byte
  | [] => 0
  | b :: t => (if a = base + b / 8 then BitVec.ofNat 8 (2 ^ (b % 8)) else 0) ^^^ flipMask base a t

theorem flipBits_wf {m : Memory} (base : Nat) (l : List Nat) (h : memWf m = true) : memWf (flipBits m base l) = true := by
  induction l generalizing m with
  | nil => exact h
  | cons b t ih => exact ih (memSet_wf _ _ h)

theorem memGet_flipBits {m : Memory} (base : Nat) (l : List Nat) (h : memWf m = true) (a : Nat) :
    memGet (flipBits m base l) a = memGet m a ^^^ flipMask base a l := by
  induction l generalizing m with
  | nil => exact (BitVec.xor_zero).symm
  | cons b t ih =>
    rw [flipBits, ih (memSet_wf _ _ h), memGet_memSet _ _ _ h, flipMask]
    by_cases ha : a = base + b / 8
    · rw [if_pos ha, if_pos ha, ← ha, BitVec.xor_assoc]
    · rw [if_neg ha, if_neg ha]
      exact congrArg _ BitVec.zero_xor.symm

/-- Flips made twice are undone: what correction rests on (R48, R218). -/
theorem memGet_flipBits_twice {m : Memory} (base : Nat) (l : List Nat) (h : memWf m = true) (a : Nat) :
    memGet (flipBits (flipBits m base l) base l) a = memGet m a := by
  rw [memGet_flipBits base l (flipBits_wf base l h), memGet_flipBits base l h, BitVec.xor_assoc, BitVec.xor_self, BitVec.xor_zero]

/-! What counting, faults and records change. -/

section Count
variable (c : Cell) (reg n : Nat)
@[simp] theorem Cell.count_cnt : (c.count reg n).cnt = bump c.cnt reg n := by unfold Cell.count; split <;> rfl
@[simp] theorem Cell.count_slot (i : Nat) : (c.count reg n).slot i = c.slot i := by unfold Cell.count; split <;> rfl
@[simp] theorem Cell.count_units : (c.count reg n).units = c.units := by unfold Cell.count; split <;> rfl
@[simp] theorem Cell.count_seq : (c.count reg n).seq = c.seq := by unfold Cell.count; split <;> rfl
@[simp] theorem Cell.count_mem : (c.count reg n).mem = c.mem := by unfold Cell.count; split <;> rfl
@[simp] theorem Cell.count_poison : (c.count reg n).poison = c.poison := by unfold Cell.count; split <;> rfl
end Count

section Sum
variable (c : Cell) (cls n : Nat) (detail : List Byte)
@[simp] theorem Cell.sum_cnt : (c.sum cls n detail).cnt = c.cnt := by unfold Cell.sum; split <;> rfl
@[simp] theorem Cell.sum_mem : (c.sum cls n detail).mem = c.mem := by unfold Cell.sum; split <;> rfl
@[simp] theorem Cell.sum_poison : (c.sum cls n detail).poison = c.poison := by unfold Cell.sum; split <;> rfl
end Sum

@[simp] theorem Seq.pendStop_wait (q : Seq) (cls : Nat) : (q.pendStop cls).wait = q.wait := by unfold Seq.pendStop; split <;> rfl
@[simp] theorem Seq.pendStop_running (q : Seq) (cls : Nat) : (q.pendStop cls).running = q.running := by unfold Seq.pendStop; split <;> rfl

/-- A running cell with a fault is to stop (R163). -/
theorem Seq.pendStop_stopPending {q : Seq} (cls : Nat) (h : q.running = true) : (q.pendStop cls).stopPending = true := by
  cases hp : q.stopPending <;> simp [Seq.pendStop, hp, h]

/-- A fault changes the sequencer and gives its event first; the stop is only pending where no cue wait stands (R163). -/
theorem Fx.fault_spec (x : Fx) (cls : Nat) (detail : List Byte) (inj : Bool) :
    ∃ q l, x.fault cls detail inj = ⟨{ x.c with seq := q }, x.ev ++ ⟨cls, detail, inj⟩ :: l⟩ ∧ (x.c.seq.wait = none → q = x.c.seq.pendStop cls) := by
  obtain ⟨y, hy⟩ : ∃ y, y = (x.note cls detail inj).map (Cell.setSeq fun q => q.pendStop cls) := ⟨_, rfl⟩
  have hfault : x.fault cls detail inj = y.stopIfWaiting := by rw [hy]; rfl
  rw [hfault, Fx.stopIfWaiting]
  by_cases hstop : (y.c.seq.stopPending && y.c.seq.atCueWait) = true
  · have hwait : x.c.seq.wait ≠ none := fun h => by simp [hy, Fx.map, Fx.note, Cell.setSeq, Seq.atCueWait, h] at hstop
    rw [if_pos hstop, Fx.stopPoint]
    split
    · exact ⟨_, [], by rw [hy]; rfl, fun h => absurd h hwait⟩
    · exact ⟨y.stop.c.seq, [⟨0x0352, stopDetail y.c.seq, false⟩], by simp [hy, Fx.stop, Fx.map, Fx.note, Cell.setSeq], fun h => absurd h hwait⟩
  · rw [if_neg hstop]
    exact ⟨_, [], by rw [hy]; rfl, fun _ => rfl⟩

/-- Classes and details of the records on their way from the block of a cell. -/
def State.cellRecs (s : State) (k : Nat) : List (BitVec 16 × List Byte) := (s.blk (cellBlk k)).transit.map fun r => (r.cls, r.detail)

/-- A cell's events are put on their way in their order (R413). -/
theorem State.cellRecs_put (s : State) (k : Nat) (x : Fx) : (s.put k x).cellRecs k = s.cellRecs k ++ x.ev.map evClass := by
  have hfold : ∀ (l : List Ev) (s : State), (l.foldl (fun s e => s.toBlock (cellBlk k) (s.cellRec k e)) s).cellRecs k = s.cellRecs k ++ l.map evClass := by
    intro l
    induction l with
    | nil => simp
    | cons e t ih =>
      intro s
      have hone : (s.toBlock (cellBlk k) (s.cellRec k e)).cellRecs k = s.cellRecs k ++ [evClass e] := by
        simp [State.cellRecs, State.toBlock, State.cellRec]
      rw [List.foldl_cons, ih, hone, List.map_cons, List.append_assoc, List.singleton_append]
  exact hfold x.ev _

/-! Flips of a row of a slot (R47, R129). -/

theorem Slot.upset_nil (v : Slot) (row : Nat) : v.upset row [] = v := rfl

theorem Slot.upset_lastClean (v : Slot) (row : Nat) (l : List Nat) : (v.upset row l).lastClean = v.lastClean := by
  unfold Slot.upset
  dsimp only
  split <;> rfl

/-- Flips of the hardware in words that the scrubber reads stand with those before them. -/
theorem Slot.errs_upset (v : Slot) (row : Nat) (l : List Nat) :
    mapGet [] (v.upset row l).errs row = mapGet [] v.errs row ++ (l.filter fun p => Nat.blt (slotWord p) v.rowWords).map (⟨·, false⟩) := by
  unfold Slot.upset
  dsimp only
  generalize l.filter (fun p => Nat.blt (slotWord p) v.rowWords) = l
  cases l with
  | nil => simp
  | cons p t =>
    rw [if_neg (by simp)]
    exact mapGet_mapSet_of_ne _ _ (by simp)

/-- In a row without standing flips no flip is an injected one. -/
theorem Slot.flipsOf_upset_real {v : Slot} {row : Nat} (h : mapGet [] v.errs row = []) (l : List Nat) {w : Nat} {f : Flip}
    (hf : f ∈ (v.upset row l).flipsOf row w) : f.injected = false := by
  have hmem := (List.mem_filter.1 hf).1
  rw [Slot.errs_upset, h, List.nil_append] at hmem
  obtain ⟨p, -, rfl⟩ := List.mem_map.1 hmem
  rfl

theorem Slot.flipsOf_nil {v : Slot} {row : Nat} (h : mapGet [] v.errs row = []) (w : Nat) : v.flipsOf row w = [] := by
  rw [Slot.flipsOf, h, List.filter_nil]

/-- The flips of a row that stand alone in their word: those that the code corrects (R48, R68). -/
def Slot.singles (v : Slot) (row : Nat) : List Flip := (((List.range 6).map (v.flipsOf row)).filter (·.length == 1)).flatten

/-- No flip of a word with several errors is among them. -/
theorem Slot.not_mem_singles {v : Slot} {row w : Nat} (h : 1 < (v.flipsOf row w).length) {f : Flip} (hf : f ∈ v.flipsOf row w) : f ∉ v.singles row := by
  intro hs
  obtain ⟨l, hl, hfl⟩ := List.mem_flatten.1 hs
  obtain ⟨hl, hone⟩ := List.mem_filter.1 hl
  obtain ⟨w', -, rfl⟩ := List.mem_map.1 hl
  have hw : slotWord f.bit = w := by simpa using (List.mem_filter.1 hf).2
  have hw' : slotWord f.bit = w' := by simpa using (List.mem_filter.1 hfl).2
  subst hw hw'
  simp only [beq_iff_eq] at hone
  omega

/-- The rewrite of a row leaves a word with several errors as it stands (R69). -/
theorem Slot.flipsOf_fixRow {v : Slot} {row w : Nat} (h : 1 < (v.flipsOf row w).length) : (v.fixRow row).flipsOf row w = v.flipsOf row w := by
  obtain ⟨kept, hkept⟩ : ∃ kept, kept = (mapGet [] v.errs row).filter fun f => !(v.singles row).contains f := ⟨_, rfl⟩
  have hword : kept.filter (fun f => slotWord f.bit == w) = v.flipsOf row w := by
    rw [hkept, List.filter_filter, Slot.flipsOf]
    refine List.filter_congr fun f hf => ?_
    by_cases hw : (slotWord f.bit == w) = true
    · have hout := Slot.not_mem_singles h (List.mem_filter.2 ⟨hf, hw⟩)
      simp [hw, hout]
    · simp [hw]
  have hne : kept ≠ [] := by
    rintro rfl
    rw [List.filter_nil] at hword
    simp [← hword] at h
  have herrs : (v.fixRow row).errs = mapSet [] v.errs row kept := by rw [hkept]; rfl
  rw [Slot.flipsOf, herrs, mapGet_mapSet_of_ne _ _ hne, hword]

theorem flatten_filter_single {α : Type} {l : List (List α)} (h : ∀ x ∈ l, x.length ≤ 1) : (l.filter (·.length == 1)).flatten = l.flatten := by
  induction l with
  | nil => rfl
  | cons x t ih =>
    have ht := ih fun y hy => h y (by simp [hy])
    match x, h x (by simp) with
    | [], _ => simpa using ht
    | [a], _ => simpa using ht

/-! The array scrubber (R61, R68, R69). -/

@[simp] theorem Cell.modSlot_units (c : Cell) (i : Nat) (g : Slot → Slot) : (c.modSlot i g).units = c.units := by
  rw [c.sameButSlots_modSlot i g]
@[simp] theorem Cell.modSlot_seq (c : Cell) (i : Nat) (g : Slot → Slot) : (c.modSlot i g).seq = c.seq := by
  rw [c.sameButSlots_modSlot i g]
@[simp] theorem Cell.modSlot_cnt (c : Cell) (i : Nat) (g : Slot → Slot) : (c.modSlot i g).cnt = c.cnt := by
  rw [c.sameButSlots_modSlot i g]

theorem Cell.modSlot_same (c : Cell) {i : Nat} {g : Slot → Slot} (h : g (c.slot i) = c.slot i) : c.modSlot i g = c := by
  rw [Cell.modSlot, h]
  by_cases hi : i = 0 <;> simp [Cell.setSlot, Cell.slot, hi]

/-- Whether a slot is busy is a matter of the units. -/
theorem Cell.slotBusy_congr {c d : Cell} (h : d.units = c.units) (i : Nat) : d.slotBusy i = c.slotBusy i := by
  rw [Cell.slotBusy, h]; rfl

/-- The cell once the scrubber has come to a slot: the cycle that it takes from a running vector is counted (R61). -/
def Cell.stolen (c : Cell) (i : Nat) : Cell := if c.slotBusy i then c.count rScrubSteal 1 else c

@[simp] theorem Cell.stolen_slot (c : Cell) (i j : Nat) : (c.stolen i).slot j = c.slot j := by unfold Cell.stolen; split <;> simp
@[simp] theorem Cell.stolen_units (c : Cell) (i : Nat) : (c.stolen i).units = c.units := by unfold Cell.stolen; split <;> simp
@[simp] theorem Cell.stolen_seq (c : Cell) (i : Nat) : (c.stolen i).seq = c.seq := by unfold Cell.stolen; split <;> simp

theorem Cell.stolen_idle {c : Cell} {i : Nat} (h : c.slotBusy i = false) : c.stolen i = c := by simp [Cell.stolen, h]

/-- The cell with the flips that the scrubber finds in the row. -/
def Cell.scanned (c : Cell) (i row : Nat) (upset : List Nat) : Cell := (c.stolen i).modSlot i fun v => v.upset row upset

@[simp] theorem Cell.scanned_slot (c : Cell) (i row : Nat) (upset : List Nat) : (c.scanned i row upset).slot i = (c.slot i).upset row upset := by
  simp [Cell.scanned]
@[simp] theorem Cell.scanned_units (c : Cell) (i row : Nat) (upset : List Nat) : (c.scanned i row upset).units = c.units := by simp [Cell.scanned]
@[simp] theorem Cell.scanned_seq (c : Cell) (i row : Nat) (upset : List Nat) : (c.scanned i row upset).seq = c.seq := by simp [Cell.scanned]
@[simp] theorem Cell.scanned_cnt (c : Cell) (i row : Nat) (upset : List Nat) : (c.scanned i row upset).cnt = (c.stolen i).cnt := by simp [Cell.scanned]

theorem scrubArray_eq {c : Cell} {i : Nat} (hw : (c.slot i).writing = false) (row t : Nat) (upset : List Nat) :
    scrubArray (Fx.of c) i row t upset =
      let x := Fx.of (c.scanned i row upset)
      let u := (c.slot i).upset row upset
      if (mapGet [] u.errs row).isEmpty then x.map fun c => c.modSlot i fun v => { v with lastClean := mapPut v.lastClean row t }
      else scrubCorrect (poisonWords x i row (List.range 6)) i row t (u.singles row) := by
  have hscan : (if (Fx.of c).c.slotBusy i then (Fx.of c).map fun c => c.count rScrubSteal 1 else Fx.of c).map (fun c => c.modSlot i fun v => v.upset row upset)
      = Fx.of (c.scanned i row upset) := by
    cases hb : c.slotBusy i <;> simp [Fx.map, Fx.of, Cell.scanned, Cell.stolen, hb]
  have hslot : (Fx.of (c.scanned i row upset)).c.slot i = (c.slot i).upset row upset := Cell.scanned_slot ..
  have hwriting : ((Fx.of c).c.slot i).writing = false := hw
  simp only [scrubArray, hwriting, hscan, hslot, Bool.false_eq_true, if_false]
  rfl

/-- A clean row gets its tick (R68). -/
theorem scrubArray_clean {c : Cell} {i row : Nat} (hw : (c.slot i).writing = false) (h : mapGet [] (c.slot i).errs row = []) (t : Nat) :
    scrubArray (Fx.of c) i row t [] = Fx.of ((c.stolen i).modSlot i fun v => { v with lastClean := mapPut v.lastClean row t }) := by
  have hscan : c.scanned i row [] = c.stolen i := Cell.modSlot_same _ (Slot.upset_nil _ _)
  rw [scrubArray_eq hw]
  simp only [Slot.upset_nil, h, List.isEmpty_nil, if_true, Fx.map, Fx.of, hscan]

/-- A row with flips is judged word by word. -/
theorem scrubArray_found {c : Cell} {i row w : Nat} {upset : List Nat} (hw : (c.slot i).writing = false)
    (h : ((c.slot i).upset row upset).flipsOf row w ≠ []) (t : Nat) :
    scrubArray (Fx.of c) i row t upset =
      scrubCorrect (poisonWords (Fx.of (c.scanned i row upset)) i row (List.range 6)) i row t (((c.slot i).upset row upset).singles row) := by
  have hne : ((mapGet [] ((c.slot i).upset row upset).errs row).isEmpty) = false := by
    simpa using mt (fun hnil => Slot.flipsOf_nil hnil w) h
  rw [scrubArray_eq hw]
  simp only [hne, Bool.false_eq_true, if_false]

/-! Corrections. -/

/-- A row with errors corrected is rewritten, or its rewrite waits for the slot (R61). -/
def Cell.mended (c : Cell) (i row : Nat) (l : List Flip) : Cell :=
  if l.isEmpty then c
  else if c.slotBusy i then c.modSlot i fun v => { v with rewrites := if v.rewrites.contains row then v.rewrites else v.rewrites ++ [row] }
  else c.modSlot i fun v => v.fixRow row

@[simp] theorem Cell.mended_cnt (c : Cell) (i row : Nat) (l : List Flip) : (c.mended i row l).cnt = c.cnt := by
  unfold Cell.mended
  split
  · rfl
  · split <;> exact Cell.modSlot_cnt ..
@[simp] theorem Cell.mended_seq (c : Cell) (i row : Nat) (l : List Flip) : (c.mended i row l).seq = c.seq := by
  unfold Cell.mended
  split
  · rfl
  · split <;> exact Cell.modSlot_seq ..
@[simp] theorem Cell.mended_poison (c : Cell) (i row : Nat) (l : List Flip) : ((c.mended i row l).slot i).poison = (c.slot i).poison := by
  unfold Cell.mended
  split
  · rfl
  · split <;> rw [Cell.slot_modSlot] <;> rfl

theorem Cell.mended_flipsOf {c : Cell} {i row w : Nat} (l : List Flip) (h : 1 < ((c.slot i).flipsOf row w).length) :
    ((c.mended i row l).slot i).flipsOf row w = (c.slot i).flipsOf row w := by
  unfold Cell.mended
  split
  · rfl
  · split
    · rw [Cell.slot_modSlot]; rfl
    · rw [Cell.slot_modSlot]; exact Slot.flipsOf_fixRow h

/-- The event of a correction (R68). -/
def correction (i row last t : Nat) (f : Flip) : Ev := ⟨0x0101, eccDetail i row f.bit last t, f.injected⟩

theorem foldl_note_correction (i row last t : Nat) (l : List Flip) (x : Fx) :
    l.foldl (fun x f => x.note 0x0101 (eccDetail i row f.bit last t) f.injected) x = ⟨x.c, x.ev ++ l.map (correction i row last t)⟩ := by
  induction l generalizing x with
  | nil => simp
  | cons f l ih => rw [List.foldl_cons, ih]; simp [Fx.note, correction]

/-- Corrections are counted and recorded one by one, and the row is rewritten (R61, R68). -/
theorem scrubCorrect_eq (x : Fx) (i row t : Nat) (l : List Flip) :
    scrubCorrect x i row t l =
      ⟨(x.c.count rEccCorr l.length).mended i row l, x.ev ++ l.map (correction i row (mapGet 0 (x.c.slot i).lastClean row) t)⟩ := by
  simp only [scrubCorrect, foldl_note_correction, Fx.map, Cell.mended]
  split
  · rfl
  · split <;> rfl

/-! Words beyond correction. -/

/-- What a scrub or read may do to a cell that meets uncorrectable words of slot `i`: poison the slot, add events, and pend a stop where the slot is busy (R69). -/
structure Fx.Condemns (i : Nat) (x y : Fx) : Prop where
  slot : ∃ p, y.c.slot i = { x.c.slot i with poison := (x.c.slot i).poison || p }
  cnt : y.c.cnt = x.c.cnt
  units : y.c.units = x.c.units
  idle : x.c.slotBusy i = false → y.c.seq = x.c.seq
  pending : x.c.seq.running = true → x.c.seq.wait = none →
    y.c.seq.running = true ∧ y.c.seq.wait = none ∧ (x.c.seq.stopPending = true → y.c.seq.stopPending = true)
  events : x.ev ⊆ y.ev

namespace Fx.Condemns
variable {i : Nat} {x y z : Fx}

theorem refl (i : Nat) (x : Fx) : x.Condemns i x where
  slot := ⟨false, by simp⟩
  cnt := rfl
  units := rfl
  idle _ := rfl
  pending hr hw := ⟨hr, hw, id⟩
  events := fun _ => id

theorem flipsOf (h : x.Condemns i y) (row w : Nat) : (y.c.slot i).flipsOf row w = (x.c.slot i).flipsOf row w := by
  obtain ⟨p, hp⟩ := h.slot
  rw [hp]; rfl

theorem busy (h : x.Condemns i y) : y.c.slotBusy i = x.c.slotBusy i := Cell.slotBusy_congr h.units i

theorem poison (h : x.Condemns i y) (hp : (x.c.slot i).poison = true) : (y.c.slot i).poison = true := by
  obtain ⟨p, hy⟩ := h.slot
  simp [hy, hp]

theorem trans (h : x.Condemns i y) (h' : y.Condemns i z) : x.Condemns i z where
  slot := by
    obtain ⟨p, hp⟩ := h.slot
    obtain ⟨p', hp'⟩ := h'.slot
    exact ⟨p || p', by simp [hp', hp, Bool.or_assoc]⟩
  cnt := h'.cnt.trans h.cnt
  units := h'.units.trans h.units
  idle hb := (h'.idle (h.busy.trans hb)).trans (h.idle hb)
  pending hr hw := by
    obtain ⟨hr', hw', hs⟩ := h.pending hr hw
    obtain ⟨hr'', hw'', hs'⟩ := h'.pending hr' hw'
    exact ⟨hr'', hw'', hs' ∘ hs⟩
  events := List.Subset.trans h.events h'.events

end Fx.Condemns

/-- The event of an uncorrectable word (R69). -/
def uncorrectable (i row : Nat) (inj : Bool) : Ev := ⟨0x0102, leBytes 1 i ++ leBytes 1 row, inj⟩

/-- A slot with its poison bit set. -/
def Cell.poisoned (c : Cell) (i : Nat) : Cell := c.modSlot i fun v => { v with poison := true }

theorem Cell.slotBusy_poisoned (c : Cell) (i : Nat) : (c.poisoned i).slotBusy i = c.slotBusy i := Cell.slotBusy_congr (Cell.modSlot_units ..) i

/-- One word beyond correction: the slot is poisoned and the event given; the sequencer has a fault where the slot is busy, and stands where it is not (R69). -/
theorem scrubPoison_spec (x : Fx) (i row : Nat) (inj : Bool) :
    ∃ q l, scrubPoison x i row inj = ⟨{ x.c.poisoned i with seq := q }, x.ev ++ uncorrectable i row inj :: l⟩
      ∧ (x.c.slotBusy i = false → q = x.c.seq) ∧ (x.c.slotBusy i = true → x.c.seq.wait = none → q = x.c.seq.pendStop 0x0102) := by
  have hseq : (x.c.poisoned i).seq = x.c.seq := Cell.modSlot_seq ..
  have hbusy : (x.map fun c => c.modSlot i fun v => { v with poison := true }).c.slotBusy i = x.c.slotBusy i := x.c.slotBusy_poisoned i
  cases hb : x.c.slotBusy i
  case false =>
    refine ⟨x.c.seq, [], ?_, fun _ => rfl, fun h => absurd h (by decide)⟩
    simp only [scrubPoison, hbusy, hb, Bool.false_eq_true, if_false]
    rw [← hseq]
    rfl
  case true =>
    obtain ⟨q, l, hfault, hq⟩ := Fx.fault_spec (x.map fun c => c.poisoned i) 0x0102 (leBytes 1 i ++ leBytes 1 row) inj
    refine ⟨q, l, ?_, fun h => absurd h (by decide), fun _ hw => ?_⟩
    · simp only [scrubPoison, hbusy, hb, if_true]
      exact hfault
    · rw [← hseq] at hw ⊢
      exact hq hw

theorem scrubPoison_condemns (x : Fx) (i row : Nat) (inj : Bool) : x.Condemns i (scrubPoison x i row inj) := by
  obtain ⟨q, l, heq, hidle, hbusy⟩ := scrubPoison_spec x i row inj
  rw [heq]
  constructor
  case slot => exact ⟨true, by rw [Bool.or_true]; exact Cell.slot_modSlot ..⟩
  case cnt => exact Cell.modSlot_cnt ..
  case units => exact Cell.modSlot_units ..
  case idle => exact hidle
  case events => exact List.subset_append_left ..
  case pending =>
    intro hr hw
    cases hb : x.c.slotBusy i
    case false => rw [hidle hb]; exact ⟨hr, hw, id⟩
    case true => rw [hbusy hb hw, Seq.pendStop_running, Seq.pendStop_wait]; exact ⟨hr, hw, fun _ => Seq.pendStop_stopPending _ hr⟩

theorem scrubPoison_poison (x : Fx) (i row : Nat) (inj : Bool) : ((scrubPoison x i row inj).c.slot i).poison = true := by
  obtain ⟨q, l, heq, -⟩ := scrubPoison_spec x i row inj
  rw [heq]
  exact congrArg Slot.poison (Cell.slot_modSlot x.c i _)

theorem scrubPoison_event (x : Fx) (i row : Nat) (inj : Bool) : uncorrectable i row inj ∈ (scrubPoison x i row inj).ev := by
  obtain ⟨q, l, heq, -⟩ := scrubPoison_spec x i row inj
  simp [heq]

theorem scrubPoison_stopPending {x : Fx} {i : Nat} (row : Nat) (inj : Bool) (hb : x.c.slotBusy i = true) (hr : x.c.seq.running = true)
    (hw : x.c.seq.wait = none) : (scrubPoison x i row inj).c.seq.stopPending = true := by
  obtain ⟨q, l, heq, -, hq⟩ := scrubPoison_spec x i row inj
  rw [heq]
  exact (congrArg Seq.stopPending (hq hb hw)).trans (Seq.pendStop_stopPending _ hr)

/-- A word with at most one flip condemns nothing. -/
theorem poisonWords_cons_of_le {x : Fx} {i row w : Nat} (words : List Nat) (h : ((x.c.slot i).flipsOf row w).length ≤ 1) :
    poisonWords x i row (w :: words) = poisonWords x i row words := by
  simp only [poisonWords, List.foldl_cons, h, if_true]

theorem poisonWords_cons_of_lt {x : Fx} {i row w : Nat} (words : List Nat) (h : 1 < ((x.c.slot i).flipsOf row w).length) :
    poisonWords x i row (w :: words) = poisonWords (scrubPoison x i row (((x.c.slot i).flipsOf row w).any (·.injected))) i row words := by
  simp only [poisonWords, List.foldl_cons, Nat.not_le.2 h, if_false]

theorem poisonWords_correctable {x : Fx} {i row : Nat} {words : List Nat} (h : ∀ w ∈ words, ((x.c.slot i).flipsOf row w).length ≤ 1) :
    poisonWords x i row words = x := by
  induction words with
  | nil => rfl
  | cons w words ih => rw [poisonWords_cons_of_le words (h w (by simp)), ih fun w' hw' => h w' (by simp [hw'])]

theorem poisonWords_condemns (x : Fx) (i row : Nat) (words : List Nat) : x.Condemns i (poisonWords x i row words) := by
  induction words generalizing x with
  | nil => exact .refl i x
  | cons w words ih =>
    rcases Nat.lt_or_ge 1 ((x.c.slot i).flipsOf row w).length with h | h
    · rw [poisonWords_cons_of_lt words h]
      exact (scrubPoison_condemns ..).trans (ih _)
    · rw [poisonWords_cons_of_le words h]
      exact ih x

/-- Among the words read, one beyond correction is met where only the words before it have been judged. -/
theorem poisonWords_meets {x : Fx} {i row w : Nat} {words : List Nat} (hw : w ∈ words) (h : 1 < ((x.c.slot i).flipsOf row w).length) :
    ∃ y, x.Condemns i y ∧ (scrubPoison y i row (((x.c.slot i).flipsOf row w).any (·.injected))).Condemns i (poisonWords x i row words) := by
  obtain ⟨before, after, rfl⟩ := List.append_of_mem hw
  have hcut : poisonWords x i row (before ++ w :: after) = poisonWords (poisonWords x i row before) i row (w :: after) := List.foldl_append
  have hbefore := poisonWords_condemns x i row before
  rw [hcut, poisonWords_cons_of_lt after (by rw [hbefore.flipsOf]; exact h), hbefore.flipsOf]
  exact ⟨_, hbefore, poisonWords_condemns ..⟩

/-- What the scrub of a row leaves of a cell in which word `w` of the row is beyond correction (R68, R69). -/
structure RowCondemned (c : Cell) (i row : Nat) (upset : List Nat) (w : Nat) (y : Fx) : Prop where
  poison : (y.c.slot i).poison = true
  word : (y.c.slot i).flipsOf row w = ((c.slot i).upset row upset).flipsOf row w
  cnt : y.c.cnt = ((c.stolen i).count rEccCorr (((c.slot i).upset row upset).singles row).length).cnt
  idle : c.slotBusy i = false → y.c.seq = c.seq
  stops : c.slotBusy i = true → c.seq.running = true → c.seq.wait = none → y.c.seq.stopPending = true
  recorded : mapGet [] (c.slot i).errs row = [] → uncorrectable i row false ∈ y.ev

theorem rowCondemned_scrubArray {c : Cell} {i row w : Nat} {upset : List Nat} (hwr : (c.slot i).writing = false) (hw : w < 6)
    (h : 1 < (((c.slot i).upset row upset).flipsOf row w).length) (now : Nat) :
    RowCondemned c i row upset w (scrubArray (Fx.of c) i row now upset) := by
  have hne : ((c.slot i).upset row upset).flipsOf row w ≠ [] := List.ne_nil_of_length_pos (by omega)
  rw [scrubArray_found hwr hne, scrubCorrect_eq]
  have hslot : (c.scanned i row upset).slot i = (c.slot i).upset row upset := Cell.scanned_slot ..
  have hbusy : (c.scanned i row upset).slotBusy i = c.slotBusy i := Cell.slotBusy_congr (Cell.scanned_units ..) i
  have hseq : (c.scanned i row upset).seq = c.seq := Cell.scanned_seq ..
  generalize hu : (c.slot i).upset row upset = u at h hslot ⊢
  generalize hx : Fx.of (c.scanned i row upset) = x
  have hxc : x.c = c.scanned i row upset := by rw [← hx]; rfl
  rw [← hxc] at hslot hbusy hseq
  have hxz := poisonWords_condemns x i row (List.range 6)
  obtain ⟨y, hxy, hyz⟩ := poisonWords_meets (x := x) (List.mem_range.2 hw) (by rw [hslot]; exact h)
  generalize poisonWords x i row (List.range 6) = z at hxz hyz ⊢
  rw [hslot] at hyz
  have hzword : (z.c.slot i).flipsOf row w = u.flipsOf row w := by rw [hxz.flipsOf, hslot]
  constructor
  case poison =>
    rw [Cell.mended_poison, Cell.count_slot]
    exact hyz.poison (scrubPoison_poison ..)
  case word =>
    rw [Cell.mended_flipsOf] <;> rw [Cell.count_slot, hzword]
    · exact hu.symm ▸ rfl
    · exact h
  case cnt =>
    rw [Cell.mended_cnt, Cell.count_cnt, Cell.count_cnt, hxz.cnt, hxc, Cell.scanned_cnt, hu]
  case idle =>
    intro hb
    rw [Cell.mended_seq, Cell.count_seq, hxz.idle (hbusy.trans hb), hseq]
  case stops =>
    intro hb hr hwait
    obtain ⟨hry, hwy, -⟩ := hxy.pending (hseq ▸ hr) (hseq ▸ hwait)
    obtain ⟨hr', hw', -⟩ := (scrubPoison_condemns y i row ((u.flipsOf row w).any (·.injected))).pending hry hwy
    rw [Cell.mended_seq, Cell.count_seq]
    exact (hyz.pending hr' hw').2.2 (scrubPoison_stopPending row _ (hxy.busy.trans (hbusy.trans hb)) hry hwy)
  case recorded =>
    intro hnil
    have hreal : (u.flipsOf row w).any (·.injected) = false := by
      rw [List.any_eq_false, ← hu]
      exact fun f hf => by simp [Slot.flipsOf_upset_real hnil upset hf]
    exact List.mem_append_left _ (hyz.events (by rw [hreal]; exact scrubPoison_event ..))

/-- Where each word of a row holds at most one flip, all its flips stand alone. -/
theorem Slot.singles_of_le {v : Slot} {row : Nat} (h : ∀ w < 6, (v.flipsOf row w).length ≤ 1) : v.singles row = ((List.range 6).map (v.flipsOf row)).flatten := by
  refine flatten_filter_single fun l hl => ?_
  obtain ⟨w, hw, rfl⟩ := List.mem_map.1 hl
  exact h w (List.mem_range.1 hw)

/-- Every word with an error of an idle slot's row is corrected, counted and recorded, and the row rewritten (R61, R68). -/
theorem scrubArray_correctable {c : Cell} {i row : Nat} {upset : List Nat} (hwr : (c.slot i).writing = false) (hb : c.slotBusy i = false)
    {all : List Flip} (hall : ((c.slot i).upset row upset).singles row = all) (hne : all ≠ [])
    (h : ∀ w < 6, (((c.slot i).upset row upset).flipsOf row w).length ≤ 1) (now : Nat) :
    scrubArray (Fx.of c) i row now upset =
      ⟨((c.scanned i row upset).count rEccCorr all.length).modSlot i fun v => v.fixRow row, all.map (correction i row (mapGet 0 (c.slot i).lastClean row) now)⟩ := by
  obtain ⟨f, hf⟩ := List.exists_mem_of_ne_nil _ (hall ▸ hne)
  obtain ⟨l, hl, hfl⟩ := List.mem_flatten.1 hf
  obtain ⟨w, -, rfl⟩ := List.mem_map.1 (List.mem_filter.1 hl).1
  have hslot : (Fx.of (c.scanned i row upset)).c.slot i = (c.slot i).upset row upset := Cell.scanned_slot ..
  have hbusy : ((c.scanned i row upset).count rEccCorr all.length).slotBusy i = false :=
    (Cell.slotBusy_congr (by rw [Cell.count_units, Cell.scanned_units]) i).trans hb
  have hnonempty : all.isEmpty = false := by simpa using hne
  rw [scrubArray_found hwr (List.ne_nil_of_mem hfl), poisonWords_correctable fun w hw => hslot ▸ h w (List.mem_range.1 hw), hall, scrubCorrect_eq, hslot, Slot.upset_lastClean]
  simp only [Fx.of, Cell.mended, hbusy, hnonempty, Bool.false_eq_true, if_false, List.nil_append]

end Sys2Proof.Machine
end

section
/-! PROOF. The statement on scrubs: the array scrubber's commands, and the scrubs of scratchpads, HBM and instruction stores (spec/03_cim_cell.md R61, R68, R69; spec/09_scratchpad_hbm.md R218 to R220; spec/18_faults_fencing.md R419). -/
namespace Sys2Proof.Machine

/-! ARRAY_SCRUB and SCRUB_ROW_REWRITE. -/

theorem exec_arrayScrub (c : CellId) (i : BitVec 1) (row : Fin 128) (upset : List Nat) (s : State) :
    exec (.arrayScrub c i row upset) s =
      .next (s.put (cellKey c) (scrubArray (Fx.of (s.cell (cellKey c))) i.toNat row.val (s.recTick (cellRgn (cellKey c))) upset)) := rfl

/-- Deferred rewrites are made where nothing uses the slot (R61). -/
theorem scrubRewrite_idle {c : Cell} {i : Nat} (hb : c.slotBusy i = false) (hw : (c.slot i).writing = false) :
    scrubRewrite c i = c.modSlot i fun v => v.rewrites.foldl Slot.fixRow v := by
  simp only [scrubRewrite, hb, hw, Bool.or_self, Bool.false_eq_true, if_false]

/-- Corrections of flips that the hardware made stand in their records under class 0x0101 (R68, R412). -/
theorem evClass_correction {f : Flip} (hf : f.injected = false) (i row last t : Nat) :
    evClass (correction i row last t f) = (0x0101, eccDetail i row f.bit last t) := by
  simp only [evClass, correction, hf, Bool.false_eq_true, if_false]
  rfl

theorem Slot.singles_real {v : Slot} {row : Nat} (h : mapGet [] v.errs row = []) {l : List Nat} {f : Flip} (hf : f ∈ (v.upset row l).singles row) : f.injected = false := by
  obtain ⟨fs, hfs, hmem⟩ := List.mem_flatten.1 hf
  obtain ⟨w, -, rfl⟩ := List.mem_map.1 (List.mem_filter.1 hfs).1
  exact Slot.flipsOf_upset_real h l hmem

section
variable {s : State} {c : CellId} {i : BitVec 1} {row : Fin 128} {upset : List Nat}

/-- A row without flips gets its tick, and the scrub takes a cycle of a running vector (R61, R68). -/
theorem exec_arrayScrub_clean (hw : ((s.cell (cellKey c)).slot i.toNat).writing = false) (h : mapGet [] ((s.cell (cellKey c)).slot i.toNat).errs row.val = []) :
    exec (.arrayScrub c i row []) s = .next (s.setCell (cellKey c) (((s.cell (cellKey c)).stolen i.toNat).modSlot i.toNat fun v =>
      { v with lastClean := mapPut v.lastClean row.val (s.recTick (cellRgn (cellKey c))) })) := by
  rw [exec_arrayScrub, scrubArray_clean hw h]
  rfl

/-- In an idle slot every word with one flip is corrected, counted and recorded (R61, R68). -/
theorem exec_arrayScrub_corrected (hwr : ((s.cell (cellKey c)).slot i.toNat).writing = false) (hb : (s.cell (cellKey c)).slotBusy i.toNat = false)
    {u : Slot} (hu : ((s.cell (cellKey c)).slot i.toNat).upset row.val upset = u) {all : List Flip} (hall : ((List.range 6).map (u.flipsOf row.val)).flatten = all)
    (hne : all ≠ []) (hle : ∀ w < 6, (u.flipsOf row.val w).length ≤ 1) :
    ∃ t, exec (.arrayScrub c i row upset) s = .next t ∧ (t.cell (cellKey c)).slot i.toNat = u.fixRow row.val
      ∧ (t.cell (cellKey c)).cnt = ((s.cell (cellKey c)).count rEccCorr all.length).cnt ∧ (t.cell (cellKey c)).seq = (s.cell (cellKey c)).seq
      ∧ (mapGet [] ((s.cell (cellKey c)).slot i.toNat).errs row.val = [] → t.cellRecs (cellKey c) = s.cellRecs (cellKey c) ++ all.map fun f =>
        (0x0101, eccDetail i.toNat row.val f.bit (mapGet 0 ((s.cell (cellKey c)).slot i.toNat).lastClean row.val) (s.recTick (cellRgn (cellKey c))))) := by
  subst hu
  have hsingles := (Slot.singles_of_le hle).trans hall
  refine ⟨_, exec_arrayScrub .., ?_⟩
  rw [scrubArray_correctable hwr hb hsingles hne hle, State.cell_put, State.cellRecs_put]
  refine ⟨?slot, ?cnt, ?seq, fun hnil => congrArg _ ?recorded⟩
  case slot => rw [Cell.slot_modSlot, Cell.count_slot, Cell.scanned_slot]
  case cnt => rw [Cell.modSlot_cnt, Cell.count_cnt, Cell.count_cnt, Cell.scanned_cnt, Cell.stolen_idle hb]
  case seq => rw [Cell.modSlot_seq, Cell.count_seq, Cell.scanned_seq]
  case recorded =>
    rw [List.map_map]
    exact List.map_congr_left fun f hf => evClass_correction (Slot.singles_real hnil (hsingles ▸ hf)) ..

/-- A word beyond correction stands, and poisons its slot; a cell whose running instruction reads the slot is to stop (R69). -/
theorem exec_arrayScrub_condemned {w : Nat} (hwr : ((s.cell (cellKey c)).slot i.toNat).writing = false) (hw : w < 6)
    {u : Slot} (hu : ((s.cell (cellKey c)).slot i.toNat).upset row.val upset = u) (hlt : 1 < (u.flipsOf row.val w).length) :
    ∃ t, exec (.arrayScrub c i row upset) s = .next t ∧ ((t.cell (cellKey c)).slot i.toNat).poison = true
      ∧ ((t.cell (cellKey c)).slot i.toNat).flipsOf row.val w = u.flipsOf row.val w
      ∧ (t.cell (cellKey c)).cnt = (((s.cell (cellKey c)).stolen i.toNat).count rEccCorr (u.singles row.val).length).cnt
      ∧ ((s.cell (cellKey c)).slotBusy i.toNat = false → (t.cell (cellKey c)).seq = (s.cell (cellKey c)).seq)
      ∧ ((s.cell (cellKey c)).slotBusy i.toNat = true → (s.cell (cellKey c)).seq.running = true → (s.cell (cellKey c)).seq.wait = none →
        (t.cell (cellKey c)).seq.stopPending = true)
      ∧ (mapGet [] ((s.cell (cellKey c)).slot i.toNat).errs row.val = [] → (0x0102, leBytes 1 i.toNat ++ leBytes 1 row.val) ∈ t.cellRecs (cellKey c)) := by
  subst hu
  have h := rowCondemned_scrubArray hwr hw hlt (s.recTick (cellRgn (cellKey c)))
  refine ⟨_, exec_arrayScrub .., ?_⟩
  rw [State.cell_put, State.cellRecs_put]
  exact ⟨h.poison, h.word, h.cnt, h.idle, h.stops, fun hnil => List.mem_append_right _ (List.mem_map_of_mem (f := evClass) (h.recorded hnil))⟩

end

/-! Scratchpads (R218 to R220). -/

theorem flipBitsOf_real (l : List Nat) : flipBitsOf (l.map fun b => (⟨b, false⟩ : Flip)) = l := by
  rw [flipBitsOf, List.map_map]
  exact List.map_id l

theorem flipBitsOf_flipped {fs gs : List Flip} {l : List Nat} (h : gs = fs ++ l.map fun b => ⟨b, false⟩) : flipBitsOf gs = flipBitsOf fs ++ l := by
  rw [h, flipBitsOf, List.map_append]
  exact congrArg _ (flipBitsOf_real l)

theorem injected_real (l : List Nat) : ((l.map fun b => (⟨b, false⟩ : Flip)).filter (·.injected)) = [] := by simp

/-- A piece with more than one flip in some word is not intact. -/
theorem ne_nil_of_flipsMax {l : List Nat} (h : 1 < flipsMax 64 l) : l ≠ [] := by
  rintro rfl
  exact absurd h (by decide)

theorem Cell.flip_nil (c : Cell) (piece : Nat) : c.flip piece [] = c := rfl

@[simp] theorem Cell.flip_mr (c : Cell) (piece : Nat) (l : List Nat) : (c.flip piece l).mr = c.mr := by unfold Cell.flip; split <;> rfl
@[simp] theorem Cell.flip_cnt (c : Cell) (piece : Nat) (l : List Nat) : (c.flip piece l).cnt = c.cnt := by unfold Cell.flip; split <;> rfl
@[simp] theorem Cell.flip_poison (c : Cell) (piece : Nat) (l : List Nat) : (c.flip piece l).poison = c.poison := by unfold Cell.flip; split <;> rfl
@[simp] theorem Cell.flip_seq (c : Cell) (piece : Nat) (l : List Nat) : (c.flip piece l).seq = c.seq := by unfold Cell.flip; split <;> rfl

theorem Cell.flip_mem (c : Cell) (piece : Nat) (l : List Nat) : (c.flip piece l).mem = flipBits c.mem (64 * piece) l := by
  cases l <;> rfl

/-- Flips of the hardware stand after those before them. -/
theorem Cell.errs_flip (c : Cell) (piece : Nat) (l : List Nat) :
    mapGet [] (c.flip piece l).errs piece = mapGet [] c.errs piece ++ l.map fun b => ⟨b, false⟩ := by
  cases l with
  | nil => simp [Cell.flip_nil]
  | cons b t => exact mapGet_mapSet_of_ne _ _ (by simp)

@[simp] theorem Cell.weightClass_flip (c : Cell) (piece : Nat) (l : List Nat) (slot : Nat) : (c.flip piece l).weightClass slot = c.weightClass slot := by
  simp only [Cell.weightClass, Cell.winOf, Cell.flip_mr]

/-- A slot without standing flips passes its check. -/
theorem Fx.checkSlot_intact {x : Fx} {slot : Nat} (h : mapGet [] x.c.errs slot = []) : x.checkSlot slot = x := by
  simp [Fx.checkSlot, h, flipBitsOf]

/-- What the check of a weight-class slot leaves where every word can be corrected (R218, R219). -/
theorem Fx.checkSlot_corrected {x : Fx} {slot : Nat} {l : List Nat} (h : flipBitsOf (mapGet [] x.c.errs slot) = l) (hne : l ≠ []) (hw : x.c.weightClass slot = true)
    (hl : flipsMax 64 l ≤ 1) :
    (x.checkSlot slot).c.mem = flipBits x.c.mem (64 * slot) l ∧ (x.checkSlot slot).c.cnt = bump x.c.cnt rSpmCorr l.length ∧ (x.checkSlot slot).c.poison = x.c.poison := by
  have hnonempty : l.isEmpty = false := by simpa using hne
  simp only [Fx.checkSlot, h, hnonempty, hw, hl, Bool.false_eq_true, if_false, if_true, Fx.map, Cell.sum_mem, Cell.sum_cnt, Cell.sum_poison, Cell.count_mem, Cell.count_cnt,
    Cell.count_poison, Cell.clearErrs, and_self]

/-- What it leaves where a word is beyond correction: the slot poisoned, the status bit, and a stop pending (R163, R218, R219). -/
theorem Fx.checkSlot_uncorrectable {x : Fx} {slot : Nat} (hs : slot < 512) (hw : x.c.weightClass slot = true) (hl : 1 < flipsMax 64 (flipBitsOf (mapGet [] x.c.errs slot))) :
    (x.checkSlot slot).c.isPoison slot = true ∧ (x.checkSlot slot).c.mr.spmUnc = true
      ∧ (x.c.seq.running = true → x.c.seq.wait = none → (x.checkSlot slot).c.seq.stopPending = true) := by
  have hnonempty : (flipBitsOf (mapGet [] x.c.errs slot)).isEmpty = false := by simpa using ne_nil_of_flipsMax hl
  have hcheck : x.checkSlot slot = (x.map fun c => ((c.setPoison slot true).clearErrs slot).spmUnc).fault 0x0111 (leBytes 2 slot)
      (((mapGet [] x.c.errs slot).filter (·.injected)).length != 0) := by
    simp only [Fx.checkSlot, hnonempty, hw, Nat.not_le.2 hl, Bool.false_eq_true, if_false, if_true]
  obtain ⟨q, l, hfault, hq⟩ := Fx.fault_spec (x.map fun c => ((c.setPoison slot true).clearErrs slot).spmUnc) 0x0111 (leBytes 2 slot)
    (((mapGet [] x.c.errs slot).filter (·.injected)).length != 0)
  rw [hcheck, hfault]
  refine ⟨?poison, rfl, fun hr hwait => ?stop⟩
  case poison =>
    have hbit : (setBit x.c.poison slot true).getLsbD slot = true := by simp [setBit, hs]
    exact hbit
  case stop =>
    exact (congrArg Seq.stopPending (hq hwait)).trans (Seq.pendStop_stopPending _ hr)

/-- The scrubber reads weight-class slots only (R220). -/
theorem scrubSpm_unread {c : Cell} {piece : Nat} (h : c.weightClass piece = false ∨ 512 ≤ piece) (upset : List Nat) :
    scrubSpm (Fx.of c) piece upset = Fx.of (c.flip piece upset) := by
  have hskip : ¬ (piece < 512 ∧ (c.flip piece upset).weightClass piece = true) := by
    rw [Cell.weightClass_flip]
    rintro ⟨hlt, hw⟩
    rcases h with h | h
    · simp [h] at hw
    · omega
  simp only [scrubSpm, Fx.map, Fx.of, hskip, if_false]

theorem scrubSpm_read {c : Cell} {piece : Nat} (hw : c.weightClass piece = true) (hp : piece < 512) (upset : List Nat) :
    scrubSpm (Fx.of c) piece upset = (Fx.of (c.flip piece upset)).checkSlot piece := by
  have hread : piece < 512 ∧ (c.flip piece upset).weightClass piece = true := ⟨hp, by rw [Cell.weightClass_flip, hw]⟩
  simp only [scrubSpm, Fx.map, Fx.of, hread, and_self, if_true]

theorem exec_spmScrub (c : CellId) (piece : Fin 896) (upset : List Nat) (s : State) :
    exec (.spmScrub c piece upset) s = .next (s.put (cellKey c) (scrubSpm (Fx.of (s.cell (cellKey c))) piece.val upset)) := rfl

section
variable {s : State} {c : CellId} {piece : Fin 896} {upset : List Nat} (hw : (s.cell (cellKey c)).weightClass piece.val = true) (hp : piece.val < 512)
include hw hp

theorem exec_spmScrub_clean (hfs : mapGet [] (s.cell (cellKey c)).errs piece.val = []) : exec (.spmScrub c piece []) s = .next (s.setCell (cellKey c) (s.cell (cellKey c))) := by
  rw [exec_spmScrub, scrubSpm_read hw hp, Cell.flip_nil, Fx.checkSlot_intact hfs]
  rfl

/-- A piece corrected reads as it did before the flips, and the corrections are counted (R218, R219). -/
theorem exec_spmScrub_corrected (hfs : mapGet [] (s.cell (cellKey c)).errs piece.val = []) (hwf : memWf (s.cell (cellKey c)).mem = true) (hne : upset ≠ [])
    (hle : flipsMax 64 upset ≤ 1) :
    ∃ t, exec (.spmScrub c piece upset) s = .next t ∧ (∀ a, memGet (t.cell (cellKey c)).mem a = memGet (s.cell (cellKey c)).mem a)
      ∧ (t.cell (cellKey c)).cnt = ((s.cell (cellKey c)).count rSpmCorr upset.length).cnt ∧ (t.cell (cellKey c)).poison = (s.cell (cellKey c)).poison := by
  have hflips : flipBitsOf (mapGet [] ((s.cell (cellKey c)).flip piece.val upset).errs piece.val) = upset := by
    rw [Cell.errs_flip, hfs, List.nil_append, flipBitsOf_real]
  obtain ⟨hmem, hcnt, hpoison⟩ := Fx.checkSlot_corrected (x := Fx.of ((s.cell (cellKey c)).flip piece.val upset)) hflips hne ((Cell.weightClass_flip ..).trans hw) hle
  refine ⟨_, exec_spmScrub .., ?_⟩
  rw [scrubSpm_read hw hp, State.cell_put]
  refine ⟨fun a => ?_, ?_, ?_⟩
  · rw [hmem, Fx.of, Cell.flip_mem, memGet_flipBits_twice _ _ hwf]
  · rw [hcnt, Fx.of, Cell.flip_cnt, Cell.count_cnt]
  · rw [hpoison, Fx.of, Cell.flip_poison]

/-- A piece beyond correction is poisoned, and the cell is to stop (R163, R219). -/
theorem exec_spmScrub_poisoned (hlt : 1 < flipsMax 64 (flipBitsOf (mapGet [] (s.cell (cellKey c)).errs piece.val) ++ upset)) :
    ∃ t, exec (.spmScrub c piece upset) s = .next t ∧ (t.cell (cellKey c)).isPoison piece.val = true ∧ (t.cell (cellKey c)).mr.spmUnc = true
      ∧ ((s.cell (cellKey c)).seq.running = true → (s.cell (cellKey c)).seq.wait = none → (t.cell (cellKey c)).seq.stopPending = true) := by
  have hflips := flipBitsOf_flipped (Cell.errs_flip (s.cell (cellKey c)) piece.val upset)
  obtain ⟨hpoison, hunc, hstop⟩ := Fx.checkSlot_uncorrectable (x := Fx.of ((s.cell (cellKey c)).flip piece.val upset)) hp ((Cell.weightClass_flip ..).trans hw)
    (hflips.symm ▸ hlt)
  refine ⟨_, exec_spmScrub .., ?_⟩
  rw [scrubSpm_read hw hp, State.cell_put]
  exact ⟨hpoison, hunc, by simpa only [Fx.of, Cell.flip_seq] using hstop⟩

end

/-! HBM (R218 to R220). -/

theorem Hbm.flip_mem (h : Hbm) (blk : Nat) (l : List Nat) : (h.flip blk l).mem = flipBits h.mem (64 * blk) l := by
  cases l <;> rfl

@[simp] theorem Hbm.flip_poison (h : Hbm) (blk : Nat) (l : List Nat) : (h.flip blk l).poison = h.poison := by unfold Hbm.flip; split <;> rfl

theorem Hbm.errs_flip (h : Hbm) (blk : Nat) (l : List Nat) : mapGet [] (h.flip blk l).errs blk = mapGet [] h.errs blk ++ l.map fun b => ⟨b, false⟩ := by
  cases l with
  | nil => simp [Hbm.flip]
  | cons b t => exact mapGet_mapSet_of_ne _ _ (by simp)

theorem hbmRgn_block {r n : Nat} (hn : n < 0x30000000) : hbmRgn (64 * (r * 2 ^ 30 + n)) = r := by unfold hbmRgn; omega

theorem Hbm.check_clean {h : Hbm} {blk : Nat} (he : mapGet [] h.errs blk = []) : h.check blk = (h, .clean) := by
  simp [Hbm.check, he, flipBitsOf]

theorem Hbm.check_corrected {h : Hbm} {blk : Nat} {l : List Nat} (he : flipBitsOf (mapGet [] h.errs blk) = l) (hne : l ≠ []) (hl : flipsMax 64 l ≤ 1) :
    h.check blk = ({ h with mem := flipBits h.mem (64 * blk) l, errs := mapSet [] h.errs blk [] },
      .corrected (l.length - ((mapGet [] h.errs blk).filter (·.injected)).length) ((mapGet [] h.errs blk).filter (·.injected)).length) := by
  have hnonempty : l.isEmpty = false := by simpa using hne
  simp only [Hbm.check, he, hnonempty, hl, Bool.false_eq_true, if_false, if_true]

theorem Hbm.check_bad {h : Hbm} {blk : Nat} (hl : 1 < flipsMax 64 (flipBitsOf (mapGet [] h.errs blk))) :
    h.check blk = ({ h with errs := mapSet [] h.errs blk [], poison := mapSet 0 h.poison blk 1 }, .bad (((mapGet [] h.errs blk).filter (·.injected)).length != 0)) := by
  have hnonempty : (flipBitsOf (mapGet [] h.errs blk)).isEmpty = false := by simpa using ne_nil_of_flipsMax hl
  simp only [Hbm.check, hnonempty, Nat.not_le.2 hl, Bool.false_eq_true, if_false]

theorem exec_hbmPatrol {n : Nat} (hn : n < 0x30000000) (r : Fin 16) (upset : List Nat) (s : State) :
    exec (.hbmPatrol r n upset) s = .next (({ s with hbm := s.hbm.flip (r.val * 2 ^ 30 + n) upset } : State).checkBlock (r.val * 2 ^ 30 + n)) := by
  have hin : ¬ 0x30000000 ≤ n := by omega
  show Host.Outcome.next (patrolHbm s r.val n upset) = _
  simp only [patrolHbm, hin, if_false]

/-- A block without standing flips passes its check. -/
theorem checkBlock_clean {s : State} {blk : Nat} (he : mapGet [] s.hbm.errs blk = []) : s.checkBlock blk = s := by
  simp only [State.checkBlock, Hbm.check_clean he, State.hbmCounted]

/-- A block in which every word can be corrected: the memory as the code corrects it, the corrections in the region's summary (R218, R219). -/
theorem checkBlock_corrected {s : State} {r n : Nat} (hn : n < 0x30000000) {l : List Nat}
    (he : mapGet [] s.hbm.errs (r * 2 ^ 30 + n) = l.map fun b => ⟨b, false⟩) (hne : l ≠ []) (hl : flipsMax 64 l ≤ 1) :
    (s.checkBlock (r * 2 ^ 30 + n)).hbm.mem = flipBits s.hbm.mem (64 * (r * 2 ^ 30 + n)) l
      ∧ ((s.checkBlock (r * 2 ^ 30 + n)).rgn r).hbmCorr = (s.rgn r).hbmCorr + l.length ∧ (s.checkBlock (r * 2 ^ 30 + n)).hbm.poison = s.hbm.poison := by
  have hreal := injected_real l
  have hcheck := Hbm.check_corrected (h := s.hbm) (by rw [he, flipBitsOf_real]) hne hl
  rw [he, hreal, List.length_nil, Nat.sub_zero] at hcheck
  simp only [State.checkBlock, hcheck, State.hbmCounted, hbmRgn_block hn, State.rgn_modRgn, State.modRgn_hbm, and_true, true_and]
  rfl

/-- A block with a word beyond correction: the data as they stand, the poison bit, and the region's record (R218, R219). -/
theorem checkBlock_bad {s : State} {r n : Nat} (hn : n < 0x30000000) (hl : 1 < flipsMax 64 (flipBitsOf (mapGet [] s.hbm.errs (r * 2 ^ 30 + n)))) :
    (s.checkBlock (r * 2 ^ 30 + n)).hbm.mem = s.hbm.mem ∧ (s.checkBlock (r * 2 ^ 30 + n)).hbm.isPoison (r * 2 ^ 30 + n) = true
      ∧ ((mapGet [] s.hbm.errs (r * 2 ^ 30 + n)).filter (·.injected) = [] →
        ((s.checkBlock (r * 2 ^ 30 + n)).rgn r).transit.map (fun r => (r.cls, r.detail)) = (s.rgn r).transit.map (fun r => (r.cls, r.detail))
          ++ [(0x0114, leBytes 8 (64 * (r * 2 ^ 30 + n)))]) := by
  simp only [State.checkBlock, Hbm.check_bad hl, State.hbmCounted, hbmRgn_block hn]
  refine ⟨rfl, ?poison, fun hreal => ?record⟩
  case poison =>
    have hbit : mapGet 0 (mapSet 0 s.hbm.poison (r * 2 ^ 30 + n) 1) (r * 2 ^ 30 + n) = 1 := mapGet_mapSet_of_ne _ _ (by decide)
    show (mapGet 0 (mapSet 0 s.hbm.poison (r * 2 ^ 30 + n) 1) (r * 2 ^ 30 + n) != 0) = true
    rw [hbit]
    rfl
  case record =>
    simp only [hreal, List.length_nil, bne_self_eq_false, Bool.false_eq_true, if_false, List.nil_append, State.toRegion, State.rgn_modRgn, List.map_append, List.map_cons, List.map_nil]
    rfl

section
variable {s : State} {r : Fin 16} {n : Nat} {upset : List Nat} (hn : n < 0x30000000)
include hn

theorem exec_hbmPatrol_clean (hfs : mapGet [] s.hbm.errs (r.val * 2 ^ 30 + n) = []) : exec (.hbmPatrol r n []) s = .next s :=
  (exec_hbmPatrol hn ..).trans (congrArg _ (checkBlock_clean hfs))

/-- A block corrected reads as it did before the flips, and its region counts the corrections (R218, R219). -/
theorem exec_hbmPatrol_corrected (hfs : mapGet [] s.hbm.errs (r.val * 2 ^ 30 + n) = []) (hwf : memWf s.hbm.mem = true) (hle : flipsMax 64 upset ≤ 1) :
    ∃ t, exec (.hbmPatrol r n upset) s = .next t ∧ (∀ a, memGet t.hbm.mem a = memGet s.hbm.mem a)
      ∧ (t.rgn r.val).hbmCorr = (s.rgn r.val).hbmCorr + upset.length ∧ t.hbm.poison = s.hbm.poison := by
  by_cases hne : upset = []
  · subst hne
    exact ⟨s, exec_hbmPatrol_clean hn hfs, fun _ => rfl, rfl, rfl⟩
  · have hflips : mapGet [] (s.hbm.flip (r.val * 2 ^ 30 + n) upset).errs (r.val * 2 ^ 30 + n) = upset.map fun b => ⟨b, false⟩ := by
      rw [Hbm.errs_flip, hfs, List.nil_append]
    obtain ⟨hmem, hcorr, hpoison⟩ := checkBlock_corrected (s := { s with hbm := s.hbm.flip (r.val * 2 ^ 30 + n) upset }) hn hflips hne hle
    refine ⟨_, exec_hbmPatrol hn .., fun a => ?_, hcorr, hpoison.trans (Hbm.flip_poison ..)⟩
    rw [hmem, Hbm.flip_mem, memGet_flipBits_twice _ _ hwf]

/-- A block beyond correction stands as it is, poisoned, and its region records it (R219). -/
theorem exec_hbmPatrol_poisoned (hlt : 1 < flipsMax 64 (flipBitsOf (mapGet [] s.hbm.errs (r.val * 2 ^ 30 + n)) ++ upset)) :
    ∃ t, exec (.hbmPatrol r n upset) s = .next t ∧ t.hbm.mem = (s.hbm.flip (r.val * 2 ^ 30 + n) upset).mem ∧ t.hbm.isPoison (r.val * 2 ^ 30 + n) = true
      ∧ (mapGet [] s.hbm.errs (r.val * 2 ^ 30 + n) = [] → (t.rgn r.val).transit.map (fun r => (r.cls, r.detail)) =
        (s.rgn r.val).transit.map (fun r => (r.cls, r.detail)) ++ [(0x0114, leBytes 8 (64 * (r.val * 2 ^ 30 + n)))]) := by
  have herrs := Hbm.errs_flip s.hbm (r.val * 2 ^ 30 + n) upset
  obtain ⟨hmem, hpoison, hrecord⟩ := checkBlock_bad (s := { s with hbm := s.hbm.flip (r.val * 2 ^ 30 + n) upset }) hn ((flipBitsOf_flipped herrs).symm ▸ hlt)
  refine ⟨_, exec_hbmPatrol hn .., hmem, hpoison, fun hfs => hrecord ?_⟩
  rw [herrs, hfs, List.nil_append, injected_real]

end

/-! Instruction stores (R419). -/

/-- The check of a line where no injected flip stands in the store: it turns on the words that hold more than one flip of the hardware. -/
theorem checkLine_real {s : State} {bk line : Nat} {upset : List Nat} (hg : (s.blk bk).badLines.contains line = false) (he : (s.blk bk).istoreErrs = []) (hne : upset ≠ []) :
    checkLine s bk line upset =
      if (List.range 8).any fun i => Nat.blt 1 (upset.filter fun u => u / 64 == i).length then
        (s.modBlk bk fun b => { b with badLines := b.badLines ++ [line], istoreErrs := [] }).toBlock bk
          ((s.modBlk bk fun b => { b with badLines := b.badLines ++ [line], istoreErrs := [] }).unitRec 1 0x0116 (some (bk / 150)) (some (bk % 150)) (leBytes 2 line))
      else s.modBlk bk fun b => { b with istoreErrs := [], icorr := b.icorr + upset.length } := by
  have hcount : ¬ upset.length = 0 := by simpa using hne
  have hsum : (((List.range 8).map fun i => (i, ([] : List Nat))).map fun p => p.2.length).sum = 0 := by decide
  have hstore : ∀ m : Memory, ((List.range 8).map fun i => (i, ([] : List Nat))).foldl (fun m p => flipBits m (64 * line + 8 * p.1) p.2) m = m := fun _ => rfl
  simp only [checkLine, hg, he, mapGet, hsum, hstore, hcount, List.length_nil, Nat.zero_add, State.modBlk, mapDrop, List.filter_nil, Bool.false_eq_true, if_false, if_true,
    List.nil_append, Nat.add_zero]

/-- A line with one flip: the store is unchanged and the correction is counted. -/
theorem checkLine_one {s : State} {bk line : Nat} (hg : (s.blk bk).badLines.contains line = false) (he : (s.blk bk).istoreErrs = []) (u : Nat) :
    checkLine s bk line [u] = s.modBlk bk fun b => { b with istoreErrs := [], icorr := b.icorr + 1 } := by
  have hfew : ((List.range 8).any fun i => Nat.blt 1 ([u].filter fun u => u / 64 == i).length) = false := by
    refine List.any_eq_false.2 fun i _ => ?_
    have hle : ([u].filter fun u => u / 64 == i).length ≤ 1 := List.length_filter_le _ _
    rw [Nat.blt_eq]
    omega
  rw [checkLine_real hg he (by simp), hfew]
  rfl

/-- A line with two flips in one word is marked bad and recorded. -/
theorem checkLine_two {s : State} {bk line : Nat} (hg : (s.blk bk).badLines.contains line = false) (he : (s.blk bk).istoreErrs = []) {u v : Nat} (hu : u < 512)
    (hv : u / 64 = v / 64) :
    checkLine s bk line [u, v] =
      (s.modBlk bk fun b => { b with badLines := b.badLines ++ [line], istoreErrs := [] }).toBlock bk
        ((s.modBlk bk fun b => { b with badLines := b.badLines ++ [line], istoreErrs := [] }).unitRec 1 0x0116 (some (bk / 150)) (some (bk % 150)) (leBytes 2 line)) := by
  have hbad : ((List.range 8).any fun i => Nat.blt 1 ([u, v].filter fun u => u / 64 == i).length) = true := by
    refine List.any_eq_true.2 ⟨u / 64, List.mem_range.2 (by omega), ?_⟩
    simp [hv]
  rw [checkLine_real hg he (by simp), if_pos hbad]

/-! The statement. -/

/-- Settles O25: a scrub finds no flip, flips that stand alone in their words, or a word beyond correction, and each store has its answer to each. -/
theorem scrubsCorrectOrMark : Obligations.ScrubsCorrectOrMark := by
  unfold Obligations.ScrubsCorrectOrMark
  intro s c upset k b cellRecs
  refine ⟨?rows, ?pieces, ?blocks, ?lines⟩
  case rows =>
    intro i row sl now u all ones clean hwr
    refine ⟨?clean, ?corrected, ?condemned, ?rewrites⟩
    case clean => rintro h rfl; exact exec_arrayScrub_clean hwr h
    case corrected => exact fun hb hne hle => exec_arrayScrub_corrected hwr hb rfl rfl hne hle
    case condemned => exact fun w hw hlt => exec_arrayScrub_condemned hwr hw rfl hlt
    case rewrites => exact fun hb => congrArg (fun c => Host.Outcome.next (s.setCell k c)) (scrubRewrite_idle hb hwr)
  case pieces =>
    intro piece fs
    refine ⟨fun h => ?unread, fun hw hp => ⟨?clean, ?corrected, ?poisoned⟩⟩
    case unread => exact congrArg (fun x => Host.Outcome.next (s.put k x)) (scrubSpm_unread h upset)
    case clean => rintro h rfl; exact exec_spmScrub_clean hw hp h
    case corrected => exact fun hfs hwf hne hle => exec_spmScrub_corrected hw hp hfs hwf hne hle
    case poisoned => exact exec_spmScrub_poisoned hw hp
  case blocks =>
    intro r n hn blk fs
    refine ⟨?clean, fun hfs hwf hle => ?corrected, fun hlt => ?poisoned⟩
    case clean => rintro h rfl; exact exec_hbmPatrol_clean hn h
    case corrected => exact exec_hbmPatrol_corrected hn hfs hwf hle
    case poisoned => exact exec_hbmPatrol_poisoned hn hlt
  case lines =>
    intro r n line bk hg he
    refine ⟨fun u => ⟨_, congrArg Host.Outcome.next (checkLine_one hg he u.val), ?_⟩, fun u v _ hv => ⟨_, congrArg Host.Outcome.next (checkLine_two hg he u.isLt hv), ?_⟩⟩
    · rw [State.blk_modBlk]
      exact ⟨rfl, rfl, rfl⟩
    · simp only [State.toBlock, State.blk_modBlk, List.map_append, List.map_cons, List.map_nil, true_and]
      rfl

end Sys2Proof.Machine
end

section
/-! PROOF. Operands of a cell's units: frames read without a tag, and bytes that go piece by piece into slots which nothing blocks (spec/09_scratchpad_hbm.md R199, R205, R219). -/
namespace Sys2Proof.Machine

/-! Canonical memories. -/

/-- Maps in canonical form that give the same values are the same data. -/
theorem mapWfFrom_ext {α : Type} [DecidableEq α] {d : α} {m n : SMap α} {lo lo' : Nat} (hm : mapWfFrom d lo m = true) (hn : mapWfFrom d lo' n = true)
    (h : ∀ y, mapGet d m y = mapGet d n y) : m = n := by
  induction m generalizing n lo lo' with
  | nil =>
    cases n with
    | nil => rfl
    | cons e n =>
      obtain ⟨j, w⟩ := e
      simp only [mapWfFrom, Bool.and_eq_true, decide_eq_true_eq] at hn
      exact absurd (by simpa only [mapGet, if_true] using (h j).symm) hn.1.2
  | cons e m ih =>
    obtain ⟨k, v⟩ := e
    simp only [mapWfFrom, Bool.and_eq_true, decide_eq_true_eq] at hm
    obtain ⟨⟨-, hv⟩, hm⟩ := hm
    cases n with
    | nil => exact absurd (by simpa only [mapGet, if_true] using h k) hv
    | cons e n =>
      obtain ⟨j, w⟩ := e
      simp only [mapWfFrom, Bool.and_eq_true, decide_eq_true_eq] at hn
      obtain ⟨⟨-, hw⟩, hn⟩ := hn
      have hkj : k = j := by
        rcases Nat.lt_trichotomy k j with hlt | heq | hgt
        · exact absurd (by simpa only [mapGet, if_true, if_neg (Nat.ne_of_lt hlt), if_pos hlt] using h k) hv
        · exact heq
        · exact absurd (by simpa only [mapGet, if_true, if_neg (Nat.ne_of_lt hgt), if_pos hgt] using (h j).symm) hw
      subst hkj
      have hvw : v = w := by simpa only [mapGet, if_true] using h k
      have htail : ∀ y, mapGet d m y = mapGet d n y := by
        intro y
        rcases Nat.lt_or_ge k y with hlt | hge
        · simpa only [mapGet, if_neg (Nat.ne_of_gt hlt), if_neg (Nat.not_lt.2 (Nat.le_of_lt hlt))] using h y
        · rw [mapGet_below hm (Nat.lt_succ_of_le hge), mapGet_below hn (Nat.lt_succ_of_le hge)]
      rw [hvw, ih hm hn htail]

/-- Canonical memories with the same bytes are the same data (R199). -/
theorem memWf_ext {m n : Memory} (hm : memWf m = true) (hn : memWf n = true) (h : ∀ a, memGet m a = memGet n a) : m = n :=
  mapWfFrom_ext hm hn h

theorem memSpan_length (m : Memory) (a n : Nat) : (memSpan m a n).length = n := by
  induction n generalizing m a with
  | zero => cases m <;> rfl
  | succ n ih =>
    cases m with
    | nil => rw [memSpan, List.length_cons, ih]
    | cons e m =>
      rw [memSpan]
      split <;> rw [List.length_cons, ih]

@[simp] theorem memRead_length (m : Memory) (a n : Nat) : (memRead m a n).length = n := memSpan_length _ a n

/-- A byte of a range read from a canonical memory. -/
theorem memRead_getD {m : Memory} (h : memWf m = true) (a : Nat) {n i : Nat} (hi : i < n) : (memRead m a n).getD i 0 = memGet m (a + i) := by
  simp [memRead_eq a n h, hi]

/-! Frames. -/

theorem le_frameBase (f : Nat) : 0x8000 ≤ frameBase f := Nat.le_add_right ..

theorem le_of_mem_slotsOf {a n i : Nat} (h : i ∈ slotsOf a n) : a / 64 ≤ i := by
  unfold slotsOf at h
  split at h
  · cases h
  · exact (List.mem_range'_1.1 h).1

/-- A read of frame pieces without standing flips changes nothing (R219). -/
theorem Fx.foldl_readSlot_frame {x : Fx} (he : x.c.errs = []) {l : List Nat} (hl : ∀ i ∈ l, 512 ≤ i) : l.foldl Fx.readSlot x = x := by
  induction l with
  | nil => rfl
  | cons i l ih =>
    have hpiece : ¬ i < 512 := Nat.not_lt.2 (hl i (by simp))
    have hread : x.readSlot i = x := by simp [Fx.readSlot, hpiece, Fx.checkFrame, he, mapGet, flipBitsOf, parityBad]
    rw [List.foldl_cons, hread, ih fun j hj => hl j (by simp [hj])]

/-- A range of the frames as an instruction reads it: no slot of the scratchpad is in it (R219). -/
theorem Fx.readRange_frame {x : Fx} (he : x.c.errs = []) {a : Nat} (ha : 0x8000 ≤ a) (n : Nat) : x.readRange a n = (x, memRead x.c.mem a n, false) := by
  have hpieces : ∀ i ∈ slotsOf a n, 512 ≤ i := fun i hi => by have := le_of_mem_slotsOf hi; omega
  have hbad : ((slotsOf a n).any fun i => Nat.blt i 512 && x.c.isPoison i) = false := by
    refine List.any_eq_false.2 fun i hi => ?_
    have hout : Nat.blt i 512 = false := by
      have := hpieces i hi
      rw [← Bool.not_eq_true, Nat.blt_eq]
      omega
    rw [hout, Bool.false_and]
    exact Bool.false_ne_true
  simp only [Fx.readRange, Fx.foldl_readSlot_frame he hpieces, hbad]

/-! Bytes stored. -/

theorem foldl_of_fixed {α β : Type} {g : α → β → α} {a : α} (h : ∀ b, g a b = a) (l : List β) : l.foldl g a = a := by
  induction l with
  | nil => rfl
  | cons b l ih => rw [List.foldl_cons, h, ih]

/-- Bytes stored where no flips stand. -/
theorem Cell.put_intact {c : Cell} (he : c.errs = []) (a : Nat) (l : List Byte) : c.put a l = { c with mem := memWrite c.mem a l } := by
  have herrs : (c.put a l).errs = c.errs := by
    simp only [Cell.put, he]
    exact foldl_of_fixed (fun _ => rfl) _
  calc c.put a l = { c with mem := memWrite c.mem a l, errs := (c.put a l).errs } := rfl
    _ = { c with mem := memWrite c.mem a l } := by rw [herrs]

/-- A cell that differs in its bytes and in what goes with them. -/
def Cell.SameButStores (c d : Cell) : Prop := d = { c with mem := d.mem, full := d.full, poison := d.poison, seqTag := d.seqTag, errs := d.errs }

theorem Cell.SameButStores.trans {c d e : Cell} (h : c.SameButStores d) (h' : d.SameButStores e) : c.SameButStores e := by
  unfold SameButStores at *
  rw [h', h]

theorem Cell.SameButStores.seq {c d : Cell} (h : c.SameButStores d) : d.seq = c.seq := by rw [h]
theorem Cell.SameButStores.frames {c d : Cell} (h : c.SameButStores d) : d.frames = c.frames := by rw [h]
theorem Cell.SameButStores.mr {c d : Cell} (h : c.SameButStores d) : d.mr = c.mr := by rw [h]

theorem Cell.tagMode_congr {c d : Cell} (h : d.mr = c.mr) (i : Nat) : d.tagMode i = c.tagMode i := by
  rw [Cell.tagMode, Cell.winOf, h]; rfl

theorem getLsbD_setBit_other {n i j : Nat} (v : BitVec n) (b : Bool) (h : j ≠ i) : (setBit v i b).getLsbD j = v.getLsbD j := by
  have hbit : (1#n <<< i).getLsbD j = false := by
    rcases Nat.lt_or_gt_of_ne h with hlt | hgt
    · simp [hlt]
    · simp [Nat.sub_ne_zero_of_lt hgt]
  cases b
  · have hclear : (setBit v i false).getLsbD j = (v.getLsbD j && (decide (j < n) && !(1#n <<< i).getLsbD j)) :=
      (BitVec.getLsbD_and ..).trans (congrArg _ BitVec.getLsbD_not)
    rw [hclear, hbit]
    cases hv : v.getLsbD j
    · rfl
    · simp [BitVec.lt_of_getLsbD hv]
  · simp [setBit, hbit]

section writePiece
variable (c : Cell) (w : Piece)

/-- A piece stores its bytes, and leaves the full bit of every other slot as it was (R205). -/
theorem Cell.writePiece_eq : ∃ full poison seqTag, c.writePiece w = { c.put w.addr w.data with full := full, poison := poison, seqTag := seqTag }
    ∧ ∀ i, i ≠ w.addr / 64 → full.getLsbD i = c.full.getLsbD i := by
  unfold Cell.writePiece
  dsimp only
  repeat' split
  all_goals exact ⟨_, _, _, rfl, fun i h => by simp [getLsbD_setBit_other _ _ h, Cell.put, Cell.setPoison]⟩

theorem Cell.sameButStores_writePiece : c.SameButStores (c.writePiece w) := by
  obtain ⟨full, poison, seqTag, hw, -⟩ := c.writePiece_eq w
  rw [hw]
  rfl

theorem Cell.mem_writePiece : (c.writePiece w).mem = memWrite c.mem w.addr w.data := by
  obtain ⟨full, poison, seqTag, hw, -⟩ := c.writePiece_eq w
  rw [hw]
  rfl

theorem Cell.isFull_writePiece {i : Nat} (h : i ≠ w.addr / 64) : (c.writePiece w).isFull i = c.isFull i := by
  obtain ⟨full, poison, seqTag, hw, hfull⟩ := c.writePiece_eq w
  rw [hw]
  exact hfull i h

theorem Cell.blocksWrite_writePiece {i : Nat} (h : i ≠ w.addr / 64) : (c.writePiece w).blocksWrite i = c.blocksWrite i := by
  rw [Cell.blocksWrite, Cell.tagged, Cell.tagMode_congr (c.sameButStores_writePiece w).mr, Cell.isFull_writePiece c w h]
  rfl

end writePiece

/-- Pieces stored one after another. -/
def storePieces (m : Memory) (ps : List Piece) : Memory := ps.foldl (fun m w => memWrite m w.addr w.data) m

/-- Pieces of different slots, none of which is full, are all stored (R205). -/
theorem Cell.writePieces_free {c : Cell} {ps : List Piece} (hfree : ∀ w ∈ ps, c.blocksWrite (w.addr / 64) = false)
    (hslots : ps.Pairwise fun v w => w.addr / 64 ≠ v.addr / 64) :
    ∃ d, c.writePieces ps = (d, [], none) ∧ c.SameButStores d ∧ d.mem = storePieces c.mem ps := by
  induction ps generalizing c with
  | nil => exact ⟨c, rfl, rfl, rfl⟩
  | cons w ps ih =>
    obtain ⟨hw, hps⟩ := List.pairwise_cons.1 hslots
    have hfree' : ∀ v ∈ ps, (c.writePiece w).blocksWrite (v.addr / 64) = false := fun v hv => by
      rw [Cell.blocksWrite_writePiece c w (hw v hv)]
      exact hfree v (by simp [hv])
    obtain ⟨d, hd, hsame, hmem⟩ := ih hfree' hps
    refine ⟨d, ?_, (c.sameButStores_writePiece w).trans hsame, ?_⟩
    · rw [Cell.writePieces, hfree w (by simp), if_neg Bool.false_ne_true, hd]
    · rw [hmem, Cell.mem_writePiece]; rfl

/-! Bytes cut at slot boundaries. -/

theorem slotsOf_within {a n : Nat} (hn : n ≠ 0) (h : n ≤ 64 - a % 64) : slotsOf a n = [a / 64] := by
  have hone : (a + n - 1) / 64 + 1 - a / 64 = 1 := by omega
  rw [slotsOf, if_neg hn, hone]
  rfl

theorem slotsOf_beyond {a n : Nat} (h : 64 - a % 64 < n) : slotsOf a n = a / 64 :: slotsOf (a + (64 - a % 64)) (n - (64 - a % 64)) := by
  have hnext : (a + (64 - a % 64)) / 64 = a / 64 + 1 := by omega
  have hlast : a + (64 - a % 64) + (n - (64 - a % 64)) = a + n := by omega
  have hcount : (a + n - 1) / 64 + 1 - a / 64 = ((a + n - 1) / 64 + 1 - (a / 64 + 1)) + 1 := by omega
  rw [slotsOf, slotsOf, if_neg (by omega), if_neg (by omega), hnext, hlast, hcount, List.range'_succ]

section pieces
variable (tag : Option Byte) (poison : Bool)

theorem piecesF_slots {fuel : Nat} (a : Nat) (l : List Byte) (hf : l.length < fuel) :
    (piecesF tag poison fuel a l).map (fun w => w.addr / 64) = slotsOf a l.length := by
  induction fuel generalizing a l with
  | zero => omega
  | succ fuel ih =>
    cases l with
    | nil => rfl
    | cons b l =>
      obtain ⟨k, hk⟩ : ∃ k, k = 64 - a % 64 := ⟨_, rfl⟩
      have hcut : piecesF tag poison (fuel + 1) a (b :: l) =
          ⟨a, (b :: l).take k, tag, poison, true⟩ :: piecesF tag poison fuel (a + k) ((b :: l).drop k) := by rw [hk]; rfl
      have hrest : ((b :: l).drop k).length < fuel := by rw [List.length_drop]; simp only [List.length_cons] at hf ⊢; omega
      rw [hcut, List.map_cons, ih _ _ hrest, List.length_drop, hk]
      rcases Nat.lt_or_ge (64 - a % 64) (b :: l).length with hlt | hge
      · rw [slotsOf_beyond hlt]
      · rw [slotsOf_within (by simp) hge, Nat.sub_eq_zero_of_le hge, slotsOf, if_pos rfl]

/-- The slots of pieces are those of the range, each once. -/
theorem pieces_slots (a : Nat) (l : List Byte) : (pieces tag poison a l).map (fun w => w.addr / 64) = slotsOf a l.length :=
  piecesF_slots tag poison a l (Nat.lt_succ_self _)

theorem pieces_pairwise (a : Nat) (l : List Byte) : (pieces tag poison a l).Pairwise fun v w => w.addr / 64 ≠ v.addr / 64 := by
  have hnodup : (slotsOf a l.length).Nodup := by
    unfold slotsOf
    split
    · exact List.nodup_nil
    · exact List.nodup_range'
  rw [← pieces_slots tag poison, List.Nodup, List.pairwise_map] at hnodup
  exact hnodup.imp Ne.symm

/-- Bytes stored in two parts. -/
theorem memWrite_append {m : Memory} (h : memWf m = true) (a : Nat) (l r : List Byte) : memWrite (memWrite m a l) (a + l.length) r = memWrite m a (l ++ r) := by
  refine memWf_ext (memWrite_wf _ _ (memWrite_wf _ _ h)) (memWrite_wf _ _ h) fun y => ?_
  rw [memGet_memWrite _ _ _ (memWrite_wf _ _ h), memGet_memWrite _ _ _ h, memGet_memWrite _ _ _ h, List.length_append]
  rcases Nat.lt_or_ge y (a + l.length) with hl | hr
  · by_cases ha : a ≤ y
    · rw [if_neg (by omega), if_pos ⟨ha, hl⟩, if_pos (by omega), List.getD_eq_getElem?_getD, List.getD_eq_getElem?_getD, List.getElem?_append_left (by omega)]
    · rw [if_neg (by omega), if_neg (by omega), if_neg (by omega)]
  · by_cases hend : y < a + l.length + r.length
    · rw [if_pos ⟨hr, hend⟩, if_pos (by omega), List.getD_eq_getElem?_getD, List.getD_eq_getElem?_getD,
        List.getElem?_append_right (by omega), Nat.sub_add_eq]
    · rw [if_neg (by omega), if_neg (by omega), if_neg (by omega)]

theorem memWrite_nil {m : Memory} (h : memWf m = true) (a : Nat) : memWrite m a [] = m := by
  refine memWf_ext (memWrite_wf _ _ h) h fun y => ?_
  rw [memGet_memWrite _ _ _ h, if_neg (by simp)]

theorem storePieces_piecesF {fuel : Nat} {m : Memory} (h : memWf m = true) (a : Nat) (l : List Byte) (hf : l.length < fuel) :
    storePieces m (piecesF tag poison fuel a l) = memWrite m a l := by
  induction fuel generalizing m a l with
  | zero => omega
  | succ fuel ih =>
    cases l with
    | nil => exact (memWrite_nil h a).symm
    | cons b l =>
      obtain ⟨k, hk⟩ : ∃ k, k = 64 - a % 64 := ⟨_, rfl⟩
      have hcut : storePieces m (piecesF tag poison (fuel + 1) a (b :: l)) =
          storePieces (memWrite m a ((b :: l).take k)) (piecesF tag poison fuel (a + k) ((b :: l).drop k)) := by rw [hk]; rfl
      have hrest : ((b :: l).drop k).length < fuel := by rw [List.length_drop]; simp only [List.length_cons] at hf ⊢; omega
      rw [hcut, ih (memWrite_wf _ _ h) _ _ hrest]
      rcases Nat.lt_or_ge k (b :: l).length with hlt | hge
      · have hlen : a + k = a + ((b :: l).take k).length := by rw [List.length_take]; omega
        rw [hlen, memWrite_append h, List.take_append_drop]
      · rw [List.take_of_length_le hge, List.drop_of_length_le hge, memWrite_nil (memWrite_wf _ _ h)]

/-- In a canonical memory pieces store the bytes that they are cut from. -/
theorem storePieces_pieces {m : Memory} (h : memWf m = true) (a : Nat) (l : List Byte) : storePieces m (pieces tag poison a l) = memWrite m a l :=
  storePieces_piecesF tag poison h a l (Nat.lt_succ_self _)

/-- Bytes go whole into slots that nothing blocks (R205). -/
theorem writeOn_pieces_free {x : Fx} {r : Run} {a : Nat} {l : List Byte} (hr : r.wr = pieces tag poison a l)
    (hfree : ∀ i ∈ slotsOf a l.length, x.c.blocksWrite i = false) :
    ∃ d, writeOn x r = (⟨d, x.ev⟩, { r with wr := [] }.finish) ∧ x.c.SameButStores d ∧ d.mem = storePieces x.c.mem r.wr := by
  have hpieces : ∀ w ∈ r.wr, x.c.blocksWrite (w.addr / 64) = false := fun w hw =>
    hfree _ (pieces_slots tag poison a l ▸ List.mem_map_of_mem (hr ▸ hw))
  obtain ⟨d, hd, hsame, hmem⟩ := Cell.writePieces_free hpieces (hr ▸ pieces_pairwise tag poison a l)
  exact ⟨d, by simp only [writeOn, hd], hsame, hmem⟩

end pieces

end Sys2Proof.Machine
end

section
/-! PROOF. The accumulator path: frames cleared, copied, renamed, closed and drained (spec/04_accumulation_order.md R85, R88, R91; spec/08_instruction_reference.md R184). -/
namespace Sys2Proof.Machine

/-! Issue. -/

/-- AMOV between two frames without an open tree copies the bytes and the record of its source (R184). -/
theorem issueAcc_amov {lead : Bool} {x : Fx} {q : QI} {src dst : BitVec 2} (hop : q.op = .amov src dst) (hl : src = 2 ∨ dst = 2 → lead = true) (hne : src ≠ dst)
    (hs : (x.c.frame (q.map.resolve src)).treeOpen = false) (hd : (x.c.frame (q.map.resolve dst)).treeOpen = false) (he : x.c.errs = []) :
    issueAcc lead x q =
      (x.map fun c => { c with mem := memWrite c.mem (frameBase (q.map.resolve dst)) (memRead c.mem (frameBase (q.map.resolve src)) 0x2000),
                               frames := setAt c.frames (q.map.resolve dst) (c.frame (q.map.resolve src)) }, (Run.start q).finish) := by
  have hfit : ((src == 2 || dst == 2) && !lead) = false := by simpa using hl
  have hread := Fx.readRange_frame he (le_frameBase (q.map.resolve src)) 0x2000
  simp only [issueAcc, accMisuseOf, hop, hfit, hs, hd, hread, beq_eq_false_iff_ne.2 hne, Bool.or_self, Bool.false_eq_true, if_false, Fx.map, Cell.put_intact he]

/-- ADRAIN of columns that the frame has, to a range that it may write, reads them and goes on to its stores (R85, R184). -/
theorem issueAcc_adrain {lead : Bool} {x : Fx} {q : QI} {f : AdrainF} (hop : q.op = .adrain f) (hl : f.tile = 2 → lead = true)
    (ht : (x.c.frame (q.map.resolve f.tile)).treeOpen = false)
    (hcols : f.first.toNat + f.countM1.toNat < seqCols (shapeO (x.c.frame (q.map.resolve f.tile)).shape)) (he : x.c.errs = [])
    (hin : localOk lead (q.addr f.rd) (drainRange x.c q f).2 = true) (hbank : x.c.bankDown (q.addr f.rd) (drainRange x.c q f).2 = false) :
    issueAcc lead x q =
      writeOn x { Run.start q with begun := true, wr := pieces none false (q.addr f.rd) (memRead x.c.mem (drainRange x.c q f).1 (drainRange x.c q f).2) } := by
  have hfit : (f.tile == 2 && !lead) = false := by simpa using hl
  have hwithin : Nat.ble (seqCols (shapeO (x.c.frame (q.map.resolve f.tile)).shape)) (f.first.toNat + f.countM1.toNat) = false := by
    rw [← Bool.not_eq_true, Nat.ble_eq]
    omega
  have hread := Fx.readRange_frame he (a := (drainRange x.c q f).1) (Nat.le_trans (le_frameBase _) (Nat.le_add_right ..)) (drainRange x.c q f).2
  simp only [issueAcc, accMisuseOf, hop, hfit, ht, hwithin, hin, hbank, hread, Bool.not_true, Bool.or_self, Bool.false_eq_true, if_false]

/-- APROMO goes over the tree columns of tile A (R91). -/
theorem issueAcc_apromo {lead : Bool} {x : Fx} {q : QI} {o : Nat} (hop : q.op = .apromo) (ho : shapeO (x.c.frame q.map.a.toNat).shape = o) :
    issueAcc lead x q = ((List.range (treeCols o)).foldl (fun y v => promoCol y q.map.a.toNat q.map.b.toNat o v) x, (Run.start q).finish) := by
  simp only [issueAcc, accMisuseOf, hop, ho, Bool.false_eq_true, if_false]

/-- AROT in a lead cell whose tile A holds no open tree renames the frames (R88). -/
theorem arot_lead {x : Fx} (ht : (x.c.frame x.c.map.a.toNat).treeOpen = false) (word : DWord) (form : BitVec 1) :
    arot true x word form =
      x.map fun c => { c with map := if form = 0 then ⟨x.c.map.w, x.c.map.a, x.c.map.b⟩ else ⟨x.c.map.w, x.c.map.b, x.c.map.a⟩ } := by
  simp only [arot, ht, Bool.not_true, Bool.or_self, Bool.false_eq_true, if_false]

/-- AROT has its effect at its dispatch (R88). -/
theorem dispatch_arot {s : State} {k : Nat} {p : Pred} {form : BitVec 1} (h : Ready s k p (.arot form)) (hl : isLead (cellNo k) = true)
    (ht : ((s.cell k).frame (s.cell k).map.a.toNat).treeOpen = false) :
    dispatch s k p (.arot form) = s.setCell k { s.sent k with
      map := if form = 0 then ⟨(s.cell k).map.w, (s.cell k).map.a, (s.cell k).map.b⟩ else ⟨(s.cell k).map.w, (s.cell k).map.b, (s.cell k).map.a⟩ } := by
  have hsound : Sound s k p (.arot form) [] := ⟨h, rfl, rfl⟩
  have hrename := arot_lead (x := Fx.of (s.cell k)) ht (s.taken k p (.arot form) []).word form
  have hop : (s.taken k p (.arot form) []).op = .arot form := rfl
  rw [dispatch_control hsound rfl rfl]
  simp only [controlStep, hop, fx_modCell, id, hl, hrename, Fx.number_eq]
  rfl

/-! The statements. -/

/-- Settles O12: each instruction finds the accumulator path free, and is done as it issues. -/
theorem accumulatorInstructions : Obligations.AccumulatorInstructions := by
  unfold Obligations.AccumulatorInstructions
  intro s c p k lead b does hidle
  refine ⟨fun t int h hl => ?aclr, fun src dst h hl hne hs hd he => ?amov, fun form h hl ht => ?arot, fun h => ?apromo⟩
  case aclr =>
    refine congrArg Host.Outcome.next ((dispatch_acc h hidle).trans ?_)
    rw [issueAcc_aclr rfl hl]
    rfl
  case amov =>
    refine congrArg Host.Outcome.next ((dispatch_acc h hidle).trans ?_)
    rw [issueAcc_amov rfl hl hne hs hd he]
    rfl
  case arot => exact congrArg Host.Outcome.next (dispatch_arot h hl ht)
  case apromo =>
    refine congrArg Host.Outcome.next ((dispatch_acc h hidle).trans ?_)
    rw [issueAcc_apromo rfl rfl]
    rfl

/-- What an ADRAIN at dispatch reads and writes. -/
abbrev State.drains (s : State) (k : Nat) (p : Pred) (f : AdrainF) : Nat × Nat := drainRange (s.cell k) (s.taken k p (.adrain f) []) f

/-- An ADRAIN that nothing refuses or blocks stores the columns as they stood, whatever its destination lies over (R85, R184, R205). -/
theorem dispatch_adrain {s : State} {k : Nat} {p : Pred} {f : AdrainF} {d : Nat} (hd : d = (s.taken k p (.adrain f) []).addr f.rd)
    (hidle : (s.cell k).units.acc = none) (h : Open s k p (.adrain f) [] .acc)
    (hl : f.tile = 2 → isLead (cellNo k) = true) (ht : ((s.cell k).frame ((s.cell k).map.resolve f.tile)).treeOpen = false)
    (hcols : f.first.toNat + f.countM1.toNat < seqCols (shapeO ((s.cell k).frame ((s.cell k).map.resolve f.tile)).shape)) (he : (s.cell k).errs = [])
    (hin : localOk (isLead (cellNo k)) d (s.drains k p f).2 = true) (hbank : (s.cell k).bankDown d (s.drains k p f).2 = false)
    (hfree : ∀ i ∈ slotsOf d (s.drains k p f).2, (s.cell k).blocksWrite i = false) :
    ∃ e, dispatch s k p (.adrain f) = s.setCell k e
      ∧ e.mem = storePieces (s.cell k).mem (pieces none false d (memRead (s.cell k).mem (s.drains k p f).1 (s.drains k p f).2))
      ∧ e.seq = (s.cell k).seq.onward ∧ e.frames = (s.cell k).frames := by
  subst hd
  obtain ⟨e, hstore, hsame, hmem⟩ := writeOn_pieces_free none false (x := Fx.of (s.sent k))
    (r := { Run.start (s.taken k p (.adrain f) []) with
      begun := true, wr := pieces none false ((s.taken k p (.adrain f) []).addr f.rd) (memRead (s.cell k).mem (s.drains k p f).1 (s.drains k p f).2) })
    rfl (by rw [memRead_length]; exact hfree)
  have hissue := (issueAcc_adrain (x := Fx.of (s.sent k)) (q := s.taken k p (.adrain f) []) rfl hl ht hcols he hin hbank).trans hstore
  have hdispatch := dispatch_acc h hidle
  rw [hissue] at hdispatch
  exact ⟨_, hdispatch, hmem, hsame.seq, hsame.frames⟩

/-- Settles O13: ACLR zeroes the bytes of its frame, ADRAIN stores the bytes that it has read; a canonical memory gives what was stored and everything else as before. -/
theorem accumulatorFramesClearedAndCopied : Obligations.AccumulatorFramesClearedAndCopied := by
  unfold Obligations.AccumulatorFramesClearedAndCopied
  refine ⟨?aclr, ?adrain⟩
  case aclr =>
    intro s c p tile int k fr hidle h hl hwf
    refine ⟨_, (accumulatorInstructions s c p hidle).1 tile int h hl, ?_⟩
    rw [State.cell_setCell]
    exact ⟨fun a => memGet_memZero _ _ a hwf, memZero_wf _ _ hwf, rfl, fun j hj => State.cell_setCell_other s _ hj⟩
  case adrain =>
    intro s c p f k b q fr o src n d hidle h hl ht hcols he hwf hin hbank hfree
    obtain ⟨e, hdispatch, hmem, hseq, hframes⟩ := dispatch_adrain (d := d) rfl hidle h hl ht hcols he hin hbank hfree
    refine ⟨_, congrArg Host.Outcome.next hdispatch, ?_⟩
    rw [State.cell_setCell]
    refine ⟨fun a => ?_, hseq, hframes, fun j hj => State.cell_setCell_other s _ hj⟩
    have hlen : (memRead b.mem src n).length = n := memRead_length ..
    rw [hmem, storePieces_pieces none false hwf, memGet_memWrite _ _ _ hwf]
    show (if d ≤ a ∧ a < d + (memRead b.mem src n).length then (memRead b.mem src n).getD (a - d) 0 else memGet b.mem a) = _
    rw [hlen]
    split
    next ha => exact memRead_getD hwf src (by omega)
    next => rfl

end Sys2Proof.Machine
end

section
/-! PROOF. Vector instructions: operands read slot by slot, what an instruction does with them, and the memory that reads otherwise in one span (spec/07_cell_execution.md R146; spec/08_instruction_reference.md R185 to R190; spec/09_scratchpad_hbm.md R199, R205). -/
namespace Sys2Proof.Machine

/-! Operands without a palette or a record. -/

/-- Elements that a vector instruction takes. -/
abbrev QI.elemCount (q : QI) (f : VecF) : Nat := (q.count f.rn).getD 0

/-- A vector instruction that names no palette goes on to its operands once its banks are on (R173, R201). -/
theorem vecGo_noPalette {lead : Bool} {seed : Nat} {x : Fx} {r : Run} {kd : VecKind} {f : VecF} (hm : noCount kd = true ∨ r.qi.elemCount f ≠ 0)
    (hpal : palAddr kd r.qi f = []) (hbad : palRangeBad lead kd r.qi f (r.qi.elemCount f) (palOf []) = false)
    (hbank : ∀ d ∈ vecReads kd r.qi f (r.qi.elemCount f) ++ vecDests true kd r.qi f (r.qi.elemCount f) 8, x.c.bankDown d.1 d.2 = false) :
    vecGo lead seed x r kd f = vecRead lead seed x { r with begun := true, pal := [] } kd f := by
  have hsome : (!noCount kd && r.qi.elemCount f == 0) = false := by
    rcases hm with hm | hm
    · simp [hm]
    · simp [hm]
  have hon : ((vecReads kd r.qi f (r.qi.elemCount f) ++ vecDests true kd r.qi f (r.qi.elemCount f) 8).find? fun d => x.c.bankDown d.1 d.2) = none :=
    List.find?_eq_none.2 fun d hd => by simp [hbank d hd]
  simp only [vecGo, hpal, hsome, hbad, hon, List.foldl_nil, List.find?_nil, List.map_nil, List.nil_append, List.flatMap_nil, Bool.false_eq_true, if_false]

/-- Clean operands are taken range by range as their slots give them (R205). -/
theorem vecRead_clean {lead : Bool} {seed : Nat} {x : Fx} {r : Run} {kd : VecKind} {f : VecF} (hdeq : ¬ (kd = .cvt ∧ vfDeq f = true)) (hscl : kd ≠ .sclConvert)
    (hr : r.got = []) (hc : x.c.ReadsClean) (hf : x.c.firstEmpty (vecNeeds kd r.qi f (r.qi.elemCount f)) = none) :
    ∃ got, vecRead lead seed x r kd f = vecTake lead x r kd f seed (r.qi.elemCount f) got none
      ∧ (vecReads kd r.qi f (r.qi.elemCount f)).map (fun d => gather got d.1 d.2) = (vecReads kd r.qi f (r.qi.elemCount f)).map fun d => x.c.bytesBySlot d.1 d.2 := by
  obtain ⟨got, htake, hget⟩ := Fx.takeSlots_clean hc hf (got := []) (by simp [mapHas])
  refine ⟨got, by simp only [vecRead, hdeq, hscl, hr, htake, if_false], List.map_congr_left fun d hd => ?_⟩
  have hpieces : (slotsOf d.1 d.2).map (mapGet [] got) = (slotsOf d.1 d.2).map x.c.piece :=
    List.map_congr_left fun i hi => hget i (.inl (List.mem_flatMap.2 ⟨d, hd, hi⟩))
  rw [gather, Cell.bytesBySlot, List.flatMap_def, List.flatMap_def, hpieces]

/-! Results. -/

/-- A piece lies within the range that it is cut from. -/
theorem piecesF_within {tag : Option Byte} {poison : Bool} {fuel a : Nat} {l : List Byte} {w : Piece} (hw : w ∈ piecesF tag poison fuel a l) :
    a ≤ w.addr ∧ w.addr + w.data.length ≤ a + l.length ∧ w.last = true := by
  induction fuel generalizing a l with
  | zero => cases l <;> cases hw
  | succ fuel ih =>
    cases l with
    | nil => cases hw
    | cons b l =>
      rcases List.mem_cons.1 hw with rfl | hw
      · exact ⟨Nat.le_refl _, Nat.add_le_add_left (List.length_take_le' ..) _, rfl⟩
      · obtain ⟨hstart, hend, hlast⟩ := ih hw
        have hstep : 64 - a % 64 + ((b :: l).drop (64 - a % 64)).length ≤ (b :: l).length ∨ (b :: l).drop (64 - a % 64) = [] := by
          rcases Nat.lt_or_ge (64 - a % 64) (b :: l).length with hlt | hge
          · exact .inl (by rw [List.length_drop]; omega)
          · exact .inr (List.drop_of_length_le hge)
        rcases hstep with hstep | hnil
        · exact ⟨by omega, by omega, hlast⟩
        · rw [hnil] at hw
          cases fuel <;> cases hw

/-- Last writes into different slots are marked as they are. -/
theorem lastWrites_pairwise {ps : List Piece} (hslots : ps.Pairwise fun v w => w.addr / 64 ≠ v.addr / 64) (hlast : ∀ w ∈ ps, w.last = true) :
    lastWrites ps = ps := by
  induction ps with
  | nil => rfl
  | cons w ps ih =>
    obtain ⟨hw, hps⟩ := List.pairwise_cons.1 hslots
    have hnone : (ps.any fun v => v.addr / 64 == w.addr / 64) = false := List.any_eq_false.2 fun v hv => by simpa using hw v hv
    have hsame : { w with last := true } = w := by
      obtain ⟨addr, data, tag, poison, last⟩ := w
      cases hlast ⟨addr, data, tag, poison, last⟩ (by simp)
      rfl
    rw [lastWrites, ih hps fun v hv => hlast v (by simp [hv]), hnone, Bool.not_false, hsame]

theorem lastWrites_pieces (tag : Option Byte) (poison : Bool) (a : Nat) (l : List Byte) : lastWrites (pieces tag poison a l) = pieces tag poison a l :=
  lastWrites_pairwise (pieces_pairwise ..) fun _ hw => (piecesF_within hw).2.2

/-- An instruction that writes one range within its bounds, to slots that nothing blocks, writes it whole (R174, R201, R205). -/
theorem vecTake_oneRange {lead : Bool} {x : Fx} {r : Run} {kd : VecKind} {f : VecF} {seed m : Nat} {got : SMap (List Byte)} {rec : Option ScaleRec} {v : VOut}
    {tag : Option Byte} {d : Nat} {l : List Byte}
    (hv : vecDo x { r with got := [] } kd f seed m ((vecReads kd r.qi f m).map fun d => gather got d.1 d.2) rec = v) (hwr : v.wr = pieces tag false d l)
    (hin : localOk lead d l.length = true) (hbank : v.x.c.bankDown d l.length = false) (hfree : ∀ i ∈ slotsOf d l.length, v.x.c.blocksWrite i = false) :
    ∃ e, (vecTake lead x r kd f seed m got rec).1 = ⟨e, v.x.ev⟩ ∧ v.x.c.SameButStores e ∧ e.mem = storePieces v.x.c.mem (pieces tag false d l) := by
  have hok : piecesOk lead v.wr = true := by
    refine List.all_eq_true.2 fun w hw => ?_
    obtain ⟨-, hend, -⟩ := piecesF_within (hwr ▸ hw : w ∈ pieces tag false d l)
    exact Nat.ble_eq_true_of_le (Nat.le_trans hend (Nat.le_of_ble_eq_true hin))
  have hon : (v.wr.find? fun w => v.x.c.bankDown w.addr 1) = none := by
    refine List.find?_eq_none.2 fun w hw => ?_
    have hslot : w.addr / 64 ∈ slotsOf d l.length := pieces_slots tag false d l ▸ List.mem_map_of_mem (hwr ▸ hw)
    have hone : slotsOf w.addr 1 = [w.addr / 64] := slotsOf_within (by decide) (by omega)
    have := List.any_eq_false.1 hbank _ hslot
    simpa [Cell.bankDown, hone] using this
  obtain ⟨e, he, hsame, hmem⟩ := writeOn_pieces_free tag false (x := v.x) (r := { r with got := [], wr := pieces tag false d l }) rfl hfree
  have hwrite : vecTake lead x r kd f seed m got rec = writeOn v.x { r with got := [], wr := pieces tag false d l } := by
    simp only [vecTake, hv, hok, hon, Bool.not_true, Bool.false_eq_true, if_false]
    rw [hwr, lastWrites_pieces]
  exact ⟨e, by rw [hwrite, he], hsame, hmem⟩

/-- So does a vector instruction that takes clean operands without a record. -/
theorem vecRead_oneRange {lead : Bool} {seed : Nat} {x : Fx} {r : Run} {kd : VecKind} {f : VecF} {v : VOut} {tag : Option Byte} {d : Nat} {l : List Byte}
    (hdeq : ¬ (kd = .cvt ∧ vfDeq f = true)) (hscl : kd ≠ .sclConvert) (hr : r.got = []) (hc : x.c.ReadsClean)
    (hf : x.c.firstEmpty (vecNeeds kd r.qi f (r.qi.elemCount f)) = none)
    (hv : vecDo x { r with got := [] } kd f seed (r.qi.elemCount f) ((vecReads kd r.qi f (r.qi.elemCount f)).map fun d => x.c.bytesBySlot d.1 d.2) none = v)
    (hwr : v.wr = pieces tag false d l) (hin : localOk lead d l.length = true) (hbank : v.x.c.bankDown d l.length = false)
    (hfree : ∀ i ∈ slotsOf d l.length, v.x.c.blocksWrite i = false) :
    ∃ e, (vecRead lead seed x r kd f).1 = ⟨e, v.x.ev⟩ ∧ v.x.c.SameButStores e ∧ e.mem = storePieces v.x.c.mem (pieces tag false d l) := by
  obtain ⟨got, hread, hgot⟩ := vecRead_clean (lead := lead) (seed := seed) hdeq hscl hr hc hf
  rw [hread]
  exact vecTake_oneRange (hgot ▸ hv) hwr hin hbank hfree

/-! VRED. -/

section untagged
variable {s : State} {k : Nat} {p : Pred} {kd : VecKind} {f : VecF} (h : VecRuns s k p kd f)
include h

theorem VecRuns.sent_untagged (i : Nat) : (s.sent k).tagMode i = 0 := h.untagged i

theorem VecRuns.readsClean : (s.sent k).ReadsClean := ⟨h.intact, h.clean, fun i => by simp [h.sent_untagged i]⟩

theorem VecRuns.firstEmpty (l : List Nat) : (s.sent k).firstEmpty l = none := by simp [Cell.firstEmpty, Cell.tagged, h.sent_untagged]

end untagged

/-- Saturations are counted and shown, and leave the rest of the cell (R79, R102). -/
theorem Fx.saturated_c (x : Fx) (n : Nat) :
    ∃ cnt summ events regs, (x.saturated n).c = { x.c with cnt := cnt, summ := summ, events := events, regs := regs } := by
  unfold Fx.saturated
  split
  · exact ⟨_, _, _, _, rfl⟩
  · unfold Fx.map Cell.setRegs Cell.sum Cell.count
    dsimp only
    split <;> split <;> exact ⟨_, _, _, _, rfl⟩

/-- The pair that VRED makes of its source (R99, R190). -/
def QI.redPair (q : QI) (f : VecF) (src : List Byte) : List Byte :=
  let g := (q.coord f.rc (q.elemCount f)).getD ⟨0, 0, 1⟩
  let r := vecRed (field f.sub.toNat 0 2) (f.fd == 0xB) ((elems f.fs.toNat (q.elemCount f) src).map (widen f.fs.toNat))
    (fun e => if f.sub.getLsbD 2 then (g.at e).1 else (g.at e).2)
  leBytes 4 r.1 ++ leBytes 4 r.2.1

theorem leBytes_length (n x : Nat) : (leBytes n x).length = n := by
  induction n generalizing x with
  | zero => rfl
  | succ n ih => rw [leBytes, List.length_cons, ih]

@[simp] theorem QI.redPair_length (q : QI) (f : VecF) (src : List Byte) : (q.redPair f src).length = 8 := by
  simp [QI.redPair, leBytes_length]

/-- VRED makes its pair of the elements as the slots of its source give them. -/
theorem issueVector_red {s : State} {k : Nat} {p : Pred} {f : VecF} {q : QI} (hq : q = s.taken k p (.vec .red f) []) (h : VecRuns s k p .red f) :
    (issueVector (isLead (cellNo k)) (s.seedOf k) (Fx.of (s.sent k)) q).1.c.mem = storePieces (s.cell k).mem
      (pieces (some f.tag) false (q.addr f.rd) (q.redPair f ((s.cell k).bytesBySlot (q.addr f.rs1) (opLen f.fs (q.elemCount f))))) := by
  have hop : q.op = .vec .red f := by rw [hq]; rfl
  have hbanks : ∀ d ∈ vecReads .red q f (q.elemCount f) ++ [(q.addr f.rd, 8)], localOk (isLead (cellNo k)) d.1 d.2 = true ∧ (s.cell k).bankDown d.1 d.2 = false :=
    hq ▸ h.banks true
  obtain ⟨hin, hbank⟩ := hbanks (q.addr f.rd, 8) (by simp)
  have hgo := vecGo_noPalette (lead := isLead (cellNo k)) (seed := s.seedOf k) (x := Fx.of (s.sent k)) (r := Run.start q) (hq ▸ h.some) rfl rfl
    fun d hd => (hbanks d hd).2
  obtain ⟨v, hv⟩ : ∃ v, v = doRed (Fx.of (s.sent k)) q f (q.elemCount f) ((q.coord f.rc (q.elemCount f)).getD ⟨0, 0, 1⟩)
    ((s.sent k).bytesBySlot (q.addr f.rs1) (opLen f.fs (q.elemCount f))) := ⟨_, rfl⟩
  have hwr : v.wr = pieces (some f.tag) false (q.addr f.rd) (q.redPair f ((s.cell k).bytesBySlot (q.addr f.rs1) (opLen f.fs (q.elemCount f)))) := by rw [hv]; rfl
  obtain ⟨cnt, summ, events, regs, hc⟩ : ∃ cnt summ events regs, v.x.c = { s.sent k with cnt := cnt, summ := summ, events := events, regs := regs } := by
    rw [hv]
    exact Fx.saturated_c ..
  have huntagged : ∀ i, v.x.c.blocksWrite i = false := fun i => by
    have hmode : v.x.c.tagMode i = 0 := (Cell.tagMode_congr (by rw [hc]) i).trans (h.sent_untagged i)
    simp [Cell.blocksWrite, Cell.tagged, hmode]
  obtain ⟨e, hread, -, hmem⟩ := vecRead_oneRange (lead := isLead (cellNo k)) (seed := s.seedOf k) (x := Fx.of (s.sent k))
    (r := { Run.start q with begun := true, pal := [] }) (kd := .red) (f := f) (by simp) (by simp) rfl h.readsClean (h.firstEmpty _) hv.symm hwr
    (by rw [QI.redPair_length]; exact hin) (by rw [QI.redPair_length, hc]; exact hbank) fun i _ => huntagged i
  have hissue : issueVector (isLead (cellNo k)) (s.seedOf k) (Fx.of (s.sent k)) q = vecGo (isLead (cellNo k)) (s.seedOf k) (Fx.of (s.sent k)) (Run.start q) .red f := by
    simp only [issueVector, hop]
  rw [hissue, hgo, hread]
  exact hmem.trans (by rw [hc]; rfl)

theorem exec_vred_bySlot {s : State} {c : CellId} {p : Pred} {f : VecF} {q : QI} (hq : q = s.taken (cellKey c) p (.vec .red f) [])
    (h : VecRuns s (cellKey c) p .red f) :
    ∃ t, exec (.vred c p f) s = .next t ∧ (t.cell (cellKey c)).mem = storePieces (s.cell (cellKey c)).mem
      (pieces (some f.tag) false (q.addr f.rd) (q.redPair f ((s.cell (cellKey c)).bytesBySlot (q.addr f.rs1) (opLen f.fs (q.elemCount f))))) := by
  subst hq
  refine ⟨_, congrArg Host.Outcome.next (dispatch_vector h.toOpen h.idle h.ramp), ?_⟩
  rw [State.cell_put]
  exact issueVector_red rfl h

/-- In a canonical memory (R199) VRED makes its pair of the bytes at its source address and writes it at A[rd]: what O15 says of VRED, with the canonical form as a hypothesis. -/
theorem exec_vred_of_memWf {s : State} {c : CellId} {p : Pred} {f : VecF} {q : QI} (hq : q = s.taken (cellKey c) p (.vec .red f) [])
    (h : VecRuns s (cellKey c) p .red f) (hwf : memWf (s.cell (cellKey c)).mem = true) :
    ∃ t, exec (.vred c p f) s = .next t ∧ (t.cell (cellKey c)).mem =
      memWrite (s.cell (cellKey c)).mem (q.addr f.rd) (q.redPair f (memRead (s.cell (cellKey c)).mem (q.addr f.rs1) (opLen f.fs (q.elemCount f)))) := by
  obtain ⟨t, hexec, hmem⟩ := exec_vred_bySlot hq h
  refine ⟨t, hexec, ?_⟩
  rw [hmem, storePieces_pieces _ _ hwf, Cell.bytesBySlot_of_memWf hwf]

/-! A memory that lists an address twice, as for WLOAD (`twiceListed`): the span over the source hides the word of its second slot. -/

/-- VRED SUM of the INT32 elements at A0, as many as A1 says, to A2. -/
def sumF : VecF := ⟨false, false, 2, 0, 0, 1, 0, 0xB, 0xB, false, 3, 0, 0⟩

/-- Not in canonical form: address 0 stands twice before the byte 1 at address 64. -/
def twiceWord : Memory := [(0, 0), (0, 0), (64, 1)]

/-- A running cell with that memory, A0 at 0, 17 in A1 and A2 at 128. -/
def sumCell : Cell := { twiceCell with mem := twiceWord, seq := { twiceCell.seq with a := setAt (setAt twiceCell.seq.a 1 17) 2 128 } }

/-- Cell 0 of region 0 runs in job 7. -/
def sumState : State := { twiceState with cells := [(0, sumCell)] }

theorem vecRuns_sumState : VecRuns sumState (cellKey ⟨0, 0, 0⟩) ⟨0, false⟩ .red sumF where
  may := by decide
  free := rfl
  fetch := by decide
  form := by decide
  guard := by decide
  regs := by decide
  format := by decide
  range := by decide
  unit := rfl
  queue := rfl
  frames := by decide
  idle := rfl
  ramp := by decide
  some := by decide
  intact := rfl
  clean := rfl
  untagged n := by simp [Cell.tagMode, show (sumState.cell (cellKey ⟨0, 0, 0⟩)).winOf n = none from winOf_twiceCell n]
  palettes := by decide
  bounds := by decide
  banks := by decide

/-- The instruction as the vector unit takes it. -/
def sumQI : QI := sumState.taken (cellKey ⟨0, 0, 0⟩) ⟨0, false⟩ (.vec .red sumF) []

/-- The sum of the span over the source. -/
theorem redPair_span : sumQI.redPair sumF (memRead twiceWord 0 68) = [0, 0, 0, 0, 0, 0, 0, 0] := by decide +kernel

/-- The sum of the source's slots, each read by itself. -/
theorem redPair_bySlot : sumQI.redPair sumF (sumCell.bytesBySlot 0 68) = [1, 0, 0, 0, 0, 0, 0, 0] := by decide +kernel

/-- Refutes O15: the statement takes the source in one span of any byte memory, canonical or not, and a vector instruction reads it slot by slot. Where the scratchpad lists address 0 twice, VRED of 17 INT32 words at address 0 sums to 0 in the one reading and to 1 in the other. In a canonical memory the clause holds (`exec_vred_of_memWf`). -/
theorem not_vectorInstructionsIssue : ¬ Obligations.VectorInstructionsIssue := by
  unfold Obligations.VectorInstructionsIssue
  rintro ⟨hwrites, -⟩
  obtain ⟨-, -, -, -, -, -, -, -, hred, -⟩ := hwrites sumState ⟨0, 0, 0⟩ ⟨0, false⟩ sumF
  obtain ⟨t, ht, hspan, -⟩ := hred vecRuns_sumState
  obtain ⟨u, hu, hslot⟩ := exec_vred_bySlot (q := sumQI) rfl vecRuns_sumState
  obtain rfl : t = u := Host.Outcome.next.inj (ht.symm.trans hu)
  have hwrong : (t.cell (cellKey ⟨0, 0, 0⟩)).mem = memWrite twiceWord 128 (sumQI.redPair sumF (memRead twiceWord 0 68)) := hspan
  have hright : (t.cell (cellKey ⟨0, 0, 0⟩)).mem = storePieces twiceWord (pieces (some 0) false 128 (sumQI.redPair sumF (sumCell.bytesBySlot 0 68))) := hslot
  rw [redPair_span] at hwrong
  rw [redPair_bySlot] at hright
  exact absurd (hwrong.symm.trans hright) (by decide)

end Sys2Proof.Machine
end

section
/-! PROOF. The state after power-on: nothing is listed in it, so every unit reads as its own reset (spec/04_accumulation_order.md R84, R103; spec/07_cell_execution.md R168; spec/10_blocks_regions.md R241; spec/16_clocks_reset_startup.md R382). -/
namespace Sys2Proof.Machine

/-! The units of the module at reset. -/

theorem State.cell_reset (k : Nat) : State.reset.cell k = Cell.reset := rfl
theorem State.rgn_reset (r : Nat) : State.reset.rgn r = Region.reset := rfl
theorem State.rpwr_reset (r : Nat) : State.reset.rpwr r = RgnPwr.reset := rfl
theorem State.port_reset (p : Nat) : State.reset.port p = Port.reset := rfl
theorem State.cue_reset (i : Nat) : State.reset.cue i = Cue.reset := rfl

/-- Every A register reads zero (R168). -/
theorem Seq.reg_reset (a : AReg) : Seq.reset.reg a = 0 := by
  revert a
  decide

/-- Settles O59: the hub, and each region, port, cue and cell, as its reset gives it. -/
theorem resetHoldsTheStatedValues : Obligations.ResetHoldsTheStatedValues := by
  unfold Obligations.ResetHoldsTheStatedValues
  simp only [State.cell_reset, State.rgn_reset, State.rpwr_reset, State.port_reset, State.cue_reset]
  refine ⟨rfl, rfl, rfl, rfl, rfl, rfl, fun _ => ?regions, fun _ => ?power, fun _ => ?ports, fun _ => ?cues, fun _ => ?cells, rfl, rfl, rfl, rfl, rfl⟩
  case regions => exact ⟨rfl, rfl, rfl, rfl, rfl, rfl, rfl⟩
  case power => exact ⟨rfl, rfl, rfl, rfl⟩
  case ports => exact ⟨rfl, rfl, rfl⟩
  case cues => exact ⟨rfl, rfl, rfl⟩
  case cells => exact ⟨rfl, rfl, rfl, Seq.reg_reset, rfl, rfl, rfl, fun _ => rfl⟩

end Sys2Proof.Machine
end

section
/-! PROOF. The merge of two palette copies (spec/05_scaling_quantisation.md R107). -/
namespace Sys2Proof.Machine

/-! The saturating sum: saturation anywhere on the way gives saturation at the end, so the sum does not depend on order or tree. -/

theorem satSum_eq_min (w a b : Nat) : satSum w a b = min (2 ^ w - 1) (a + b) := Nat.min_comm _ _

theorem satSum_comm (w a b : Nat) : satSum w a b = satSum w b a := by
  simp only [satSum, Nat.add_comm]

theorem satSum_assoc (w a b c : Nat) : satSum w (satSum w a b) c = satSum w a (satSum w b c) := by
  unfold satSum
  omega

theorem satSum_right_comm (w a b c : Nat) : satSum w (satSum w a b) c = satSum w (satSum w a c) b := by
  rw [satSum_assoc, satSum_comm w b c, ← satSum_assoc]

/-! The merge. It is not commutative: the fields that it does not merge are the first copy's. -/

/-- The flags of `addStats` count for nothing here: the merge sets both to the OR of the copies' own. -/
theorem Pal.merge_eq (a b : Pal) :
    a.merge b =
      { a with
        amax := max a.amax b.amax, elements := satSum 64 a.elements b.elements, sat := satSum 32 a.sat b.sat
        under := satSum 32 a.under b.under, nonfin := satSum 32 a.nonfin b.nonfin
        jitCount := satSum 32 a.jitCount b.jitCount, sqErr := satSum 64 a.sqErr b.sqErr
        jitDone := a.jitDone || b.jitDone, hadNonfin := a.hadNonfin || b.hadNonfin } := rfl

theorem Pal.merge_assoc (a b c : Pal) : (a.merge b).merge c = a.merge (b.merge c) := by
  simp only [Pal.merge_eq, Nat.max_assoc, satSum_assoc, Bool.or_assoc]

theorem Pal.merge_right_comm (a b c : Pal) : (a.merge b).merge c = (a.merge c).merge b := by
  simp only [Pal.merge_eq, Nat.max_right_comm, satSum_right_comm, Bool.or_right_comm]

/-- Settles O16: a merge is a maximum, saturating sums and ORs over the first copy, each of them associative and free in the order of the later copies. -/
theorem paletteCopiesMergeInAnyOrder : Obligations.PaletteCopiesMergeInAnyOrder := by
  intro a b c
  refine ⟨?fields, a.merge_assoc b c, a.merge_right_comm b c⟩
  case fields => simp only [Pal.merge_eq, satSum_eq_min]

end Sys2Proof.Machine
end

section
/-! PROOF. The 64-bit instruction words: a field read back from a sum of fields, what an instruction's word decodes to, and words laid out by hand (spec/08_instruction_reference.md R170 to R195). -/
namespace Sys2Proof.Machine

/-! A field of a sum of fields at descending positions. -/

theorem fld_eq (x lo w : Nat) : fld x lo w = BitVec.ofNat w (x / 2 ^ lo) :=
  BitVec.eq_of_toNat_eq (by simp [fld, field])

/-- One bit as a field of width 1. -/
theorem bitAt_eq (x i : Nat) : bitAt x i = (fld x i 1).getLsbD 0 := by
  rcases Nat.mod_two_eq_zero_or_one (x / 2 ^ i) with h | h <;> simp [bitAt, fld, field, h]

theorem b2n_eq (b : Bool) : b2n b = (BitVec.ofBool b).toNat := by cases b <;> rfl

/-- A summand above a field does not show in it. -/
theorem fld_above {k lo w : Nat} (h : lo + w ≤ k) (a b : Nat) : fld (2 ^ k * a + b) lo w = fld b lo w := by
  obtain ⟨j, rfl⟩ := Nat.exists_eq_add_of_le h
  have hsplit : 2 ^ (lo + w + j) * a + b = 2 ^ lo * (2 ^ w * (2 ^ j * a)) + b := by simp only [Nat.pow_add, Nat.mul_assoc]
  rw [fld_eq, fld_eq, hsplit, Nat.mul_add_div (Nat.two_pow_pos lo)]
  exact BitVec.eq_of_toNat_eq (by simp)

/-- A field over smaller summands is read as it was put. -/
theorem fld_here {k w b : Nat} (v : BitVec w) (h : b < 2 ^ k) : fld (2 ^ k * v.toNat + b) k w = v := by
  rw [fld_eq, Nat.mul_add_div (Nat.two_pow_pos k), Nat.div_eq_of_lt h, Nat.add_zero, BitVec.ofNat_toNat, BitVec.setWidth_eq]

theorem fld_last {k w : Nat} (v : BitVec w) : fld (2 ^ k * v.toNat) k w = v := fld_here (b := 0) v (Nat.two_pow_pos k)

theorem fld_zero {w : Nat} (v : BitVec w) : fld v.toNat 0 w = v := by
  rw [fld_eq, Nat.pow_zero, Nat.div_one, BitVec.ofNat_toNat, BitVec.setWidth_eq]

/-! Operands. -/

/-- The operand and suffix bits of a word, which stand below its guard, are those of `b` (R171). -/
def OperandsAre (x b : Nat) : Prop := ∀ lo w, lo + w ≤ 52 → fld x lo w = fld b lo w

theorem vecFields_eq {x : Nat} {k : VecKind} {f : VecF} (h : OperandsAre x (opBits (.vec k f)).2) : vecFields x = f := by
  unfold OperandsAre at h
  simp (disch := omega) only [vecFields, h, opBits, bitAt_eq, b2n_eq, Nat.add_assoc, fld_above, fld_here, fld_zero, BitVec.getLsbD_ofBool, decide_true, Bool.true_and, -Nat.reducePow]

/-- The number of a VSCL form, by which its subfunction names it (R189). -/
def sclForm : VecKind → Nat
  | .sclDerive => 1
  | .sclPush => 2
  | .sclPushAdvance => 3
  | .sclMerge => 4
  | _ => 0

theorem sclForm_eq {k : VecKind} {f : VecF} (hk : (opBits (.vec k f)).1 = 0x4A) (h : vecStage1 k f = true) : f.sub.toNat % 8 = sclForm k := by
  cases k <;> simp only [opBits, Nat.reduceEqDiff] at hk <;> simp_all [vecStage1, sclForm]

theorem sclKind_sclForm {k : VecKind} {f : VecF} (hk : (opBits (.vec k f)).1 = 0x4A) : sclKind (sclForm k) = some k := by
  cases k <;> simp only [opBits, Nat.reduceEqDiff] at hk <;> rfl

theorem decodeFields_vec {x : Nat} {k : VecKind} {f : VecF} (hc : x / 2 ^ 56 % 256 = (opBits (.vec k f)).1) (hb : OperandsAre x (opBits (.vec k f)).2)
    (h : vecStage1 k f = true) : decodeFields x = some (.vec k f) := by
  have hf : vecFields x = f := vecFields_eq hb
  by_cases hk : (opBits (.vec k f)).1 = 0x4A
  · have hform : field x 8 3 = f.sub.toNat % 8 := by
      rw [← hf]
      simp only [vecFields, fld, field, BitVec.toNat_ofNat]
      omega
    simp only [decodeFields, hc, hk, hf, hform, sclForm_eq hk h, sclKind_sclForm hk, Option.map_some]
  · cases k <;> simp only [opBits, not_true_eq_false] at hk hc <;> simp only [decodeFields, hc, hf]

/-- The decoder finds an instruction by its opcode and by the bits below the guard (R171, R176): once the opcode is one number, each field stands in the sum of the operands with the others above it or below it. -/
theorem decodeFields_of_opBits {x : Nat} {op : CellOp} (hc : x / 2 ^ 56 % 256 = (opBits op).1) (hb : OperandsAre x (opBits op).2) (h : stage1 op = true) :
    decodeFields x = some op := by
  cases op
  case vec k f => exact decodeFields_vec hc hb h
  case' alu o _ _ _ => cases o
  case' shift right f => cases right
  case' mvm transposed f => cases transposed
  case' tagset full _ _ => cases full
  all_goals
    unfold OperandsAre at hb
    simp only [opBits, Bool.false_eq_true, if_true, if_false] at hc
    simp (disch := omega) only [decodeFields, hc, hb, shiftFields, mvmFields, putFields, xferFields, combFields, opBits, bitAt_eq, b2n_eq, Nat.add_assoc,
      fld_above, fld_here, fld_last, fld_zero, BitVec.getLsbD_ofBool, decide_true, Bool.true_and, -Nat.reducePow]

/-- The opcode fills its byte at most, and the operands stay below the guard (R171). -/
theorem opBits_lt (op : CellOp) : (opBits op).1 < 2 ^ 8 ∧ (opBits op).2 < 2 ^ 52 := by
  cases op
  case' alu o _ _ _ => cases o
  case' shift right f => cases right
  case' mvm transposed f => cases transposed
  case' tagset full _ _ => cases full
  case' vec k f => cases k
  all_goals
    simp only [opBits, b2n_eq, Bool.false_eq_true, if_true, if_false]
    omega

/-! Words. -/

/-- A word as the sum of its opcode, its guard and its operands (R171): none of them runs over. -/
theorem encodeCell_toNat (p : Pred) (op : CellOp) :
    (encodeCell p op).toNat = 2 ^ 56 * (opBits op).1 + (2 ^ 53 * p.psel.toNat + (2 ^ 52 * (BitVec.ofBool p.pneg).toNat + (opBits op).2)) := by
  obtain ⟨hc, hb⟩ := opBits_lt op
  simp only [encodeCell, b2n_eq, Nat.add_assoc]
  exact (BitVec.toNat_ofNat ..).trans (Nat.mod_eq_of_lt (by omega))

theorem opcode_encodeCell (p : Pred) (op : CellOp) : (encodeCell p op).toNat / 2 ^ 56 % 256 = (opBits op).1 := by
  obtain ⟨hc, hb⟩ := opBits_lt op
  rw [encodeCell_toNat]
  omega

theorem predOf_encodeCell (p : Pred) (op : CellOp) : predOf (encodeCell p op).toNat = p := by
  obtain ⟨-, hb⟩ := opBits_lt op
  rw [encodeCell_toNat]
  simp (disch := omega) only [predOf, bitAt_eq, fld_above, fld_here, BitVec.getLsbD_ofBool, decide_true, Bool.true_and, -Nat.reducePow]

theorem operandsAre_encodeCell (p : Pred) (op : CellOp) : OperandsAre (encodeCell p op).toNat (opBits op).2 := by
  intro lo w h
  rw [encodeCell_toNat]
  simp (disch := omega) only [fld_above, -Nat.reducePow]

/-- What the first stage accepts is decoded from its word. -/
theorem decodeCell_encodeCell (p : Pred) {op : CellOp} (h : stage1 op = true) : decodeCell (encodeCell p op) = some (p, op) := by
  have hop : decodeFields (encodeCell p op).toNat = some op := decodeFields_of_opBits (opcode_encodeCell p op) (operandsAre_encodeCell p op) h
  simp only [decodeCell, hop, predOf_encodeCell, h, and_self, if_true]

/-- The decoder accepts only the word of what it answers, and only what the first stage accepts (R173). -/
theorem encodeCell_of_decodeCell {w : DWord} {p : Pred} {op : CellOp} (h : decodeCell w = some (p, op)) : encodeCell p op = w ∧ stage1 op = true := by
  unfold decodeCell at h
  split at h
  next => cases h
  next =>
    split at h
    next hok => cases h; exact hok
    next => cases h

/-- Settles O58: a word is the sum of its fields at descending positions, so each of them is read back; what is decoded is encoded again and compared. -/
theorem encodedInstructionsDecode : Obligations.EncodedInstructionsDecode := by
  unfold Obligations.EncodedInstructionsDecode
  exact ⟨fun p _ h => decodeCell_encodeCell p h, fun _ _ _ h => encodeCell_of_decodeCell h⟩

/-! Known words. -/

theorem decodeCell_word {w : DWord} {p : Pred} {op : CellOp} (hw : encodeCell p op = w) (h : stage1 op = true) : decodeCell w = some (p, op) :=
  hw ▸ decodeCell_encodeCell p h

/-- A word whose fields are read but which is not the word of what they say, or which the first stage refuses, gives nothing (R173). -/
theorem decodeCell_refused {w : DWord} {op : CellOp} (hop : decodeFields w.toNat = some op) (h : encodeCell (predOf w.toNat) op ≠ w ∨ stage1 op = false) :
    decodeCell w = none := by
  have hbad : ¬ (encodeCell (predOf w.toNat) op = w ∧ stage1 op = true) := by
    rcases h with h | h <;> simp [h]
  simp only [decodeCell, hop, hbad, if_false]

/-- Settles O57: each of ten words is the word of its instruction; of the others one has no fields to read, one is NOP with a bit too many, one names the tile 3 in ACLR. -/
theorem knownWordsDecode : Obligations.KnownWordsDecode := by
  unfold Obligations.KnownWordsDecode
  refine ⟨decodeCell_word rfl rfl, decodeCell_word rfl rfl, decodeCell_word rfl rfl, decodeCell_word rfl rfl, decodeCell_word rfl rfl, decodeCell_word rfl rfl,
    decodeCell_word rfl rfl, decodeCell_word rfl rfl, decodeCell_word rfl rfl, decodeCell_word rfl rfl, ?opcode, ?bit, ?field⟩
  case opcode => rfl
  case bit => exact decodeCell_refused (op := .nop) rfl (.inl (by decide))
  case field => exact decodeCell_refused (op := .aclr 3 false) rfl (.inr rfl)

end Sys2Proof.Machine
end

section
/-! PROOF. The scalar instructions (spec/07_cell_execution.md R145, R147, R152; spec/08_instruction_reference.md R180). -/
namespace Sys2Proof.Machine

/-- What a scalar instruction or NOP makes of the sequencer, with its operands read from `q` (R147, R180). -/
def scalarEffect (q : Seq) : CellOp → Option (Seq → Seq)
  | .nop => some id
  | .li rd imm => some fun y => y.setA rd imm
  | .alu o rd ra rb => some fun y => y.setA rd (aluOp o (q.reg ra) (q.reg rb))
  | .addi rd ra imm => some fun y => y.setA rd (q.reg ra + imm.signExtend 32)
  | .shift right f => some fun y => y.setA f.rd (shiftOp right f.arith (q.reg f.ra) (if f.i then f.sh.toNat else (q.reg f.rb).toNat % 32))
  | .cmp f => some fun y => y.setP f.pd (cmpOp f.cond.toNat (q.reg f.ra) (if f.i then f.imm.signExtend 32 else q.reg f.rb))
  | _ => none

/-- A scalar instruction is executed as it is dispatched, numbered, and left behind; nothing else changes. -/
theorem dispatch_scalar {s : State} {k : Nat} {p : Pred} {op : CellOp} {g : Seq → Seq} (h : Ready s k p op) (hg : scalarEffect (s.cell k).seq op = some g) :
    dispatch s k p op = s.setCell k ((s.cell k).setSeq fun q => (g q).onward) := by
  cases op <;> simp only [scalarEffect, reduceCtorEq, Option.some.injEq] at hg
  all_goals
    subst hg
    rw [dispatch_control ⟨h, rfl, rfl⟩ rfl rfl]
    simp only [controlStep, State.taken, mkQI, fx_modCell, Fx.number_eq]
    rfl

theorem cmpOp_eq {cond : BitVec 3} (h : cond.toNat ≤ 5) (a b : Word) :
    cmpOp cond.toNat a b = if cond = 0 then a == b else if cond = 1 then a != b else if cond = 2 then a.slt b else if cond = 3 then !a.slt b
      else if cond = 4 then a.ult b else !a.ult b := by
  have hcases : cond = 0 ∨ cond = 1 ∨ cond = 2 ∨ cond = 3 ∨ cond = 4 ∨ cond = 5 := by bv_omega
  rcases hcases with rfl | rfl | rfl | rfl | rfl | rfl <;> rfl

/-- Settles O3: each instruction is `dispatch_scalar` with its own effect; the first stage leaves six conditions of CMP and a logical SHL. -/
theorem scalarInstructionsWriteTheirResult : Obligations.ScalarInstructionsWriteTheirResult := by
  unfold Obligations.ScalarInstructionsWriteTheirResult
  refine ⟨?registers, ?compareAndNop⟩
  case registers =>
    intro s c p k q wrote
    exact ⟨fun _ _ h => congrArg _ (dispatch_scalar h rfl), fun _ _ _ h => congrArg _ (dispatch_scalar h rfl), fun _ _ _ h => congrArg _ (dispatch_scalar h rfl),
      fun _ _ _ h => congrArg _ (dispatch_scalar h rfl), fun _ _ _ h => congrArg _ (dispatch_scalar h rfl), fun _ _ _ h => congrArg _ (dispatch_scalar h rfl),
      fun _ h => congrArg _ (dispatch_scalar h rfl), fun _ h => congrArg _ (dispatch_scalar h rfl)⟩
  case compareAndNop =>
    intro s c p k
    refine ⟨?compare, fun f => rfl, fun f => rfl, fun h => congrArg _ (dispatch_scalar h rfl)⟩
    intro f h a b v
    have hv : cmpOp f.cond.toNat a b = v := cmpOp_eq (of_decide_eq_true h.form) a b
    rw [← hv]
    exact congrArg _ (dispatch_scalar h rfl)

end Sys2Proof.Machine
end

section
/-! PROOF. The element-wise vector instructions: operands read from tagged slots too, and results stored in one range (spec/08_instruction_reference.md R185 to R187; spec/09_scratchpad_hbm.md R205, R219). -/
namespace Sys2Proof.Machine

/-! Reads of slots that hold no error: only full bits change. -/

/-- A cell that has given up full bits and nothing else (R205). -/
structure Cell.Emptied (c d : Cell) : Prop where
  same : d = { c with full := d.full }
  full : ∀ i, d.isFull i = true → c.isFull i = true

theorem Cell.Emptied.refl (c : Cell) : c.Emptied c := ⟨rfl, fun _ h => h⟩

theorem Cell.Emptied.trans {c d e : Cell} (h : c.Emptied d) (h' : d.Emptied e) : c.Emptied e :=
  ⟨by rw [h'.same, h.same], fun i hi => h.full i (h'.full i hi)⟩

section emptied
variable {c d : Cell} (h : c.Emptied d)
include h

theorem Cell.Emptied.mem : d.mem = c.mem := by rw [h.same]
theorem Cell.Emptied.seq : d.seq = c.seq := by rw [h.same]
theorem Cell.Emptied.mr : d.mr = c.mr := by rw [h.same]
theorem Cell.Emptied.errs : d.errs = c.errs := by rw [h.same]
theorem Cell.Emptied.poison : d.poison = c.poison := by rw [h.same]

theorem Cell.Emptied.tagged (i : Nat) : d.tagged i = c.tagged i := by
  rw [Cell.tagged, Cell.tagged, Cell.tagMode_congr h.mr]

theorem Cell.Emptied.bankDown (a n : Nat) : d.bankDown a n = c.bankDown a n := by
  rw [Cell.bankDown, Cell.bankDown, h.mr]

theorem Cell.Emptied.piece (i : Nat) : d.piece i = c.piece i := by
  rw [Cell.piece, Cell.piece, h.mem]

/-- A slot that would take a write still takes it. -/
theorem Cell.Emptied.blocksWrite {i : Nat} (hi : c.blocksWrite i = false) : d.blocksWrite i = false := by
  cases hd : d.isFull i
  · simp [Cell.blocksWrite, hd]
  · simpa [Cell.blocksWrite, h.tagged, hd, h.full i hd] using hi

end emptied

theorem getLsbD_of_setBit_false {n i j : Nat} {v : BitVec n} (h : (setBit v i false).getLsbD j = true) : v.getLsbD j = true := by
  have hand : (v &&& ~~~(1#n <<< i)).getLsbD j = true := h
  rw [BitVec.getLsbD_and, Bool.and_eq_true] at hand
  exact hand.1

/-- A read of a slot without error or poison empties it at most, and leaves the other slots' full bits (R205). -/
theorem Fx.readSlot_intact {x : Fx} (he : x.c.errs = []) (hp : x.c.poison = 0) (i : Nat) :
    ∃ d, x.readSlot i = ⟨d, x.ev⟩ ∧ x.c.Emptied d ∧ ∀ j, j ≠ i → d.isFull j = x.c.isFull j := by
  have hslot : x.checkSlot i = x := by simp [Fx.checkSlot, he, mapGet, flipBitsOf]
  have hframe : x.checkFrame i = x := by simp [Fx.checkFrame, he, mapGet, flipBitsOf, parityBad]
  have hclean : x.c.isPoison i = false := by simp [Cell.isPoison, hp]
  by_cases hi : i < 512
  · by_cases hflow : x.c.tagMode i = 2
    · refine ⟨{ x.c with full := setBit x.c.full i false }, ?_, ⟨rfl, fun j => getLsbD_of_setBit_false⟩, fun j hj => getLsbD_setBit_other x.c.full false hj⟩
      simp only [Fx.readSlot, hi, hslot, hclean, hflow, Fx.map, Bool.false_eq_true, if_true, if_false]
    · exact ⟨x.c, by simp only [Fx.readSlot, hi, hslot, hclean, hflow, Bool.false_eq_true, if_true, if_false], .refl _, fun _ _ => rfl⟩
  · exact ⟨x.c, by simp only [Fx.readSlot, hi, hframe, if_false], .refl _, fun _ _ => rfl⟩

/-- What has been read so far stays as it was read when one more value is put beside it. -/
theorem mapGet_mapPut_of_mapHas {α : Type} {d : α} {m : SMap α} {g : Nat → α} (h : ∀ i, mapHas m i = true → mapGet d m i = g i) (j : Nat) {i : Nat}
    (hi : mapHas (mapPut m j (g j)) i = true) : mapGet d (mapPut m j (g j)) i = g i := by
  by_cases hij : i = j
  · rw [hij, mapGet_mapPut_same]
  · rw [mapGet_mapPut_other _ _ _ hij]
    exact h i (by simpa [mapHas_mapPut, hij] using hi)

/-- Slots without error or poison, full where tagged, are all taken as they stand. -/
theorem Fx.takeSlots_intact {x : Fx} (he : x.c.errs = []) (hp : x.c.poison = 0) {l : List Nat} {got : SMap (List Byte)}
    (hl : ∀ i ∈ l, mapHas got i = true ∨ (x.c.tagged i && !x.c.isFull i) = false) (hgot : ∀ i, mapHas got i = true → mapGet [] got i = x.c.piece i) :
    ∃ d got', x.takeSlots got l = (⟨d, x.ev⟩, got', none) ∧ x.c.Emptied d ∧ ∀ i, i ∈ l ∨ mapHas got i = true → mapGet [] got' i = x.c.piece i := by
  induction l generalizing x got with
  | nil => exact ⟨x.c, got, rfl, .refl _, fun i hi => hgot i (by simpa using hi)⟩
  | cons j l ih =>
    obtain ⟨hj, hl⟩ := List.forall_mem_cons.1 hl
    by_cases hhas : mapHas got j = true
    · obtain ⟨d, got', htake, hd, hget⟩ := ih he hp hl hgot
      refine ⟨d, got', by simpa [Fx.takeSlots, hhas] using htake, hd, fun i hi => hget i ?_⟩
      rcases hi.imp_left List.mem_cons.1 with (rfl | hi) | hi
      · exact .inr hhas
      · exact .inl hi
      · exact .inr hi
    · obtain ⟨e, hread, he', hothers⟩ := Fx.readSlot_intact he hp j
      have hrest : ∀ i ∈ l, mapHas (mapPut got j (x.c.piece j)) i = true ∨ (e.tagged i && !e.isFull i) = false := by
        intro i hi
        by_cases hij : i = j
        · exact .inl (by simp [mapHas_mapPut, hij])
        · rw [he'.tagged, hothers i hij, mapHas_mapPut]
          exact (hl i hi).imp_left fun h => by simp [h]
      obtain ⟨d, got', htake, hd, hget⟩ := ih (x := ⟨e, x.ev⟩) (he'.errs.trans he) (he'.poison.trans hp) hrest
        fun i hi => (mapGet_mapPut_of_mapHas hgot j hi).trans (he'.piece i).symm
      have hfree : (x.c.tagged j && !x.c.isFull j) = false := hj.resolve_left hhas
      have hbytes : memRead e.mem (64 * j) 64 = x.c.piece j := he'.piece j
      refine ⟨d, got', ?_, he'.trans hd, fun i hi => (hget i ?_).trans (he'.piece i)⟩
      · simpa only [Fx.takeSlots, hhas, hfree, hread, hbytes, Bool.false_eq_true, if_false] using htake
      · rcases hi.imp_left List.mem_cons.1 with (rfl | hi) | hi
        · exact .inr (by simp [mapHas_mapPut])
        · exact .inl hi
        · exact .inr (by simp [mapHas_mapPut, hi])

/-- A vector instruction without a record takes operands without error or poison range by range as their slots give them (R205). -/
theorem vecRead_intact {lead : Bool} {seed : Nat} {x : Fx} {r : Run} {kd : VecKind} {f : VecF} (hdeq : ¬ (kd = .cvt ∧ vfDeq f = true)) (hscl : kd ≠ .sclConvert)
    (hr : r.got = []) (he : x.c.errs = []) (hp : x.c.poison = 0) (hf : x.c.firstEmpty (vecNeeds kd r.qi f (r.qi.elemCount f)) = none) :
    ∃ d got, vecRead lead seed x r kd f = vecTake lead ⟨d, x.ev⟩ r kd f seed (r.qi.elemCount f) got none ∧ x.c.Emptied d
      ∧ (vecReads kd r.qi f (r.qi.elemCount f)).map (fun d => gather got d.1 d.2) = (vecReads kd r.qi f (r.qi.elemCount f)).map fun d => x.c.bytesBySlot d.1 d.2 := by
  have hfull : ∀ i ∈ vecNeeds kd r.qi f (r.qi.elemCount f), (x.c.tagged i && !x.c.isFull i) = false := fun i hi => by
    simpa using List.find?_eq_none.1 hf i hi
  obtain ⟨d, got, htake, hd, hget⟩ := Fx.takeSlots_intact he hp (got := []) (fun i hi => .inr (hfull i hi)) (by simp [mapHas])
  refine ⟨d, got, by simp only [vecRead, hdeq, hscl, hr, htake, if_false], hd, List.map_congr_left fun w hw => ?_⟩
  have hpieces : (slotsOf w.1 w.2).map (mapGet [] got) = (slotsOf w.1 w.2).map x.c.piece :=
    List.map_congr_left fun i hi => hget i (.inl (List.mem_flatMap.2 ⟨w, hw, hi⟩))
  rw [gather, Cell.bytesBySlot, List.flatMap_def, List.flatMap_def, hpieces]

/-! The element-wise instructions. -/

/-- VADD, VMUL, VFMA, VMAX, VMIN, VEXP2, VRCP and VRSQ (R186, R187). -/
def elementwise : VecKind → Bool
  | .add | .mul | .fma | .max | .min | .exp2 | .rcp | .rsq => true
  | _ => false

/-- The results of an element-wise instruction over the operands that `src` gives for its registers, packed (R186, R187). -/
def QI.elementwise (q : QI) (kd : VecKind) (f : VecF) (seed : Nat) (src : AReg → List Byte) : List Byte :=
  let m := q.elemCount f
  if kd = .exp2 ∨ kd = .rcp ∨ kd = .rsq then pack (fmtBits f.fd.toNat) ((elems f.fs.toNat m (src f.rs1)).map fun e => vecFun kd f.fd.toNat (decodeElem f.fs.toNat e))
  else vecArith kd f seed (q.reg (f.rc.toNat + 3)).toNat m (q.coord f.rc m) (src f.rs1) (src f.rs2) (if kd = .fma then src f.rx else src f.rs2)

/-- The results are the one thing that such an instruction makes of its operands. -/
theorem vecDo_elementwise {kd : VecKind} (hk : elementwise kd = true) (x : Fx) (r : Run) (f : VecF) (seed : Nat) (bytes : Nat → Nat → List Byte) (rec : Option ScaleRec) :
    vecDo x r kd f seed (r.qi.elemCount f) ((vecReads kd r.qi f (r.qi.elemCount f)).map fun d => bytes d.1 d.2) rec =
      ⟨x, pieces (some f.tag) false (r.qi.addr f.rd) (r.qi.elementwise kd f seed fun a => bytes (r.qi.addr a) (opLen f.fs (r.qi.elemCount f)))⟩ := by
  cases kd <;> cases hk <;> rfl

/-- Operands that nothing blocks, marks or powers down, and a destination that takes the results at once (R174, R199, R201, R205, R219). -/
structure Cell.Serves (c : Cell) (lead : Bool) (q : QI) (kd : VecKind) (f : VecF) (out : List Byte) : Prop where
  some : q.elemCount f ≠ 0
  banks : ∀ d ∈ vecReads kd q f (q.elemCount f) ++ vecDests true kd q f (q.elemCount f) 8, c.bankDown d.1 d.2 = false
  canonical : memWf c.mem = true
  intact : c.errs = []
  clean : c.poison = 0
  full : c.firstEmpty (vecNeeds kd q f (q.elemCount f)) = none
  bounds : localOk lead (q.addr f.rd) out.length = true
  bank : c.bankDown (q.addr f.rd) out.length = false
  free : ∀ i ∈ slotsOf (q.addr f.rd) out.length, c.blocksWrite i = false

/-- An element-wise instruction stores its results whole, and leaves the sequencer as it was. -/
theorem vecRead_elementwise {lead : Bool} {seed : Nat} {x : Fx} {r : Run} {kd : VecKind} {f : VecF} {out : List Byte} (hk : elementwise kd = true) (hr : r.got = [])
    (hout : r.qi.elementwise kd f seed (fun a => memRead x.c.mem (r.qi.addr a) (opLen f.fs (r.qi.elemCount f))) = out) (h : x.c.Serves lead r.qi kd f out) :
    ∃ e, (vecRead lead seed x r kd f).1 = ⟨e, x.ev⟩ ∧ e.mem = memWrite x.c.mem (r.qi.addr f.rd) out ∧ e.seq = x.c.seq := by
  have hdeq : ¬ (kd = .cvt ∧ vfDeq f = true) := by rintro ⟨rfl, -⟩; cases hk
  have hscl : kd ≠ .sclConvert := by rintro rfl; cases hk
  obtain ⟨d, got, hread, hd, hgot⟩ := vecRead_intact (lead := lead) (seed := seed) hdeq hscl hr h.intact h.clean h.full
  have hspan : (fun d : Nat × Nat => x.c.bytesBySlot d.1 d.2) = fun d => memRead x.c.mem d.1 d.2 :=
    funext fun d => Cell.bytesBySlot_of_memWf h.canonical d.1 d.2
  have hdo : vecDo ⟨d, x.ev⟩ { r with got := [] } kd f seed (r.qi.elemCount f) ((vecReads kd r.qi f (r.qi.elemCount f)).map fun d => gather got d.1 d.2) none =
      ⟨⟨d, x.ev⟩, pieces (some f.tag) false (r.qi.addr f.rd) out⟩ := by
    rw [hgot, hspan, ← hout]
    exact vecDo_elementwise hk _ _ f seed _ none
  obtain ⟨e, hwrite, hsame, hmem⟩ := vecTake_oneRange hdo rfl h.bounds ((hd.bankDown ..).trans h.bank) fun i hi => hd.blocksWrite (h.free i hi)
  refine ⟨e, hread ▸ hwrite, ?_, hsame.seq.trans hd.seq⟩
  rw [hmem, storePieces_pieces _ _ (by rw [hd.mem]; exact h.canonical), hd.mem]

theorem issueVector_elementwise {lead : Bool} {seed : Nat} {c : Cell} {q : QI} {kd : VecKind} {f : VecF} {out : List Byte} (hop : q.op = .vec kd f)
    (hk : elementwise kd = true) (hout : q.elementwise kd f seed (fun a => memRead c.mem (q.addr a) (opLen f.fs (q.elemCount f))) = out) (h : c.Serves lead q kd f out) :
    ∃ e, (issueVector lead seed (Fx.of c) q).1 = Fx.of e ∧ e.mem = memWrite c.mem (q.addr f.rd) out ∧ e.seq = c.seq := by
  have hpal : palAddr kd q f = [] := by cases kd <;> cases hk <;> rfl
  have hbad : palRangeBad lead kd q f (q.elemCount f) (palOf []) = false := by cases kd <;> cases hk <;> rfl
  have hissue : issueVector lead seed (Fx.of c) q = vecGo lead seed (Fx.of c) (Run.start q) kd f := by simp only [issueVector, hop]
  rw [hissue, vecGo_noPalette (x := Fx.of c) (r := Run.start q) (.inr h.some) hpal hbad h.banks]
  exact vecRead_elementwise hk rfl hout h

/-- Dispatch of an element-wise instruction that finds its unit free (R146). -/
theorem dispatch_elementwise {s : State} {k : Nat} {p : Pred} {kd : VecKind} {f : VecF} {q : QI} {out : List Byte} (hq : q = s.taken k p (.vec kd f) [])
    (hk : elementwise kd = true) (ho : Open s k p (.vec kd f) [] .vector) (hidle : (s.cell k).units.vec = none) (hramp : s.rampRoom k = true)
    (hout : q.elementwise kd f (s.seedOf k) (fun a => memRead (s.cell k).mem (q.addr a) (opLen f.fs (q.elemCount f))) = out)
    (h : (s.cell k).Serves (isLead (cellNo k)) q kd f out) :
    ∃ e, dispatch s k p (.vec kd f) = s.setCell k e ∧ e.mem = memWrite (s.cell k).mem (q.addr f.rd) out ∧ e.seq = (s.cell k).seq.onward := by
  subst hq
  have hsent : (s.sent k).Serves (isLead (cellNo k)) (s.taken k p (.vec kd f) []) kd f out :=
    ⟨h.some, h.banks, h.canonical, h.intact, h.clean, h.full, h.bounds, h.bank, h.free⟩
  obtain ⟨e, hissue, hmem, hseq⟩ := issueVector_elementwise (c := s.sent k) rfl hk hout hsent
  have hdispatch := dispatch_vector ho hidle hramp
  dsimp only at hdispatch
  rw [hissue] at hdispatch
  exact ⟨_, hdispatch, hmem, hseq⟩

/-- Each of the eight commands dispatches its kind. -/
theorem exec_elementwise {i : Instr} {c : CellId} {p : Pred} {kd : VecKind} {f : VecF}
    (h : i = .vadd c p f ∧ kd = .add ∨ i = .vmul c p f ∧ kd = .mul ∨ i = .vfma c p f ∧ kd = .fma ∨ i = .vmax c p f ∧ kd = .max ∨ i = .vmin c p f ∧ kd = .min
      ∨ i = .vexp2 c p f ∧ kd = .exp2 ∨ i = .vrcp c p f ∧ kd = .rcp ∨ i = .vrsq c p f ∧ kd = .rsq) (s : State) :
    elementwise kd = true ∧ exec i s = .next (dispatch s (cellKey c) p (.vec kd f)) := by
  rcases h with ⟨rfl, rfl⟩ | ⟨rfl, rfl⟩ | ⟨rfl, rfl⟩ | ⟨rfl, rfl⟩ | ⟨rfl, rfl⟩ | ⟨rfl, rfl⟩ | ⟨rfl, rfl⟩ | ⟨rfl, rfl⟩ <;> exact ⟨rfl, rfl⟩

/-- Settles O14: the instruction reads its operands as they stand, and a canonical memory gives its results in their range and everything else as before. -/
theorem elementwiseVectorResults : Obligations.ElementwiseVectorResults := by
  unfold Obligations.ElementwiseVectorResults
  intro s c p i kd f k b op q m src out hi ho hidle hramp hm he hp hwf hbanks hf hin hbank hfree
  obtain ⟨hk, hexec⟩ := exec_elementwise hi s
  obtain ⟨e, hdispatch, hmem, hseq⟩ := dispatch_elementwise (q := q) (out := out) rfl hk ho hidle hramp rfl ⟨hm, hbanks, hwf, he, hp, hf, hin, hbank, hfree⟩
  refine ⟨_, hexec.trans (congrArg _ hdispatch), fun a => ?_, ?_, fun j hj => State.cell_setCell_other s _ hj⟩
  · rw [State.cell_setCell, hmem]
    exact memGet_memWrite _ _ _ hwf
  · rw [State.cell_setCell, hseq]

end Sys2Proof.Machine
end

section
/-! PROOF. What "every memory is canonical" rests on (log entry 2): the cells, the blocks and the HBM of a state, its own updates, and folds. -/
namespace Sys2Proof.Machine

/-! Maps whose listed values meet a condition. -/

section Listed
variable {α : Type} {p : α → Bool} {d : α}

/-- A value put in place of one that meets the condition as it does changes nothing about it. -/
theorem all_mapPut_eq (m : SMap α) (k : Nat) {v : α} (hd : p d = true) (h : p v = p (mapGet d m k)) :
    ((mapPut m k v).all fun e => p e.2) = m.all fun e => p e.2 := by
  induction m with
  | nil => simp [mapPut, h, mapGet, hd]
  | cons e t ih =>
    obtain ⟨j, w⟩ := e
    simp only [mapPut, mapGet] at h ⊢
    by_cases hlt : k < j
    · simp [hlt, h, Nat.ne_of_lt hlt, hd]
    · by_cases heq : k = j
      · simp [heq, h]
      · simp only [hlt, heq, if_false] at h ⊢
        simp [ih h]

theorem all_mapPut {m : SMap α} {v : α} (k : Nat) (h : (m.all fun e => p e.2) = true) (hv : p v = true) : ((mapPut m k v).all fun e => p e.2) = true := by
  induction m with
  | nil => simp [mapPut, hv]
  | cons e t ih =>
    obtain ⟨j, w⟩ := e
    simp only [List.all_cons, Bool.and_eq_true] at h
    simp only [mapPut]
    split
    · simp [h, hv]
    · split
      · simp [h, hv]
      · simp [h, ih h.2]

theorem all_mapGet {m : SMap α} (k : Nat) (h : (m.all fun e => p e.2) = true) (hd : p d = true) : p (mapGet d m k) = true := by
  induction m with
  | nil => exact hd
  | cons e t ih =>
    obtain ⟨j, w⟩ := e
    simp only [List.all_cons, Bool.and_eq_true] at h
    simp only [mapGet]
    split
    · exact h.1
    · split
      · exact hd
      · exact ih h.2
end Listed

/-! What the canonical form of the state rests on: the HBM's bytes, the cells and the blocks. -/

theorem State.memOk_iff (s : State) :
    s.memOk = true ↔ memWf s.hbm.mem = true ∧ (s.cells.all fun c => memWf c.2.mem) = true ∧ (s.blocks.all fun b => memWf b.2.istore) = true := by
  simp [State.memOk, and_assoc]

section Parts
variable {s : State}
@[simp] theorem State.hbm_memWf (h : s.memOk = true) : memWf s.hbm.mem = true := (s.memOk_iff.1 h).1
@[simp] theorem State.cell_memWf (h : s.memOk = true) (k : Nat) : memWf (s.cell k).mem = true :=
  all_mapGet (p := fun c : Cell => memWf c.mem) k (s.memOk_iff.1 h).2.1 rfl
@[simp] theorem State.blk_memWf (h : s.memOk = true) (k : Nat) : memWf (s.blk k).istore = true :=
  all_mapGet (p := fun b : Block => memWf b.istore) k (s.memOk_iff.1 h).2.2 rfl
end Parts

/-! The state's own updates. -/

section Updates
variable (s : State)

/-- Whatever else changes, the same HBM, cells and blocks are as canonical as before. -/
@[simp] theorem State.memOk_mk {p r cu f n j fl hu o fr} : State.memOk ⟨p, s.cells, s.blocks, r, cu, s.hbm, f, n, j, fl, hu, o, fr⟩ = s.memOk := rfl

theorem State.memOk_setCell_eq (k : Nat) {c : Cell} (h : memWf c.mem = memWf (s.cell k).mem) : (s.setCell k c).memOk = s.memOk := by
  have hcells : ((mapPut s.cells k c).all fun c => memWf c.2.mem) = s.cells.all fun c => memWf c.2.mem :=
    all_mapPut_eq (p := fun c : Cell => memWf c.mem) (d := Cell.reset) s.cells k rfl h
  simp only [State.memOk, State.setCell, hcells]

@[simp] theorem State.memOk_setCell_same (k : Nat) {c : Cell} (h : c.mem = (s.cell k).mem) : (s.setCell k c).memOk = s.memOk :=
  s.memOk_setCell_eq k (by rw [h])

@[simp] theorem State.memOk_modCell_same (k : Nat) {f : Cell → Cell} (h : ∀ c, (f c).mem = c.mem) : (s.modCell k f).memOk = s.memOk :=
  s.memOk_setCell_same k (h _)

theorem State.memOk_modBlk_at (k : Nat) {f : Block → Block} (h : (f (s.blk k)).istore = (s.blk k).istore) : (s.modBlk k f).memOk = s.memOk := by
  have hblocks : ((mapPut s.blocks k (f (s.blk k))).all fun b => memWf b.2.istore) = s.blocks.all fun b => memWf b.2.istore :=
    all_mapPut_eq (p := fun b : Block => memWf b.istore) (d := Block.reset) s.blocks k rfl (by rw [h]; rfl)
  simp only [State.memOk, State.modBlk, hblocks]

@[simp] theorem State.memOk_modBlk_same (k : Nat) {f : Block → Block} (h : ∀ b, (f b).istore = b.istore) : (s.modBlk k f).memOk = s.memOk :=
  s.memOk_modBlk_at k (h _)

@[simp] theorem State.memOk_setCell {s : State} (k : Nat) {c : Cell} (h : s.memOk = true) (hc : memWf c.mem = true) : (s.setCell k c).memOk = true := by
  obtain ⟨hh, hcells, hb⟩ := s.memOk_iff.1 h
  exact (State.memOk_iff _).2 ⟨hh, all_mapPut (p := fun c : Cell => memWf c.mem) k hcells hc, hb⟩

@[simp] theorem State.memOk_modCell {s : State} (k : Nat) {f : Cell → Cell} (h : s.memOk = true) (hc : memWf (f (s.cell k)).mem = true) : (s.modCell k f).memOk = true :=
  State.memOk_setCell k h hc

@[simp] theorem State.memOk_modBlk {s : State} (k : Nat) {f : Block → Block} (h : s.memOk = true) (hf : memWf (f (s.blk k)).istore = true) : (s.modBlk k f).memOk = true := by
  obtain ⟨hh, hc, hblocks⟩ := s.memOk_iff.1 h
  exact (State.memOk_iff _).2 ⟨hh, hc, all_mapPut (p := fun b : Block => memWf b.istore) k hblocks hf⟩

@[simp] theorem State.memOk_setHbm {s : State} {g : Hbm} (h : s.memOk = true) (hg : memWf g.mem = true) : State.memOk { s with hbm := g } = true := by
  obtain ⟨-, hc, hb⟩ := s.memOk_iff.1 h
  exact (State.memOk_iff _).2 ⟨hg, hc, hb⟩
end Updates

/-! Choices and folds. -/

@[simp] theorem Cell.mem_ite (p : Prop) [Decidable p] (c d : Cell) : (if p then c else d).mem = if p then c.mem else d.mem := apply_ite ..
@[simp] theorem Fx.c_ite (p : Prop) [Decidable p] (x y : Fx) : (if p then x else y).c = if p then x.c else y.c := apply_ite ..
@[simp] theorem memWf_ite (p : Prop) [Decidable p] (m n : Memory) : memWf (if p then m else n) = if p then memWf m else memWf n := apply_ite ..
@[simp] theorem State.memOk_ite (c : Prop) [Decidable c] (s t : State) : (if c then s else t).memOk = if c then s.memOk else t.memOk := apply_ite ..

@[simp] theorem State.memOk_foldl_eq {α : Type} {f : State → α → State} (hf : ∀ s a, (f s a).memOk = s.memOk) (l : List α) (s : State) : (l.foldl f s).memOk = s.memOk :=
  List.foldlRecOn (motive := fun t => t.memOk = s.memOk) l f rfl fun t ht a _ => (hf t a).trans ht

theorem State.memOk_foldl {α : Type} {f : State → α → State} (hf : ∀ s a, s.memOk = true → (f s a).memOk = true) (l : List α) {s : State} (h : s.memOk = true) :
    (l.foldl f s).memOk = true :=
  List.foldlRecOn (motive := fun t => t.memOk = true) l f h fun t ht a _ => hf t a ht

end Sys2Proof.Machine
end

section
/-! PROOF. Steps keep byte memories canonical (log entry 2; spec/09_scratchpad_hbm.md R197, R199): the operations of one cell on its own state. -/
namespace Sys2Proof.Machine

/-! What a cell reports. -/

@[simp] theorem Fx.map_c (f : Cell → Cell) (x : Fx) : (x.map f).c = f x.c := (rfl)

@[simp] theorem Fx.of_c (c : Cell) : (Fx.of c).c = c := (rfl)

@[simp] theorem Cell.tally_mem (c : Cell) (ev n : Nat) : (Cell.tally c ev n).mem = c.mem := by rfl
@[simp] theorem Cell.setSeq_mem (f : Seq → Seq) (c : Cell) : (Cell.setSeq f c).mem = c.mem := by rfl
@[simp] theorem Cell.setRegs_mem (f : CellRegs → CellRegs) (c : Cell) : (Cell.setRegs f c).mem = c.mem := by rfl
@[simp] theorem Cell.setMr_mem (f : MemRegs → MemRegs) (c : Cell) : (Cell.setMr f c).mem = c.mem := by rfl
@[simp] theorem Cell.setUnits_mem (f : Units → Units) (c : Cell) : (Cell.setUnits f c).mem = c.mem := by rfl
@[simp] theorem Fx.stop_mem (x : Fx) : (Fx.stop x).c.mem = x.c.mem := by rfl
@[simp] theorem Fx.note_mem (x : Fx) (cls : Nat) (detail : List Byte) (injected : Bool) : (Fx.note x cls detail injected).c.mem = x.c.mem := by rfl
@[simp] theorem Fx.stopPoint_mem (x : Fx) : (Fx.stopPoint x).c.mem = x.c.mem := by simp [Fx.stopPoint]
@[simp] theorem Fx.stopIfWaiting_mem (x : Fx) : (Fx.stopIfWaiting x).c.mem = x.c.mem := by simp [Fx.stopIfWaiting]
@[simp] theorem Fx.fault_mem (x : Fx) (cls : Nat) (detail : List Byte) (injected : Bool) : (Fx.fault x cls detail injected).c.mem = x.c.mem := by simp [Fx.fault]
@[simp] theorem Fx.faultQuiet_mem (x : Fx) (cls : Nat) : (Fx.faultQuiet x cls).c.mem = x.c.mem := by simp [Fx.faultQuiet]
@[simp] theorem Fx.faultNow_mem (x : Fx) (cls : Nat) (detail : List Byte) (injected : Bool) : (Fx.faultNow x cls detail injected).c.mem = x.c.mem := by rfl
@[simp] theorem Fx.saturated_mem (x : Fx) (n : Nat) : (Fx.saturated x n).c.mem = x.c.mem := by simp [Fx.saturated]
@[simp] theorem Fx.accMisuse_mem (x : Fx) (word : DWord) (tile : Nat) : (Fx.accMisuse x word tile).c.mem = x.c.mem := by simp [Fx.accMisuse]
@[simp] theorem Fx.palMisuse_mem (x : Fx) (word : DWord) (addr : Nat) : (Fx.palMisuse x word addr).c.mem = x.c.mem := by simp [Fx.palMisuse]
@[simp] theorem Fx.sparseMisuse_mem (x : Fx) (word : DWord) (slot : Nat) : (Fx.sparseMisuse x word slot).c.mem = x.c.mem := by simp [Fx.sparseMisuse]
@[simp] theorem Fx.badBlock_mem (x : Fx) (word : DWord) (addr : Nat) : (Fx.badBlock x word addr).c.mem = x.c.mem := by simp [Fx.badBlock]
@[simp] theorem Fx.desync_mem (x : Fx) (t h : Byte) (behind : Bool) (operand : Nat) : (Fx.desync x t h behind operand).c.mem = x.c.mem := by simp [Fx.desync]
@[simp] theorem Fx.metaDrop_mem (x : Fx) (cls n : Nat) : (Fx.metaDrop x cls n).c.mem = x.c.mem := by simp [Fx.metaDrop]
@[simp] theorem Fx.refused_mem (x : Fx) (addr : Nat) : (Fx.refused x addr).c.mem = x.c.mem := by simp [Fx.refused]
@[simp] theorem Fx.outOfRange_mem (x : Fx) : (Fx.outOfRange x).c.mem = x.c.mem := by rfl
@[simp] theorem Fx.badFormat_mem (x : Fx) : (Fx.badFormat x).c.mem = x.c.mem := by simp [Fx.badFormat]

/-! Operands of a cell. -/

@[simp] theorem Cell.clearErrs_mem (c : Cell) (slot : Nat) : (Cell.clearErrs c slot).mem = c.mem := by rfl
@[simp] theorem Cell.put_memWf {c : Cell} (a : Nat) (l : List Byte) (h : memWf c.mem = true) : memWf (c.put a l).mem = true := memWrite_wf a l h

@[simp] theorem Cell.flip_memWf {c : Cell} (piece : Nat) (l : List Nat) (h : memWf c.mem = true) : memWf (c.flip piece l).mem = true := by
  rw [Cell.flip_mem]
  exact flipBits_wf _ _ h

@[simp] theorem Cell.setPoison_mem (c : Cell) (slot : Nat) (b : Bool) : (Cell.setPoison c slot b).mem = c.mem := by rfl
@[simp] theorem Cell.spmUnc_mem (c : Cell) : (Cell.spmUnc c).mem = c.mem := by rfl

@[simp] theorem Fx.checkSlot_memWf {x : Fx} (slot : Nat) (h : memWf x.c.mem = true) : memWf (x.checkSlot slot).c.mem = true := by
  simp [Fx.checkSlot, h, flipBits_wf]

@[simp] theorem Fx.peekSlot_memWf (x : Fx) (slot : Nat) (h : memWf x.c.mem = true) : memWf (Fx.peekSlot x slot).c.mem = true := by
  unfold Fx.peekSlot
  split <;> simp [h]

theorem Fx.foldl_memWf {α : Type} {f : Fx → α → Fx} (hf : ∀ x a, memWf x.c.mem = true → memWf (f x a).c.mem = true) (l : List α) {x : Fx} (h : memWf x.c.mem = true) :
    memWf (l.foldl f x).c.mem = true :=
  List.foldlRecOn (motive := fun y => memWf y.c.mem = true) l f h fun y hy a _ => hf y a hy

@[simp] theorem Fx.peek_memWf {x : Fx} (a n : Nat) (h : memWf x.c.mem = true) : memWf (x.peek a n).c.mem = true :=
  Fx.foldl_memWf (fun _ slot hx => Fx.peekSlot_memWf _ slot hx) _ h

@[simp] theorem Fx.checkFrame_mem (x : Fx) (piece : Nat) : (Fx.checkFrame x piece).c.mem = x.c.mem := by simp [Fx.checkFrame]

@[simp] theorem Fx.checkSlots_memWf {x : Fx} (slots : List Nat) (h : memWf x.c.mem = true) : memWf (x.checkSlots slots).c.mem = true := by
  refine Fx.foldl_memWf (fun y slot hy => ?_) slots h
  simp [hy]

@[simp] theorem Fx.readSlot_memWf {x : Fx} (slot : Nat) (h : memWf x.c.mem = true) : memWf (x.readSlot slot).c.mem = true := by
  simp [Fx.readSlot, h]

@[simp] theorem Fx.readRange_memWf {x : Fx} (a n : Nat) (h : memWf x.c.mem = true) : memWf (x.readRange a n).1.c.mem = true :=
  Fx.foldl_memWf (fun _ slot hx => Fx.readSlot_memWf slot hx) _ h

@[simp] theorem Cell.writePiece_memWf (c : Cell) (w : Piece) (h : memWf c.mem = true) : memWf (Cell.writePiece c w).mem = true := by
  unfold Cell.writePiece
  split <;> simp [h]

@[simp] theorem Cell.loadPiece_memWf (c : Cell) (w : Piece) (h : memWf c.mem = true) : memWf (Cell.loadPiece c w).mem = true := by
  unfold Cell.loadPiece
  split <;> simp [h]

@[simp] theorem Cell.writePieces_memWf (c : Cell) (l : List Piece) (h : memWf c.mem = true) : memWf (Cell.writePieces c l).1.mem = true := by
  induction l generalizing c with
  | nil => exact h
  | cons w t ih =>
    unfold Cell.writePieces
    split
    · exact h
    · exact ih _ (c.writePiece_memWf w h)

@[simp] theorem Fx.takeSlots_memWf (x : Fx) (got : SMap (List Byte)) (l : List Nat) (h : memWf x.c.mem = true) : memWf (Fx.takeSlots x got l).1.c.mem = true := by
  induction l generalizing x got with
  | nil => exact h
  | cons i t ih =>
    unfold Fx.takeSlots
    split
    · exact ih _ _ h
    · split
      · exact h
      · exact ih _ _ (x.readSlot_memWf i h)

/-! Palettes, conversions and scales. -/

@[simp] theorem Cell.setPal_memWf (c : Cell) (a : Nat) (p : Pal) (h : memWf c.mem = true) : memWf (Cell.setPal c a p).mem = true := by simp [Cell.setPal, h]
@[simp] theorem Fx.checkPal_memWf (x : Fx) (a : Nat) (h : memWf x.c.mem = true) : memWf (Fx.checkPal x a).c.mem = true := by simp [Fx.checkPal, h]
@[simp] theorem Fx.palSaturated_mem (x : Fx) (a : Nat) : (Fx.palSaturated x a).c.mem = x.c.mem := by rfl
@[simp] theorem Fx.addStats_memWf (x : Fx) (a : Nat) (s : Stats) (scale : Option Nat) (h : memWf x.c.mem = true) : memWf (Fx.addStats x a s scale).c.mem = true := by simp [Fx.addStats, h]

@[simp] theorem Fx.peekRec_memWf {x : Fx} (s : Stream) (h : memWf x.c.mem = true) : memWf (x.peekRec s).c.mem = true := by
  unfold Fx.peekRec
  split
  · exact h
  · exact Fx.foldl_memWf (fun _ slot hx => Fx.peekSlot_memWf _ slot hx) _ (Fx.peekSlot_memWf _ _ h)

@[simp] theorem Fx.takeRec_memWf {x : Fx} (i seq : Nat) (h : memWf x.c.mem = true) : memWf (x.takeRec i seq).c.mem = true :=
  Fx.foldl_memWf (fun _ slot hx => Fx.readSlot_memWf slot hx) _ h

/-! The array. -/

@[simp] theorem Cell.setWord_memWf (c : Cell) (a v : Nat) (h : memWf c.mem = true) : memWf (Cell.setWord c a v).mem = true := by simp [Cell.setWord, h]

@[simp] theorem treeEnter_memWf {int : Bool} {aBase bBase off f j n : Nat} {x : Acc} {c : Cell} (h : memWf c.mem = true) :
    memWf (treeEnter int aBase bBase off f j n x c).1.mem = true := by
  induction f generalizing j x with
  | zero => exact h
  | succ f ih =>
    unfold treeEnter
    split
    · exact Cell.setWord_memWf _ _ _ h
    · split
      · exact ih
      · exact Cell.setWord_memWf _ _ _ h

@[simp] theorem Cell.setFrame_mem (c : Cell) (f : Nat) (v : Frame) : (Cell.setFrame c f v).mem = c.mem := by rfl
end Sys2Proof.Machine
end

section
/-! PROOF. Steps keep byte memories canonical: the array engine and the vector unit (spec/03_cim_cell.md, spec/08_instruction_reference.md). -/
namespace Sys2Proof.Machine

/-! The array engine. -/

@[simp] theorem Cell.setSlot_mem (c : Cell) (i : Nat) (v : Slot) : (Cell.setSlot c i v).mem = c.mem := by simp [Cell.setSlot]
@[simp] theorem Cell.modSlot_mem (c : Cell) (i : Nat) (f : Slot → Slot) : (Cell.modSlot c i f).mem = c.mem := by simp [Cell.modSlot]
@[simp] theorem Fx.marginEvents_mem (x : Fx) (os : List PlaneFail) : (Fx.marginEvents x os).c.mem = x.c.mem := by simp [Fx.marginEvents]
@[simp] theorem Fx.marginFault_mem (x : Fx) (o : PlaneFail) (swatch injected : Bool) : (Fx.marginFault x o swatch injected).c.mem = x.c.mem := by simp [Fx.marginFault]

@[simp] theorem Fx.forcedEvents_mem (x : Fx) : (Fx.forcedEvents x).1.c.mem = x.c.mem := by
  unfold Fx.forcedEvents
  dsimp only
  (repeat' split) <;> simp

@[simp] theorem issueSwatch_mem (x : Fx) (q : QI) : (issueSwatch x q).1.c.mem = x.c.mem := by
  unfold issueSwatch
  dsimp only
  (repeat' split) <;> simp

theorem Cell.foldl_modSlot_mem (g : Slot → Slot) (l : List Nat) (c : Cell) : (l.foldl (fun c i => c.modSlot i g) c).mem = c.mem :=
  List.foldlRecOn (motive := fun d : Cell => d.mem = c.mem) l _ rfl fun d hd i _ => (Cell.modSlot_mem d i g).trans hd

@[simp] theorem Cell.beginWrite_mem (c : Cell) (slots : List Nat) (scaled : Bool) : (c.beginWrite slots scaled).mem = c.mem := c.foldl_modSlot_mem _ slots

@[simp] theorem Cell.endWrite_mem (c : Cell) (slots : List Nat) : (c.endWrite slots).mem = c.mem := c.foldl_modSlot_mem _ slots
@[simp] theorem Cell.writeTile_mem (c : Cell) (fmt slot group : Nat) (s24 : Bool) (t : Tile) : (Cell.writeTile c fmt slot group s24 t).mem = c.mem := by simp [Cell.writeTile]
@[simp] theorem Cell.tileDone_mem (c : Cell) (slots : List Nat) : (c.tileDone slots).mem = c.mem := c.foldl_modSlot_mem _ slots

@[simp] theorem wloadTake_memWf {x : Fx} (r : Run) (f : WloadF) (src : List Byte) (rec : Option ScaleRec) (h : memWf x.c.mem = true) :
    memWf (wloadTake x r f src rec).1.c.mem = true := by
  simp [wloadTake, h]

@[simp] theorem wloadGo_memWf {x : Fx} (r : Run) (f : WloadF) (h : memWf x.c.mem = true) : memWf (wloadGo x r f).1.c.mem = true := by
  unfold wloadGo
  dsimp only
  split
  · split
    · exact Fx.peekRec_memWf _ h
    · simp [h]
    · exact wloadTake_memWf _ _ _ _ (Fx.takeRec_memWf _ _ (Fx.takeSlots_memWf _ _ _ (Fx.peekRec_memWf _ h)))
  · split
    · exact Fx.takeSlots_memWf _ _ _ h
    · exact wloadTake_memWf _ _ _ _ (Fx.takeSlots_memWf _ _ _ h)

@[simp] theorem issueWload_memWf (lead : Bool) {x : Fx} (q : QI) (f : WloadF) (h : memWf x.c.mem = true) : memWf (issueWload lead x q f).1.c.mem = true := by
  have hpal : memWf (if f.palEn then x.peek (q.addr f.rp) 192 else x).c.mem = true := by simp [h]
  unfold issueWload
  dsimp only
  generalize (if f.palEn then x.peek (q.addr f.rp) 192 else x) = y at hpal ⊢
  (repeat' split) <;> simp [hpal]

@[simp] theorem issueSlotinv_mem (x : Fx) (q : QI) (s : BitVec 1) : (issueSlotinv x q s).1.c.mem = x.c.mem := by simp [issueSlotinv]

@[simp] theorem seqWrite_memWf (c : Cell) (base o v : Nat) (ow int : Bool) (sums : List Acc) (skip : Nat → Bool) (h : memWf c.mem = true) :
    memWf (seqWrite c base o v ow int sums skip).1.mem = true := by simp [seqWrite, h]

@[simp] theorem treeWrite_memWf {c : Cell} (fa fb o v : Nat) (ow int : Bool) (sums : List Acc) (skip : Nat → Bool) (h : memWf c.mem = true) :
    memWf (treeWrite c fa fb o v ow int sums skip).1.mem = true :=
  List.foldlRecOn (motive := fun d : Cell × Nat => memWf d.1.mem = true) _ _ h fun _ hd _ _ => treeEnter_memWf hd

@[simp] theorem Cell.restoreTile_memWf {c : Cell} (fa fb : Nat) (saved : Option (Frame × List Byte × List Byte)) (h : memWf c.mem = true) :
    memWf (c.restoreTile fa fb saved).mem = true := by
  cases saved with
  | none => exact h
  | some k => exact memWrite_wf _ _ (memWrite_wf _ _ h)

@[simp] theorem Fx.foldl_checkFrame_memWf (l : List Nat) {x : Fx} (h : memWf x.c.mem = true) : memWf (l.foldl Fx.checkFrame x).c.mem = true :=
  Fx.foldl_memWf (fun y piece hy => by rwa [y.checkFrame_mem piece]) l h

theorem Fx.ite_self_map_mem (p : Prop) [Decidable p] (x : Fx) {f : Cell → Cell} (hf : ∀ c, (f c).mem = c.mem) : (if p then x else x.map f).c.mem = x.c.mem := by
  split
  · rfl
  · exact hf x.c

theorem Fx.ite_map_self_mem (p : Prop) [Decidable p] (x : Fx) {f : Cell → Cell} (hf : ∀ c, (f c).mem = c.mem) : (if p then x.map f else x).c.mem = x.c.mem := by
  split
  · exact hf x.c
  · rfl

@[simp] theorem mvmVector_memWf {x : Fx} (r : Run) (transposed : Bool) (f : MvmF) (v : InVec) (h : memWf x.c.mem = true) : memWf (mvmVector x r transposed f v).c.mem = true := by
  unfold mvmVector
  dsimp only
  simp only [Fx.ite_self_map_mem, Fx.ite_map_self_mem, Cell.count_mem, Cell.sum_mem, Cell.tally_mem, Fx.saturated_mem, implies_true]
  have hread := Fx.foldl_checkFrame_memWf (mvmReads x.c f (r.qi.map.resolve f.tile) r.qi.map.b.toNat (mvmO transposed (x.c.slot (if f.fmt = 8 then 0 else f.slot.toNat))) (f.first.toNat + r.next)) h
  split
  · exact treeWrite_memWf _ _ _ _ _ _ _ _ hread
  · exact seqWrite_memWf _ _ _ _ _ _ _ _ hread

@[simp] theorem choosePath_mem (x : Fx) (r : Run) (f : MvmF) (h : BlockHdr) : (choosePath x r f h).1.c.mem = x.c.mem := by
  unfold choosePath
  (repeat' split) <;> simp

@[simp] theorem mvmTake_memWf {x : Fx} (r : Run) (transposed : Bool) (f : MvmF) (data : List Byte) (hd : BlockHdr) (rec : Option ScaleRec) (h : memWf x.c.mem = true) :
    memWf (mvmTake x r transposed f data hd rec).1.c.mem = true := by
  unfold mvmTake
  extract_lets p x1 r1 slot s0 d x2 v x3 fa fb skipV sparse fe fs x4 r2 x5 x6 r3
  have h1 : x1.c.mem = x.c.mem := choosePath_mem ..
  have h3 : memWf x3.c.mem = true := by simp [x3, x2, h1, h]
  have h4 : memWf fe.1.c.mem = true := by
    simp only [fe]
    split <;> simp [h3]
  have h5 : memWf x5.c.mem = true := by simp [x5, x4, h4]
  split
  · simp [h4]
  · split
    · simp [x4, h4]
    · exact mvmVector_memWf _ _ _ _ h5

@[simp] theorem mvmTry_memWf (lead : Bool) {x : Fx} (r : Run) (transposed : Bool) (f : MvmF) (h : memWf x.c.mem = true) : memWf (mvmTry lead x r transposed f).1.c.mem = true := by
  unfold mvmTry
  extract_lets s len stream first read y hd n slots z scaled plain
  have hy : memWf y.c.mem = true := by simp [y, h]
  have hz : memWf z.c.mem = true := Fx.peekRec_memWf _ hy
  have hscaled : memWf scaled.1.c.mem = true := Fx.takeSlots_memWf _ _ _ hz
  have hplain : memWf plain.1.c.mem = true := Fx.takeSlots_memWf _ _ _ hy
  split
  · exact h
  · split
    · simp [hy]
    · split
      · simp [hy]
      · split
        · split
          · exact hz
          · simp [hz]
          · exact hz
          · split
            · simp [hz]
            · exact mvmTake_memWf _ _ _ _ _ _ (Fx.takeRec_memWf _ _ hscaled)
        · split
          · exact hplain
          · exact mvmTake_memWf _ _ _ _ _ _ hplain

@[simp] theorem mvmLoop_memWf {lead transposed : Bool} {f : MvmF} {k : Nat} {y : Fx × Run} (h : memWf y.1.c.mem = true) : memWf (mvmLoop lead transposed f k y).1.c.mem = true := by
  induction k generalizing y with
  | zero => exact h
  | succ k ih =>
    unfold mvmLoop
    split
    · exact h
    · exact ih (mvmTry_memWf lead _ transposed f h)

@[simp] theorem mvmGo_memWf (lead : Bool) {x : Fx} (r : Run) (transposed : Bool) (f : MvmF) (h : memWf x.c.mem = true) : memWf (mvmGo lead x r transposed f).1.c.mem = true := by
  have hslots := Fx.takeSlots_memWf x r.got (slotsOf (r.qi.addr f.rk) 32) h
  unfold mvmGo
  dsimp only
  split
  · exact mvmLoop_memWf h
  · split
    · split
      · exact hslots
      · exact mvmLoop_memWf hslots
    · exact mvmLoop_memWf h

@[simp] theorem issueMvm_memWf (lead : Bool) {x : Fx} (q : QI) (transposed : Bool) (f : MvmF) (h : memWf x.c.mem = true) : memWf (issueMvm lead x q transposed f).1.c.mem = true := by
  have hpal : memWf (if f.palEn then x.peek (q.addr f.rp) 192 else x).c.mem = true := by simp [h]
  unfold issueMvm
  dsimp only
  generalize (if f.palEn then x.peek (q.addr f.rp) 192 else x) = y at hpal ⊢
  (repeat' split) <;> simp [hpal]

@[simp] theorem issueArray_memWf (lead : Bool) (x : Fx) (q : QI) (h : memWf x.c.mem = true) : memWf (issueArray lead x q).1.c.mem = true := by
  unfold issueArray
  split <;> simp [h]

@[simp] theorem resumeArray_memWf (lead : Bool) (x : Fx) (r : Run) (h : memWf x.c.mem = true) : memWf (resumeArray lead x r).1.c.mem = true := by
  unfold resumeArray
  dsimp only
  (repeat' split) <;> simp [h]

/-! Issue of the vector instructions. -/

@[simp] theorem Fx.jitPass_mem (x : Fx) (on : Bool) : (Fx.jitPass x on).c.mem = x.c.mem := by simp [Fx.jitPass]

@[simp] theorem nanEntries_memWf {c : Cell} (a : Nat) (r : ScaleRec) (gs : List Nat) (vs : List Val) (h : memWf c.mem = true) : memWf (nanEntries c a r gs vs).mem = true := by
  unfold nanEntries
  split
  · exact List.foldlRecOn (motive := fun d : Cell => memWf d.mem = true) _ _ h fun d hd g _ => by simp [hd]
  · exact h

@[simp] theorem writeOn_memWf (x : Fx) (r : Run) (h : memWf x.c.mem = true) : memWf (writeOn x r).1.c.mem = true := by
  unfold writeOn
  dsimp only
  (repeat' split) <;> simp [h]

theorem vecDo_memWf {x : Fx} (r : Run) (k : VecKind) (f : VecF) (seed m : Nat) (srcs : List (List Byte)) (rec : Option ScaleRec) (h : memWf x.c.mem = true) :
    memWf (vecDo x r k f seed m srcs rec).x.c.mem = true := by
  cases k with
  | cvt =>
    simp only [vecDo, doCvt]
    split <;> simp [h]
  | sclConvert => cases rec with
    | none => exact h
    | some rec =>
      simp only [vecDo, doScl]
      split <;> simp [h]
  | sclDerive | sclPush | sclPushAdvance => exact Cell.setPal_memWf _ _ _ h
  | sclMerge => simp [vecDo, h]
  | stat =>
    simp only [vecDo, doChannel, doStat]
    split <;> simp [h]
  | red => simp [vecDo, doRed, h]
  | add | mul | fma | max | min | exp2 | rcp | rsq | had | prune24 => exact h

@[simp] theorem vecTake_memWf (lead : Bool) {x : Fx} (r : Run) (k : VecKind) (f : VecF) (seed m : Nat) (got : SMap (List Byte)) (rec : Option ScaleRec) (h : memWf x.c.mem = true) :
    memWf (vecTake lead x r k f seed m got rec).1.c.mem = true := by
  have hdo := vecDo_memWf { r with got := [] } k f seed m ((vecReads k r.qi f m).map fun s => gather got s.1 s.2) rec h
  unfold vecTake
  dsimp only
  split
  · simpa using hdo
  · split
    · simpa using hdo
    · exact writeOn_memWf _ _ hdo

@[simp] theorem sclGo_memWf (lead : Bool) (seed : Nat) {x : Fx} (r : Run) (f : VecF) (m : Nat) (h : memWf x.c.mem = true) : memWf (sclGo lead seed x r f m).1.c.mem = true := by
  unfold sclGo
  extract_lets q slots a y n z l sr rd
  have hy : memWf y.c.mem = true := Fx.checkSlots_memWf _ h
  have hz : memWf z.c.mem = true := Fx.checkSlots_memWf _ hy
  have hrd : memWf rd.1.c.mem = true := Fx.takeSlots_memWf _ _ _ hz
  split
  · exact h
  · split
    · simpa using hy
    · split
      · simpa using hy
      · split
        · simpa using hz
        · split
          · simpa using hz
          · exact vecTake_memWf _ _ _ _ _ _ _ _ hrd

@[simp] theorem deqGo_memWf (lead : Bool) (seed : Nat) {x : Fx} (r : Run) (f : VecF) (m : Nat) (h : memWf x.c.mem = true) : memWf (deqGo lead seed x r f m).1.c.mem = true := by
  have hpeek := Fx.peekRec_memWf (x.c.mr.stream (vfStream f) r.qi.seq) h
  unfold deqGo
  dsimp only
  split
  · exact hpeek
  · simpa using hpeek
  · exact hpeek
  · split
    · simpa using hpeek
    · exact vecTake_memWf _ _ _ _ _ _ _ _ (Fx.takeRec_memWf _ _ (Fx.takeSlots_memWf _ _ _ hpeek))

@[simp] theorem vecRead_memWf (lead : Bool) (seed : Nat) (x : Fx) (r : Run) (k : VecKind) (f : VecF) (h : memWf x.c.mem = true) :
    memWf (vecRead lead seed x r k f).1.c.mem = true := by
  unfold vecRead
  dsimp only
  (repeat' split) <;> simp [h]

@[simp] theorem vecGo_memWf (lead : Bool) (seed : Nat) {x : Fx} (r : Run) (k : VecKind) (f : VecF) (h : memWf x.c.mem = true) : memWf (vecGo lead seed x r k f).1.c.mem = true := by
  unfold vecGo
  extract_lets q m pas y p z
  have hy : memWf y.c.mem = true := Fx.foldl_memWf (fun _ _ hx => Fx.peek_memWf _ _ hx) _ h
  have hz : memWf z.c.mem = true := Fx.foldl_memWf (fun _ _ hx => Fx.checkSlots_memWf _ hx) _ hy
  split
  · exact h
  · split
    · simpa using hy
    · split
      · simpa using hy
      · split
        · simpa using hy
        · exact vecRead_memWf _ _ _ _ _ _ hz

@[simp] theorem issueVector_memWf (lead : Bool) (seed : Nat) (x : Fx) (q : QI) (h : memWf x.c.mem = true) : memWf (issueVector lead seed x q).1.c.mem = true := by
  unfold issueVector
  split <;> simp [h]

@[simp] theorem resumeVector_memWf (lead : Bool) (seed : Nat) (x : Fx) (r : Run) (h : memWf x.c.mem = true) : memWf (resumeVector lead seed x r).1.c.mem = true := by
  unfold resumeVector
  dsimp only
  (repeat' split) <;> simp [h]

@[simp] theorem promoCol_memWf {x : Fx} (fa fb o v : Nat) (h : memWf x.c.mem = true) : memWf (promoCol x fa fb o v).c.mem = true := by
  unfold promoCol
  dsimp only
  split
  · exact h
  · simp only [Fx.saturated_mem, Cell.setFrame_mem]
    refine List.foldlRecOn (motive := fun d : Cell × Nat => memWf d.1.mem = true) _ _ (Fx.foldl_checkFrame_memWf _ h) fun d hd e _ => ?_
    split
    · exact Cell.setWord_memWf _ _ _ hd
    · exact hd

@[simp] theorem issueAcc_memWf (lead : Bool) {x : Fx} (q : QI) (h : memWf x.c.mem = true) : memWf (issueAcc lead x q).1.c.mem = true := by
  unfold issueAcc
  dsimp only
  split
  · simpa using h
  · split
    · exact memZero_wf _ _ h
    · exact Fx.foldl_memWf (fun _ v hy => promoCol_memWf _ _ _ v hy) _ h
    · split
      · simpa using h
      · split
        · simpa using h
        · exact writeOn_memWf _ _ (Fx.readRange_memWf _ _ h)
    · exact Cell.put_memWf _ _ (Fx.readRange_memWf _ _ h)
    · exact h

@[simp] theorem resumeAcc_memWf (x : Fx) (r : Run) (h : memWf x.c.mem = true) : memWf (resumeAcc x r).1.c.mem = true := by simp [resumeAcc, h]
@[simp] theorem arot_mem (lead : Bool) (x : Fx) (word : DWord) (form : BitVec 1) : (arot lead x word form).c.mem = x.c.mem := by simp [arot]
end Sys2Proof.Machine
end

section
/-! PROOF. Steps keep byte memories canonical: operations over the state, the links and the gradient buckets (spec/12_rinmen_fabric.md, spec/13_gradient_reduction.md). -/
namespace Sys2Proof.Machine

/-! Operations over the state. -/

@[simp] theorem State.modRgn_memOk (s : State) (r : Nat) (f : Region → Region) : (State.modRgn s r f).memOk = s.memOk := by rfl
@[simp] theorem State.setCue_memOk (s : State) (i : Nat) (c : Cue) : (State.setCue s i c).memOk = s.memOk := by rfl
@[simp] theorem State.modHub_memOk (s : State) (f : Hub → Hub) : (State.modHub s f).memOk = s.memOk := by rfl
@[simp] theorem State.emit_memOk (s : State) (o : Out) : (State.emit s o).memOk = s.memOk := by rfl
@[simp] theorem State.modJob_memOk (s : State) (id : Word) (f : Job → Job) : (State.modJob s id f).memOk = s.memOk := by rfl
@[simp] theorem State.toBlock_memOk (s : State) (bk : Nat) (r : Rec) : (State.toBlock s bk r).memOk = s.memOk := by simp [State.toBlock]
@[simp] theorem State.toRegion_memOk (s : State) (rg : Nat) (r : Rec) : (State.toRegion s rg r).memOk = s.memOk := by rfl
@[simp] theorem State.log_memOk (s : State) (r : Rec) : (State.log s r).memOk = s.memOk := by rfl
@[simp] theorem State.logHub_memOk (s : State) (cls : Nat) (detail : List Byte) : (State.logHub s cls detail).memOk = s.memOk := by rfl
@[simp] theorem State.logPort_memOk (s : State) (cls port : Nat) (detail : List Byte) : (State.logPort s cls port detail).memOk = s.memOk := by rfl

theorem State.memOk_records (l : List Ev) (s : State) (b k : Nat) : (l.foldl (fun s e => s.toBlock b (s.cellRec k e)) s).memOk = s.memOk :=
  State.memOk_foldl_eq (fun s _ => s.toBlock_memOk b _) l s

@[simp] theorem State.put_memOk_same {s : State} {k : Nat} {x : Fx} (h : x.c.mem = (s.cell k).mem) : (s.put k x).memOk = s.memOk :=
  (State.memOk_records _ _ _ _).trans (s.memOk_setCell_same k h)

@[simp] theorem State.put_memOk {s : State} (k : Nat) {x : Fx} (h : s.memOk = true) (hx : memWf x.c.mem = true) : (s.put k x).memOk = true :=
  (State.memOk_records _ _ _ _).trans (State.memOk_setCell k h hx)

@[simp] theorem State.fx_memOk_same {s : State} {k : Nat} {f : Fx → Fx} (h : ∀ x, (f x).c.mem = x.c.mem) : (s.fx k f).memOk = s.memOk :=
  State.put_memOk_same (h (Fx.of (s.cell k)))

theorem State.fx_memOk {s : State} (k : Nat) {f : Fx → Fx} (h : s.memOk = true) (hf : ∀ x, memWf x.c.mem = true → memWf (f x).c.mem = true) : (s.fx k f).memOk = true :=
  State.put_memOk k h (hf _ (State.cell_memWf h k))

@[simp] theorem State.settlePctr_memOk (s : State) (bk n : Nat) : (State.settlePctr s bk n).memOk = s.memOk := by simp [State.settlePctr]
@[simp] theorem State.settleAll_memOk (s : State) (bk : Nat) : (State.settleAll s bk).memOk = s.memOk := by simp [State.settleAll]
@[simp] theorem State.setPctr_memOk (s : State) (bk n : Nat) (v : Word) : (State.setPctr s bk n v).memOk = s.memOk := by simp [State.setPctr]
@[simp] theorem State.clearPctr_memOk (s : State) (bk n : Nat) : (State.clearPctr s bk n).memOk = s.memOk := by simp [State.clearPctr]
@[simp] theorem State.applyTables_memOk (s : State) : (State.applyTables s).memOk = s.memOk := by simp [State.applyTables]
@[simp] theorem State.launch_memOk (s : State) (f : Flight) : (State.launch s f).memOk = s.memOk := by rfl
@[simp] theorem State.land_memOk (s : State) (id : Nat) : (State.land s id).memOk = s.memOk := by rfl

@[simp] theorem Hbm.write_memWf {g : Hbm} (a : Nat) (data : List Byte) (tag : Option Byte) (poison : Bool) (h : memWf g.mem = true) :
    memWf (g.write a data tag poison).mem = true := memWrite_wf a data h

@[simp] theorem Hbm.flip_memWf {g : Hbm} (blk : Nat) (l : List Nat) (h : memWf g.mem = true) : memWf (g.flip blk l).mem = true := by
  rw [Hbm.flip_mem]
  exact flipBits_wf _ _ h

@[simp] theorem Hbm.check_memWf {g : Hbm} (blk : Nat) (h : memWf g.mem = true) : memWf (g.check blk).1.mem = true := by
  unfold Hbm.check
  extract_lets
  split
  · exact h
  · split
    · exact flipBits_wf _ _ h
    · exact h

@[simp] theorem State.hbmCounted_memOk (s : State) (r : Nat) (a : HbmFound) : (State.hbmCounted s r a).memOk = s.memOk := by
  unfold State.hbmCounted
  split <;> simp

@[simp] theorem State.checkBlock_memOk {s : State} (blk : Nat) (h : s.memOk = true) : (s.checkBlock blk).memOk = true := by
  have hc := Hbm.check_memWf blk (State.hbm_memWf h)
  unfold State.checkBlock
  extract_lets c r t
  have ht : t.memOk = true := by simp [t, c, h, hc]
  split <;> simp [ht]

@[simp] theorem State.checkHbm_memOk {s : State} (a n : Nat) (h : s.memOk = true) : (s.checkHbm a n).memOk = true :=
  State.memOk_foldl (fun _ e ht => State.checkBlock_memOk e.1 ht) _ h

/-! Rinmen links. -/

@[simp] theorem State.modFab_memOk (s : State) (f : Fabric → Fabric) : (State.modFab s f).memOk = s.memOk := by rfl
@[simp] theorem State.setPort_memOk (s : State) (p : Nat) (x : Port) : (State.setPort s p x).memOk = s.memOk := by rfl
@[simp] theorem State.modPort_memOk (s : State) (p : Nat) (f : Port → Port) : (State.modPort s p f).memOk = s.memOk := by rfl
@[simp] theorem sendFlit_memOk (s : State) (p seq vc : Nat) (idle sop : Bool) (body : List Byte) : (sendFlit s p seq vc idle sop body).memOk = s.memOk := by rfl
@[simp] theorem sendIdle_memOk (s : State) (p : Nat) : (sendIdle s p).memOk = s.memOk := by rfl
@[simp] theorem finishSends_memOk (s : State) (l : List (Nat × Nat)) : (finishSends s l).memOk = s.memOk := by simp [finishSends]

@[simp] theorem pumpF_memOk (p n : Nat) (s : State) : (pumpF p n s).memOk = s.memOk := by
  induction n generalizing s with
  | zero => rfl
  | succ n ih =>
    simp only [pumpF]
    split
    · rfl
    · split
      · rfl
      · simp [ih]

@[simp] theorem pump_memOk (s : State) (p : Nat) : (pump s p).memOk = s.memOk := by simp [pump]
@[simp] theorem pumpAll_memOk (s : State) : (pumpAll s).memOk = s.memOk := by simp [pumpAll]
@[simp] theorem enqueueAt_memOk (s : State) (p : Nat) (t : TxPkt) : (enqueueAt s p t).memOk = s.memOk := by simp [enqueueAt]
@[simp] theorem sendLocal_memOk (s : State) (p : Nat) (k : Packet) : (sendLocal s p k).memOk = s.memOk := by simp [sendLocal]
@[simp] theorem arriveHere_memOk (s : State) (p : Nat) (k : Packet) : (arriveHere s p k).memOk = s.memOk := by rfl

@[simp] theorem dueFault_memOk (s : State) (r : Nat) (c : Rec) : (dueFault s r c).memOk = s.memOk := by
  unfold dueFault
  split <;> simp

@[simp] theorem lostOwn_memOk (s : State) (port reason : Nat) (h0 : DWord) : (lostOwn s port reason h0).memOk = s.memOk := by simp [lostOwn]

@[simp] theorem sendMgmt_memOk (s : State) (k : Packet) : (sendMgmt s k).memOk = s.memOk := by
  unfold sendMgmt
  split <;> simp

@[simp] theorem unreachable_memOk (s : State) (port reason : Nat) (h0 : DWord) : (unreachable s port reason h0).memOk = s.memOk := by simp [unreachable]

@[simp] theorem dropPacket_memOk (s : State) (port : Option Nat) (reason : Nat) (k : Packet) : (dropPacket s port reason k).memOk = s.memOk := by
  unfold dropPacket
  split <;> simp

@[simp] theorem routeBy_memOk (s : State) (t : TxPkt) (e : Word) : (routeBy s t e).memOk = s.memOk := by
  unfold routeBy
  split <;> simp

@[simp] theorem inject_memOk (s : State) (k : Packet) (origin : Option (Nat × Nat)) : (inject s k origin).memOk = s.memOk := by simp [inject]
@[simp] theorem reroute_memOk (s : State) (p : Nat) : (reroute s p).memOk = s.memOk := by simp [reroute]
@[simp] theorem losePackets_memOk (s : State) (p : Nat) : (losePackets s p).memOk = s.memOk := by simp [losePackets]
@[simp] theorem holdoverEnter_memOk (s : State) : (holdoverEnter s).memOk = s.memOk := by simp [holdoverEnter]
@[simp] theorem sourceLost_memOk (s : State) (p : Nat) : (sourceLost s p).memOk = s.memOk := by simp [sourceLost]
@[simp] theorem fencePort_memOk (s : State) (p : Nat) : (fencePort s p).memOk = s.memOk := by simp [fencePort]
@[simp] theorem enterRetrain_memOk (s : State) (p cause : Nat) : (enterRetrain s p cause).memOk = s.memOk := by simp [enterRetrain]
@[simp] theorem trainFailed_memOk (s : State) (p : Nat) (cause : Byte) : (trainFailed s p cause).memOk = s.memOk := by simp [trainFailed]
@[simp] theorem trainDone_memOk (s : State) (p : Nat) (t : TrainResult) : (trainDone s p t).memOk = s.memOk := by simp [trainDone]
@[simp] theorem resend_memOk (s : State) (p : Nat) : (resend s p).memOk = s.memOk := by simp [resend]
@[simp] theorem answerFlit_memOk (s : State) (p : Nat) : (answerFlit s p).memOk = s.memOk := by simp [answerFlit]

@[simp] theorem receiveFlit_memOk (s : State) (p symbols : Nat) (flit : List Byte) : (receiveFlit s p symbols flit).memOk = s.memOk := by
  unfold receiveFlit
  dsimp only
  (repeat' split) <;> simp

@[simp] theorem takeArrived_memOk (s : State) (p : Nat) (k : Packet) : (takeArrived s p k).memOk = s.memOk := by
  unfold takeArrived
  dsimp only
  (repeat' split) <;> simp

/-! Gradient buckets. -/

@[simp] theorem State.modBkt_memOk (s : State) (f : Buckets → Buckets) : (State.modBkt s f).memOk = s.memOk := by simp [State.modBkt]
@[simp] theorem State.modInst_memOk (s : State) (i : BktInst) (f : BktInst → BktInst) : (State.modInst s i f).memOk = s.memOk := by simp [State.modInst]
@[simp] theorem State.dropInst_memOk (s : State) (i : BktInst) : (State.dropInst s i).memOk = s.memOk := by simp [State.dropInst]
@[simp] theorem dueJob_memOk (s : State) (job : Word) (c : Rec) : (dueJob s job c).memOk = s.memOk := by simp [dueJob]

@[simp] theorem failInst_memOk (s : State) (i : BktInst) (cause : Nat) : (failInst s i cause).memOk = s.memOk := by
  unfold failInst
  (repeat' split) <;> simp

@[simp] theorem failOwn_memOk (s : State) (i : BktInst) (cause : Nat) : (failOwn s i cause).memOk = s.memOk := by simp [failOwn]
@[simp] theorem bucketDrop_memOk (s : State) (job : Word) (cause : Nat) : (bucketDrop s job cause).memOk = s.memOk := by simp [bucketDrop]

theorem Hbm.foldl_memWf {α : Type} {f : Hbm → α → Hbm} (hf : ∀ g a, memWf g.mem = true → memWf (f g a).mem = true) (l : List α) {g : Hbm} (h : memWf g.mem = true) :
    memWf (l.foldl f g).mem = true :=
  List.foldlRecOn (motive := fun g : Hbm => memWf g.mem = true) l f h fun g hg a _ => hf g a hg

@[simp] theorem writeUnits_memOk {s : State} (d : FabDesc) (off : Nat) (us : List BktUnit) (h : s.memOk = true) : (writeUnits s d off us).memOk = true :=
  State.memOk_setHbm h (Hbm.foldl_memWf (fun _ _ hg => Hbm.write_memWf _ _ _ _ hg) _ (State.hbm_memWf h))

@[simp] theorem writeScales_memOk {s : State} (d : FabDesc) (sc : List Byte) (h : s.memOk = true) : (writeScales s d sc).memOk = true :=
  State.memOk_setHbm h (Hbm.foldl_memWf (fun _ _ hg => Hbm.write_memWf _ _ _ _ hg) _ (State.hbm_memWf h))

@[simp] theorem sendUnits_memOk (s : State) (j : Job) (d : FabDesc) (i : BktInst) (ty : Nat) (tos : List Nat) (us : List BktUnit) (off : Nat) :
    (sendUnits s j d i ty tos us off).memOk = s.memOk := by simp [sendUnits]

@[simp] theorem progress_memOk (s : State) (j : Job) (d : FabDesc) (job : Word) (b n : Nat) (h : s.memOk = true) : (progress s j d job b n).memOk = true := by
  unfold progress
  dsimp only
  (repeat' split) <;> simp [h]

@[simp] theorem badBucketPacket_memOk (s : State) (job : Word) (b n reason : Nat) (k : Packet) : (badBucketPacket s job b n reason k).memOk = s.memOk := by
  unfold badBucketPacket
  dsimp only
  (repeat' split) <;> simp

@[simp] theorem takeBucketPacket_memOk (s : State) (j : Job) (d : FabDesc) (i : BktInst) (k : Packet) (h : s.memOk = true) :
    (takeBucketPacket s j d i k).memOk = true := by
  unfold takeBucketPacket
  split <;> simp [h]

@[simp] theorem holdEarly_memOk (s : State) (p unit : Nat) (k : Packet) : (holdEarly s p unit k).1.memOk = s.memOk := by
  unfold holdEarly
  split <;> simp

@[simp] theorem latePacket_memOk (s : State) (j : Job) (k : Packet) : (latePacket s j k).memOk = s.memOk := by simp [latePacket]

@[simp] theorem homeTake_memOk (s : State) (p : Nat) (j : Job) (k : Packet) (h : s.memOk = true) : (homeTake s p j k).1.memOk = true := by
  unfold homeTake
  (repeat' split) <;> simp [h]

@[simp] theorem bucketArrive_memOk (s : State) (p : Nat) (k : Packet) (h : s.memOk = true) : (bucketArrive s p k).1.memOk = true := by
  unfold bucketArrive
  (repeat' split) <;> simp [h]

@[simp] theorem takeHeld_memOk (s : State) (e : Early) (h : s.memOk = true) : (takeHeld s e).memOk = true := by
  unfold takeHeld
  split <;> simp [h]

@[simp] theorem claimEarly_memOk {s : State} (job : Word) (b n : Nat) (h : s.memOk = true) : (claimEarly s job b n).memOk = true :=
  State.memOk_foldl (fun _ e ht => takeHeld_memOk _ e ht) _ h

@[simp] theorem startInst_memOk (s : State) (j : Job) (b : Nat) (d : FabDesc) (h : s.memOk = true) : (startInst s j b d).memOk = true := by simp [startInst, h]

@[simp] theorem bucketStart_memOk {s : State} (r cue : Nat) (h : s.memOk = true) : (bucketStart s r cue).memOk = true := by
  unfold bucketStart
  split
  · exact h
  · split
    · exact h
    · refine State.memOk_foldl (fun t b ht => ?_) _ h
      split
      · split
        · exact startInst_memOk _ _ _ _ ht
        · exact ht
      · exact ht

@[simp] theorem contribRead_memOk (s : State) (job : Word) (b n : Nat) (h : s.memOk = true) : (contribRead s job b n).memOk = true := by
  unfold contribRead
  (repeat' split) <;> simp [h]

theorem resultVisible_memOk {s : State} {job : Word} {b n : Nat} {v : State × Nat} (hv : resultVisible s job b n = some v) : v.1.memOk = s.memOk := by
  unfold resultVisible at hv
  split at hv
  · split at hv
    · split at hv
      · cases hv
      · cases hv
        simp
    · cases hv
  · cases hv

@[simp] theorem earlyTimeout_memOk (s : State) (k : Packet) : (earlyTimeout s k).memOk = s.memOk := by
  unfold earlyTimeout
  dsimp only
  (repeat' split) <;> simp

@[simp] theorem sendCuePacket_memOk (s : State) (k : Nat) (m : BitVec 12) (cue : Nat) (n : Word) : (sendCuePacket s k m cue n).memOk = s.memOk := by simp [sendCuePacket]

@[simp] theorem sendWrites_memOk (s : State) (dst : Nat) (ws : List RemoteWrite) : (sendWrites s dst ws).memOk = s.memOk := by
  unfold sendWrites
  split <;> simp
end Sys2Proof.Machine
end

section
/-! PROOF. Steps keep byte memories canonical: ticks, cues and the combine networks (spec/10_blocks_regions.md R228 to R233, spec/11_prompt_books_epochs.md). -/
namespace Sys2Proof.Machine

/-! Ticks. -/

theorem State.memOk_mapCells {s : State} {f : Nat × Cell → Nat × Cell} (hf : ∀ c, (f c).2.mem = c.2.mem) : State.memOk { s with cells := s.cells.map f } = s.memOk := by
  simp [State.memOk, List.all_map, Function.comp_def, hf]

@[simp] theorem agesPass_memOk (n : Nat) (s : State) : (agesPass n s).memOk = s.memOk :=
  State.memOk_mapCells fun c => by split <;> rfl

@[simp] theorem earlyPass_memOk (n : Nat) (s : State) : (earlyPass n s).memOk = s.memOk := by simp [earlyPass]
@[simp] theorem countPass_memOk (n : Nat) (s : State) : (countPass n s).memOk = s.memOk := by simp [countPass]
@[simp] theorem pausePass_memOk (n : Nat) (s : State) : (pausePass n s).memOk = s.memOk := by simp [pausePass]
@[simp] theorem creditPass_memOk (n : Nat) (s : State) : (creditPass n s).memOk = s.memOk := by simp [creditPass]
@[simp] theorem releasePass_memOk (s : State) : (releasePass s).memOk = s.memOk := by simp [releasePass]
@[simp] theorem State.passTicks_memOk (s : State) (n : Nat) : (State.passTicks s n).memOk = s.memOk := by simp [State.passTicks]
@[simp] theorem State.jobTickTo_memOk (s : State) (j : Job) (t : Nat) : (State.jobTickTo s j t).memOk = s.memOk := by simp [State.jobTickTo]

/-! What the hub sends. -/

@[simp] theorem State.modEth_memOk (s : State) (f : Eth → Eth) : (State.modEth s f).memOk = s.memOk := by simp [State.modEth]
@[simp] theorem State.modQp_memOk (s : State) (q : Nat) (f : Qp → Qp) : (State.modQp s q f).memOk = s.memOk := by simp [State.modQp]
@[simp] theorem State.modMail_memOk (s : State) (f : Mail → Mail) : (State.modMail s f).memOk = s.memOk := by simp [State.modMail]
@[simp] theorem State.modPwr_memOk (s : State) (f : Power → Power) : (State.modPwr s f).memOk = s.memOk := by simp [State.modPwr]
@[simp] theorem State.emitQp_memOk (s : State) (q : Nat) (o : RdmaOut) : (State.emitQp s q o).memOk = s.memOk := by simp [State.emitQp]
@[simp] theorem State.qpEnergy_memOk (s : State) (q bytes packets : Nat) : (State.qpEnergy s q bytes packets).memOk = s.memOk := by simp [State.qpEnergy]
@[simp] theorem sendOn_memOk (s : State) (q : Nat) (bytes : List Byte) : (sendOn s q bytes).memOk = s.memOk := by simp [sendOn]
@[simp] theorem State.modSession_memOk (s : State) (n : Word) (f : Session → Session) : (State.modSession s n f).memOk = s.memOk := by simp [State.modSession]

@[simp] theorem pumpEvents_memOk (s : State) (n : Word) : (pumpEvents s n).memOk = s.memOk := by
  unfold pumpEvents
  (repeat' split) <;> simp

@[simp] theorem eventDelivered_memOk (s : State) (n : Word) : (eventDelivered s n).memOk = s.memOk := by simp [eventDelivered]

@[simp] theorem queueEvent_memOk (s : State) (n : Word) (e : Event) : (queueEvent s n e).memOk = s.memOk := by
  unfold queueEvent
  split <;> simp

@[simp] theorem jobEvent_memOk (s : State) (id : Word) (code : Nat) (payload : List Byte) : (jobEvent s id code payload).memOk = s.memOk := by
  unfold jobEvent
  split <;> simp

@[simp] theorem hostCueEvent_memOk (s : State) (r i : Nat) (value : Word) (count : Nat) : (hostCueEvent s r i value count).memOk = s.memOk := by
  unfold hostCueEvent
  split <;> simp

/-! Cues. -/

@[simp] theorem hostFirings_memOk (s : State) (i : Nat) (value before : Word) (k : Nat) : (hostFirings s i value before k).memOk = s.memOk := by simp [hostFirings]

theorem State.memOk_iter {f : State → State} (hf : ∀ s, s.memOk = true → (f s).memOk = true) (n : Nat) {s : State} (h : s.memOk = true) : (iter f n s).memOk = true := by
  induction n generalizing s with
  | zero => exact h
  | succ n ih => exact ih (hf s h)

@[simp] theorem addCue_memOk {s : State} (i : Nat) (n : Word) (h : s.memOk = true) : (addCue s i n).memOk = true := by
  unfold addCue
  extract_lets c c' k t
  have ht : t.memOk = true := by simpa [t] using h
  split
  · exact h
  · split
    · exact ht
    · split
      · split <;> simp [ht]
      · split
        · exact State.memOk_iter (fun _ hu => bucketStart_memOk _ _ hu) k ht
        · simp [ht]

/-! Combine networks. -/

@[simp] theorem Block.modChan_istore (b : Block) (ch : Nat) (f : Chan → Chan) : (Block.modChan b ch f).istore = b.istore := by rfl

@[simp] theorem endComb_mem (ch : Nat) (c : Cell) : (endComb ch c).mem = c.mem := by
  unfold endComb
  split <;> simp

@[simp] theorem failBlockChan_memOk (s : State) (bk ch cls : Nat) (cells : List Nat) (quiet : Bool) (skip : Option Nat) :
    (failBlockChan s bk ch cls cells quiet skip).memOk = s.memOk := by simp [failBlockChan]

@[simp] theorem failComb_memOk (s : State) (bk ch cls : Nat) (img d : List Byte) (skip : Option Nat) : (failComb s bk ch cls img d skip).memOk = s.memOk := by simp [failComb]

@[simp] theorem feedF_memWf {who ch : Nat} {f : CombF} {n : Nat} {cb : Cell × Block} {y : Fx × Run} (h : memWf y.1.c.mem = true) :
    memWf (feedF who ch f n cb y).1.1.c.mem = true := by
  induction n generalizing cb y with
  | zero => exact h
  | succ n ih =>
    unfold feedF
    dsimp only
    split
    · exact h
    · split
      · exact h
      · split
        · exact h
        · split
          · exact h
          · exact ih (Fx.readRange_memWf _ _ h)

theorem feedF_istore {who ch : Nat} {f : CombF} {n : Nat} {cb : Cell × Block} {y : Fx × Run} : (feedF who ch f n cb y).2.istore = cb.2.istore := by
  induction n generalizing cb y with
  | zero => rfl
  | succ n ih =>
    unfold feedF
    dsimp only
    split
    · rfl
    · split
      · rfl
      · split
        · rfl
        · split
          · rfl
          · exact ih

@[simp] theorem feedSend_memOk {s : State} (k : Nat) (h : s.memOk = true) : (feedSend s k).memOk = true := by
  unfold feedSend
  extract_lets c
  split
  · split
    · split
      · exact h
      · refine State.put_memOk k ?_ (feedF_memWf (State.cell_memWf h k))
        rwa [State.memOk_modBlk_at]
        exact feedF_istore
    · exact h
  · exact h

@[simp] theorem deliverRoot_memOk {s : State} (bk ch : Nat) (h : s.memOk = true) : (deliverRoot s bk ch).memOk = true := by
  unfold deliverRoot
  extract_lets k c cn
  have hc : memWf c.mem = true := State.cell_memWf h k
  split
  · split
    · split
      · exact h
      · refine State.put_memOk k ?_ (writeOn_memWf _ _ ?_)
        · rwa [State.memOk_modBlk_same]
          exact fun _ => rfl
        · simpa using hc
    · exact h
  · exact h

@[simp] theorem toRegionUnit_memOk (s : State) (r who : Nat) (sub : Sub) (g : List Byte × Nat) (img : List Byte) (bk : Nat) :
    (toRegionUnit s r who sub g img bk).memOk = s.memOk := by
  unfold toRegionUnit
  dsimp only
  (repeat' split) <;> simp

@[simp] theorem advanceOne_memOk {s : State} (img : List Byte) (r b ch : Nat) (h : s.memOk = true) : (advanceOne s img r b ch).memOk = true := by
  unfold advanceOne
  dsimp only
  split
  · exact h
  · split
    · exact h
    · refine State.memOk_foldl (fun t w ht => feedSend_memOk _ ht) _ ?_
      have hmod : ∀ t : State, t.memOk = true → ∀ m : Nat, (if m = 0 then t else t.modCell (blkKey r b * 128) fun c => c.tally 12 1).memOk = true := fun t ht m => by simpa using ht
      refine hmod _ ?_ _
      split <;> simpa using h

@[simp] theorem settleZero_memOk {img : List Byte} {r b ch n : Nat} {s : State} (h : s.memOk = true) : (settleZero img r b ch n s).memOk = true := by
  induction n generalizing s with
  | zero => exact h
  | succ n ih =>
    unfold settleZero
    split
    · split
      · exact ih (deliverRoot_memOk _ _ (advanceOne_memOk _ _ _ _ h))
      · exact h
    · exact h

@[simp] theorem advanceGroup_memOk {s : State} (img : List Byte) (r b ch : Nat) (h : s.memOk = true) : (advanceGroup s img r b ch).memOk = true := by
  unfold advanceGroup
  split
  · refine settleZero_memOk (advanceOne_memOk _ _ _ _ ?_)
    simpa using h
  · exact h

@[simp] theorem presentSend_memOk (s : State) (k ch : Nat) (img : List Byte) (sub : Sub) (h : s.memOk = true) : (presentSend s k ch img sub).memOk = true := by simp [presentSend, h]

@[simp] theorem regionStep_memOk (s : State) (img : List Byte) (r ch : Nat) (h : s.memOk = true) : (regionStep s img r ch).memOk = true := by
  unfold regionStep
  dsimp only
  (repeat' split) <;> simp [h]

@[simp] theorem issueSend_memOk {s : State} (k : Nat) (img : List Byte) {x : Fx} (q : QI) (f : CombF) (h : s.memOk = true) (hx : memWf x.c.mem = true) :
    (issueSend s k img x q f).memOk = true := by
  unfold issueSend
  extract_lets r a fin rd d m ch run t u
  have hfin : ∀ {y : Fx} (r : Run), memWf y.c.mem = true → (fin y r).memOk = true := fun r hy => State.put_memOk k h hy
  have hrd : memWf rd.1.c.mem = true := Fx.readRange_memWf _ _ hx
  split
  · exact hfin _ hx
  · split
    · rw [State.memOk_modBlk_same]
      · exact hfin _ (by simpa using hrd)
      · exact fun _ => rfl
    · split
      · exact hfin _ hrd
      · exact feedSend_memOk k (presentSend_memOk _ _ _ _ _ (hfin _ hrd))

@[simp] theorem issueRecv_memOk {s : State} (k : Nat) (img : List Byte) {x : Fx} (q : QI) (f : CombF) (h : s.memOk = true) (hx : memWf x.c.mem = true) :
    (issueRecv s k img x q f).memOk = true := by
  unfold issueRecv
  extract_lets r a fin rd d m ch bk cn run p t
  have hfin : ∀ {y : Fx} (r : Run), memWf y.c.mem = true → (fin y r).memOk = true := fun r hy => State.put_memOk k h hy
  have hrd : memWf rd.1.c.mem = true := Fx.readRange_memWf _ _ hx
  have ht : t.memOk = true := by
    refine (State.memOk_modBlk_same _ _ ?_).trans (hfin _ hrd)
    exact fun _ => rfl
  split
  · exact hfin _ hx
  · split
    · exact hfin _ (by simpa using hrd)
    · split
      · exact hfin _ hrd
      · split
        · simpa using ht
        · split
          · exact deliverRoot_memOk _ _ ht
          · exact ht
end Sys2Proof.Machine
end

section
/-! PROOF. Steps keep byte memories canonical: the memory engine, what arrives at cells and HBM, and the sequencer (spec/07_cell_execution.md, spec/09_scratchpad_hbm.md). -/
namespace Sys2Proof.Machine

/-! The memory engine and arrivals. -/

@[simp] theorem Cell.setMem_mem (r : Option Run) (c : Cell) : (Cell.setMem r c).mem = c.mem := by rfl
@[simp] theorem Cell.addOutst_mem (o : Outst) (c : Cell) : (Cell.addOutst o c).mem = c.mem := by rfl
@[simp] theorem Cell.outstDone_mem (c : Cell) (seq : Nat) : (Cell.outstDone c seq).mem = c.mem := by rfl
@[simp] theorem Fx.arrive_mem (x : Fx) (ctr : Nat) : (Fx.arrive x ctr).c.mem = x.c.mem := by simp [Fx.arrive]

@[simp] theorem Fx.arriveOpt_mem (x : Fx) (ctr : Option (BitVec 4)) : (Fx.arriveOpt x ctr).c.mem = x.c.mem := by
  unfold Fx.arriveOpt
  split <;> simp

@[simp] theorem copyF_memWf {tag : Byte} {src dst n fuel : Nat} {y : Fx × Run} (h : memWf y.1.c.mem = true) : memWf (copyF tag src dst n fuel y).1.c.mem = true := by
  induction fuel generalizing y with
  | zero => exact h
  | succ fuel ih =>
    unfold copyF
    dsimp only
    split
    · exact h
    · split
      · exact h
      · split
        · exact h
        · exact ih (Cell.writePiece_memWf _ _ (Fx.readRange_memWf _ _ h))

@[simp] theorem Cell.outstMore_mem (c : Cell) (seq : Nat) : (Cell.outstMore c seq).mem = c.mem := by rfl
@[simp] theorem flushFar_memOk (s : State) (k : Nat) (r : Run) (f : PutF) (acc : Option (BitVec 2)) (g : Nat) : (flushFar s k r f acc g).memOk = s.memOk := by simp [flushFar]

@[simp] theorem sendSlot_memOk (s : State) (k : Nat) (r : Run) (d : SlotSend) (g n : Nat) (data : List Byte) (tag : Byte) (poison : Bool) :
    (sendSlot s k r d g n data tag poison).1.memOk = s.memOk := by
  unfold sendSlot
  dsimp only
  (repeat' split) <;> simp

@[simp] theorem sendF_memOk {k : Nat} {d : SlotSend} {src g n fuel : Nat} {y : State × Run} (h : y.1.memOk = true) : (sendF k d src g n fuel y).1.memOk = true := by
  induction fuel generalizing y with
  | zero => exact h
  | succ fuel ih =>
    unfold sendF
    dsimp only
    split
    · exact h
    · split
      · exact h
      · refine ih ?_
        rw [sendSlot_memOk]
        exact State.put_memOk k h (Fx.readRange_memWf _ _ (State.cell_memWf h k))

@[simp] theorem sendGo_memOk (s : State) (k : Nat) (r : Run) (d : SlotSend) (src g n level : Nat) (h : s.memOk = true) :
    (sendGo s k r d src g n level).memOk = true := by simp [sendGo, h]

@[simp] theorem putGo_memOk (s : State) (k : Nat) (r : Run) (f : PutF) (acc : Option (BitVec 2)) (h : s.memOk = true) : (putGo s k r f acc).memOk = true := by simp [putGo, h]
@[simp] theorem hbmwrGo_memOk (s : State) (k : Nat) (r : Run) (f : XferF) (h : s.memOk = true) : (hbmwrGo s k r f).memOk = true := by simp [hbmwrGo, h]

@[simp] theorem ldGo_memWf (x : Fx) (r : Run) (a : Nat) (h : memWf x.c.mem = true) : memWf (ldGo x r a).1.c.mem = true := by
  unfold ldGo
  split <;> simp [h]

@[simp] theorem tagSet_mem (c : Cell) (full : Bool) (a n : Nat) : (tagSet c full a n).mem = c.mem :=
  List.foldlRecOn (motive := fun d : Cell => d.mem = c.mem) _ _ rfl fun d hd i _ => by
    split
    · exact hd
    · exact hd

@[simp] theorem memGo_memOk {s : State} (k : Nat) (r : Run) (h : s.memOk = true) : (memGo s k r).memOk = true := by
  have hc : memWf (Fx.of (s.cell k)).c.mem = true := State.cell_memWf h k
  unfold memGo
  dsimp only
  split
  · exact State.put_memOk k h (ldGo_memWf _ _ _ hc)
  · split
    · exact State.put_memOk k h (writeOn_memWf _ _ hc)
    · exact State.put_memOk k h (copyF_memWf hc)
  · exact putGo_memOk _ _ _ _ _ h
  · exact putGo_memOk _ _ _ _ _ h
  · simpa using h
  · simpa using h
  · exact hbmwrGo_memOk _ _ _ _ h
  · refine State.put_memOk k h ?_
    simpa using hc
  · exact issueSend_memOk _ _ _ _ h hc
  · exact issueRecv_memOk _ _ _ _ h hc
  · exact h

@[simp] theorem issueMem_memOk (s : State) (k : Nat) (q : QI) (h : s.memOk = true) : (issueMem s k q).memOk = true := by
  unfold issueMem
  split <;> simp [h]

@[simp] theorem resumeMem_memOk {s : State} (k : Nat) (r : Run) (h : s.memOk = true) : (resumeMem s k r).memOk = true := by
  have hc : memWf (Fx.of (s.cell k)).c.mem = true := State.cell_memWf h k
  unfold resumeMem
  split
  · split
    · exact feedSend_memOk k h
    · exact issueSend_memOk _ _ _ _ h hc
  · split
    · exact deliverRoot_memOk _ _ (State.put_memOk k h (writeOn_memWf _ _ hc))
    · exact issueRecv_memOk _ _ _ _ h hc
  · exact memGo_memOk k r h

@[simp] theorem ackBack_memOk (s : State) (w : RemoteWrite) : (ackBack s w).memOk = s.memOk := by simp [ackBack]

@[simp] theorem landCell_memOk {s : State} (t off : Nat) (w : RemoteWrite) (h : s.memOk = true) : (landCell s t off w).memOk = true := by
  have hc : memWf (Fx.of (s.cell t)).c.mem = true := State.cell_memWf h t
  unfold landCell
  simp only [ackBack_memOk]
  refine State.put_memOk t h ?_
  rw [Fx.arriveOpt_mem]
  split
  · exact Cell.writePiece_memWf _ _ hc
  · simp only [Fx.map_c, Cell.count_mem, Cell.tally_mem]
    exact Cell.writePiece_memWf _ _ (Fx.checkSlots_memWf _ hc)

@[simp] theorem landHbm_memOk {s : State} (w : RemoteWrite) (h : s.memOk = true) : (landHbm s w).memOk = true := by
  unfold landHbm
  extract_lets s1 t
  have h1 : (s.checkBlock (w.addr / 64)).memOk = true := State.checkBlock_memOk _ h
  have ht : t.memOk = true := by
    simp only [t]
    split
    · exact State.memOk_setHbm h (Hbm.write_memWf _ _ _ _ (State.hbm_memWf h))
    · exact State.memOk_setHbm h1 (Hbm.write_memWf _ _ _ _ (State.hbm_memWf h1))
  split
  · simpa using ht
  · simpa using ht

@[simp] theorem arriveWrite_memOk (s : State) (id : Nat) (w : RemoteWrite) (h : s.memOk = true) : (arriveWrite s id w).memOk = true := by
  unfold arriveWrite
  dsimp only
  (repeat' split) <;> simp [h]

@[simp] theorem releasePort_memOk (s : State) (t : Nat) (h : s.memOk = true) : (releasePort s t).memOk = true := by
  unfold releasePort
  (repeat' split) <;> simp [h]

@[simp] theorem arriveData_memOk {s : State} (id k seq dst : Nat) (data : List Byte) (tag : Byte) (poison : Bool) (ctr : Option (BitVec 4)) (h : s.memOk = true) :
    (arriveData s id k seq dst data tag poison ctr).memOk = true := by
  have hc : memWf (s.cell k).mem = true := State.cell_memWf h k
  have hland : (s.land id).memOk = true := by simpa using h
  unfold arriveData
  dsimp only
  split
  · exact hland
  · split
    · exact h
    · split
      · exact State.memOk_setCell k h hc
      · rw [State.memOk_modCell_same _ _ (by simp)]
        refine State.put_memOk k hland ?_
        rw [Fx.arriveOpt_mem]
        exact Cell.writePiece_memWf _ _ hc

@[simp] theorem serveGet_memOk {s : State} (id k seq addr dst n : Nat) (ctr : Option (BitVec 4)) (h : s.memOk = true) : (serveGet s id k seq addr dst n ctr).memOk = true := by
  unfold serveGet
  split
  · simpa using h
  · refine State.memOk_foldl (fun t i ht => ?_) _ (by simpa using h)
    rw [State.launch_memOk]
    exact State.put_memOk _ ht (Fx.checkSlots_memWf _ (State.cell_memWf ht _))

@[simp] theorem hbmReadArrive_memOk {s : State} (id k seq addr dst : Nat) (ctr : Option (BitVec 4)) (upset : List Nat) (h : s.memOk = true) :
    (hbmReadArrive s id k seq addr dst ctr upset).memOk = true := by
  unfold hbmReadArrive
  extract_lets c s1 s2 s3 f
  have hc : memWf c.1.mem = true := Hbm.check_memWf _ (Hbm.flip_memWf _ _ (State.hbm_memWf h))
  have h1 : s1.memOk = true := by simpa [s1] using h
  have h2 : s2.memOk = true := by
    simp only [s2, State.hbmCounted_memOk]
    exact State.memOk_setHbm h1 hc
  have h3 : s3.memOk = true := by
    simp only [s3]
    split
    · simpa using h2
    · exact h2
  split
  · exact h
  · exact arriveData_memOk _ _ _ _ _ _ _ _ h3

@[simp] theorem hbmWriteArrive_memOk {s : State} (id k seq addr : Nat) (data : List Byte) (tag : Byte) (poison : Bool) (ctr : Option (BitVec 4)) (h : s.memOk = true) :
    (hbmWriteArrive s id k seq addr data tag poison ctr).memOk = true := by
  have hland : (s.land id).memOk = true := by simpa using h
  unfold hbmWriteArrive
  split
  · exact h
  · rw [State.memOk_modCell_same _ _ (by simp), State.fx_memOk_same (by simp)]
    exact State.memOk_setHbm hland (Hbm.write_memWf _ _ _ _ (State.hbm_memWf h))

/-! The sequencer. -/

@[simp] theorem Fx.goto_mem (x : Fx) (p : Nat) : (Fx.goto x p).c.mem = x.c.mem := by rfl
@[simp] theorem Fx.next_mem (x : Fx) : (Fx.next x).c.mem = x.c.mem := by rfl
@[simp] theorem Fx.branch_mem (x : Fx) (target : Int) : (Fx.branch x target).c.mem = x.c.mem := by simp [Fx.branch]
@[simp] theorem loopStep_mem (x : Fx) (f : LoopF) : (loopStep x f).c.mem = x.c.mem := by simp [loopStep]
@[simp] theorem endloopStep_mem (x : Fx) (ln : BitVec 2) : (endloopStep x ln).c.mem = x.c.mem := by simp [endloopStep]
@[simp] theorem setcfgStep_mem (c : Cell) (sel v : Nat) : (setcfgStep c sel v).mem = c.mem := by simp [setcfgStep]

@[simp] theorem releaseSig_memOk (s : State) (k : Nat) (h : s.memOk = true) : (releaseSig s k).memOk = true := by
  unfold releaseSig
  dsimp only
  (repeat' split) <;> simp [h]

@[simp] theorem tryIssue_memOk {s : State} (k : Nat) (u : CellUnit) (h : s.memOk = true) : (tryIssue s k u).memOk = true := by
  unfold tryIssue
  dsimp only
  split
  · exact h
  · rename_i q t hqueue
    have hc : memWf (Fx.of ((s.cell k).setUnits fun v => v.setQueue u t)).c.mem = true := State.cell_memWf h k
    split
    · split
      · exact h
      · exact State.put_memOk k h (issueArray_memWf _ _ _ hc)
    · split
      · exact h
      · exact State.put_memOk k h (issueAcc_memWf _ _ hc)
    · split
      · exact h
      · exact State.put_memOk k h (issueVector_memWf _ _ _ _ hc)
    · split
      · exact h
      · exact issueMem_memOk _ _ _ (State.memOk_setCell k h hc)

@[simp] theorem holdAt_memOk (s : State) (k : Nat) (h : Held) (conflict : Bool) : (holdAt s k h conflict).memOk = s.memOk := by simp [holdAt]
@[simp] theorem Fx.number_mem (x : Fx) : (Fx.number x).c.mem = x.c.mem := by rfl
@[simp] theorem Fx.wait_mem (x : Fx) (w : Wait) : (Fx.wait x w).c.mem = x.c.mem := by rfl
@[simp] theorem haltStep_memOk (s : State) (k : Nat) : (haltStep s k).memOk = s.memOk := by simp [haltStep]
@[simp] theorem cuewaitStep_memOk (s : State) (k : Nat) (q : QI) (f : CueWaitF) : (cuewaitStep s k q f).memOk = s.memOk := by simp [cuewaitStep]
@[simp] theorem cuesigStep_memOk (s : State) (k : Nat) (q : QI) (h : Held) (f : CueSigF) (hok : s.memOk = true) : (cuesigStep s k q h f).memOk = true := by simp [cuesigStep, hok]
@[simp] theorem suppressSig_memOk (s : State) (k : Nat) : (suppressSig s k).memOk = s.memOk := by simp [suppressSig]
@[simp] theorem Cell.takeCount_mem (c : Cell) (ctr n : Nat) : (Cell.takeCount c ctr n).mem = c.mem := by rfl
@[simp] theorem waitcStep_memOk (s : State) (k : Nat) (q : QI) (f : WaitcF) : (waitcStep s k q f).memOk = s.memOk := by simp [waitcStep]
@[simp] theorem fenceStep_memOk (s : State) (k : Nat) (scope : BitVec 3) : (fenceStep s k scope).memOk = s.memOk := by simp [fenceStep]

@[simp] theorem controlStep_memOk (s : State) (k : Nat) (q : QI) (h : Held) (hok : s.memOk = true) : (controlStep s k q h).memOk = true := by
  unfold controlStep
  split <;> simp [hok]

@[simp] theorem enqueue_memOk (s : State) (k : Nat) (u : CellUnit) (q : QI) : (enqueue s k u q).memOk = s.memOk := by simp [enqueue]

@[simp] theorem attempt_memOk (s : State) (k : Nat) (h : Held) (hok : s.memOk = true) : (attempt s k h).memOk = true := by
  unfold attempt
  (repeat' split) <;> simp [hok]

@[simp] theorem stopBadLine_mem (x : Fx) : (stopBadLine x).c.mem = x.c.mem := by rfl

theorem State.fetchStop_mem {s : State} {k : Nat} {f : Fx → Fx} (hf : s.fetchStop k = some f) (x : Fx) : (f x).c.mem = x.c.mem := by
  unfold State.fetchStop at hf
  dsimp only at hf
  split at hf
  · cases hf
  · split at hf
    · cases hf
      rfl
    · split at hf
      · cases hf
        rfl
      · cases hf

@[simp] theorem arrive_memOk {s : State} (k : Nat) (p : Pred) (op : CellOp) (seen : List MarginObs) (h : s.memOk = true) : (arrive s k p op seen).memOk = true := by
  unfold arrive
  split
  · rename_i f hf
    rwa [State.fx_memOk_same (State.fetchStop_mem hf)]
  · simp [h]

@[simp] theorem dispatch_memOk (s : State) (k : Nat) (p : Pred) (op : CellOp) (seen : List MarginObs) (h : s.memOk = true) :
    (dispatch s k p op seen).memOk = true := by simp [dispatch, h]

@[simp] theorem settle_memOk (s : State) (k : Nat) (h : s.memOk = true) : (settle s k).memOk = true := by
  unfold settle
  dsimp only
  (repeat' split) <;> simp [h]

@[simp] theorem viewStore_mem (c : Cell) (slot off : Nat) (v : Word) : (viewStore c slot off v).mem = c.mem := Cell.modSlot_mem ..

@[simp] theorem landViews_mem (c : Cell) : (landViews c).mem = c.mem :=
  List.foldlRecOn (motive := fun d : Cell => d.mem = c.mem) c.units.view _ rfl fun d hd _ _ => (viewStore_mem d _ _ _).trans hd

@[simp] theorem complete_memOk {s : State} (k : Nat) (u : CellUnit) (h : s.memOk = true) : (complete s k u).memOk = true := by
  have hupd : ∀ f : Cell → Cell, (∀ c, (f c).mem = c.mem) → (settle (s.modCell k f) k).memOk = true := fun f hf => settle_memOk _ _ (by rwa [State.memOk_modCell_same _ _ hf])
  unfold complete
  dsimp only
  split
  · split
    · exact hupd _ fun c => by simp
    · split
      · exact hupd _ fun _ => rfl
      · exact h
  · split
    · exact hupd _ fun _ => rfl
    · exact h
  · split
    · exact hupd _ fun _ => rfl
    · exact h
  · split
    · split
      · exact h
      · refine settle_memOk _ _ (State.memOk_setCell k h ?_)
        split <;> exact State.cell_memWf h k
    · exact h

@[simp] theorem slotDone_memOk (s : State) (k : Nat) (h : s.memOk = true) : (slotDone s k).memOk = true := by
  unfold slotDone
  (repeat' split) <;> simp [h]

@[simp] theorem Cell.waited_mem (c : Cell) (reg cycles : Nat) : (Cell.waited c reg cycles).mem = c.mem := by simp [Cell.waited]

@[simp] theorem cueSatisfied_memOk (s : State) (k cycles : Nat) : (cueSatisfied s k cycles).memOk = s.memOk := by
  unfold cueSatisfied
  split <;> simp

@[simp] theorem ctrSatisfied_memOk (s : State) (k cycles : Nat) : (ctrSatisfied s k cycles).memOk = s.memOk := by
  unfold ctrSatisfied
  split <;> simp

@[simp] theorem State.draw_memOk (s : State) : (State.draw s).1.memOk = s.memOk := by rfl
@[simp] theorem Cell.latchBlock_mem (c : Cell) (slot kind unit src : Nat) : (Cell.latchBlock c slot kind unit src).mem = c.mem := by rfl

@[simp] theorem ctrTimeout_memOk (s : State) (k cycles : Nat) : (ctrTimeout s k cycles).memOk = s.memOk := by
  unfold ctrTimeout
  split <;> simp

@[simp] theorem fenceSatisfied_memOk (s : State) (k cycles : Nat) : (fenceSatisfied s k cycles).memOk = s.memOk := by
  unfold fenceSatisfied
  split <;> simp

@[simp] theorem releaseUnit_memOk {s : State} (k : Nat) (u : CellUnit) (h : s.memOk = true) : (releaseUnit s k u).memOk = true := by
  have hc : memWf (Fx.of (s.cell k)).c.mem = true := State.cell_memWf h k
  unfold releaseUnit
  dsimp only
  split
  · split
    · exact State.put_memOk k h (resumeArray_memWf _ _ _ hc)
    · split
      · exact State.put_memOk k h (resumeArray_memWf _ _ _ hc)
      · exact h
  · split
    · exact State.put_memOk k h (resumeAcc_memWf _ _ hc)
    · exact h
  · split
    · exact State.put_memOk k h (resumeVector_memWf _ _ _ _ hc)
    · exact h
  · split
    · exact resumeMem_memOk _ _ h
    · split
      · split
        · exact arriveData_memOk _ _ _ _ _ _ _ _ h
        · exact h
      · exact h

@[simp] theorem releaseAt_memOk (s : State) (k : Nat) (a : Blocked) (h : s.memOk = true) : (releaseAt s k a).memOk = true := by
  unfold releaseAt
  split <;> simp [h]

@[simp] theorem Cell.tagWaited_mem (c : Cell) (b : Blocked) (t : TagBlock) (cycles : Nat) : (Cell.tagWaited c b t cycles).mem = c.mem := by simp [Cell.tagWaited]

@[simp] theorem releaseBlock_memOk {s : State} (k : Nat) (b : Blocked) (cycles : Nat) (h : s.memOk = true) : (releaseBlock s k b cycles).memOk = true := by
  unfold releaseBlock
  split
  · exact h
  · refine releaseAt_memOk _ _ _ (State.memOk_foldl (fun t b ht => ?_) _ (by simpa using h))
    split
    · exact releaseAt_memOk _ _ _ ht
    · exact ht

@[simp] theorem Fx.tagTimeout_mem (x : Fx) (u : CellUnit) (b : TagBlock) (src : Nat) : (Fx.tagTimeout x u b src).c.mem = x.c.mem := by simp [Fx.tagTimeout]

@[simp] theorem Cell.endSend_mem (c : Cell) : (Cell.endSend c).mem = c.mem := by
  unfold Cell.endSend
  (repeat' split) <;> simp

@[simp] theorem timeoutUnit_memOk (s : State) (k : Nat) (u : CellUnit) : (timeoutUnit s k u).memOk = s.memOk := by
  unfold timeoutUnit
  dsimp only
  (repeat' split) <;> simp

@[simp] theorem timeoutPort_memOk (s : State) (k : Nat) : (timeoutPort s k).memOk = s.memOk := by
  unfold timeoutPort
  (repeat' split) <;> simp

@[simp] theorem timeoutBlock_memOk (s : State) (k : Nat) (b : Blocked) (cycles : Nat) (h : s.memOk = true) : (timeoutBlock s k b cycles).memOk = true := by
  unfold timeoutBlock
  dsimp only
  (repeat' split) <;> simp [h]
end Sys2Proof.Machine
end

section
/-! PROOF. Steps keep byte memories canonical: scrubbers, jobs in time, faults and packets (spec/09_scratchpad_hbm.md R215 to R220, spec/18_faults_fencing.md). -/
namespace Sys2Proof.Machine

/-! Scrubbers. -/

theorem Fx.foldl_mem {α : Type} {f : Fx → α → Fx} (hf : ∀ x a, (f x a).c.mem = x.c.mem) (l : List α) (x : Fx) : (l.foldl f x).c.mem = x.c.mem :=
  List.foldlRecOn (motive := fun y : Fx => y.c.mem = x.c.mem) l f rfl fun y hy a _ => (hf y a).trans hy

@[simp] theorem scrubCorrect_mem (x : Fx) (slot row t : Nat) (l : List Flip) : (scrubCorrect x slot row t l).c.mem = x.c.mem := by
  have hnote := Fx.foldl_mem (fun (y : Fx) (f : Flip) => y.note_mem 0x0101 (eccDetail slot row f.bit (mapGet 0 (x.c.slot slot).lastClean row) t) f.injected) l
    (x.map fun c => c.count rEccCorr l.length)
  unfold scrubCorrect
  dsimp only
  split
  · simpa using hnote
  · refine Eq.trans ?_ (hnote.trans (by simp))
    rw [Fx.map_c]
    split <;> exact Cell.modSlot_mem ..

@[simp] theorem scrubPoison_mem (x : Fx) (slot row : Nat) (inj : Bool) : (scrubPoison x slot row inj).c.mem = x.c.mem := by simp [scrubPoison]

@[simp] theorem poisonWords_mem (x : Fx) (slot row : Nat) (words : List Nat) : (poisonWords x slot row words).c.mem = x.c.mem :=
  Fx.foldl_mem (fun y w => by simp) words x

@[simp] theorem scrubArray_memWf (x : Fx) (slot row t : Nat) (upset : List Nat) (h : memWf x.c.mem = true) : memWf (scrubArray x slot row t upset).c.mem = true := by simp [scrubArray, h]
@[simp] theorem scrubRewrite_memWf (c : Cell) (slot : Nat) (h : memWf c.mem = true) : memWf (scrubRewrite c slot).mem = true := by simp [scrubRewrite, h]
@[simp] theorem viewRead_mem (x : Fx) (slot off : Nat) : (viewRead x slot off).c.mem = x.c.mem := by simp [viewRead]
@[simp] theorem scrubSpm_memWf (x : Fx) (piece : Nat) (upset : List Nat) (h : memWf x.c.mem = true) : memWf (scrubSpm x piece upset).c.mem = true := by simp [scrubSpm, h]

@[simp] theorem patrolHbm_memOk {s : State} (r blk : Nat) (upset : List Nat) (h : s.memOk = true) : (patrolHbm s r blk upset).memOk = true := by
  unfold patrolHbm
  split
  · exact h
  · exact State.checkBlock_memOk _ (State.memOk_setHbm h (Hbm.flip_memWf _ _ (State.hbm_memWf h)))

@[simp] theorem checkLine_memOk {s : State} (bk line : Nat) (upset : List Nat) (h : s.memOk = true) : (checkLine s bk line upset).memOk = true := by
  unfold checkLine
  dsimp only
  split
  · exact h
  · split
    · exact h
    · split
      · simpa using h
      · refine State.memOk_modBlk bk h ?_
        exact List.foldlRecOn (motive := fun m : Memory => memWf m = true) _ _ (State.blk_memWf h bk) fun m hm p _ => flipBits_wf _ _ hm

@[simp] theorem fetchLine_memOk (s : State) (k waited : Nat) (h : s.memOk = true) : (fetchLine s k waited).memOk = true := by
  unfold fetchLine
  dsimp only
  (repeat' split) <;> simp [h]

@[simp] theorem reservedStep_memOk {s : State} (k : Nat) (word : DWord) (h : s.memOk = true) : (reservedStep s k word).memOk = true := by
  have hstop : ∀ x, (((s.fetchStop k).getD Fx.outOfRange) x).c.mem = x.c.mem := by
    intro x
    cases hf : s.fetchStop k with
    | none => exact x.outOfRange_mem
    | some f => exact State.fetchStop_mem hf x
  unfold reservedStep
  split
  · exact dispatch_memOk _ _ _ _ _ h
  · split
    · exact h
    · rwa [State.fx_memOk_same hstop]

/-! Jobs in time. -/

@[simp] theorem sendEach_memOk (s : State) (j : Job) (ps : List Nat) (f : Nat → Packet) : (sendEach s j ps f).memOk = s.memOk := by simp [sendEach]
@[simp] theorem stopForFault_memOk (s : State) (cls : BitVec 16) (k : Nat) : (stopForFault s cls k).memOk = s.memOk := by simp [stopForFault]

@[simp] theorem faultJob_memOk (s : State) (id : Word) (c : Rec) (send : Bool) : (faultJob s id c send).memOk = s.memOk := by
  unfold faultJob
  split <;> simp

@[simp] theorem faultWith_memOk (s : State) (id : Word) (c : Rec) : (faultWith s id c).memOk = s.memOk := by simp [faultWith]
@[simp] theorem countSteps_memOk (s : State) (j : Job) (n : Nat) : (countSteps s j n).memOk = s.memOk := by simp [countSteps]

@[simp] theorem holdReceive_memOk (s : State) (id : Word) (src e k : Nat) : (holdReceive s id src e k).memOk = s.memOk := by
  unfold holdReceive
  split <;> simp

@[simp] theorem broadcastHold_memOk (s : State) (j : Job) (k : Nat) : (broadcastHold s j k).memOk = s.memOk := by simp [broadcastHold]

@[simp] theorem epochCheck_memOk (s : State) (id : Word) : (epochCheck s id).memOk = s.memOk := by
  unfold epochCheck
  split <;> simp

@[simp] theorem heartbeatSend_memOk (s : State) (id : Word) : (heartbeatSend s id).memOk = s.memOk := by
  unfold heartbeatSend
  split <;> simp

@[simp] theorem beatReceive_memOk (s : State) (id : Word) (src : Nat) : (beatReceive s id src).memOk = s.memOk := by
  unfold beatReceive
  (repeat' split) <;> simp

@[simp] theorem heartbeatTimeout_memOk (s : State) (id : Word) (pos : Nat) : (heartbeatTimeout s id pos).memOk = s.memOk := by
  unfold heartbeatTimeout
  split <;> simp

@[simp] theorem epochStart_memOk (s : State) (id : Word) : (epochStart s id).memOk = s.memOk := by
  unfold epochStart
  split
  · rfl
  · split
    · rfl
    · split
      · rfl
      · rw [State.modJob_memOk]
        exact (State.memOk_foldl_eq (fun _ _ => by rfl) _ _).trans (State.jobTickTo_memOk ..)

@[simp] theorem changeLimit_memOk (s : State) (id : Word) : (changeLimit s id).memOk = s.memOk := by
  unfold changeLimit
  (repeat' split) <;> simp

@[simp] theorem changeResend_memOk (s : State) (id : Word) : (changeResend s id).memOk = s.memOk := by
  unfold changeResend
  (repeat' split) <;> simp

@[simp] theorem changeHold_memOk (s : State) (id : Word) (k : Nat) : (changeHold s id k).memOk = s.memOk := by
  unfold changeHold
  (repeat' split) <;> simp

@[simp] theorem changeAck_memOk (s : State) (id : Word) (pos : Nat) : (changeAck s id pos).memOk = s.memOk := by
  unfold changeAck
  (repeat' split) <;> simp

@[simp] theorem cellSummaries_memOk (s : State) (k tick : Nat) : (cellSummaries s k tick).memOk = s.memOk := by simp [cellSummaries]
@[simp] theorem blockSummaries_memOk (s : State) (bk tick : Nat) : (blockSummaries s bk tick).memOk = s.memOk := by simp [blockSummaries]
@[simp] theorem regionSummaries_memOk (s : State) (r tick : Nat) : (regionSummaries s r tick).memOk = s.memOk := by simp [regionSummaries]
@[simp] theorem closeInterval_memOk (s : State) (r tick : Nat) : (closeInterval s r tick).memOk = s.memOk := by simp [closeInterval]
@[simp] theorem bucketSummaries_memOk (s : State) (id : Word) (tick : Nat) : (bucketSummaries s id tick).memOk = s.memOk := by simp [bucketSummaries]
@[simp] theorem holdRecords_memOk (s : State) (j : Job) : (holdRecords s j).memOk = s.memOk := by simp [holdRecords]

/-! A combine that times out. -/

@[simp] theorem combTimeout_memOk (s : State) (k : Nat) : (combTimeout s k).memOk = s.memOk := by
  unfold combTimeout
  split <;> simp

/-! Issue after a wait. -/

@[simp] theorem issueWaited_memOk {s : State} (k : Nat) (u : CellUnit) (waited : Nat) (h : s.memOk = true) : (issueWaited s k u waited).memOk = true := by
  unfold issueWaited
  refine settle_memOk _ _ (tryIssue_memOk _ _ ?_)
  simpa using h

/-! Responses. -/

@[simp] theorem State.modMbx_memOk (s : State) (n : Nat) (f : Mbx → Mbx) : (State.modMbx s n f).memOk = s.memOk := by simp [State.modMbx]

@[simp] theorem respond_memOk (s : State) (n status : Nat) (payload : List Byte) : (respond s n status payload).memOk = s.memOk := by
  unfold respond
  split <;> simp

/-! Faults and repairs. -/

@[simp] theorem judgeBlock_memOk (s : State) (bk : Nat) : (judgeBlock s bk).memOk = s.memOk := by simp [judgeBlock]
@[simp] theorem listFull_memOk (s : State) (bk : Nat) : (listFull s bk).memOk = s.memOk := by simp [listFull]
@[simp] theorem judgeCell_memOk (s : State) (bk p : Nat) : (judgeCell s bk p).memOk = s.memOk := by simp [judgeCell]
@[simp] theorem judgeColumn_memOk (s : State) (bk p col : Nat) : (judgeColumn s bk p col).memOk = s.memOk := by simp [judgeColumn]
@[simp] theorem repairCols_memOk (s : State) (bk p : Nat) (cols : List Nat) : (repairCols s bk p cols).memOk = s.memOk := by simp [repairCols]

@[simp] theorem repairCell_memOk (s : State) (bk p : Nat) : (repairCell s bk p).memOk = s.memOk := by
  unfold repairCell
  (repeat' split) <;> simp

@[simp] theorem repairBlock_memOk (s : State) (bk : Nat) : (repairBlock s bk).memOk = s.memOk := by simp [repairBlock]
@[simp] theorem applyRepairs_memOk (s : State) (r : Nat) : (applyRepairs s r).memOk = s.memOk := by simp [applyRepairs]
@[simp] theorem judgeMargin_memOk (s : State) (bk p : Nat) : (judgeMargin s bk p).memOk = s.memOk := by simp [judgeMargin]
@[simp] theorem judgeCorrected_memOk (s : State) (bk p col n : Nat) : (judgeCorrected s bk p col n).memOk = s.memOk := by simp [judgeCorrected]
@[simp] theorem State.modRpwr_memOk (s : State) (r : Nat) (f : RgnPwr → RgnPwr) : (State.modRpwr s r f).memOk = s.memOk := by simp [State.modRpwr]
@[simp] theorem dropWindows_memOk (s : State) (keep : Window → Bool) : (dropWindows s keep).memOk = s.memOk := by simp [dropWindows]

@[simp] theorem abandonChans_memOk (s : State) (bk : Nat) : (abandonChans s bk).memOk = s.memOk := by
  unfold abandonChans
  refine (State.memOk_modBlk_same _ bk ?_).trans (State.memOk_foldl_eq (fun t ch => ?_) _ s)
  · exact fun _ => rfl
  · split
    · exact failComb_memOk ..
    · rfl

@[simp] theorem State.dropTraffic_memOk (s : State) (r : Nat) : (State.dropTraffic s r).memOk = s.memOk := by simp [State.dropTraffic]

@[simp] theorem releaseRegion_memOk (s : State) (r : Nat) : (releaseRegion s r).memOk = s.memOk := by
  unfold releaseRegion
  dsimp only
  split
  · exact State.modRgn_memOk ..
  · rw [State.modRgn_memOk, State.dropTraffic_memOk]
    refine (State.memOk_mapCells fun c => ?_).trans (State.memOk_foldl_eq abandonChans_memOk _ s)
    split <;> rfl

@[simp] theorem noteReleased_memOk (s : State) : (noteReleased s).memOk = s.memOk := by simp [noteReleased]
@[simp] theorem regionReleased_memOk (s : State) (r : Nat) : (regionReleased s r).memOk = s.memOk := by simp [regionReleased]

@[simp] theorem releaseJob_memOk (s : State) (id : Word) : (releaseJob s id).memOk = s.memOk := by
  unfold releaseJob
  dsimp only
  (repeat' split) <;> simp

@[simp] theorem abandonLoad_memOk (s : State) (id : Word) : (abandonLoad s id).memOk = s.memOk := by
  unfold abandonLoad
  dsimp only
  (repeat' split) <;> simp

@[simp] theorem abandonBooks_memOk (s : State) : (abandonBooks s).memOk = s.memOk := by simp [abandonBooks]

@[simp] theorem dropLinks_memOk (s : State) (r : Nat) : (dropLinks s r).memOk = s.memOk := by
  unfold dropLinks
  rw [State.memOk_foldl_eq fun t l => by split <;> simp, State.modRgn_memOk]

@[simp] theorem dropPort_memOk (s : State) (p : Nat) : (dropPort s p).memOk = s.memOk := by simp [dropPort]
@[simp] theorem withdrawRegion_memOk (s : State) (r : Nat) : (withdrawRegion s r).memOk = s.memOk := by simp [withdrawRegion]

@[simp] theorem failOne_memOk (s : State) (r cause : Nat) : (failOne s r cause).memOk = s.memOk := by
  unfold failOne
  dsimp only
  (repeat' split) <;> simp

@[simp] theorem failRegion_memOk (s : State) (r cause : Nat) : (failRegion s r cause).memOk = s.memOk := by simp [failRegion]
@[simp] theorem raiseGuard_memOk (s : State) (r n : Nat) : (raiseGuard s r n).memOk = s.memOk := by simp [raiseGuard]
@[simp] theorem countMargins_memOk (s : State) (r n : Nat) : (countMargins s r n).memOk = s.memOk := by simp [countMargins]

@[simp] theorem stopFaults_memOk (s : State) (r : Rec) : (stopFaults s r).memOk = s.memOk := by
  unfold stopFaults
  (repeat' split) <;> simp

@[simp] theorem blockArrival_memOk (s : State) (bk : Nat) : (blockArrival s bk).memOk = s.memOk := by
  unfold blockArrival
  split
  · rfl
  · dsimp only
    split
    · exact State.memOk_modBlk_same s bk fun _ => rfl
    · rw [stopFaults_memOk]
      exact State.memOk_modBlk_same s bk (f := fun b => { b with transit := _, aggr := { b.aggr with lost := true }, cnt := bump b.cnt 0xE0 1 }) fun _ => rfl

@[simp] theorem regionTake_memOk (s : State) (g : Nat) (r : Rec) : (regionTake s g r).memOk = s.memOk := by
  unfold regionTake
  split <;> simp

@[simp] theorem regionArrival_memOk (s : State) (g bk : Nat) : (regionArrival s g bk).memOk = s.memOk := by
  unfold regionArrival
  (repeat' split) <;> simp

@[simp] theorem judgeRecord_memOk (s : State) (r : Rec) : (judgeRecord s r).memOk = s.memOk := by simp [judgeRecord]

@[simp] theorem hubArrival_memOk (s : State) (g : Nat) : (hubArrival s g).memOk = s.memOk := by
  unfold hubArrival
  split <;> simp

@[simp] theorem scrubbed_memOk {s : State} (r : Nat) (h : s.memOk = true) : (scrubbed s r).memOk = true := by
  unfold scrubbed
  extract_lets base stop t
  have ht : t.memOk = true := (State.memOk_foldl_eq State.settleAll_memOk _ s).trans h
  obtain ⟨hhbm, hcells, hblocks⟩ := t.memOk_iff.1 ht
  refine (State.memOk_iff _).2 ⟨memZero_wf _ _ hhbm, ?_, ?_⟩
  · exact List.all_eq_true.2 fun c hc => List.all_eq_true.1 hcells c (List.mem_filter.1 hc).1
  · rw [List.all_map]
    refine List.all_eq_true.2 fun b hb => ?_
    simp only [Function.comp_apply]
    split
    · rfl
    · exact List.all_eq_true.1 hblocks b hb

@[simp] theorem applyFinding_memOk (s : State) (r : Nat) (f : TestFinding) : (applyFinding s r f).memOk = s.memOk := by
  unfold applyFinding
  split <;> simp

@[simp] theorem endScrub_memOk (s : State) (r : Nat) (found : List TestFinding) (h : s.memOk = true) : (endScrub s r found).memOk = true := by simp [endScrub, h]

/-! Packets that reach the module. -/

@[simp] theorem park_memOk (s : State) (p : Nat) (k : Packet) : (park s p k).memOk = s.memOk := by simp [park]

@[simp] theorem takeSlot_memOk (k : Packet) (x : State × Bool) (i : Nat) : (takeSlot k x i).1.memOk = x.1.memOk := by
  unfold takeSlot
  dsimp only
  (repeat' split) <;> simp

@[simp] theorem writePacket_memOk (s : State) (p : Nat) (k : Packet) (ty : Nat) : (writePacket s p k ty).memOk = s.memOk := by
  unfold writePacket
  split
  · rfl
  · split
    · exact park_memOk ..
    · exact List.foldlRecOn (motive := fun y : State × Bool => y.1.memOk = s.memOk) _ _ (takeArrived_memOk ..) fun y hy i _ => (takeSlot_memOk k y i).trans hy

@[simp] theorem cuePacket_memOk (s : State) (p : Nat) (k : Packet) (h : s.memOk = true) : (cuePacket s p k).memOk = true := by simp [cuePacket, h]
@[simp] theorem bucketPacket_memOk (s : State) (p : Nat) (k : Packet) (ty : Nat) (h : s.memOk = true) : (bucketPacket s p k ty).memOk = true := by simp [bucketPacket, h]

@[simp] theorem holdArrive_memOk (s : State) (p : Nat) (k : Packet) : (holdArrive s p k).memOk = s.memOk := by
  unfold holdArrive
  dsimp only
  (repeat' split) <;> simp

@[simp] theorem timeAlign_memOk (s : State) (p : Nat) (k : Packet) : (timeAlign s p k).memOk = s.memOk := by
  unfold timeAlign
  dsimp only
  (repeat' split) <;> simp

@[simp] theorem timeAnnounce_memOk (s : State) (p : Nat) (k : Packet) : (timeAnnounce s p k).memOk = s.memOk := by
  unfold timeAnnounce
  dsimp only
  (repeat' split) <;> simp

@[simp] theorem timeBeat_memOk (s : State) (p : Nat) (k : Packet) : (timeBeat s p k).memOk = s.memOk := by simp [timeBeat]
@[simp] theorem blockPort_memOk (s : State) (p : Nat) (k : Packet) : (blockPort s p k).memOk = s.memOk := by simp [blockPort]
@[simp] theorem identArrive_memOk (s : State) (p : Nat) (k : Packet) : (identArrive s p k).memOk = s.memOk := by simp [identArrive]
@[simp] theorem nakArrive_memOk (s : State) (p : Nat) (k : Packet) : (nakArrive s p k).memOk = s.memOk := by simp [nakArrive]

@[simp] theorem unreachableArrive_memOk (s : State) (p : Nat) (k : Packet) : (unreachableArrive s p k).memOk = s.memOk := by
  unfold unreachableArrive
  dsimp only
  (repeat' split) <;> simp

@[simp] theorem State.modSlot_memOk (s : State) (i : Nat) (f : JobSlot → JobSlot) : (State.modSlot s i f).memOk = s.memOk := by simp [State.modSlot]

@[simp] theorem scheduleAlloc_memOk (s : State) (id : Word) (epoch units : Nat) : (scheduleAlloc s id epoch units).memOk = s.memOk := by
  unfold scheduleAlloc
  split <;> simp

@[simp] theorem firmwareTake_memOk (s : State) (src : Nat) (f : FwMsg) : (firmwareTake s src f).memOk = s.memOk := by
  unfold firmwareTake
  (repeat' split) <;> simp

@[simp] theorem firmwareArrive_memOk (s : State) (p : Nat) (k : Packet) : (firmwareArrive s p k).memOk = s.memOk := by
  unfold firmwareArrive
  (repeat' split) <;> simp

@[simp] theorem setModuleId_memOk (s : State) (id : BitVec 12) : (setModuleId s id).memOk = s.memOk := by simp [setModuleId]
@[simp] theorem keepName_memOk (s : State) (a : DWord) (n : Word) (p : Nat) : (keepName s a n p).memOk = s.memOk := by simp [keepName]
@[simp] theorem relayAssign_memOk (s : State) (from_ : Option Nat) (a : AssignMsg) : (relayAssign s from_ a).memOk = s.memOk := by simp [relayAssign]
@[simp] theorem assignArrive_memOk (s : State) (p : Nat) (a : AssignMsg) : (assignArrive s p a).memOk = s.memOk := by simp [assignArrive]
@[simp] theorem forwardPacket_memOk (s : State) (p : Nat) (k : Packet) : (forwardPacket s p k).memOk = s.memOk := by simp [forwardPacket]
@[simp] theorem sendNak_memOk (s : State) (p reason : Nat) (h0 : DWord) : (sendNak s p reason h0).memOk = s.memOk := by simp [sendNak]

@[simp] theorem malformedArrive_memOk (s : State) (p : Nat) (k : Packet) : (malformedArrive s p k).memOk = s.memOk := by
  unfold malformedArrive
  dsimp only
  (repeat' split) <;> simp

@[simp] theorem holdoverEnd_memOk (s : State) : (holdoverEnd s).memOk = s.memOk := by simp [holdoverEnd]
@[simp] theorem holdoverExit_memOk (s : State) : (holdoverExit s).memOk = s.memOk := by simp [holdoverExit]
@[simp] theorem portSummary_memOk (s : State) (p : Nat) : (portSummary s p).memOk = s.memOk := by simp [portSummary]
end Sys2Proof.Machine
end

section
/-! PROOF. Steps keep byte memories canonical: resets, start-up, power and reads of registers (spec/16_clocks_reset_startup.md, spec/17_power_thermal.md). -/
namespace Sys2Proof.Machine

/-! Firmware images. -/

@[simp] theorem State.modSec_memOk (s : State) (f : Sec → Sec) : (State.modSec s f).memOk = s.memOk := by simp [State.modSec]

@[simp] theorem installTable_memOk (s : State) : (installTable s).memOk = s.memOk := by
  unfold installTable
  dsimp only
  (repeat' split) <;> simp

@[simp] theorem secureReady_memOk (s : State) : (secureReady s).memOk = s.memOk := by simp [secureReady]

@[simp] theorem endDebug_memOk (s : State) (cause : Nat) : (endDebug s cause).memOk = s.memOk := by
  unfold endDebug
  split <;> simp

/-! Resets and start-up. -/

@[simp] theorem State.modClk_memOk (s : State) (f : Clk → Clk) : (State.modClk s f).memOk = s.memOk := by simp [State.modClk]
@[simp] theorem State.modRclk_memOk (s : State) (r : Nat) (f : RgnClk → RgnClk) : (State.modRclk s r f).memOk = s.memOk := by simp [State.modRclk]
@[simp] theorem State.modFlt_memOk (s : State) (f : FltLog → FltLog) : (State.modFlt s f).memOk = s.memOk := by simp [State.modFlt]

theorem blocksAfter_all (bs : SMap Block) : ((blocksAfter bs).all fun b => memWf b.2.istore) = true := by
  rw [blocksAfter, List.all_map]
  exact List.all_eq_true.2 fun _ _ => rfl

@[simp] theorem hubDown_memOk {s : State} (h : s.memOk = true) : (hubDown s).memOk = true := by
  have hm : memWf s.hbm.mem = true := State.hbm_memWf h
  exact (State.memOk_iff _).2 ⟨hm, rfl, blocksAfter_all _⟩

@[simp] theorem abandonRecords_memOk (s : State) : (abandonRecords s).memOk = s.memOk := by simp [abandonRecords]
@[simp] theorem warmReset_memOk (s : State) (cause : BitVec 3) (h : s.memOk = true) : (warmReset s cause).memOk = true := by simp [warmReset, h]
@[simp] theorem faultAll_memOk (s : State) (c : Rec) : (faultAll s c).memOk = s.memOk := by simp [faultAll]
@[simp] theorem moduleReset_memOk (s : State) (h : s.memOk = true) : (moduleReset s).memOk = true := by simp [moduleReset, h]

@[simp] theorem coldState_memOk (s : State) (stage : Stage) (inRange : Bool) : (coldState s stage inRange).memOk = true :=
  (State.memOk_iff _).2 ⟨rfl, rfl, blocksAfter_all _⟩

@[simp] theorem enterBlackout_memOk (s : State) (cls : Nat) (detail : List Byte) (h : s.memOk = true) : (enterBlackout s cls detail).memOk = true := by simp [enterBlackout, h]
@[simp] theorem aonToRef_memOk (s : State) : (aonToRef s).memOk = s.memOk := by simp [aonToRef]

@[simp] theorem clockFails_memOk (s : State) (how : Byte) (k : ClockName) (h : s.memOk = true) : (clockFails s how k).memOk = true := by
  unfold clockFails
  split <;> simp [h]

@[simp] theorem clockRestart_memOk (s : State) : (clockRestart s).memOk = s.memOk := by simp [clockRestart]
@[simp] theorem judgeWindow_memOk (s : State) (ref sclk : Nat) (h : s.memOk = true) : (judgeWindow s ref sclk).memOk = true := by simp [judgeWindow, h]

@[simp] theorem forceRegion_memOk (s : State) (r : Nat) : (forceRegion s r).memOk = s.memOk := by
  unfold forceRegion
  extract_lets s1 s2 here t u
  have ht : t.memOk = s.memOk := by simp [t, s2, s1]
  have hu : u.memOk = s.memOk := by
    refine (State.memOk_foldl_eq (fun v f => ?_) _ t).trans ht
    split
    · exact lostOwn_memOk ..
    · split
      · exact unreachable_memOk ..
      · rfl
  rw [State.memOk_foldl_eq (fun v p => by simp), hu]

@[simp] theorem regionPllLoss_memOk (s : State) (r : Nat) : (regionPllLoss s r).memOk = s.memOk := by
  unfold regionPllLoss
  dsimp only
  (repeat' split) <;> simp

@[simp] theorem relockAttempt_memOk (s : State) (r : Nat) (ok : Bool) : (relockAttempt s r ok).memOk = s.memOk := by simp [relockAttempt]
@[simp] theorem standbyLoss_memOk (s : State) (r : Nat) : (standbyLoss s r).memOk = s.memOk := by simp [standbyLoss]

@[simp] theorem regionReset_memOk (s : State) (r cause : Nat) : (regionReset s r cause).memOk = s.memOk := by
  unfold regionReset
  dsimp only
  (repeat' split) <;> simp

@[simp] theorem closeDebug_memOk (s : State) (cause : Nat) : (closeDebug s cause).memOk = s.memOk := by simp [closeDebug]

@[simp] theorem cellReset_memOk (s : State) (k : Nat) : (cellReset s k).memOk = s.memOk := by
  unfold cellReset
  extract_lets bk c s1 s2 s3
  have h1 : s1.memOk = s.memOk := State.log_memOk ..
  have h2 : s2.memOk = s1.memOk := by
    refine State.memOk_foldl_eq (fun t ch => ?_) _ s1
    split
    · exact failComb_memOk ..
    · rfl
  have h3 : s3.memOk = s2.memOk := by simp only [s3, State.memOk_mk]
  rw [State.memOk_modCell_same _ k fun _ => by rfl, h3, h2, h1]

/-! Power, droop and thermal control. -/

@[simp] theorem setClocks_memOk (s : State) (r : Nat) (c : BitVec 15) : (setClocks s r c).memOk = s.memOk := by simp [setClocks]

@[simp] theorem retarget_memOk (s : State) (r : Nat) : (retarget s r).memOk = s.memOk := by
  unfold retarget
  dsimp only
  (repeat' split) <;> simp

@[simp] theorem railSettled_memOk (s : State) (r : Nat) : (railSettled s r).memOk = s.memOk := by
  unfold railSettled
  dsimp only
  (repeat' split) <;> simp

@[simp] theorem slewDone_memOk (s : State) (r : Nat) : (slewDone s r).memOk = s.memOk := by
  unfold slewDone
  dsimp only
  (repeat' split) <;> simp

@[simp] theorem applyGuard_memOk (s : State) (r : Nat) : (applyGuard s r).memOk = s.memOk := by
  unfold applyGuard
  dsimp only
  (repeat' split) <;> simp

@[simp] theorem powerWake_memOk (s : State) (r : Nat) : (powerWake s r).memOk = s.memOk := by simp [powerWake]
@[simp] theorem powerSleep_memOk (s : State) (r : Nat) : (powerSleep s r).memOk = s.memOk := by simp [powerSleep]
@[simp] theorem syncCaps_memOk (s : State) : (syncCaps s).memOk = s.memOk := by simp [syncCaps]
@[simp] theorem stepDown_memOk (s : State) (l : List Nat) : (stepDown s l).memOk = s.memOk := by simp [stepDown]
@[simp] theorem capFloor_memOk (s : State) (above under : Bool) : (capFloor s above under).memOk = s.memOk := by simp [capFloor]

@[simp] theorem capSteps_memOk (s : State) : (capSteps s).memOk = s.memOk := by
  unfold capSteps
  dsimp only
  (repeat' split) <;> simp

@[simp] theorem thermalLoop_memOk (s : State) (r : Nat) : (thermalLoop s r).memOk = s.memOk := by simp [thermalLoop]
@[simp] theorem driveAlert_memOk (s : State) : (driveAlert s).memOk = s.memOk := by simp [driveAlert]
@[simp] theorem capLoop_memOk (s : State) : (capLoop s).memOk = s.memOk := by simp [capLoop]
@[simp] theorem estimatorSample_memOk (s : State) (r b : Nat) (counts : List Nat) : (estimatorSample s r b counts).memOk = s.memOk := by simp [estimatorSample]
@[simp] theorem inputSample_memOk (s : State) (mv ma : Nat) : (inputSample s mv ma).memOk = s.memOk := by simp [inputSample]
@[simp] theorem judgeTemps_memOk (s : State) (r : Nat) : (judgeTemps s r).memOk = s.memOk := by simp [judgeTemps]

@[simp] theorem calibrate_memOk (s : State) (f : RegionFit) : (calibrate s f).memOk = s.memOk := by
  unfold calibrate
  extract_lets r y g o t
  have ht : t.memOk = s.memOk := by
    refine (State.modRpwr_memOk ..).trans ?_
    simp only [y]
    split <;> rfl
  split <;> simp [ht]

@[simp] theorem chargeRegion_memOk (s : State) (r share : Nat) : (chargeRegion s r share).memOk = s.memOk := by
  unfold chargeRegion
  dsimp only
  (repeat' split) <;> simp

@[simp] theorem powerCalibration_memOk (s : State) (inputUj : Nat) (fits : List RegionFit) : (powerCalibration s inputUj fits).memOk = s.memOk := by simp [powerCalibration]
@[simp] theorem droopAssert_memOk (s : State) (r b d : Nat) (sustained : Bool) : (droopAssert s r b d sustained).memOk = s.memOk := by simp [droopAssert]
@[simp] theorem stretchEnd_memOk (s : State) (r cycles : Nat) : (stretchEnd s r cycles).memOk = s.memOk := by simp [stretchEnd]
@[simp] theorem droopQuiet_memOk (s : State) (r : Nat) : (droopQuiet s r).memOk = s.memOk := by simp [droopQuiet]
@[simp] theorem rampMark_memOk (s : State) (r held : Nat) : (rampMark s r held).memOk = s.memOk := by simp [rampMark]

/-! Records at the hub. -/

@[simp] theorem recordArrival_memOk (s : State) (st : FaultStage) : (recordArrival s st).memOk = s.memOk := by
  unfold recordArrival
  split <;> simp

@[simp] theorem summaryTimer_memOk (s : State) : (summaryTimer s).memOk = s.memOk := by simp [summaryTimer]
@[simp] theorem sramScrub_memOk (s : State) (corrected : Nat) (lost : List Nat) (h : s.memOk = true) : (sramScrub s corrected lost).memOk = true := by simp [sramScrub, h]
@[simp] theorem hostTakeover_memOk (s : State) : (hostTakeover s).memOk = s.memOk := by simp [hostTakeover]

@[simp] theorem secondSummary_memOk (s : State) : (secondSummary s).memOk = s.memOk := by
  unfold secondSummary
  dsimp only
  (repeat' split) <;> simp

@[simp] theorem takeFault_memOk (s : State) (id : Word) (cls : BitVec 16) : (takeFault s id cls).memOk = s.memOk := by
  unfold takeFault
  split <;> simp

@[simp] theorem cueTimer_memOk (s : State) (h : s.memOk = true) : (cueTimer s).memOk = true := by simp [cueTimer, h]

/-! Reads of registers. -/

@[simp] theorem clearCounter_memOk (s : State) (p : Place) : (clearCounter s p).memOk = s.memOk := by
  unfold clearCounter
  (repeat' split) <;> simp

@[simp] theorem refuseAccess_memOk (s : State) (q : Requester) (write : Bool) (a : Nat) : (refuseAccess s q write a).memOk = s.memOk := by simp [refuseAccess]
@[simp] theorem refuseScrub_memOk (s : State) (q : Requester) (p : Place) (a : Nat) : (refuseScrub s q p a).memOk = s.memOk := by simp [refuseScrub]

@[simp] theorem hostCheck_memOk {s : State} (a n : Nat) (h : s.memOk = true) : (hostCheck s a n).memOk = true := by
  unfold hostCheck
  split
  · refine State.memOk_foldl (fun t i ht => State.fx_memOk _ ht fun x hx => ?_) _ h
    split
    · exact Fx.checkSlot_memWf _ hx
    · rwa [x.checkFrame_mem]
  · exact State.checkHbm_memOk a n h
end Sys2Proof.Machine
end

section
/-! PROOF. Steps keep byte memories canonical: writes to registers and memory, epoch boundaries, loading, and the Ethernet port (spec/00_scope.md, spec/11_prompt_books_epochs.md, spec/14_ethernet_port.md). -/
namespace Sys2Proof.Machine

/-! Reads of registers. -/

@[simp] theorem readEffect_memOk (s : State) (q : Requester) (a : Nat) (p : Place) (h : s.memOk = true) : (readEffect s q a p).memOk = true := by
  unfold readEffect
  dsimp only
  (repeat' split) <;> simp [h]

@[simp] theorem readAccess_memOk (s : State) (q : Requester) (a size : Nat) (h : s.memOk = true) : (readAccess s q a size).1.memOk = true := by
  unfold readAccess
  dsimp only
  (repeat' split) <;> simp [h]

/-! Writes to registers. -/

@[simp] theorem viewWrite_memOk (s : State) (k off : Nat) (v : Word) (h : s.memOk = true) : (viewWrite s k off v).memOk = true := by simp [viewWrite, h]
@[simp] theorem debugHalt_memOk (s : State) (k : Nat) : (debugHalt s k).memOk = s.memOk := by simp [debugHalt]
@[simp] theorem debugResume_memOk (s : State) (k : Nat) (h : s.memOk = true) : (debugResume s k).memOk = true := by simp [debugResume, h]
@[simp] theorem debugSet_memOk (s : State) (k : Nat) (halt : Bool) (h : s.memOk = true) : (debugSet s k halt).memOk = true := by simp [debugSet, h]

@[simp] theorem debugStep_memOk {s : State} (k : Nat) (hok : s.memOk = true) : (debugStep s k).memOk = true := by
  unfold debugStep
  extract_lets q run
  split
  · exact hok
  · split
    · exact attempt_memOk _ _ _ hok
    next pc t _ _ _ =>
      have ht : t.memOk = true := by
        simp only [t]
        split
        · exact hok
        · exact checkLine_memOk _ _ _ hok
      split
      · exact arrive_memOk _ _ _ _ ht
      · refine State.fx_memOk k ht fun x hx => ?_
        cases hf : t.fetchStop k with
        | none => simpa using hx
        | some f => rwa [Option.getD_some, State.fetchStop_mem hf]

@[simp] theorem cellWrite_memOk (s : State) (k off : Nat) (v : Word) (h : s.memOk = true) : (cellWrite s k off v).memOk = true := by simp [cellWrite, h]

@[simp] theorem istoreWrite_memOk {s : State} (q : Requester) (bk off : Nat) (v : Word) (h : s.memOk = true) : (istoreWrite s q bk off v).memOk = true := by
  unfold istoreWrite
  split
  · exact State.memOk_modBlk bk h (memWrite_wf _ _ (State.blk_memWf h bk))
  · exact h

@[simp] theorem cellResets_memOk (s : State) (bk n : Nat) (cells : Word) : (cellResets s bk n cells).memOk = s.memOk := by simp [cellResets]
@[simp] theorem blkWrite_memOk (s : State) (bk off : Nat) (v : Word) : (blkWrite s bk off v).memOk = s.memOk := by simp [blkWrite]
@[simp] theorem clkWrite_memOk (s : State) (q : Requester) (r : Nat) (v : Word) : (clkWrite s q r v).memOk = s.memOk := by simp [clkWrite]
@[simp] theorem rgnWrite_memOk (s : State) (q : Requester) (r off : Nat) (v : Word) : (rgnWrite s q r off v).memOk = s.memOk := by simp [rgnWrite]
@[simp] theorem State.modTest_memOk (s : State) (f : Test → Test) : (State.modTest s f).memOk = s.memOk := by simp [State.modTest]
@[simp] theorem dropForced_memOk (s : State) : (dropForced s).memOk = s.memOk := State.memOk_mapCells fun _ => rfl
@[simp] theorem injectGo_memOk (s : State) (v : Word) : (injectGo s v).memOk = s.memOk := by simp [injectGo]

@[simp] theorem injectCell_memOk {s : State} (k off : Nat) (i : Inject) (h : s.memOk = true) : (injectCell s k off i).memOk = true := by
  have hc : memWf (s.cell k).mem = true := State.cell_memWf h k
  refine State.memOk_modCell k h ?_
  dsimp only
  split
  · rwa [Cell.modSlot_mem]
  · split
    · exact hc
    · exact flipBits_wf _ _ hc

@[simp] theorem injectApply_memOk {s : State} (h : s.memOk = true) : (injectApply s).memOk = true := by
  unfold injectApply
  split
  · exact h
  · extract_lets a spent
    have hspent : ∀ t : State, (spent t).memOk = t.memOk := fun t => t.modTest_memOk _
    split
    · rw [hspent]
      exact State.memOk_setHbm h (flipBits_wf _ _ (State.hbm_memWf h))
    · extract_lets c
      split
      · rw [hspent, State.memOk_modCell_same _ _ fun _ => by rfl]
        exact h
      · split
        · exact h
        · rw [hspent]
          exact injectCell_memOk _ _ _ h
    · exact h

@[simp] theorem testWrite_memOk (s : State) (n : Word) (off : Nat) (v : Word) : (testWrite s n off v).memOk = s.memOk := by simp [testWrite]
@[simp] theorem testClear_memOk (s : State) : (testClear s).memOk = s.memOk := by simp [testClear]

@[simp] theorem hubWrite_memOk (s : State) (q : Requester) (off : Nat) (v : Word) : (hubWrite s q off v).memOk = s.memOk := by
  unfold hubWrite
  (repeat' split) <;> simp

@[simp] theorem storeAt_memOk {s : State} (q : Requester) (p : Place) (v : Word) (h : s.memOk = true) : (storeAt s q p v).memOk = true := by
  unfold storeAt
  split
  case h_1 => exact State.memOk_setHbm h (Hbm.write_memWf _ _ _ _ (State.hbm_memWf h))
  case h_2 k off =>
    split
    · exact State.memOk_modCell k h (Cell.writePiece_memWf _ _ (State.cell_memWf h k))
    · split
      · exact viewWrite_memOk _ _ _ _ h
      · exact cellWrite_memOk _ _ _ _ h
  case h_3 => exact istoreWrite_memOk _ _ _ _ h
  case h_4 => rwa [blkWrite_memOk]
  case h_5 => rwa [rgnWrite_memOk]
  case h_6 =>
    split
    · exact addCue_memOk _ _ h
    · exact h
  case h_7 => rwa [hubWrite_memOk]
  case h_8 => exact h

@[simp] theorem writeAccess_memOk (s : State) (q : Requester) (a size : Nat) (v : Word) (h : s.memOk = true) : (writeAccess s q a size v).memOk = true := by simp [writeAccess, h]
@[simp] theorem readOut_memOk (s : State) (q : Requester) (a : Nat) (h : s.memOk = true) : (readOut s q a).memOk = true := by simp [readOut, h]

/-! Epoch boundaries. -/

theorem State.loadPieces_memOk {s : State} (k : Nat) (ps : List Piece) (h : s.memOk = true) : (s.modCell k fun c => ps.foldl Cell.loadPiece c).memOk = true :=
  State.memOk_modCell k h (List.foldlRecOn (motive := fun c : Cell => memWf c.mem = true) _ _ (State.cell_memWf h k) fun c hc w _ => c.loadPiece_memWf w hc)

@[simp] theorem paletteApply_memOk {s : State} (m : Msg) (h : s.memOk = true) : (paletteApply s m).memOk = true :=
  State.memOk_foldl (fun _ _ ht => State.loadPieces_memOk _ _ ht) _ h

@[simp] theorem routeApply_memOk (s : State) (mask : Nat) : (routeApply s mask).memOk = s.memOk := by simp [routeApply]

@[simp] theorem poolApply_memOk (s : State) (id : Word) (pool floor ceil : Nat) : (poolApply s id pool floor ceil).memOk = s.memOk := by
  unfold poolApply
  dsimp only
  (repeat' split) <;> simp

@[simp] theorem applyChange_memOk (s : State) (id : Word) (code : BitVec 16) (m : Msg) (h : s.memOk = true) : (applyChange s id code m).memOk = true := by
  unfold applyChange
  split <;> simp [h]

@[simp] theorem changeApplied_memOk (s : State) (id : Word) (c : Staged) : (changeApplied s id c).memOk = s.memOk := by simp [changeApplied]

@[simp] theorem rankReports_memOk (s : State) (id : Word) : (rankReports s id).memOk = s.memOk := by
  unfold rankReports
  (repeat' split) <;> simp

@[simp] theorem slackReceive_memOk (s : State) (id : Word) (pos : Nat) (slack : Int) (ceiling : Nat) : (slackReceive s id pos slack ceiling).memOk = s.memOk := by
  unfold slackReceive
  split <;> simp

@[simp] theorem intervalStep_memOk (s : State) (id : Word) : (intervalStep s id).memOk = s.memOk := by
  unfold intervalStep
  dsimp only
  (repeat' split) <;> simp

@[simp] theorem boundaryCell_memOk (s : State) (k : Nat) (h : s.memOk = true) : (boundaryCell s k).memOk = true := by simp [boundaryCell, h]
@[simp] theorem clearPctrs_memOk (s : State) (j : Job) : (clearPctrs s j).memOk = s.memOk := by simp [clearPctrs]
@[simp] theorem boundaryRecords_memOk (s : State) (j : Job) (t : Nat) : (boundaryRecords s j t).memOk = s.memOk := by simp [boundaryRecords]

@[simp] theorem boundarySingles_memOk {s : State} (j : Job) (h : s.memOk = true) : (boundarySingles s j).memOk = true := by
  unfold boundarySingles
  extract_lets e mine s1 s2 s3
  have h1 : s1.memOk = true := (s.modJob_memOk ..).trans h
  have h2 : s2.memOk = true := State.memOk_foldl (fun t c ht => (changeApplied_memOk ..).trans (applyChange_memOk _ _ _ _ ht)) _ h1
  have h3 : s3.memOk = true := by
    refine State.memOk_foldl (fun t a ht => ?_) _ h2
    split
    · exact (t.modSlot_memOk ..).trans ht
    · exact ht
  exact (State.memOk_foldl_eq applyGuard_memOk _ s3).trans h3

@[simp] theorem nextEpoch_memOk {s : State} (id : Word) (t : Nat) (h : s.memOk = true) : (nextEpoch s id t).memOk = true := by
  unfold nextEpoch
  split
  · exact h
  · extract_lets e k s1 s2
    have h2 : s2.memOk = true := (countSteps_memOk ..).trans h
    exact State.memOk_foldl (fun t c ht => addCue_memOk _ _ ht) _ h2

@[simp] theorem takeHold_memOk {s : State} (j : Job) (h : s.memOk = true) : (takeHold s j).memOk = true := by
  unfold takeHold
  extract_lets own s1 s2 s3 s4
  have h2 : s2.memOk = true := by
    refine (State.memOk_foldl_eq (fun t k => ?_) _ s1).trans h
    exact State.memOk_modCell_same _ _ fun _ => rfl
  have h3 : s3.memOk = true := by
    rw [State.applyTables_memOk]
    exact State.memOk_foldl (fun t c ht => applyChange_memOk _ _ _ _ ht) _ h2
  split
  · exact h3
  · split
    · simp only [changeAck_memOk, s4, sendEach_memOk, countSteps_memOk, h3]
    · exact h3

@[simp] theorem epochBoundary_memOk {s : State} (id : Word) (h : s.memOk = true) : (epochBoundary s id).memOk = true := by
  unfold epochBoundary
  split
  · exact h
  · split
    · exact h
    · extract_lets t s1 s2 s3
      have h1 : s1.memOk = true := (State.jobTickTo_memOk ..).trans h
      have h2 : s2.memOk = true := State.memOk_foldl (fun t k ht => boundaryCell_memOk _ _ ht) _ h1
      have h3 : s3.memOk = true := boundarySingles_memOk _ ((boundaryRecords_memOk ..).trans ((intervalStep_memOk ..).trans h2))
      split
      · exact h3
      · split
        · exact nextEpoch_memOk _ _ h3
        · exact takeHold_memOk _ h3

@[simp] theorem changeRelease_memOk {s : State} (id : Word) (h : s.memOk = true) : (changeRelease s id).memOk = true := by
  unfold changeRelease
  split
  · exact h
  next j _ =>
    split
    · exact h
    · split
      · exact h
      · extract_lets t s1 s2 s3 s4
        have h2 : s2.memOk = true := (State.jobTickTo_memOk ..).trans ((pumpAll_memOk _).trans h)
        have h3 : s3.memOk = true := by
          simp only [s3]
          split
          · exact (State.memOk_foldl_eq (fun t c => changeApplied_memOk ..) _ s2).trans h2
          · exact h2
        exact State.memOk_foldl (fun t k ht => settle_memOk _ _ ht) _ (nextEpoch_memOk _ _ h3)

@[simp] theorem announceTimeout_memOk (s : State) (id : Word) : (announceTimeout s id).memOk = s.memOk := by
  unfold announceTimeout
  split <;> simp

/-! Assignment. -/

@[simp] theorem loadCells_memOk (s : State) (i : ImageRec) : (loadCells s i).memOk = s.memOk := by simp [loadCells]

@[simp] theorem loadCode_memOk {s : State} (i : ImageRec) (h : s.memOk = true) : (loadCode s i).memOk = true :=
  State.memOk_foldl (fun _ b ht => State.memOk_modBlk _ ht (memWrite_wf _ _ (State.blk_memWf ht (blkKey i.region b)))) _ h

@[simp] theorem loadCue_memOk (s : State) (c : CueRec) : (loadCue s c).memOk = s.memOk := by simp [loadCue]
@[simp] theorem loadTileRec_mem (d : DataRec) (x : Fx) : (loadTileRec d x).c.mem = x.c.mem := by simp [loadTileRec]

@[simp] theorem loadHbm_memWf {g : Hbm} (a : Nat) (l : List Byte) (h : memWf g.mem = true) : memWf (loadHbm g a l).mem = true :=
  Hbm.foldl_memWf (fun _ _ hg => Hbm.write_memWf _ _ _ _ hg) _ h

@[simp] theorem loadRec_memOk {s : State} (d : DataRec) (h : s.memOk = true) : (loadRec s d).memOk = true := by
  unfold loadRec
  extract_lets cs
  split
  · exact State.memOk_foldl (fun _ _ ht => State.loadPieces_memOk _ _ ht) _ h
  · split
    · exact (State.memOk_foldl_eq (fun _ _ => State.fx_memOk_same (loadTileRec_mem d)) _ s).trans h
    · split
      · exact State.memOk_setHbm h (loadHbm_memWf _ _ (State.hbm_memWf h))
      · exact State.memOk_foldl (fun _ _ ht => State.loadPieces_memOk _ _ ht) _ h

@[simp] theorem loadBook_memOk {s : State} (j : Job) (h : s.memOk = true) : (loadBook s j).memOk = true := by
  unfold loadBook
  extract_lets img mine images s1 s2 s3 s4 s5 s6 s7
  have h1 : s1.memOk = true := (State.memOk_foldl_eq (fun t r => t.modRgn_memOk ..) _ s).trans h
  have h2 : s2.memOk = true := (State.memOk_foldl_eq loadCells_memOk _ s1).trans h1
  have h3 : s3.memOk = true := State.memOk_foldl (fun _ i ht => loadCode_memOk i ht) _ h2
  have h4 : s4.memOk = true := h3
  have h5 : s5.memOk = true := (State.memOk_foldl_eq loadCue_memOk _ s4).trans h4
  have h6 : s6.memOk = true := State.memOk_foldl (fun _ d ht => loadRec_memOk d ht) _ h5
  have h7 : s7.memOk = true := State.memOk_foldl (fun _ d ht => loadRec_memOk d ht) _ h6
  exact (State.memOk_foldl_eq (fun t r => t.modRgn_memOk ..) _ s7).trans h7

@[simp] theorem fillSlot_memOk (s : State) (id : Word) : (fillSlot s id).memOk = s.memOk := by
  unfold fillSlot
  split <;> simp

@[simp] theorem dropStaging_memOk (s : State) (n : Word) : (dropStaging s n).memOk = s.memOk := by simp [dropStaging]

@[simp] theorem answerAssign_memOk (s : State) (j : Job) (status : Nat) (payload : List Byte) : (answerAssign s j status payload).memOk = s.memOk := by
  unfold answerAssign
  dsimp only
  (repeat' split) <;> simp

@[simp] theorem rejectBook_memOk (s : State) (j : Job) (status : Nat) (payload : List Byte) : (rejectBook s j status payload).memOk = s.memOk := by simp [rejectBook]

@[simp] theorem doLoad_memOk (s : State) (j : Job) (sigNeeded : Bool) (h : s.memOk = true) : (doLoad s j sigNeeded).memOk = true := by
  unfold doLoad
  split <;> simp [h]

@[simp] theorem tryLoad_memOk (s : State) (id : Word) (h : s.memOk = true) : (tryLoad s id).memOk = true := by
  unfold tryLoad
  split <;> simp [h]

@[simp] theorem fromReady_memOk (s : State) (r : Nat) (h : s.memOk = true) : (fromReady s r).memOk = true := by
  unfold fromReady
  split <;> simp [h]

@[simp] theorem wantRegion_memOk (id : Word) (s : State) (r : Nat) : (wantRegion id s r).memOk = s.memOk := by
  unfold wantRegion
  dsimp only
  (repeat' split) <;> simp

@[simp] theorem wakeFields_memOk (s : State) (r : Nat) : (wakeFields s r).memOk = s.memOk := by
  unfold wakeFields
  extract_lets t
  have ht : t.memOk = s.memOk := s.modRgn_memOk ..
  refine Eq.trans ?_ ht
  have hcells : (t.cells.map fun c : Nat × Cell => if cellRgn c.1 = r then
      (c.1, { c.2 with swatch := swatchPatterns, mr := { c.2.mr with bankOff := 0, win := List.replicate 8 0 } }) else c).all
      (fun c => memWf c.2.mem) = t.cells.all fun c => memWf c.2.mem := by
    rw [List.all_map]
    congr 1
    funext c
    simp only [Function.comp_apply]
    split <;> rfl
  simp only [State.memOk, hcells]

@[simp] theorem wakeDone_memOk (s : State) (r : Nat) (w : WakeResult) (h : s.memOk = true) : (wakeDone s r w).memOk = true := by
  unfold wakeDone
  dsimp only
  (repeat' split) <;> simp [h]

@[simp] theorem scrubDone_memOk (s : State) (r : Nat) (found : List TestFinding) (h : s.memOk = true) : (scrubDone s r found).memOk = true := by simp [scrubDone, h]
@[simp] theorem powerDownReady_memOk (s : State) (r : Nat) : (powerDownReady s r).memOk = s.memOk := by simp [powerDownReady]

/-! The Ethernet port. -/

@[simp] theorem State.ethCount_memOk (s : State) (reg n : Nat) : (State.ethCount s reg n).memOk = s.memOk := by simp [State.ethCount]
@[simp] theorem ethDrop_memOk (s : State) : (ethDrop s).memOk = s.memOk := by simp [ethDrop]
@[simp] theorem State.loseAnswers_memOk (s : State) (q : Nat) : (State.loseAnswers s q).memOk = s.memOk := by simp [State.loseAnswers]
@[simp] theorem qpError_memOk (s : State) (q cause : Nat) : (qpError s q cause).memOk = s.memOk := by simp [qpError]
@[simp] theorem unbindAddr_memOk (s : State) (a : BitVec 128) : (unbindAddr s a).memOk = s.memOk := by simp [unbindAddr]
@[simp] theorem dropIpv4_memOk (s : State) : (dropIpv4 s).memOk = s.memOk := by simp [dropIpv4]
@[simp] theorem setIpv4_memOk (s : State) (a mask gateway : Word) (dhcp : Bool) (lease : Nat) : (setIpv4 s a mask gateway dhcp lease).memOk = s.memOk := by simp [setIpv4]
@[simp] theorem setIpv6_memOk (s : State) (a : BitVec 128) : (setIpv6 s a).memOk = s.memOk := by simp [setIpv6]
@[simp] theorem linkRise_memOk (s : State) : (linkRise s).memOk = s.memOk := by simp [linkRise]
@[simp] theorem linkFall_memOk (s : State) : (linkFall s).memOk = s.memOk := by simp [linkFall]
@[simp] theorem arpAnswer_memOk (s : State) (sender target : Word) (tag : VlanTag) : (arpAnswer s sender target tag).memOk = s.memOk := by simp [arpAnswer]
@[simp] theorem neighbourAnswer_memOk (s : State) (sender target : BitVec 128) (tag : VlanTag) : (neighbourAnswer s sender target tag).memOk = s.memOk := by simp [neighbourAnswer]

@[simp] theorem echoAnswer_memOk (s : State) (v6 : Bool) (sender target : BitVec 128) (body : List Byte) (tag : VlanTag) :
    (echoAnswer s v6 sender target body tag).memOk = s.memOk := by simp [echoAnswer]

@[simp] theorem dhcpAsk_memOk (s : State) (a : Word) (tag : VlanTag) : (dhcpAsk s a tag).memOk = s.memOk := by simp [dhcpAsk]
@[simp] theorem dhcpStart_memOk (s : State) (tag : VlanTag) : (dhcpStart s tag).memOk = s.memOk := by simp [dhcpStart]

@[simp] theorem dhcpTake_memOk (s : State) (d : DhcpReply) : (dhcpTake s d).memOk = s.memOk := by
  unfold dhcpTake
  split <;> simp

@[simp] theorem dhcpAgain_memOk (s : State) : (dhcpAgain s).memOk = s.memOk := by simp [dhcpAgain]
@[simp] theorem dhcpRenewal_memOk (s : State) : (dhcpRenewal s).memOk = s.memOk := by simp [dhcpRenewal]
@[simp] theorem leaseEnds_memOk (s : State) : (leaseEnds s).memOk = s.memOk := by simp [leaseEnds]
@[simp] theorem pfcTake_memOk (s : State) (enable : Byte) (quanta : List Nat) : (pfcTake s enable quanta).memOk = s.memOk := by simp [pfcTake]
@[simp] theorem pauseTake_memOk (s : State) (quanta : BitVec 16) : (pauseTake s quanta).memOk = s.memOk := by simp [pauseTake]
@[simp] theorem pfcJudge_memOk (s : State) (buffered : Nat) : (pfcJudge s buffered).memOk = s.memOk := by simp [pfcJudge]
@[simp] theorem cnpAnswer_memOk (s : State) (q : Nat) (ce : Bool) : (cnpAnswer s q ce).memOk = s.memOk := by simp [cnpAnswer]
@[simp] theorem qpHears_memOk (s : State) (q bytes : Nat) (ce : Bool) (tag : VlanTag) : (qpHears s q bytes ce tag).memOk = s.memOk := by simp [qpHears]
@[simp] theorem cnpTake_memOk (s : State) (q : Nat) : (cnpTake s q).memOk = s.memOk := by simp [cnpTake]
@[simp] theorem cmTurnAway_memOk (s : State) (r : CmReq) (reason : Nat) : (cmTurnAway s r reason).memOk = s.memOk := by simp [cmTurnAway]

@[simp] theorem cmRequest_memOk (s : State) (r : CmReq) : (cmRequest s r).memOk = s.memOk := by
  unfold cmRequest
  dsimp only
  (repeat' split) <;> simp

@[simp] theorem cmReady_memOk (s : State) (q : Nat) : (cmReady s q).memOk = s.memOk := by simp [cmReady]
@[simp] theorem freeQp_memOk (s : State) (q : Nat) : (freeQp s q).memOk = s.memOk := by simp [freeQp]
@[simp] theorem cmReject_memOk (s : State) (q : Nat) : (cmReject s q).memOk = s.memOk := by simp [cmReject]
@[simp] theorem cmDisconnect_memOk (s : State) (q : Nat) (tag : VlanTag) : (cmDisconnect s q tag).memOk = s.memOk := by simp [cmDisconnect]
@[simp] theorem qpFreed_memOk (s : State) (q : Nat) : (qpFreed s q).memOk = s.memOk := by simp [qpFreed]
@[simp] theorem sendAck_memOk (s : State) (q : Nat) (psn : BitVec 24) (syndrome : Byte) : (sendAck s q psn syndrome).memOk = s.memOk := by simp [sendAck]
@[simp] theorem psnGap_memOk (s : State) (q : Nat) : (psnGap s q).memOk = s.memOk := by simp [psnGap]
@[simp] theorem psnTaken_memOk (s : State) (q n : Nat) (whole : Bool) : (psnTaken s q n whole).memOk = s.memOk := by simp [psnTaken]

@[simp] theorem hostStore_memOk {s : State} (a : Nat) (l : List Byte) (h : s.memOk = true) : (hostStore s a l).memOk = true := by
  unfold hostStore
  split
  · exact State.loadPieces_memOk _ _ h
  · exact State.memOk_setHbm h (Hbm.foldl_memWf (fun _ _ hg => Hbm.write_memWf _ _ _ _ hg) _ (State.hbm_memWf h))

@[simp] theorem rdmaWrite_memOk (s : State) (w : RdmaWrite) (h : s.memOk = true) : (rdmaWrite s w).memOk = true := by
  unfold rdmaWrite
  dsimp only
  (repeat' split) <;> simp [h]

@[simp] theorem sendReads_memOk (q : Nat) (psn : BitVec 24) (whole : Bool) (s : State) (l : List Byte) : (sendReads q psn whole s l).memOk = s.memOk := by simp [sendReads]
@[simp] theorem rdmaRead_memOk (s : State) (w : RdmaRead) (h : s.memOk = true) : (rdmaRead s w).memOk = true := by simp [rdmaRead, h]
@[simp] theorem resendAll_memOk (s : State) (q : Nat) : (resendAll s q).memOk = s.memOk := by simp [resendAll]
@[simp] theorem ackedTo_memOk (s : State) (q : Nat) (psn : BitVec 24) : (ackedTo s q psn).memOk = s.memOk := by simp [ackedTo]

@[simp] theorem ackTake_memOk (s : State) (q : Nat) (psn : BitVec 24) (syndrome : Byte) (ce : Bool) (tag : VlanTag) :
    (ackTake s q psn syndrome ce tag).memOk = s.memOk := by simp [ackTake]

@[simp] theorem retryTimeout_memOk (s : State) (q : Nat) : (retryTimeout s q).memOk = s.memOk := by simp [retryTimeout]
@[simp] theorem dropTake_memOk (s : State) : (dropTake s).memOk = s.memOk := by simp [dropTake]
end Sys2Proof.Machine
end

section
/-! PROOF. Steps keep byte memories canonical: requests of hosts, the JTAG port and start-up (spec/15_pyerly_mailboxes.md, spec/16_clocks_reset_startup.md). -/
namespace Sys2Proof.Machine

/-! Requests. -/

@[simp] theorem deny_memOk (s : State) (n status : Nat) : (deny s n status).memOk = s.memOk := by simp [deny]
@[simp] theorem done_memOk (s : State) (n : Nat) (payload : List Byte) : (done s n payload).memOk = s.memOk := by simp [done]

@[simp] theorem stage_memOk (s : State) (n code : Nat) (m : Msg) : (stage s n code m).memOk = s.memOk := by
  unfold stage
  split <;> simp

/-! Commands of sessions. -/

@[simp] theorem identGet_memOk (s : State) (n : Nat) (m : Msg) : (identGet s n m).memOk = s.memOk := by simp [identGet]
@[simp] theorem unitsGet_memOk (s : State) (n : Nat) (m : Msg) : (unitsGet s n m).memOk = s.memOk := by simp [unitsGet]
@[simp] theorem authFail_memOk (s : State) (n slot : Nat) (m : Msg) : (authFail s n slot m).memOk = s.memOk := by simp [authFail]
@[simp] theorem challenge_memOk (s : State) (n : Nat) (m : Msg) : (challenge s n m).memOk = s.memOk := by simp [challenge]
@[simp] theorem bindBoxes_memOk (s : State) (num : Word) (l : List Nat) : (bindBoxes s num l).memOk = s.memOk := by simp [bindBoxes]

@[simp] theorem sessionOpen_memOk (s : State) (n : Nat) (m : Msg) : (sessionOpen s n m).memOk = s.memOk := by
  unfold sessionOpen
  dsimp only
  (repeat' split) <;> simp

@[simp] theorem closeSession_memOk (s : State) (num : Word) : (closeSession s num).memOk = s.memOk := by
  unfold closeSession
  (repeat' split) <;> simp

@[simp] theorem sessionClose_memOk (s : State) (n : Nat) (m : Msg) : (sessionClose s n m).memOk = s.memOk := by simp [sessionClose]
@[simp] theorem idleClose_memOk (s : State) (num : Word) : (idleClose s num).memOk = s.memOk := by simp [idleClose]
@[simp] theorem quote_memOk (s : State) (n : Nat) (m : Msg) : (quote s n m).memOk = s.memOk := by simp [quote]
@[simp] theorem debugUnlock_memOk (s : State) (n : Nat) (m : Msg) : (debugUnlock s n m).memOk = s.memOk := by simp [debugUnlock]
@[simp] theorem debugEnds_memOk (s : State) : (debugEnds s).memOk = s.memOk := by simp [debugEnds]
@[simp] theorem mailboxBind_memOk (s : State) (n : Nat) (m : Msg) : (mailboxBind s n m).memOk = s.memOk := by simp [mailboxBind]

/-! Commands of jobs. -/

@[simp] theorem bookBegin_memOk (s : State) (n : Nat) (m : Msg) : (bookBegin s n m).memOk = s.memOk := by simp [bookBegin]

@[simp] theorem bookWrite_memOk (s : State) (n : Nat) (m : Msg) (h : s.memOk = true) : (bookWrite s n m).memOk = true := by
  unfold bookWrite
  split <;> simp [h]

@[simp] theorem jobAssign_memOk (s : State) (n : Nat) (m : Msg) (h : s.memOk = true) : (jobAssign s n m).memOk = true := by
  unfold jobAssign
  (repeat' split) <;> simp [h]

@[simp] theorem jobStart_memOk (s : State) (n : Nat) (m : Msg) : (jobStart s n m).memOk = s.memOk := by
  unfold jobStart
  dsimp only
  (repeat' split) <;> simp

@[simp] theorem jobStatusGet_memOk (s : State) (n : Nat) (m : Msg) : (jobStatusGet s n m).memOk = s.memOk := by
  unfold jobStatusGet
  split <;> simp

@[simp] theorem jobEnd_memOk (s : State) (n : Nat) (m : Msg) : (jobEnd s n m).memOk = s.memOk := by
  unfold jobEnd
  split <;> simp

@[simp] theorem jobKill_memOk (s : State) (n : Nat) (m : Msg) : (jobKill s n m).memOk = s.memOk := by
  unfold jobKill
  dsimp only
  (repeat' split) <;> simp

@[simp] theorem jobClaim_memOk (s : State) (n : Nat) (m : Msg) : (jobClaim s n m).memOk = s.memOk := by
  unfold jobClaim
  split <;> simp

@[simp] theorem cueAddCmd_memOk (s : State) (n : Nat) (m : Msg) (h : s.memOk = true) : (cueAddCmd s n m).memOk = true := by
  unfold cueAddCmd
  split <;> simp [h]

@[simp] theorem paletteWrite_memOk (s : State) (n : Nat) (m : Msg) (h : s.memOk = true) : (paletteWrite s n m).memOk = true := by
  unfold paletteWrite
  split <;> simp [h]

@[simp] theorem stageCancel_memOk (s : State) (n : Nat) (m : Msg) : (stageCancel s n m).memOk = s.memOk := by
  unfold stageCancel
  dsimp only
  (repeat' split) <;> simp

/-! Commands of the fabric. -/

@[simp] theorem windowRegister_memOk (s : State) (n : Nat) (m : Msg) : (windowRegister s n m).memOk = s.memOk := by
  unfold windowRegister
  dsimp only
  (repeat' split) <;> simp

@[simp] theorem windowDeregister_memOk (s : State) (n : Nat) (m : Msg) : (windowDeregister s n m).memOk = s.memOk := by
  unfold windowDeregister
  dsimp only
  (repeat' split) <;> simp

@[simp] theorem windowList_memOk (s : State) (n : Nat) (m : Msg) : (windowList s n m).memOk = s.memOk := by simp [windowList]
@[simp] theorem portSet_memOk (s : State) (n : Nat) (m : Msg) : (portSet s n m).memOk = s.memOk := by simp [portSet]
@[simp] theorem neighboursGet_memOk (s : State) (n : Nat) (m : Msg) : (neighboursGet s n m).memOk = s.memOk := by simp [neighboursGet]
@[simp] theorem moduleIdSet_memOk (s : State) (n : Nat) (m : Msg) : (moduleIdSet s n m).memOk = s.memOk := by simp [moduleIdSet]
@[simp] theorem routeWrite_memOk (s : State) (n : Nat) (m : Msg) : (routeWrite s n m).memOk = s.memOk := by simp [routeWrite]

@[simp] theorem routeCommit_memOk (s : State) (n : Nat) (m : Msg) : (routeCommit s n m).memOk = s.memOk := by
  unfold routeCommit
  (repeat' split) <;> simp

@[simp] theorem clockSourceSet_memOk (s : State) (n : Nat) (m : Msg) : (clockSourceSet s n m).memOk = s.memOk := by simp [clockSourceSet]

@[simp] theorem finishPairs_memOk (s : State) : (finishPairs s).memOk = s.memOk := by
  unfold finishPairs
  split <;> simp

@[simp] theorem notePair_memOk (s : State) (number : Word) (outcome : Nat) : (notePair s number outcome).memOk = s.memOk := by simp [notePair]
@[simp] theorem beginPair_memOk (all : List (DWord × BitVec 12)) (s : State) (p : (DWord × BitVec 12) × Nat) : (beginPair all s p).memOk = s.memOk := by simp [beginPair]
@[simp] theorem idDistribute_memOk (s : State) (n : Nat) (m : Msg) : (idDistribute s n m).memOk = s.memOk := by simp [idDistribute]

@[simp] theorem assignReplyArrive_memOk (s : State) (p : Nat) (a : AssignReply) : (assignReplyArrive s p a).memOk = s.memOk := by
  unfold assignReplyArrive
  (repeat' split) <;> simp

@[simp] theorem portConfig_memOk (s : State) (n : Nat) (m : Msg) : (portConfig s n m).memOk = s.memOk := by simp [portConfig]
@[simp] theorem capSet_memOk (s : State) (n : Nat) (m : Msg) : (capSet s n m).memOk = s.memOk := by simp [capSet]

@[simp] theorem poolSet_memOk (s : State) (n : Nat) (m : Msg) : (poolSet s n m).memOk = s.memOk := by
  unfold poolSet
  split <;> simp

@[simp] theorem holdRegion_memOk (hold : Bool) (s : State) (r : Nat) : (holdRegion hold s r).memOk = s.memOk := by simp [holdRegion]
@[simp] theorem regionReady_memOk (s : State) (n : Nat) (m : Msg) : (regionReady s n m).memOk = s.memOk := by simp [regionReady]

@[simp] theorem readRegs_memOk (q : Requester) (l : List Nat) (s : State) (h : s.memOk = true) : (readRegs q l s).1.memOk = true := by
  induction l generalizing s with
  | nil => exact h
  | cons a t ih => exact ih _ (readAccess_memOk _ _ _ _ h)

@[simp] theorem powerGet_memOk (s : State) (n : Nat) (m : Msg) (h : s.memOk = true) : (powerGet s n m).memOk = true := by simp [powerGet, h]

/-! Commands of registers and firmware. -/

@[simp] theorem writeAll_memOk {s : State} (q : Requester) (m : Msg) (h : s.memOk = true) : (writeAll q m s).memOk = true :=
  State.memOk_foldl (fun _ _ ht => writeAccess_memOk _ _ _ _ _ ht) _ h

@[simp] theorem regRead_memOk (s : State) (n : Nat) (m : Msg) (h : s.memOk = true) : (regRead s n m).memOk = true := by simp [regRead, h]
@[simp] theorem regWrite_memOk (s : State) (n : Nat) (m : Msg) (h : s.memOk = true) : (regWrite s n m).memOk = true := by simp [regWrite, h]
@[simp] theorem testRead_memOk (s : State) (n : Nat) (m : Msg) (h : s.memOk = true) : (testRead s n m).memOk = true := by simp [testRead, h]
@[simp] theorem testWriteCmd_memOk (s : State) (n : Nat) (m : Msg) (h : s.memOk = true) : (testWriteCmd s n m).memOk = true := by simp [testWriteCmd, h]

@[simp] theorem digestGet_memOk (s : State) (n : Nat) (m : Msg) : (digestGet s n m).memOk = s.memOk := by
  unfold digestGet
  split <;> simp

@[simp] theorem logRead_memOk (s : State) (n : Nat) (m : Msg) : (logRead s n m).memOk = s.memOk := by simp [logRead]
@[simp] theorem logClear_memOk (s : State) (n : Nat) (m : Msg) : (logClear s n m).memOk = s.memOk := by simp [logClear]
@[simp] theorem resetCmd_memOk (s : State) (n : Nat) (m : Msg) (h : s.memOk = true) : (resetCmd s n m).memOk = true := by simp [resetCmd, h]

@[simp] theorem fwBegin_memOk (s : State) (n : Nat) (m : Msg) : (fwBegin s n m).memOk = s.memOk := by
  unfold fwBegin
  split <;> simp

@[simp] theorem fwWrite_memOk (s : State) (n : Nat) (m : Msg) (h : s.memOk = true) : (fwWrite s n m).memOk = true := by
  unfold fwWrite
  split <;> simp [h]

@[simp] theorem fwCommit_memOk (s : State) (n : Nat) (m : Msg) : (fwCommit s n m).memOk = s.memOk := by
  unfold fwCommit
  split <;> simp

@[simp] theorem fwActivate_memOk (s : State) (n : Nat) (m : Msg) (h : s.memOk = true) : (fwActivate s n m).memOk = true := by simp [fwActivate, h]

/-! A request is executed. -/

@[simp] theorem runCode_memOk (code : Nat) (s : State) (n : Nat) (m : Msg) (h : s.memOk = true) : (runCode code s n m).memOk = true := by
  unfold runCode
  split <;> simp [h]

@[simp] theorem execute_memOk (s : State) (n : Nat) (h : s.memOk = true) : (execute s n).memOk = true := by
  unfold execute
  dsimp only
  (repeat' split) <;> simp [h]

@[simp] theorem drainFor_memOk (n : Nat) (s : State) (h : s.memOk = true) : (drainFor n s).memOk = true := by
  induction n generalizing s with
  | zero => exact h
  | succ n ih =>
    unfold drainFor
    split
    · exact h
    · exact ih _ (execute_memOk _ _ ((s.modMail_memOk ..).trans h))

@[simp] theorem drain_memOk (s : State) (h : s.memOk = true) : (drain s).memOk = true := by simp [drain, h]

@[simp] theorem fillBuffer.place_memOk {s : State} (n : Nat) (code : BitVec 16) (m : Msg) (h : s.memOk = true) : (fillBuffer.place s n code m).memOk = true := by
  simp [fillBuffer.place, h]

@[simp] theorem fillBuffer_memOk {s : State} (n : Nat) (code : BitVec 16) (m : Msg) (h : s.memOk = true) : (fillBuffer s n code m).memOk = true := by
  unfold fillBuffer
  split
  · split
    · rwa [sendOn_memOk]
    · exact fillBuffer.place_memOk _ _ _ h
  · exact fillBuffer.place_memOk _ _ _ h

@[simp] theorem receive_memOk (s : State) (code : BitVec 16) (m : Msg) (h : s.memOk = true) : (receive s code m).memOk = true := by
  unfold receive
  dsimp only
  (repeat' split) <;> simp [h]

@[simp] theorem busySend_memOk (s : State) (q : Nat) (psn : BitVec 24) (bytes : Nat) (ce : Bool) (tag : VlanTag) : (busySend s q psn bytes ce tag).memOk = s.memOk := by
  unfold busySend
  dsimp only
  (repeat' split) <;> simp

/-! The JTAG port. -/

@[simp] theorem State.modJtag_memOk (s : State) (f : Jtag → Jtag) : (State.modJtag s f).memOk = s.memOk := by simp [State.modJtag]
@[simp] theorem jtagEdge_memOk (s : State) (rising tms tdi : Bool) (pins : BitVec 15) : (jtagEdge s rising tms tdi pins).memOk = s.memOk := by simp [jtagEdge]
@[simp] theorem jtagTrst_memOk (s : State) (high : Bool) : (jtagTrst s high).memOk = s.memOk := by simp [jtagTrst]

/-! Start-up. -/

@[simp] theorem powerUp_memOk (s : State) : (powerUp s).memOk = s.memOk := by simp [powerUp]
@[simp] theorem powerDown_memOk (s : State) (h : s.memOk = true) : (powerDown s).memOk = true := by simp [powerDown, h]
@[simp] theorem rstAssert_memOk (s : State) (ns : Nat) (h : s.memOk = true) : (rstAssert s ns).memOk = true := by simp [rstAssert, h]
@[simp] theorem rstRelease_memOk (s : State) (cool : Bool) : (rstRelease s cool).memOk = s.memOk := by simp [rstRelease]
@[simp] theorem leaveReset_memOk (s : State) (straps : BitVec 6) (pairA pairB : Bool) : (leaveReset s straps pairA pairB).memOk = s.memOk := by simp [leaveReset]
@[simp] theorem pllLocked_memOk (s : State) : (pllLocked s).memOk = s.memOk := by simp [pllLocked]
@[simp] theorem hubStart_memOk (s : State) : (hubStart s).memOk = s.memOk := by simp [hubStart]

@[simp] theorem forced_memOk (s : State) (d : ClockDomain) : (forced s d).memOk = s.memOk := by
  unfold forced
  split <;> simp

@[simp] theorem tripNow_memOk (s : State) (die site : Byte) (h : s.memOk = true) : (tripNow s die site).memOk = true := by simp [tripNow, h]
end Sys2Proof.Machine
end

section
/-! PROOF. Every step keeps every byte memory canonical (log entry 2). -/
namespace Sys2Proof.Machine

/-- A result leaves canonical memories: the next state's are, and a fault or a refusal has none. -/
def Res.memOk (r : Res) : Bool :=
  match r with
  | .next t => t.memOk
  | _ => true

/-! Commands that read what travels, or hand a cell one operation of its own. -/

section
variable {s : State}

theorem execRemotePutArrival_memOk (id : Nat) (h : s.memOk = true) : (execRemotePutArrival id s).memOk = true := by
  unfold execRemotePutArrival
  split
  · change State.memOk _ = true
    split
    · exact arriveWrite_memOk _ _ _ h
    · exact h
  · exact h

theorem execAccwArrival_memOk (id : Nat) (h : s.memOk = true) : (execAccwArrival id s).memOk = true := by
  unfold execAccwArrival
  split
  · change State.memOk _ = true
    split
    · exact arriveWrite_memOk _ _ _ h
    · exact h
  · exact h

theorem execGetRequestArrival_memOk (id : Nat) (h : s.memOk = true) : (execGetRequestArrival id s).memOk = true := by
  unfold execGetRequestArrival
  split
  · exact serveGet_memOk _ _ _ _ _ _ _ h
  · exact h

theorem execGetDataArrival_memOk (id : Nat) (h : s.memOk = true) : (execGetDataArrival id s).memOk = true := by
  unfold execGetDataArrival
  split
  · exact settle_memOk _ _ (arriveData_memOk _ _ _ _ _ _ _ _ h)
  · exact h

theorem execHbmReadData_memOk (d : ReadBack) (h : s.memOk = true) : (execHbmReadData d s).memOk = true := by
  unfold execHbmReadData
  split
  · exact settle_memOk _ _ (hbmReadArrive_memOk _ _ _ _ _ _ _ h)
  · exact h

theorem execHbmWriteAck_memOk (id : Nat) (h : s.memOk = true) : (execHbmWriteAck id s).memOk = true := by
  unfold execHbmWriteAck
  split
  · exact settle_memOk _ _ (hbmWriteArrive_memOk _ _ _ _ _ _ _ _ h)
  · exact h

theorem execRemoteWriteAck_memOk (id : Nat) (h : s.memOk = true) : (execRemoteWriteAck id s).memOk = true := by
  unfold execRemoteWriteAck
  split
  · exact settle_memOk _ _ (((s.land id).memOk_modCell_same _ fun _ => Cell.outstDone_mem ..).trans h)
  · exact h

theorem execBucketResultVisible_memOk (job : Word) (bucket : BitVec 12) (inst : BitVec 16) (h : s.memOk = true) :
    (execBucketResultVisible job bucket inst s).memOk = true := by
  unfold execBucketResultVisible
  cases hv : resultVisible s job bucket.toNat inst.toNat with
  | none => exact h
  | some r => exact addCue_memOk _ _ ((resultVisible_memOk hv).trans h)
end

/-! Every command. -/

/-- Each command hands the state to one operation of the model, and that operation's own lemma says what becomes of the memories. -/
theorem exec_memOk (i : Instr) {s : State} (h : s.memOk = true) : Res.memOk (exec i s) = true := by
  cases i
  -- instructions that a cell dispatches
  case nop | halt | loopw | endloop | br | brp | cuewait | cuesig | waitc | fence | setcfg | li | addw | addi | subw | shl | shr | andw | orw | cmp | wload | mvm | mvmt |
      swatch | slotinv | aclr | apromo | adrain | amov | arot | vadd | vmul | vfma | vmax | vmin | vexp2 | vrcp | vrsq | vcvt | vhad | vsclConvert | vsclDerive | vsclPush |
      vsclPushAdvance | vsclMerge | vstat | vprune24 | vred | ld | st | putw | getw | accw | hbmrd | hbmwr | tagset | tagclr | csend | crecv =>
    exact dispatch_memOk _ _ _ _ _ h
  -- requests that a host sends to a mailbox
  case identGet | unitsGet | challenge | sessionOpen | sessionClose | quote | debugUnlock | mailboxBind | bookBegin | bookWrite | jobAssign | jobStart | jobStatus |
      jobEnd | jobKill | jobClaim | cueAdd | paletteWrite | stageCancel | windowRegister | windowDeregister | windowList | portSet | neighboursGet | moduleIdSet |
      routeWrite | routeCommit | clockSourceSet | idDistribute | portConfig | capSet | poolSet | regionReady | powerGet | regRead | regWrite | digestGet | logRead |
      logClear | resetw | testWrite | testRead | fwBegin | fwWrite | fwCommit | fwActivate | unknownCommand =>
    exact receive_memOk _ _ _ h
  -- register accesses
  case slotViewWrite | dbgHaltWrite | dbgStep | cellReset | clkRgnCtrlWrite | rgnCueAddWrite | registerWrite | injectionGo =>
    exact writeAccess_memOk _ _ _ _ _ h
  case counterReadClear | reg64LowRead =>
    exact readOut_memOk _ _ _ h
  -- what travels comes to its cell
  case remotePutArrival id => exact execRemotePutArrival_memOk id h
  case accwArrival id => exact execAccwArrival_memOk id h
  case getRequestArrival id => exact execGetRequestArrival_memOk id h
  case getDataArrival id => exact execGetDataArrival_memOk id h
  case hbmReadData d => exact execHbmReadData_memOk d h
  case hbmWriteAck id => exact execHbmWriteAck_memOk id h
  case remoteWriteAck id => exact execRemoteWriteAck_memOk id h
  -- scrubbers
  case arrayScrub => exact State.fx_memOk _ h fun x hx => scrubArray_memWf _ _ _ _ _ hx
  case spmScrub => exact State.fx_memOk _ h fun x hx => scrubSpm_memWf _ _ _ hx
  case scrubRowRewrite => exact State.memOk_modCell _ h (scrubRewrite_memWf _ _ (State.cell_memWf h _))
  case bucketResultVisible job bucket inst => exact execBucketResultVisible_memOk job bucket inst h
  -- events of the hub, the regions, the links and the Ethernet port
  all_goals
    change State.memOk _ = true
    simp [h]

theorem idle_memOk {s : State} (h : s.memOk = true) : (idle s).memOk = true := by
  unfold idle
  split
  · exact drain_memOk _ ((s.passTicks_memOk 1).trans h)
  · exact h

theorem step_memOk {s : State} (h : s.memOk = true) : Res.memOk (step s) = true := by
  unfold step
  split
  · exact idle_memOk h
  next i t _ =>
    have ht : State.memOk { s with pending := t } = true := h
    exact exec_memOk i ht

/-- Settles O60: every operation that writes a byte memory writes it in canonical form, and every command and the tick keep that form (`step_memOk`). -/
theorem stepsKeepMemoriesCanonical : Obligations.StepsKeepMemoriesCanonical := by
  intro s t hs hst
  have h : Res.memOk (step s) = true := step_memOk hs
  rwa [hst] at h
end Sys2Proof.Machine
end

section
/-! PROOF. What a tick counts and what it leaves (log entries 1 and 70; spec/11_prompt_books_epochs.md R252, R262; spec/09_scratchpad_hbm.md R208; spec/18_faults_fencing.md R410, R424). -/
namespace Sys2Proof.Machine

/-- What a map holds once every listed value is changed: a value that is not listed must be one that the change keeps. -/
theorem mapGet_map {α : Type} {d : α} {f : Nat → α → α} (k : Nat) (hd : f k d = d) (m : SMap α) : mapGet d (m.map fun e => (e.1, f e.1 e.2)) k = f k (mapGet d m k) := by
  induction m with
  | nil => exact hd.symm
  | cons e t ih =>
    simp only [List.map_cons, mapGet]
    split
    next h => rw [h]
    · split
      · exact hd.symm
      · exact ih

/-! Regions changed one after another. -/

section
variable (f : Region → Region) (s : State)

/-- Regions changed one after another leave the rest of the state. -/
theorem foldl_modRgn_rest (l : List Nat) : ∃ rs, l.foldl (fun t r => t.modRgn r f) s = { s with regions := rs } :=
  List.foldlRecOn (motive := fun t : State => ∃ rs, t = ({ s with regions := rs } : State)) l _ ⟨s.regions, rfl⟩ fun _ ht r _ => by
    obtain ⟨rs, rfl⟩ := ht
    exact ⟨_, rfl⟩

theorem rgn_foldl_modRgn {l : List Nat} (hl : l.Nodup) (r : Nat) :
    (l.foldl (fun t i => t.modRgn i f) s).rgn r = if r ∈ l then f (s.rgn r) else s.rgn r := by
  induction l generalizing s with
  | nil => rfl
  | cons i t ih =>
    obtain ⟨hi, ht⟩ := List.nodup_cons.1 hl
    rw [List.foldl_cons, ih _ ht]
    by_cases hr : r = i
    · simp [hr, hi]
    · rw [State.rgn_modRgn_other _ _ hr]
      simp [hr]
end

/-! The passes of a tick, one by one. -/

section
variable (n : Nat) (s : State)

/-- The waits of cells: each cell that is not debug-halted grows older (R208). -/
theorem cell_agesPass (k : Nat) : (agesPass n s).cell k = if (s.cell k).seq.dbgHalt = true then s.cell k else (s.cell k).older (s.waitTicks (cellRgn k) n) := by
  have hf : (agesPass n s).cells = s.cells.map fun c => (c.1, if c.2.seq.dbgHalt then c.2 else c.2.older (s.waitTicks (cellRgn c.1) n)) := by
    refine List.map_congr_left fun c _ => ?_
    split <;> rfl
  rw [State.cell, hf]
  exact mapGet_map (d := Cell.reset) (f := fun k c => if c.seq.dbgHalt then c else c.older (s.waitTicks (cellRgn k) n)) k rfl s.cells

/-- Starved flit times are the ports' own. -/
theorem creditPass_rest : ∃ g : Hub, creditPass n s = { s with hub := g } ∧ g.tick = s.hub.tick ∧ g.mail = s.hub.mail :=
  List.foldlRecOn (motive := fun t : State => ∃ g : Hub, t = { s with hub := g } ∧ g.tick = s.hub.tick ∧ g.mail = s.hub.mail) _ _ ⟨s.hub, rfl, rfl, rfl⟩ fun _ ht p _ => by
    obtain ⟨g, rfl, htick, hmail⟩ := ht
    exact ⟨_, rfl, htick, hmail⟩

theorem countPass_rest : ∃ g rs, countPass n s = { s with hub := g, regions := rs } ∧ g.tick = (s.hub.tick + n) % 2 ^ 64 ∧ g.mail = s.hub.mail := by
  obtain ⟨rs, hrs⟩ := foldl_modRgn_rest (fun g => { g with tick := (g.tick + n) % 2 ^ 64 }) (s.modHub fun h => { h with tick := (h.tick + n) % 2 ^ 64 }) (List.range 16)
  exact ⟨_, rs, hrs, rfl, rfl⟩

theorem rgn_countPass {r : Nat} (hr : r < 16) : (countPass n s).rgn r = { s.rgn r with tick := ((s.rgn r).tick + n) % 2 ^ 64 } :=
  (rgn_foldl_modRgn _ _ List.nodup_range r).trans (if_pos (List.mem_range.2 hr))

theorem rgn_pausePass (r : Nat) : (pausePass n s).rgn r = s.rgn r := rfl

theorem rgn_earlyPass (r : Nat) : (earlyPass n s).rgn r = s.rgn r := rfl

theorem rgn_agesPass (r : Nat) : (agesPass n s).rgn r = s.rgn r := rfl

theorem rgn_creditPass (r : Nat) : (creditPass n s).rgn r = s.rgn r := by
  obtain ⟨g, hg, -, -⟩ := creditPass_rest n s
  rw [hg]
  rfl

theorem releasePass_rest : ∃ rs, releasePass s = { s with regions := rs } := foldl_modRgn_rest _ s _

theorem rgn_releasePass {r : Nat} (hr : r < 16) : (releasePass s).rgn r = if (s.rgn r).state = 6 then { s.rgn r with state := 2 } else s.rgn r := by
  rw [releasePass, rgn_foldl_modRgn _ _ (List.nodup_range.filter _)]
  simp [hr]
end

/-! Ticks that pass. -/

section
variable {n : Nat} (s : State)

/-- Ticks that pass change the hub, the regions and the cells. -/
theorem passTicks_rest (hn : 0 < n) : ∃ g rs, s.passTicks n = { s with hub := g, regions := rs, cells := (agesPass n s).cells }
    ∧ g.tick = (s.hub.tick + n) % 2 ^ 64 ∧ g.mail = s.hub.mail := by
  obtain ⟨g, hg, hgtick, hgmail⟩ := creditPass_rest n (earlyPass n (agesPass n s))
  obtain ⟨h, rs, hh, htick, hmail⟩ := countPass_rest n (creditPass n (earlyPass n (agesPass n s)))
  obtain ⟨rs', hrs⟩ := releasePass_rest (pausePass n (countPass n (creditPass n (earlyPass n (agesPass n s)))))
  refine ⟨(pausePass n (countPass n (creditPass n (earlyPass n (agesPass n s))))).hub, rs', ?_, ?_, ?_⟩
  · rw [State.passTicks, if_neg (Nat.ne_of_gt hn), hrs, hh, hg]
    rfl
  · rw [hh]
    rw [hg] at htick
    exact htick.trans (by rw [hgtick]; rfl)
  · rw [hh]
    rw [hg] at hmail
    exact hmail.trans hgmail

theorem rgn_passTicks (hn : 0 < n) {r : Nat} (hr : r < 16) :
    (s.passTicks n).rgn r = let g := { s.rgn r with tick := ((s.rgn r).tick + n) % 2 ^ 64 }; if g.state = 6 then { g with state := 2 } else g := by
  rw [State.passTicks, if_neg (Nat.ne_of_gt hn), rgn_releasePass _ hr, rgn_pausePass, rgn_countPass _ _ hr, rgn_creditPass, rgn_earlyPass, rgn_agesPass]

theorem tick_rgn_passTicks (hn : 0 < n) {r : Nat} (hr : r < 16) : ((s.passTicks n).rgn r).tick = ((s.rgn r).tick + n) % 2 ^ 64 := by
  rw [rgn_passTicks s hn hr]
  dsimp only
  split <;> rfl

theorem state_rgn_passTicks (hn : 0 < n) {r : Nat} (hr : r < 16) : ((s.passTicks n).rgn r).state = if (s.rgn r).state = 6 then 2 else (s.rgn r).state := by
  rw [rgn_passTicks s hn hr]
  dsimp only
  split <;> rfl

theorem cell_passTicks (hn : 0 < n) (k : Nat) :
    (s.passTicks n).cell k = if (s.cell k).seq.dbgHalt = true then s.cell k else (s.cell k).older (s.waitTicks (cellRgn k) n) := by
  obtain ⟨g, rs, hp, -, -⟩ := passTicks_rest s hn
  rw [hp]
  exact cell_agesPass n s k
end

/-! The empty queue. -/

/-- Where no request waits, nothing starts (R343). -/
theorem drain_of_none {s : State} (h : s.hub.mail.waiting = []) : drain s = s := by
  rw [drain, h]
  rfl

theorem step_of_empty {s : State} (hp : s.pending = []) (hr : s.hub.clk.hubReady = true) (hw : s.hub.mail.waiting = []) : step s = .next (s.passTicks 1) := by
  obtain ⟨g, rs, hpass, -, hmail⟩ := passTicks_rest s Nat.one_pos
  have hdrain : drain (s.passTicks 1) = s.passTicks 1 := drain_of_none (by rw [hpass]; exact hmail ▸ hw)
  rw [step, hp]
  simp only [idle, hr, if_true, hdrain]

/-- Settles O2: with no request waiting, a step with an empty queue is `passTicks 1`, and every pass of a tick has its own part of the state. -/
theorem emptyQueueCountsTick : Obligations.EmptyQueueCountsTick := by
  intro s hp hr hw
  obtain ⟨g, rs, hpass, htick, -⟩ := passTicks_rest s Nat.one_pos
  refine ⟨s.passTicks 1, step_of_empty hp hr hw, ?_, fun r h => tick_rgn_passTicks s Nat.one_pos h, cell_passTicks s Nat.one_pos,
    fun r h => state_rgn_passTicks s Nat.one_pos h, ?_⟩
  · rw [hpass]
    exact htick
  · rw [hpass]
    refine ⟨hp, rfl, rfl, rfl, rfl, rfl, rfl, fun n hn => ?_⟩
    obtain ⟨g', rs', hpass', htick', -⟩ := passTicks_rest s hn
    refine ⟨?_, fun r h => tick_rgn_passTicks s hn h, cell_passTicks s hn, ?_⟩
    · rw [hpass']
      exact htick'
    · rw [hpass']
      exact ⟨rfl, rfl, rfl, rfl, rfl, rfl⟩
end Sys2Proof.Machine
end

section
/-! PROOF. Arrival counters, and remote writes that land in a cell (spec/09_scratchpad_hbm.md R206, R210, R211, R213). -/
namespace Sys2Proof.Machine

/-! One element of a list, one bit of a set. -/

theorem setAt_eq_set {α : Type} (l : List α) (i : Nat) (v : α) : setAt l i v = l.set i v := by
  induction l generalizing i with
  | nil => rfl
  | cons a t ih =>
    cases i with
    | zero => rfl
    | succ i => rw [setAt, List.set_cons_succ, ih]

theorem getD_setAt_same {α : Type} {l : List α} {i : Nat} (h : i < l.length) (v d : α) : (setAt l i v).getD i d = v := by
  simp [setAt_eq_set, h]

theorem getD_setAt_other {α : Type} {l : List α} {i j : Nat} (h : j ≠ i) (v d : α) : (setAt l i v).getD j d = l.getD j d := by
  simp [setAt_eq_set, List.getElem?_set_ne h.symm]

theorem getLsbD_setBit_same {n i : Nat} (v : BitVec n) (b : Bool) (h : i < n) : (setBit v i b).getLsbD i = b := by
  cases b <;> simp [setBit, h]

/-! Arrival counters (R210, R211). -/

section
variable (c : Cell) {i : Nat}

/-- A counter below its end counts one. -/
theorem Fx.arrive_of_ne (h : (c.mr.arrival.getD i (0, false)).1 ≠ 0xFFFF) :
    (Fx.of c).arrive i = Fx.of (c.setMr fun r => { r with arrival := setAt r.arrival i ((c.mr.arrival.getD i (0, false)).1 + 1, (c.mr.arrival.getD i (0, false)).2) }) :=
  if_neg h

/-- A counter at its end counts no further: its overflow bit is set, and the fault is the first event. -/
theorem Fx.arrive_of_eq (h : (c.mr.arrival.getD i (0, false)).1 = 0xFFFF) : ∃ q l, (Fx.of c).arrive i =
    ⟨{ c with mr := { c.mr with ctrOvf := true, arrival := setAt c.mr.arrival i (0xFFFF, true) }, seq := q }, ⟨0x0413, leBytes 4 i, false⟩ :: l⟩ := by
  obtain ⟨q, l, hfault, -⟩ := Fx.fault_spec (Fx.of (c.setMr fun r => { r with ctrOvf := true, arrival := setAt r.arrival i (0xFFFF, true) })) 0x0413 (leBytes 4 i) false
  refine ⟨q, l, ?_⟩
  have harrive : (Fx.of c).arrive i = (Fx.of (c.setMr fun r => { r with ctrOvf := true, arrival := setAt r.arrival i (0xFFFF, true) })).fault 0x0413 (leBytes 4 i) := by
    unfold Fx.arrive
    dsimp only [Fx.of]
    rw [if_pos h, h]
    rfl
  rw [harrive, hfault]
  rfl
end

/-! A piece that covers its slot (R206, R219). -/

section
variable (c : Cell) {a : Nat} {data : List Byte} (tag : Byte) (poison last : Bool)

/-- Bytes, tag and poison are the piece's; the last piece fills a slot of a tagged window. -/
theorem Cell.writePiece_slot (hslot : a / 64 < 512) (hlen : data.length = 64) : c.writePiece ⟨a, data, some tag, poison, last⟩ =
    { c.put a data with seqTag := mapSet 0 c.seqTag (a / 64) tag, poison := setBit c.poison (a / 64) poison,
                        full := if last && c.tagMode (a / 64) != 0 then setBit c.full (a / 64) true else c.full } := by
  have hmode : ∀ d : Cell, d.mr = c.mr → (last && d.tagMode (a / 64) != 0) = (last && c.tagMode (a / 64) != 0) := fun d h => by rw [Cell.tagMode_congr h]
  unfold Cell.writePiece
  dsimp only
  rw [if_pos hslot, if_pos hlen]
  rw [hmode _ (by split <;> rfl)]
  generalize (last && c.tagMode (a / 64) != 0) = full
  cases poison <;> cases full <;> rfl
end

@[simp] theorem Cell.count_full (c : Cell) (reg n : Nat) : (c.count reg n).full = c.full := by
  unfold Cell.count
  split <;> rfl

section
variable (c : Cell) (ev n : Nat)
@[simp] theorem Cell.tally_full : (c.tally ev n).full = c.full := rfl
@[simp] theorem Cell.tally_cnt : (c.tally ev n).cnt = c.cnt := rfl
@[simp] theorem Cell.tally_seq : (c.tally ev n).seq = c.seq := rfl
end

/-! A remote write that nothing holds back (R206, R210). -/

/-- A writer of this module is acknowledged. -/
theorem flights_ackBack {s : State} {w : RemoteWrite} (h : w.srcModule = s.identOf w.src) : (ackBack s w).flights = s.flights ++ [(s.nextId, .ack w.src w.seq)] := by
  rw [ackBack, if_pos (Or.inl h)]
  rfl

theorem cell_ackBack (s : State) (w : RemoteWrite) (k : Nat) : (ackBack s w).cell k = s.cell k := by
  unfold ackBack
  split <;> rfl

section
variable {s : State} {id k off : Nat} {w : RemoteWrite}

theorem arriveWrite_of_free (haddr : cellAddr w.addr = some (k, off)) (howner : (s.rgn (cellRgn k)).owner.isSome = true) (hport : (s.cell k).units.port = none)
    (hfree : landBlock (s.cell k) off w.acc.isSome = .free) : arriveWrite s id w = landCell (s.land id) k off w := by
  have hassigned : (s.rgn (cellRgn k)).owner.isNone = false := by
    rw [← Option.not_isSome, howner]
    rfl
  simp only [arriveWrite, haddr, hassigned, hport, hfree, Bool.false_eq_true, if_false]

theorem landBlock_of_slot (hoff : off < 0x8000) {c : Cell} {acc : Bool} (h : acc = true ∨ c.blocksWrite (off / 64) = false) : landBlock c off acc = .free := by
  rw [landBlock, if_neg (by omega)]
  rcases h with rfl | h
  · rfl
  · simp [h]

/-- A PUT slot lands as it is, and is counted as traffic. -/
theorem landCell_put (hacc : w.acc = none) (hctr : w.ctr = none) :
    landCell s k off w = ackBack (s.setCell k (((s.cell k).writePiece ⟨off, w.data, some w.tag, w.poison, true⟩).tally 7 1)) w := by
  simp only [landCell, hacc, hctr, Fx.arriveOpt]
  rfl

/-- An ACCW slot is added to what its destination holds. -/
theorem landCell_accw {acc : BitVec 2} (hacc : w.acc = some acc) (hctr : w.ctr = none) (hoff : off / 64 < 512) (herrs : (s.cell k).errs = [])
    (hpoison : (s.cell k).isPoison (off / 64) = false) :
    landCell s k off w = ackBack (s.setCell k ((((s.cell k).writePiece ⟨off, (accwAdd acc (memRead (s.cell k).mem off 64) w.data).1, some w.tag, w.poison, false⟩).count
      rAccwSat (accwAdd acc (memRead (s.cell k).mem off 64) w.data).2).tally 7 1)) w := by
  have hcheck : (Fx.of (s.cell k)).checkSlots [off / 64] = Fx.of (s.cell k) := by
    have hintact : (Fx.of (s.cell k)).checkSlot (off / 64) = Fx.of (s.cell k) := Fx.checkSlot_intact (by rw [Fx.of, herrs]; rfl)
    have hsound : (Fx.of (s.cell k)).c.isPoison (off / 64) = false := hpoison
    simp only [Fx.checkSlots, List.foldl_cons, List.foldl_nil, hoff, if_true, hsound, Bool.false_eq_true, if_false, hintact]
  have hwas : (Nat.blt (off / 64) 512 && (Fx.of (s.cell k)).c.isPoison (off / 64)) = false := by
    rw [show (Fx.of (s.cell k)).c.isPoison (off / 64) = false from hpoison, Bool.and_false]
  simp only [landCell, hacc, hctr, Fx.arriveOpt, hcheck, hwas, Bool.or_false]
  rfl

theorem exec_remotePutArrival (harrive : s.arriving id = some (.write w)) (hacc : w.acc = none) : exec (.remotePutArrival id) s = .next (arriveWrite s id w) := by
  change execRemotePutArrival id s = _
  simp only [execRemotePutArrival, harrive, hacc, Option.isNone_none, if_true]

theorem exec_accwArrival {acc : BitVec 2} (harrive : s.arriving id = some (.write w)) (hacc : w.acc = some acc) :
    exec (.accwArrival id) s = .next (arriveWrite s id w) := by
  change execAccwArrival id s = _
  simp only [execAccwArrival, harrive, hacc, Option.isSome_some, if_true]

/-- What a PUT slot leaves where it lands. -/
theorem exec_remotePutArrival_lands (harrive : s.arriving id = some (.write w)) (hacc : w.acc = none) (hctr : w.ctr = none) (haddr : cellAddr w.addr = some (k, off))
    (howner : (s.rgn (cellRgn k)).owner.isSome = true) (hport : (s.cell k).units.port = none) (hoff : off < 0x8000) (hfree : (s.cell k).blocksWrite (off / 64) = false) :
    exec (.remotePutArrival id) s =
      .next (ackBack ((s.land id).setCell k (((s.cell k).writePiece ⟨off, w.data, some w.tag, w.poison, true⟩).tally 7 1)) w) := by
  have hland : landBlock (s.cell k) off w.acc.isSome = .free := landBlock_of_slot hoff (Or.inr hfree)
  rw [exec_remotePutArrival harrive hacc, arriveWrite_of_free haddr howner hport hland, landCell_put hacc hctr]
  rfl

/-- What an ACCW slot leaves where it lands. -/
theorem exec_accwArrival_lands {acc : BitVec 2} (harrive : s.arriving id = some (.write w)) (hacc : w.acc = some acc) (hctr : w.ctr = none)
    (haddr : cellAddr w.addr = some (k, off)) (howner : (s.rgn (cellRgn k)).owner.isSome = true) (hport : (s.cell k).units.port = none) (hoff : off < 0x8000)
    (herrs : (s.cell k).errs = []) (hpoison : (s.cell k).isPoison (off / 64) = false) :
    exec (.accwArrival id) s =
      .next (ackBack ((s.land id).setCell k ((((s.cell k).writePiece ⟨off, (accwAdd acc (memRead (s.cell k).mem off 64) w.data).1, some w.tag, w.poison, false⟩).count
        rAccwSat (accwAdd acc (memRead (s.cell k).mem off 64) w.data).2).tally 7 1)) w) := by
  have hland : landBlock (s.cell k) off w.acc.isSome = .free := landBlock_of_slot hoff (Or.inl (by rw [hacc]; rfl))
  rw [exec_accwArrival harrive hacc, arriveWrite_of_free haddr howner hport hland]
  exact congrArg _ (landCell_accw (s := s.land id) hacc hctr (by omega) herrs hpoison)
end

/-! The three clauses. -/

theorem arrival_counts (c : Cell) (i : Fin 16) (hlen : c.mr.arrival.length = 16) :
    let v := (c.mr.arrival.getD i.val (0, false)).1
    (v ≠ 0xFFFF → ((Fx.of c).arrive i.val).ev = [] ∧ (((Fx.of c).arrive i.val).c.mr.arrival.getD i.val (0, false)).1 = v + 1
      ∧ ∀ j : Fin 16, j ≠ i → (((Fx.of c).arrive i.val).c.mr.arrival.getD j.val (0, false)) = c.mr.arrival.getD j.val (0, false))
    ∧ (v = 0xFFFF → ((Fx.of c).arrive i.val).c.mr.arrival.getD i.val (0, false) = (0xFFFF, true) ∧ ((Fx.of c).arrive i.val).c.mr.ctrOvf = true
      ∧ ((Fx.of c).arrive i.val).ev.head? = some ⟨0x0413, leBytes 4 i.val, false⟩) := by
  have hi : i.val < c.mr.arrival.length := by omega
  refine ⟨fun hv => ?_, fun hv => ?_⟩
  · rw [Fx.arrive_of_ne c hv]
    refine ⟨rfl, ?_, fun j hj => getD_setAt_other (fun h => hj (Fin.ext h)) _ _⟩
    exact congrArg Prod.fst (getD_setAt_same hi _ _)
  · obtain ⟨q, l, h⟩ := Fx.arrive_of_eq c hv
    rw [h]
    exact ⟨getD_setAt_same hi _ _, rfl, rfl⟩

/-- Settles O22: what lands is one piece that covers its slot (`Cell.writePiece_slot`), and a counter's end is a fault (`Fx.arrive_of_eq`). -/
theorem remoteWritesLand : Obligations.RemoteWritesLand := by
  refine ⟨arrival_counts, fun s id k off w => ?_, fun s id k off w acc => ?_⟩
  · intro b harrive hacc hctr haddr howner hport hslot hoff hlen hfree hwf
    refine ⟨_, exec_remotePutArrival_lands harrive hacc hctr haddr howner hport hoff hfree, ?_⟩
    rw [cell_ackBack, State.cell_setCell, Cell.writePiece_slot _ w.tag w.poison true (by omega) hlen]
    refine ⟨fun a => ?_, rfl, getLsbD_setBit_same _ _ (by omega), ?_, fun hsrc => ?_, rfl⟩
    · have h := memGet_memWrite off w.data a hwf
      rwa [hlen] at h
    · change (if true && b.tagMode (off / 64) != 0 then setBit b.full (off / 64) true else b.full).getLsbD (off / 64) = _
      rw [Bool.true_and]
      split
      · exact getLsbD_setBit_same _ _ (by omega)
      · rfl
    · exact flights_ackBack (s := (s.land id).setCell k _) hsrc
  · intro b harrive hacc hctr haddr howner hport hslot hoff herrs hpoison hwf hlen
    refine ⟨_, exec_accwArrival_lands harrive hacc hctr haddr howner hport hoff herrs hpoison, ?_⟩
    rw [cell_ackBack, State.cell_setCell, Cell.writePiece_slot _ w.tag w.poison false (by omega) hlen]
    refine ⟨fun a => ?_, ?_, ?_, ?_⟩
    · have h := memGet_memWrite off (accwAdd acc (memRead b.mem off 64) w.data).1 a hwf
      rw [hlen] at h
      rw [Cell.tally_mem, Cell.count_mem]
      exact h
    · rw [Cell.tally_full, Cell.count_full]
      rfl
    · rw [Cell.tally_cnt, Cell.count_cnt, Cell.count_cnt]
      rfl
    · rw [Cell.tally_seq, Cell.count_seq]
      rfl
end Sys2Proof.Machine
end

section
/-! PROOF. What the host stores through a window: one write of its bytes, which changes no tag (spec/09_scratchpad_hbm.md R217; spec/14_ethernet_port.md R334). -/
namespace Sys2Proof.Machine

theorem mem_slotsOf {a n i : Nat} (h : i ∈ slotsOf a n) : a / 64 ≤ i ∧ i ≤ (a + n - 1) / 64 ∧ n ≠ 0 := by
  unfold slotsOf at h
  split at h
  · cases h
  · have hi := List.mem_range'_1.1 h
    omega

/-- The slots of a part of a range are among the range's. -/
theorem slotsOf_subset {a b m n : Nat} (hlo : a ≤ b) (hhi : b + m ≤ a + n) : slotsOf b m ⊆ slotsOf a n := fun i hi => by
  obtain ⟨hfrom, hto, hm⟩ := mem_slotsOf hi
  rw [slotsOf, if_neg (by omega)]
  exact List.mem_range'_1.2 (by omega)

/-! Pieces loaded from outside the cell (R202). -/

theorem Cell.bankDown_congr {c d : Cell} (h : d.mr = c.mr) (a n : Nat) : d.bankDown a n = c.bankDown a n := by
  rw [Cell.bankDown, h]
  rfl

/-- A piece that is not an instruction's last write into its slot leaves the full bits. -/
theorem Cell.full_writePiece_of_last {c : Cell} {w : Piece} (h : w.last = false) : (c.writePiece w).full = c.full := by
  unfold Cell.writePiece
  dsimp only
  rw [h]
  (repeat' split) <;> simp_all [Cell.put, Cell.setPoison]

/-- Pieces in banks that are on are all stored. -/
theorem Cell.foldl_loadPiece {c : Cell} {ps : List Piece} (hbank : ∀ w ∈ ps, c.bankDown w.addr w.data.length = false) :
    (ps.foldl Cell.loadPiece c).mem = storePieces c.mem ps ∧ ((∀ w ∈ ps, w.last = false) → (ps.foldl Cell.loadPiece c).full = c.full) := by
  induction ps generalizing c with
  | nil => exact ⟨rfl, fun _ => rfl⟩
  | cons w ps ih =>
    have hload : c.loadPiece w = c.writePiece w := by
      rw [Cell.loadPiece, hbank w List.mem_cons_self, if_neg Bool.false_ne_true]
    have hbank' : ∀ v ∈ ps, (c.writePiece w).bankDown v.addr v.data.length = false := fun v hv => by
      rw [Cell.bankDown_congr (c.sameButStores_writePiece w).mr]
      exact hbank v (List.mem_cons_of_mem w hv)
    obtain ⟨hmem, hfull⟩ := ih hbank'
    rw [List.foldl_cons, hload]
    refine ⟨?_, fun hlast => ?_⟩
    · rw [hmem, Cell.mem_writePiece]
      rfl
    · rw [hfull fun v hv => hlast v (List.mem_cons_of_mem w hv), Cell.full_writePiece_of_last (hlast w List.mem_cons_self)]

theorem Cell.foldl_loadPiece_pieces {c : Cell} {off : Nat} {l : List Byte} (hwf : memWf c.mem = true) (hbank : c.bankDown off l.length = false) :
    let d := ((pieces none false off l).map fun w => { w with last := false }).foldl Cell.loadPiece c
    d.mem = memWrite c.mem off l ∧ d.full = c.full := by
  have hon : ∀ w ∈ (pieces none false off l).map fun w => { w with last := false }, c.bankDown w.addr w.data.length = false := fun w hw => by
    obtain ⟨v, hv, rfl⟩ := List.mem_map.1 hw
    obtain ⟨hlo, hhi, -⟩ := piecesF_within hv
    exact List.any_eq_false.2 fun i hi => List.any_eq_false.1 hbank i (slotsOf_subset hlo hhi hi)
  obtain ⟨hmem, hfull⟩ := Cell.foldl_loadPiece hon
  refine ⟨hmem.trans ?_, hfull fun w hw => ?_⟩
  · rw [← storePieces_pieces none false hwf off l, storePieces, List.foldl_map]
    rfl
  · obtain ⟨v, -, rfl⟩ := List.mem_map.1 hw
    rfl

/-! What the host stores. -/

section
variable {s : State} {a : Nat} {l : List Byte}

theorem Hbm.foldl_write_mem (ps : List Piece) (g : Hbm) : (ps.foldl (fun h w => h.write w.addr w.data (some 0) false) g).mem = storePieces g.mem ps := by
  induction ps generalizing g with
  | nil => rfl
  | cons w ps ih => exact ih _

theorem hostStore_hbm (ha : cellAddr a = none) (hwf : memWf s.hbm.mem = true) : ∃ g, hostStore s a l = { s with hbm := g } ∧ g.mem = memWrite s.hbm.mem a l := by
  refine ⟨_, by rw [hostStore, ha], ?_⟩
  exact (Hbm.foldl_write_mem ..).trans (storePieces_pieces none false hwf a l)

theorem hostStore_cell {k off : Nat} (ha : cellAddr a = some (k, off)) (hbank : (s.cell k).bankDown off l.length = false) (hwf : memWf (s.cell k).mem = true) :
    ∃ c, hostStore s a l = s.setCell k c ∧ c.mem = memWrite (s.cell k).mem off l ∧ c.full = (s.cell k).full := by
  refine ⟨_, by rw [hostStore, ha]; rfl, ?_⟩
  exact Cell.foldl_loadPiece_pieces hwf hbank
end

theorem memGet_memWrite_in {m : Memory} (h : memWf m = true) {a i : Nat} {l : List Byte} (hi : i < l.length) : memGet (memWrite m a l) (a + i) = l.getD i 0 := by
  rw [memGet_memWrite _ _ _ h, if_pos ⟨Nat.le_add_right a i, by omega⟩, Nat.add_sub_cancel_left]

theorem memGet_memWrite_out {m : Memory} (h : memWf m = true) {a b : Nat} {l : List Byte} (hb : b < a ∨ a + l.length ≤ b) : memGet (memWrite m a l) b = memGet m b := by
  rw [memGet_memWrite _ _ _ h, if_neg (by omega)]

end Sys2Proof.Machine
end

section
/-! PROOF. RDMA on a data queue pair: what a packet changes as it is heard, and what answers it (spec/14_ethernet_port.md R323 to R328, R330, R334 to R338; log entry 74). -/
namespace Sys2Proof.Machine

/-! States that differ in queue pairs, counts and what has been sent. -/

/-- Two states of the same memory, regions, windows and marks. -/
structure State.SameStores (s t : State) : Prop where
  cells : t.cells = s.cells
  hbm : t.hbm = s.hbm
  regions : t.regions = s.regions
  windows : t.hub.eth.windows = s.hub.eth.windows
  qos : t.hub.eth.qos = s.hub.eth.qos

theorem State.SameStores.refl (s : State) : s.SameStores s := ⟨rfl, rfl, rfl, rfl, rfl⟩

theorem State.SameStores.trans {s t u : State} (h : s.SameStores t) (h' : t.SameStores u) : s.SameStores u :=
  ⟨h'.cells.trans h.cells, h'.hbm.trans h.hbm, h'.regions.trans h.regions, h'.windows.trans h.windows, h'.qos.trans h.qos⟩

section
variable (s : State) (q reg n : Nat)
theorem sameStores_modQp (f : Qp → Qp) : s.SameStores (s.modQp q f) := ⟨rfl, rfl, rfl, rfl, rfl⟩
theorem sameStores_ethCount : s.SameStores (s.ethCount reg n) := ⟨rfl, rfl, rfl, rfl, rfl⟩
theorem sameStores_qpEnergy : s.SameStores (s.qpEnergy q reg n) := ⟨rfl, rfl, rfl, rfl, rfl⟩
theorem sameStores_emitQp (o : RdmaOut) : s.SameStores (s.emitQp q o) := ⟨rfl, rfl, rfl, rfl, rfl⟩
end

/-- What a window lets through depends on the windows and the regions alone. -/
theorem State.SameStores.windowLets {s t : State} (h : s.SameStores t) (session key : Word) (a n : Nat) (write : Bool) :
    windowLets t session key a n write = windowLets s session key a n write := by
  unfold Machine.windowLets
  rw [h.windows]
  simp only [State.rgn, h.regions]

theorem State.SameStores.mark {s t : State} (h : s.SameStores t) (tag : VlanTag) (cnp : Bool) : t.hub.eth.mark tag cnp = s.hub.eth.mark tag cnp := by
  rw [Eth.mark, h.qos]
  rfl

@[simp] theorem State.qp_modQp (s : State) (q : Nat) (f : Qp → Qp) : (s.modQp q f).qp q = f (s.qp q) := mapGet_mapPut_same _ _ _ _

section
variable (s : State) (q i reg n : Nat)
@[simp] theorem State.qp_ethCount : (s.ethCount reg n).qp i = s.qp i := rfl
@[simp] theorem State.qp_qpEnergy : (s.qpEnergy q reg n).qp i = s.qp i := rfl
@[simp] theorem State.qp_emitQp (o : RdmaOut) : (s.emitQp q o).qp i = s.qp i := rfl
end

/-! A congestion notification (R327). -/

/-- A notification leaves on a queue pair. -/
def State.cnpSent (s : State) (q : Nat) : State :=
  (((s.modQp q fun x => { x with lastCnp := some s.hub.tick }).ethCount 0x48 1).qpEnergy q 0 1).emitQp q .cnp

section
variable (s : State) (q : Nat)

theorem sameStores_cnpSent : s.SameStores (s.cnpSent q) :=
  (sameStores_modQp ..).trans ((sameStores_ethCount ..).trans ((sameStores_qpEnergy ..).trans (sameStores_emitQp ..)))

theorem qp_cnpSent : (s.cnpSent q).qp q = { s.qp q with lastCnp := some s.hub.tick } := by
  rw [State.cnpSent, State.qp_emitQp, State.qp_qpEnergy, State.qp_ethCount, State.qp_modQp]

/-- It bears the tag of the last packet heard. -/
theorem out_cnpSent : (s.cnpSent q).out = s.out ++ [.rdma q (s.hub.eth.mark (s.qp q).tag true) .cnp] := by
  have htag : ((s.modQp q fun x => { x with lastCnp := some s.hub.tick }).qp q).tag = (s.qp q).tag := by rw [State.qp_modQp]
  exact congrArg (fun g => s.out ++ [.rdma q (s.hub.eth.mark g true) .cnp]) htag

theorem cnpAnswer_due (h : ∀ v, (s.qp q).lastCnp = some v → v + 5000 ≤ s.hub.tick) : cnpAnswer s q true = s.cnpSent q := by
  unfold cnpAnswer
  cases hv : (s.qp q).lastCnp with
  | none => rfl
  | some v =>
    have hdue : Nat.ble (v + 5000) s.hub.tick = true := Nat.ble_eq ▸ h v hv
    dsimp only
    rw [hdue]
    rfl

theorem cnpAnswer_early {v : Nat} (hv : (s.qp q).lastCnp = some v) (h : s.hub.tick < v + 5000) : cnpAnswer s q true = s := by
  have hearly : Nat.ble (v + 5000) s.hub.tick = false := by
    rw [← Bool.not_eq_true, Nat.ble_eq]
    omega
  unfold cnpAnswer
  rw [hv]
  dsimp only
  rw [hearly]
  rfl

/-- A packet is answered with a notification or with none. -/
theorem cnpAnswer_cases (ce : Bool) : cnpAnswer s q ce = s.cnpSent q ∨ cnpAnswer s q ce = s := by
  unfold cnpAnswer
  dsimp only
  generalize (ce && _) = due
  cases due
  · exact Or.inr rfl
  · exact Or.inl rfl
end

/-! A packet is heard (R323, R327, R405). -/

/-- A packet with its tag and its energy. -/
def State.tagged (s : State) (q bytes : Nat) (tag : VlanTag) : State := (s.modQp q fun x => { x with tag := tag }).qpEnergy q bytes 1

section
variable (s : State) (q : Nat)

theorem State.qp_tagged (bytes : Nat) (tag : VlanTag) : (s.tagged q bytes tag).qp q = { s.qp q with tag := tag } := by
  rw [State.tagged, State.qp_qpEnergy, State.qp_modQp]

variable (bytes : Nat) (ce : Bool) (tag : VlanTag)

theorem qpHears_eq : qpHears s q bytes ce tag = cnpAnswer (s.tagged q bytes tag) q ce := rfl

theorem sameStores_qpHears : s.SameStores (qpHears s q bytes ce tag) := by
  have htagged : s.SameStores (s.tagged q bytes tag) := (sameStores_modQp ..).trans (sameStores_qpEnergy ..)
  rw [qpHears_eq]
  rcases cnpAnswer_cases (s.tagged q bytes tag) q ce with h | h
  · rw [h]
    exact htagged.trans (sameStores_cnpSent _ q)
  · rwa [h]

theorem qp_qpHears : ∃ v, (qpHears s q bytes ce tag).qp q = { s.qp q with tag := tag, lastCnp := v } := by
  rw [qpHears_eq]
  rcases cnpAnswer_cases (s.tagged q bytes tag) q ce with h | h
  · rw [h, qp_cnpSent, State.qp_tagged]
    exact ⟨_, rfl⟩
  · rw [h, State.qp_tagged]
    exact ⟨_, rfl⟩

/-- A packet without a CE mark is answered with no notification. -/
theorem out_qpHears_unmarked : (qpHears s q bytes false tag).out = s.out := rfl

theorem out_qpHears_due (h : ∀ v, (s.qp q).lastCnp = some v → v + 5000 ≤ s.hub.tick) :
    (qpHears s q bytes true tag).out = s.out ++ [.rdma q (s.hub.eth.mark tag true) .cnp] ∧ ((qpHears s q bytes true tag).qp q).lastCnp = some s.hub.tick := by
  have hdue : ∀ v, ((s.tagged q bytes tag).qp q).lastCnp = some v → v + 5000 ≤ (s.tagged q bytes tag).hub.tick := by
    rw [State.qp_tagged]
    exact h
  rw [qpHears_eq, cnpAnswer_due _ q hdue, out_cnpSent, qp_cnpSent, State.qp_tagged]
  exact ⟨rfl, rfl⟩

theorem out_qpHears_early {v : Nat} (hv : (s.qp q).lastCnp = some v) (h : s.hub.tick < v + 5000) : (qpHears s q bytes true tag).out = s.out := by
  have hlast : ((s.tagged q bytes tag).qp q).lastCnp = some v := by
    rw [State.qp_tagged]
    exact hv
  rw [qpHears_eq, cnpAnswer_early _ q hlast h]
  rfl

theorem sameStores_pfcJudge (n : Nat) : s.SameStores (pfcJudge s n) := by
  unfold pfcJudge
  dsimp only
  (repeat' split) <;> exact ⟨rfl, rfl, rfl, rfl, rfl⟩

theorem qp_pfcJudge (n : Nat) : (pfcJudge s n).qp q = s.qp q := by
  unfold pfcJudge
  dsimp only
  (repeat' split) <;> rfl
end

/-! What answers (R330, R338). -/

section
variable (s : State) (q : Nat) (psn : BitVec 24) (syndrome : Byte)

theorem sameStores_sendAck : s.SameStores (sendAck s q psn syndrome) := by
  unfold sendAck
  dsimp only
  split <;> exact ⟨rfl, rfl, rfl, rfl, rfl⟩

theorem qp_sendAck : (sendAck s q psn syndrome).qp q = s.qp q := by
  unfold sendAck
  dsimp only
  split <;> rfl

theorem out_sendAck : (sendAck s q psn syndrome).out = s.out ++ [.rdma q (s.hub.eth.mark (s.qp q).tag false) (.ack psn syndrome (s.qp q).msn)] := by
  unfold sendAck
  dsimp only
  split <;> rfl
end

end Sys2Proof.Machine
end

section
/-! PROOF. RDMA on a data queue pair: WRITE packets and READ requests, stored, answered or refused (spec/09_scratchpad_hbm.md R217; spec/14_ethernet_port.md R328, R330, R334 to R338). -/
namespace Sys2Proof.Machine

/-! WRITE packets. -/

/-- A WRITE packet is heard, and the receive buffer with it is judged. -/
def State.heardWrite (s : State) (w : RdmaWrite) : State := pfcJudge (qpHears s w.q.val w.data.length w.ce w.tag) w.buffered

/-- A WRITE packet that its queue pair carries (R328, R330). -/
structure State.Carries (s : State) (w : RdmaWrite) : Prop where
  on : s.ethOn = true
  connected : (s.qp w.q.val).state = .connected
  data : (s.qp w.q.val).kind = .data
  op : foreignOp w.op = false

/-- A message of one packet that comes in turn (R328). -/
structure State.TakesOne (s : State) (w : RdmaWrite) : Prop extends s.Carries w where
  expected : psnPlace (s.qp w.q.val).epsn w.psn = .expected
  only : w.op = .only
  fresh : (s.qp w.q.val).write = none
  whole : w.data.length = w.len
  short : w.len ≤ 4096

section
variable {s : State} {w : RdmaWrite}

theorem sameStores_heardWrite : s.SameStores (s.heardWrite w) := (sameStores_qpHears ..).trans (sameStores_pfcJudge ..)

theorem qp_heardWrite (s : State) (w : RdmaWrite) : ∃ v, (s.heardWrite w).qp w.q.val = { s.qp w.q.val with tag := w.tag, lastCnp := v } := by
  obtain ⟨v, hv⟩ := qp_qpHears s w.q.val w.data.length w.ce w.tag
  exact ⟨v, (qp_pfcJudge ..).trans hv⟩

theorem rdmaWrite_unconnected (hon : s.ethOn = true) (hx : (s.qp w.q.val).state ≠ .connected) : rdmaWrite s w = ethDrop s := by
  simp [rdmaWrite, hon, hx]

/-- What the kind of queue pair does not carry. -/
theorem rdmaWrite_foreign (hon : s.ethOn = true) (hx : (s.qp w.q.val).state = .connected) (h : (s.qp w.q.val).kind ≠ .data ∨ foreignOp w.op = true) :
    rdmaWrite s w = sendAck (s.heardWrite w) w.q.val w.psn 0x61 := by
  have hforeign : ((s.qp w.q.val).kind != .data || foreignOp w.op) = true := by simpa using h
  simp [rdmaWrite, hon, hx, hforeign, State.heardWrite]

theorem rdmaWrite_ahead (h : s.Carries w) (hplace : psnPlace (s.qp w.q.val).epsn w.psn = .ahead) : rdmaWrite s w = psnGap (s.heardWrite w) w.q.val := by
  simp [rdmaWrite, h.on, h.connected, h.data, h.op, hplace, State.heardWrite]

/-- One NAK goes out per gap (R338). -/
theorem psnGap_heardWrite_again (hnak : (s.qp w.q.val).nakSent = true) : psnGap (s.heardWrite w) w.q.val = s.heardWrite w := by
  obtain ⟨v, hv⟩ := qp_heardWrite s w
  rw [psnGap, hv, if_pos hnak]

theorem psnGap_heardWrite_first (hnak : (s.qp w.q.val).nakSent = false) :
    psnGap (s.heardWrite w) w.q.val = sendAck ((s.heardWrite w).modQp w.q.val fun z => { z with nakSent := true }) w.q.val (s.qp w.q.val).epsn 0x60 := by
  obtain ⟨v, hv⟩ := qp_heardWrite s w
  rw [psnGap, hv, if_neg (by simp [hnak])]

theorem rdmaWrite_duplicate (h : s.Carries w) (hplace : psnPlace (s.qp w.q.val).epsn w.psn = .duplicate) :
    rdmaWrite s w = sendAck (s.heardWrite w) w.q.val ((s.qp w.q.val).epsn - 1) 0 := by
  simp [rdmaWrite, h.on, h.connected, h.data, h.op, hplace, State.heardWrite]

theorem rdmaWrite_misformed (h : s.Carries w) (hplace : psnPlace (s.qp w.q.val).epsn w.psn = .expected) (hform : writeForm (s.qp w.q.val) w = false) :
    rdmaWrite s w = sendAck ((s.heardWrite w).modQp w.q.val fun z => { z with write := none }) w.q.val w.psn 0x61 := by
  simp [rdmaWrite, h.on, h.connected, h.data, h.op, hplace, hform, State.heardWrite]

theorem State.TakesOne.form (h : s.TakesOne w) : writeForm (s.qp w.q.val) w = true := by
  simp [writeForm, h.only, h.fresh, h.whole, h.short]

/-- What no window lets through stores nothing. -/
theorem rdmaWrite_refused (h : s.TakesOne w) (hwin : windowLets s (s.qp w.q.val).session w.key w.va.toNat w.len true = false) :
    rdmaWrite s w = sendAck ((s.heardWrite w).modQp w.q.val fun z => { z with write := none }) w.q.val w.psn 0x62 := by
  have hheard : windowLets (pfcJudge (qpHears s w.q.val w.data.length w.ce w.tag) w.buffered) (s.qp w.q.val).session w.key w.va.toNat w.len true = false :=
    (sameStores_heardWrite.windowLets ..).trans hwin
  simp [rdmaWrite, h.on, h.connected, h.data, h.op, h.expected, h.form, h.fresh, State.heardWrite, hheard]

/-- A whole message has been taken. -/
def State.tookWhole (s : State) (q : Nat) : State := (psnTaken s q 1 true).modQp q fun z => { z with write := none }

/-- A message of one packet that a window lets through is stored, counted and acknowledged. -/
theorem rdmaWrite_stored (h : s.TakesOne w) (hwin : windowLets s (s.qp w.q.val).session w.key w.va.toNat w.len true = true) :
    rdmaWrite s w = sendAck ((hostStore (s.heardWrite w) w.va.toNat w.data).tookWhole w.q.val) w.q.val w.psn 0 := by
  have hheard : windowLets (pfcJudge (qpHears s w.q.val w.data.length w.ce w.tag) w.buffered) (s.qp w.q.val).session w.key w.va.toNat w.len true = true :=
    (sameStores_heardWrite.windowLets ..).trans hwin
  have hleft : w.len - w.data.length = 0 := by rw [h.whole, Nat.sub_self]
  simp [rdmaWrite, h.on, h.connected, h.data, h.op, h.expected, h.form, h.fresh, State.heardWrite, hheard, hleft, State.tookWhole]
end

/-! A message that is taken. -/

section
variable (s : State) (q : Nat)

theorem qp_psnTaken (n : Nat) : (psnTaken s q n true).qp q = { s.qp q with epsn := (s.qp q).epsn + BitVec.ofNat 24 n, nakSent := false, msn := (s.qp q).msn + 1 } := by
  rw [psnTaken, State.qp_modQp]
  rfl

theorem sameStores_tookWhole : s.SameStores (s.tookWhole q) := (sameStores_modQp ..).trans (sameStores_modQp ..)

theorem qp_tookWhole : (s.tookWhole q).qp q = { s.qp q with epsn := (s.qp q).epsn + 1, nakSent := false, msn := (s.qp q).msn + 1, write := none } := by
  rw [State.tookWhole, State.qp_modQp, qp_psnTaken]
  rfl
end

section
variable {s u : State} {w : RdmaWrite}

/-- The acknowledgement of a message whose bytes have been stored: the queue pairs and what has been sent are as the packet left them. -/
theorem sendAck_tookWhole (hhub : u.hub = (s.heardWrite w).hub) (hout : u.out = (s.heardWrite w).out) :
    let t := sendAck (u.tookWhole w.q.val) w.q.val w.psn 0
    u.SameStores t ∧ (t.qp w.q.val).epsn = (s.qp w.q.val).epsn + 1 ∧ (t.qp w.q.val).msn = (s.qp w.q.val).msn + 1
      ∧ t.out = (s.heardWrite w).out ++ [.rdma w.q.val (s.hub.eth.mark w.tag false) (.ack w.psn 0 ((s.qp w.q.val).msn + 1))] := by
  have hqp : u.qp w.q.val = (s.heardWrite w).qp w.q.val := by rw [State.qp, hhub]; rfl
  have hmark : (u.tookWhole w.q.val).hub.eth.mark w.tag false = s.hub.eth.mark w.tag false := by
    rw [(sameStores_tookWhole ..).mark, hhub, sameStores_heardWrite.mark]
  obtain ⟨v, hv⟩ := qp_heardWrite s w
  refine ⟨(sameStores_tookWhole ..).trans (sameStores_sendAck ..), ?_, ?_, ?_⟩
  · rw [qp_sendAck, qp_tookWhole, hqp, hv]
  · rw [qp_sendAck, qp_tookWhole, hqp, hv]
  · rw [out_sendAck, qp_tookWhole, hqp, hv, ← hmark, ← hout]
    rfl

end

/-! READ requests (R335, R336). -/

section
variable (s : State) {a n : Nat}

theorem chunks_of_le {α : Type} {n : Nat} {l : List α} (hne : l ≠ []) (h : l.length ≤ n) : chunks n l = [l] := by
  obtain ⟨b, t, rfl⟩ := List.exists_cons_of_ne_nil hne
  have hend : ∀ k, chunksF n k ([] : List α) = [] := fun k => by cases k <;> rfl
  rw [chunks, List.length_cons, chunksF, List.take_of_length_le h, List.drop_of_length_le h, hend]
  exact List.cons_ne_nil b t

/-- A response of one packet. -/
theorem sendReads_one (q : Nat) (psn : BitVec 24) {l : List Byte} (hne : l ≠ []) (h : l.length ≤ 4096) :
    sendReads q psn true s l = (s.qpEnergy q l.length 1).emitQp q (.readResp psn l true) := by
  have hempty : l.isEmpty = false := by simpa using hne
  simp [sendReads, hempty, chunks_of_le hne h]

/-- A range of the HBM without poison is read whole. -/
theorem cleanLen_hbm (ha : cellAddr a = none) (hp : s.hbm.poison = []) : cleanLen s a n = n := by
  have hnone : (slotsOf a n).find? (fun b => s.hbm.isPoison b) = none := by
    refine List.find?_eq_none.2 fun b _ => ?_
    rw [Hbm.isPoison, hp]
    exact Bool.false_ne_true
  simp only [cleanLen, ha, hnone]

/-- A check of the HBM where no flips stand finds nothing. -/
theorem hostCheck_hbm (ha : cellAddr a = none) (he : s.hbm.errs = []) : hostCheck s a n = s := by
  simp [hostCheck, ha, State.checkHbm, he]

theorem hostLoad_hbm (ha : cellAddr a = none) : hostLoad s a n = memRead s.hbm.mem a n := by
  simp [hostLoad, ha]
end

/-- A READ request is heard. -/
def State.heardRead (s : State) (r : RdmaRead) : State := qpHears s r.q.val 0 r.ce r.tag

/-- A READ request that its queue pair carries (R328). -/
structure State.Reads (s : State) (r : RdmaRead) : Prop where
  on : s.ethOn = true
  connected : (s.qp r.q.val).state = .connected
  data : (s.qp r.q.val).kind = .data
  few : r.outstanding < 16

section
variable {s : State} {r : RdmaRead}

theorem sameStores_heardRead : s.SameStores (s.heardRead r) := sameStores_qpHears ..

theorem rdmaRead_foreign (hon : s.ethOn = true) (hx : (s.qp r.q.val).state = .connected) (h : (s.qp r.q.val).kind ≠ .data ∨ 16 ≤ r.outstanding) :
    rdmaRead s r = sendAck (s.heardRead r) r.q.val r.psn 0x61 := by
  have hforeign : ((s.qp r.q.val).kind != .data || Nat.ble 16 r.outstanding) = true := by simpa [Nat.ble_eq] using h
  simp [rdmaRead, hon, hx, hforeign, State.heardRead]

theorem State.Reads.carried (h : s.Reads r) : ((s.qp r.q.val).kind != .data || Nat.ble 16 r.outstanding) = false := by
  have hfew : Nat.ble 16 r.outstanding = false := by
    rw [← Bool.not_eq_true, Nat.ble_eq]
    exact Nat.not_le.2 h.few
  rw [h.data, hfew]
  rfl

/-- What no window lets through is not read. -/
theorem rdmaRead_refused (h : s.Reads r) (hplace : psnPlace (s.qp r.q.val).epsn r.psn ≠ .ahead)
    (hwin : windowLets s (s.qp r.q.val).session r.key r.va.toNat r.len false = false) : rdmaRead s r = sendAck (s.heardRead r) r.q.val r.psn 0x62 := by
  have hheard : windowLets (qpHears s r.q.val 0 r.ce r.tag) (s.qp r.q.val).session r.key r.va.toNat r.len false = false :=
    (sameStores_heardRead.windowLets ..).trans hwin
  simp [rdmaRead, h.on, h.connected, h.carried, hplace, hheard, State.heardRead]

/-- A READ of the HBM of one packet is answered with the bytes. -/
theorem rdmaRead_answered (h : s.Reads r) (hplace : psnPlace (s.qp r.q.val).epsn r.psn = .expected)
    (hwin : windowLets s (s.qp r.q.val).session r.key r.va.toNat r.len false = true) (ha : cellAddr r.va.toNat = none) (hpos : 0 < r.len) (hmax : r.len ≤ 4096)
    (herrs : s.hbm.errs = []) (hpoison : s.hbm.poison = []) :
    rdmaRead s r = ((psnTaken (s.heardRead r) r.q.val 1 true).qpEnergy r.q.val r.len 1).emitQp r.q.val (.readResp r.psn (memRead s.hbm.mem r.va.toNat r.len) true) := by
  have hbm : (s.heardRead r).hbm = s.hbm := sameStores_heardRead.hbm
  have hheard : windowLets (s.heardRead r) (s.qp r.q.val).session r.key r.va.toNat r.len false = true := (sameStores_heardRead.windowLets ..).trans hwin
  have hcheck : hostCheck (s.heardRead r) r.va.toNat r.len = s.heardRead r := hostCheck_hbm _ ha (hbm ▸ herrs)
  have hclean : cleanLen (s.heardRead r) r.va.toNat r.len = r.len := cleanLen_hbm _ ha (hbm ▸ hpoison)
  have hone : max 1 (ceilDiv r.len 4096) = 1 := by rw [ceilDiv]; omega
  have hload : hostLoad (psnTaken (s.heardRead r) r.q.val 1 true) r.va.toNat r.len = memRead s.hbm.mem r.va.toNat r.len := by
    rw [hostLoad_hbm _ ha, psnTaken, State.modQp_hbm, hbm]
  have hne : memRead s.hbm.mem r.va.toNat r.len ≠ [] := List.ne_nil_of_length_pos (by rw [memRead_length]; exact hpos)
  have hsend := sendReads_one (psnTaken (s.heardRead r) r.q.val 1 true) r.q.val r.psn hne (by rw [memRead_length]; exact hmax)
  rw [memRead_length] at hsend
  rw [State.heardRead] at *
  simp [rdmaRead, h.on, h.connected, h.carried, hplace, hheard, hcheck, hclean, hone, hload, hsend]
end

end Sys2Proof.Machine
end

section
/-! PROOF. The clauses of RDMA on a data queue pair, assembled (spec/14_ethernet_port.md R323, R326 to R328, R330, R334 to R338). -/
namespace Sys2Proof.Machine

section
variable {s : State} {w : RdmaWrite} {r : RdmaRead}

theorem exec_rdmaWritePacket {t : State} (h : rdmaWrite s w = t) : exec (.rdmaWritePacket w) s = .next t := congrArg _ h

theorem exec_rdmaReadRequest {t : State} (h : rdmaRead s r = t) : exec (.rdmaReadRequest r) s = .next t := congrArg _ h

/-- A message for the HBM: its bytes are stored and every other byte stays (R217, R334). -/
theorem exec_rdmaWritePacket_hbm (h : s.TakesOne w) (hwin : windowLets s (s.qp w.q.val).session w.key w.va.toNat w.len true = true)
    (ha : cellAddr w.va.toNat = none) (hwf : memWf s.hbm.mem = true) :
    ∃ t, exec (.rdmaWritePacket w) s = .next t ∧ (∀ i < w.len, memGet t.hbm.mem (w.va.toNat + i) = w.data.getD i 0)
      ∧ (∀ a, a < w.va.toNat ∨ w.va.toNat + w.len ≤ a → memGet t.hbm.mem a = memGet s.hbm.mem a)
      ∧ (t.qp w.q.val).epsn = (s.qp w.q.val).epsn + 1 ∧ (t.qp w.q.val).msn = (s.qp w.q.val).msn + 1
      ∧ t.out = (s.heardWrite w).out ++ [.rdma w.q.val (s.hub.eth.mark w.tag false) (.ack w.psn 0 ((s.qp w.q.val).msn + 1))] ∧ t.cells = s.cells := by
  have hheard : s.SameStores (s.heardWrite w) := sameStores_heardWrite
  obtain ⟨g, hstore, hmem⟩ := hostStore_hbm (s := s.heardWrite w) (l := w.data) ha (by rw [hheard.hbm]; exact hwf)
  obtain ⟨hsame, hepsn, hmsn, hout⟩ := sendAck_tookWhole (s := s) (w := w) (u := hostStore (s.heardWrite w) w.va.toNat w.data) (by rw [hstore]) (by rw [hstore])
  refine ⟨_, exec_rdmaWritePacket (rdmaWrite_stored h hwin), ?_⟩
  have hg : (hostStore (s.heardWrite w) w.va.toNat w.data).hbm.mem = memWrite s.hbm.mem w.va.toNat w.data := by
    rw [hstore, ← hheard.hbm]
    exact hmem
  have hcells : (hostStore (s.heardWrite w) w.va.toNat w.data).cells = s.cells := by
    rw [hstore, ← hheard.cells]
  rw [hsame.hbm, hg, hsame.cells, hcells]
  refine ⟨fun i hi => memGet_memWrite_in hwf (h.whole ▸ hi), fun a ho => memGet_memWrite_out hwf (h.whole ▸ ho), hepsn, hmsn, hout, rfl⟩

/-- A message for a cell: no full bit changes (R217, R334). -/
theorem exec_rdmaWritePacket_cell {k off : Nat} (h : s.TakesOne w) (hwin : windowLets s (s.qp w.q.val).session w.key w.va.toNat w.len true = true)
    (ha : cellAddr w.va.toNat = some (k, off)) (hbank : (s.cell k).bankDown off w.len = false) (hwf : memWf (s.cell k).mem = true) :
    ∃ t, exec (.rdmaWritePacket w) s = .next t ∧ (∀ i < w.len, memGet (t.cell k).mem (off + i) = w.data.getD i 0)
      ∧ (∀ a, a < off ∨ off + w.len ≤ a → memGet (t.cell k).mem a = memGet (s.cell k).mem a) ∧ (t.cell k).full = (s.cell k).full ∧ t.hbm = s.hbm
      ∧ t.out = (s.heardWrite w).out ++ [.rdma w.q.val (s.hub.eth.mark w.tag false) (.ack w.psn 0 ((s.qp w.q.val).msn + 1))] := by
  have hheard : s.SameStores (s.heardWrite w) := sameStores_heardWrite
  have hcell : (s.heardWrite w).cell k = s.cell k := by rw [State.cell, hheard.cells]; rfl
  obtain ⟨c, hstore, hmem, hfull⟩ := hostStore_cell (s := s.heardWrite w) (l := w.data) ha (by rw [hcell, h.whole]; exact hbank) (by rw [hcell]; exact hwf)
  obtain ⟨hsame, -, -, hout⟩ := sendAck_tookWhole (s := s) (w := w) (u := hostStore (s.heardWrite w) w.va.toNat w.data) (by rw [hstore]; rfl) (by rw [hstore]; rfl)
  refine ⟨_, exec_rdmaWritePacket (rdmaWrite_stored h hwin), ?_⟩
  rw [hcell] at hmem hfull
  have hstored : ∀ t : State, (hostStore (s.heardWrite w) w.va.toNat w.data).SameStores t → t.cell k = c := fun t ht => by
    rw [State.cell, ht.cells, hstore]
    exact State.cell_setCell ..
  have hhbm : (hostStore (s.heardWrite w) w.va.toNat w.data).hbm = s.hbm := by rw [hstore, ← hheard.hbm]; rfl
  rw [hstored _ hsame, hmem, hfull, hsame.hbm, hhbm]
  exact ⟨fun i hi => memGet_memWrite_in hwf (h.whole ▸ hi), fun a ho => memGet_memWrite_out hwf (h.whole ▸ ho), rfl, rfl, hout⟩

/-- A READ of the HBM that a window lets through (R335). -/
theorem exec_rdmaReadRequest_hbm (h : s.Reads r) (hplace : psnPlace (s.qp r.q.val).epsn r.psn = .expected)
    (hwin : windowLets s (s.qp r.q.val).session r.key r.va.toNat r.len false = true) (ha : cellAddr r.va.toNat = none) (hpos : 0 < r.len) (hmax : r.len ≤ 4096)
    (herrs : s.hbm.errs = []) (hpoison : s.hbm.poison = []) :
    ∃ t, exec (.rdmaReadRequest r) s = .next t
      ∧ t.out = (s.heardRead r).out ++ [.rdma r.q.val (s.hub.eth.mark r.tag false) (.readResp r.psn (memRead s.hbm.mem r.va.toNat r.len) true)]
      ∧ t.hbm.mem = s.hbm.mem ∧ t.cells = s.cells ∧ (t.qp r.q.val).epsn = (s.qp r.q.val).epsn + 1 ∧ (t.qp r.q.val).msn = (s.qp r.q.val).msn + 1 := by
  have hheard : s.SameStores (s.heardRead r) := sameStores_heardRead
  obtain ⟨v, hv⟩ : ∃ v, (s.heardRead r).qp r.q.val = { s.qp r.q.val with tag := r.tag, lastCnp := v } := qp_qpHears ..
  have htaken : s.SameStores (psnTaken (s.heardRead r) r.q.val 1 true) := hheard.trans (sameStores_modQp ..)
  refine ⟨_, exec_rdmaReadRequest (rdmaRead_answered h hplace hwin ha hpos hmax herrs hpoison), ?_⟩
  rw [State.qp_emitQp, State.qp_qpEnergy, qp_psnTaken, hv]
  refine ⟨?_, congrArg Hbm.mem htaken.hbm, htaken.cells, rfl, rfl⟩
  have hmark : ((psnTaken (s.heardRead r) r.q.val 1 true).hub.eth.mark ((psnTaken (s.heardRead r) r.q.val 1 true).qp r.q.val).tag false) = s.hub.eth.mark r.tag false := by
    rw [qp_psnTaken, hv, htaken.mark]
  rw [← hmark]
  rfl

/-- A request's CE mark (R327). -/
theorem out_heardRead_marked (hce : r.ce = true) (h : ∀ v, (s.qp r.q.val).lastCnp = some v → v + 5000 ≤ s.hub.tick) :
    (s.heardRead r).out = s.out ++ [.rdma r.q.val (s.hub.eth.mark r.tag true) .cnp] ∧ ((s.heardRead r).qp r.q.val).lastCnp = some s.hub.tick := by
  rw [State.heardRead, hce]
  exact out_qpHears_due _ _ _ _ h
end

/-- Settles O49: the packet is heard (`State.heardWrite`, `State.heardRead`), and each check that it fails or passes has its own answer. -/
theorem rdmaReadsAndWrites : Obligations.RdmaReadsAndWrites := by
  intro s w r x y hon s1 s2
  refine ⟨fun hx => exec_rdmaWritePacket (rdmaWrite_unconnected hon hx), fun hx h => exec_rdmaWritePacket (rdmaWrite_foreign hon hx h), fun hx hkind hop => ?_,
    fun hy => ⟨fun h => exec_rdmaReadRequest (rdmaRead_foreign hon hy h), fun hkind hfew hplace hwin => exec_rdmaReadRequest (rdmaRead_refused ⟨hon, hy, hkind, hfew⟩ hplace hwin),
      fun hkind hfew hplace => exec_rdmaReadRequest_hbm ⟨hon, hy, hkind, hfew⟩ hplace⟩, rfl, rfl, fun hce => ?_, fun hce hlast => ?_, fun v hce hlast => ?_⟩
  · have hw : s.Carries w := ⟨hon, hx, hkind, hop⟩
    refine ⟨fun hplace hnak => exec_rdmaWritePacket ((rdmaWrite_ahead hw hplace).trans (psnGap_heardWrite_again hnak)),
      fun hplace hnak => exec_rdmaWritePacket ((rdmaWrite_ahead hw hplace).trans (psnGap_heardWrite_first hnak)),
      fun hplace => exec_rdmaWritePacket (rdmaWrite_duplicate hw hplace),
      fun hplace hform => exec_rdmaWritePacket (rdmaWrite_misformed hw hplace hform), fun hplace honly hfresh hwhole hshort => ?_⟩
    have hone : s.TakesOne w := ⟨hw, hplace, honly, hfresh, hwhole, hshort⟩
    exact ⟨fun hwin => exec_rdmaWritePacket (rdmaWrite_refused hone hwin), exec_rdmaWritePacket_hbm hone, fun k off => exec_rdmaWritePacket_cell hone⟩
  · change (qpHears s r.q.val 0 r.ce r.tag).out = s.out
    rw [hce]
    exact out_qpHears_unmarked ..
  · exact out_heardRead_marked hce fun v hv => absurd (hlast.symm.trans hv) (by simp)
  · split
    next hdue =>
      refine (out_heardRead_marked hce fun u hu => ?_).1
      rwa [← Option.some.inj (hlast.symm.trans hu)]
    next hearly =>
      change (qpHears s r.q.val 0 r.ce r.tag).out = s.out
      rw [hce]
      exact out_qpHears_early _ _ _ _ hlast (by omega)
end Sys2Proof.Machine
end

section
/-! PROOF. Jobs in time: what an operation on a job, the packets that leave, and the ticks that pass leave as it was (spec/09_scratchpad_hbm.md R208; spec/11_prompt_books_epochs.md R252, R261, R265; spec/12_rinmen_fabric.md R277 to R282). -/
namespace Sys2Proof.Machine

/-! Jobs. -/

theorem State.job_congr {s t : State} (h : t.jobs = s.jobs) (id : Word) : t.job id = s.job id := congrArg (List.find? fun j : Job => j.id == id) h

theorem State.cell_congr {s t : State} (h : t.cells = s.cells) (k : Nat) : t.cell k = s.cell k := congrArg (mapGet Cell.reset · k) h

@[simp] theorem State.job_modJob (s : State) (id : Word) {f : Job → Job} (hf : ∀ j, (f j).id = j.id) : (s.modJob id f).job id = (s.job id).map f := by
  have hkeep : ((fun j : Job => j.id == id) ∘ fun j => if j.id = id then f j else j) = fun j => j.id == id := by
    funext j
    by_cases h : j.id = id <;> simp [h, hf]
  unfold State.job State.modJob
  rw [List.find?_map, hkeep]
  cases hfound : s.jobs.find? fun j => j.id == id with
  | none => rfl
  | some j =>
    have hid : j.id = id := by simpa using List.find?_some hfound
    simp [hid]

theorem State.job_modJob_of {s : State} {id : Word} {j : Job} (h : s.job id = some j) {f : Job → Job} (hf : ∀ j, (f j).id = j.id) : (s.modJob id f).job id = some (f j) := by
  rw [State.job_modJob s id hf, h, Option.map_some]

theorem Job.nodup_rgns (j : Job) : j.rgns.Nodup := List.nodup_range.filter _

/-- Hold steps are counted at regions alone (R269). -/
theorem countSteps_rest (s : State) (j : Job) (n : Nat) : ∃ rs, countSteps s j n = { s with regions := rs } := foldl_modRgn_rest _ s _

section
variable (s : State) (j : Job) (n : Nat)

@[simp] theorem countSteps_cells : (countSteps s j n).cells = s.cells := by
  obtain ⟨rs, hrs⟩ := countSteps_rest s j n
  rw [hrs]

@[simp] theorem countSteps_cues : (countSteps s j n).cues = s.cues := by
  obtain ⟨rs, hrs⟩ := countSteps_rest s j n
  rw [hrs]

@[simp] theorem countSteps_hub : (countSteps s j n).hub = s.hub := by
  obtain ⟨rs, hrs⟩ := countSteps_rest s j n
  rw [hrs]

@[simp] theorem job_countSteps (id : Word) : (countSteps s j n).job id = s.job id := by
  obtain ⟨rs, hrs⟩ := countSteps_rest s j n
  rw [hrs]
  rfl
end

theorem cnt_rgn_countSteps (s : State) (j : Job) (n : Nat) {r : Nat} (hr : r ∈ j.rgns) : ((countSteps s j n).rgn r).cnt = bump (s.rgn r).cnt 0x140 n := by
  rw [countSteps, rgn_foldl_modRgn _ _ j.nodup_rgns, if_pos hr]

/-! A cell that is not listed is as its reset gives it. -/

theorem mapGet_of_unlisted {α : Type} (d : α) {m : SMap α} {k : Nat} (h : k ∉ m.map (·.1)) : mapGet d m k = d := by
  induction m with
  | nil => rfl
  | cons e t ih =>
    obtain ⟨hne, ht⟩ := List.ne_and_not_mem_of_not_mem_cons h
    rw [mapGet, if_neg hne, ih ht, ite_self]

/-- What every listed cell of a job has, and a cell after its reset too, every cell of the job has. -/
theorem State.cell_of_cellsOf {s : State} {j : Job} {P : Cell → Prop} (hreset : P Cell.reset) (h : ∀ k ∈ s.cellsOf j, P (s.cell k)) {k : Nat}
    (hk : j.regions.getLsbD (cellRgn k) = true) : P (s.cell k) := by
  by_cases hlist : k ∈ s.cells.map (·.1)
  · exact h k (List.mem_filter.2 ⟨hlist, hk⟩)
  · rw [State.cell, mapGet_of_unlisted _ hlist]
    exact hreset

/-! What sending leaves: jobs and cues, and of every cell its bytes and its sequencer. -/

/-- Two states of the same jobs and cues, whose cells hold the same bytes and have come as far in their programs. -/
structure State.SameCourse (s t : State) : Prop where
  jobs : t.jobs = s.jobs
  cues : t.cues = s.cues
  mem : ∀ k, (t.cell k).mem = (s.cell k).mem
  seq : ∀ k, (t.cell k).seq = (s.cell k).seq

theorem State.SameCourse.refl (s : State) : s.SameCourse s := ⟨rfl, rfl, fun _ => rfl, fun _ => rfl⟩

theorem State.SameCourse.trans {s t u : State} (h : s.SameCourse t) (h' : t.SameCourse u) : s.SameCourse u :=
  ⟨h'.jobs.trans h.jobs, h'.cues.trans h.cues, fun k => (h'.mem k).trans (h.mem k), fun k => (h'.seq k).trans (h.seq k)⟩

theorem State.SameCourse.job {s t : State} (h : s.SameCourse t) (id : Word) : t.job id = s.job id := State.job_congr h.jobs id

theorem State.SameCourse.foldl {α : Type} {f : State → α → State} (hf : ∀ (t : State) a, t.SameCourse (f t a)) (l : List α) (s : State) : s.SameCourse (l.foldl f s) :=
  List.foldlRecOn (motive := fun t => s.SameCourse t) l f (.refl s) fun t ht a _ => ht.trans (hf t a)

/-- What changes in a cell's units only. -/
theorem sameCourse_modCell (s : State) (k : Nat) {f : Cell → Cell} (hmem : ∀ c, (f c).mem = c.mem) (hseq : ∀ c, (f c).seq = c.seq) : s.SameCourse (s.modCell k f) := by
  have hcell : ∀ {β : Type} (g : Cell → β), (∀ c, g (f c) = g c) → ∀ i, g ((s.modCell k f).cell i) = g (s.cell i) := fun g hg i => by
    by_cases hi : i = k
    · rw [hi, State.cell_modCell, hg]
    · rw [State.cell_modCell_other _ _ hi]
  exact ⟨rfl, rfl, hcell Cell.mem hmem, hcell Cell.seq hseq⟩

theorem sameCourse_finishSends (s : State) (l : List (Nat × Nat)) : s.SameCourse (finishSends s l) := by
  unfold finishSends
  refine .foldl (fun t o => ?_) l s
  exact sameCourse_modCell t o.1 (fun _ => rfl) fun _ => rfl

theorem sameCourse_setPort (s : State) (p : Nat) (x : Port) : s.SameCourse (s.setPort p x) := ⟨rfl, rfl, fun _ => rfl, fun _ => rfl⟩

theorem sameCourse_sendFlit (s : State) (p seq vc : Nat) (idle sop : Bool) (body : List Byte) : s.SameCourse (sendFlit s p seq vc idle sop body) :=
  ⟨rfl, rfl, fun _ => rfl, fun _ => rfl⟩

theorem sameCourse_pumpF (p n : Nat) (s : State) : s.SameCourse (pumpF p n s) := by
  induction n generalizing s with
  | zero => exact .refl s
  | succ n ih =>
    unfold pumpF
    dsimp only
    split
    · exact .refl s
    · split
      · exact .refl s
      · exact (sameCourse_setPort ..).trans ((sameCourse_sendFlit ..).trans ((sameCourse_finishSends ..).trans (ih _)))

theorem sameCourse_pump (s : State) (p : Nat) : s.SameCourse (pump s p) := by
  unfold pump
  exact sameCourse_pumpF ..

theorem sameCourse_pumpAll (s : State) : s.SameCourse (pumpAll s) := .foldl sameCourse_pump _ s

/-! What ticks leave. -/

section
variable (s : State) (n : Nat)

theorem moduleId_creditPass : (creditPass n s).hub.fab.moduleId = s.hub.fab.moduleId :=
  List.foldlRecOn (motive := fun t : State => t.hub.fab.moduleId = s.hub.fab.moduleId) _ _ rfl fun _ ht _ _ => ht

theorem fab_countPass : (countPass n s).hub.fab = s.hub.fab := by
  unfold countPass
  obtain ⟨rs, hrs⟩ := foldl_modRgn_rest (fun g => { g with tick := (g.tick + n) % 2 ^ 64 }) (s.modHub fun h => { h with tick := (h.tick + n) % 2 ^ 64 }) (List.range 16)
  rw [hrs]
  rfl

theorem hub_releasePass : (releasePass s).hub = s.hub := by
  obtain ⟨rs, hrs⟩ := releasePass_rest s
  rw [hrs]

theorem fab_pausePass : (pausePass n s).hub.fab = s.hub.fab := rfl

theorem fab_earlyPass : (earlyPass n s).hub.fab = s.hub.fab := rfl

theorem fab_agesPass : (agesPass n s).hub.fab = s.hub.fab := rfl

theorem moduleId_passTicks : (s.passTicks n).hub.fab.moduleId = s.hub.fab.moduleId := by
  rw [State.passTicks]
  split
  · rfl
  · rw [hub_releasePass, fab_pausePass, fab_countPass, moduleId_creditPass, fab_earlyPass, fab_agesPass]

theorem jobs_passTicks : (s.passTicks n).jobs = s.jobs := by
  rcases Nat.eq_zero_or_pos n with rfl | hn
  · rfl
  · obtain ⟨g, rs, hp, -, -⟩ := passTicks_rest s hn
    rw [hp]

theorem cues_passTicks : (s.passTicks n).cues = s.cues := by
  rcases Nat.eq_zero_or_pos n with rfl | hn
  · rfl
  · obtain ⟨g, rs, hp, -, -⟩ := passTicks_rest s hn
    rw [hp]

theorem mem_cell_passTicks (k : Nat) : ((s.passTicks n).cell k).mem = (s.cell k).mem := by
  rcases Nat.eq_zero_or_pos n with rfl | hn
  · rfl
  · rw [cell_passTicks s hn]
    split <;> rfl

theorem seq_cell_passTicks {k : Nat} (hw : (s.cell k).seq.wait = none) : ((s.passTicks n).cell k).seq = (s.cell k).seq := by
  rcases Nat.eq_zero_or_pos n with rfl | hn
  · rfl
  · rw [cell_passTicks s hn]
    split
    · rfl
    · simp only [Cell.older, hw]
      cases hq : (s.cell k).seq
      simp_all
end

/-! Releases at dispatch. -/

theorem foldl_settle_unblocked {s : State} {l : List Nat} (h : ∀ k ∈ l, (s.cell k).seq.held = none ∧ (s.cell k).seq.wait = none) : l.foldl settle s = s := by
  induction l with
  | nil => rfl
  | cons k t ih =>
    obtain ⟨hheld, hwait⟩ := h k List.mem_cons_self
    rw [List.foldl_cons, settle_unblocked hwait hheld]
    exact ih fun i hi => h i (List.mem_cons_of_mem _ hi)
end Sys2Proof.Machine
end

section
/-! PROOF. The change hold and the heartbeat: each command as it finds the job (spec/11_prompt_books_epochs.md R263, R265). -/
namespace Sys2Proof.Machine

/-! The change hold (R265). -/

theorem foldl_emit {α : Type} (f : α → Out) (l : List α) (s : State) : l.foldl (fun s a => s.emit (f a)) s = { s with out := s.out ++ l.map f } := by
  induction l generalizing s with
  | nil => simp
  | cons a t ih =>
    rw [List.foldl_cons, ih]
    simp [State.emit]

section
variable {s : State} {id : Word} {j : Job} {h : ChangeHold} (hjob : s.job id = some j) (hchg : j.chg = some h)
include hjob hchg

/-- The root's next notice. -/
theorem changeResend_unreleased (hfault : j.faulted = false) (hroot : j.root = true) (hrel : h.released = false) (hlim : h.steps < bookChangeLimit j.img) :
    changeResend s id = sendEach (countSteps ((s.jobTickTo j (j.boundary + 256 * h.steps)).modJob id fun j => { j with chg := some { h with steps := h.steps + 1 } }) j 1)
      j j.others fun d => holdPacket s.hub.fab.moduleId.toNat d id j.epoch (h.steps + 1) false true := by
  have hbelow : Nat.ble (bookChangeLimit j.img) h.steps = false := by
    rw [← Bool.not_eq_true, Nat.ble_eq]
    omega
  have hown : ∀ f, (countSteps ((s.jobTickTo j (j.boundary + 256 * h.steps)).modJob id f) j 1).hub.fab.moduleId = s.hub.fab.moduleId := fun f => by
    rw [countSteps_hub, State.modJob_hub]
    exact moduleId_passTicks ..
  simp only [changeResend, hjob, hchg, hroot, hfault, hrel, hbelow, Bool.not_true, Bool.or_self, Bool.false_eq_true, if_false, hown]

/-- The root notes an acknowledgement that is new to it, and with the last one releases the other modules. -/
theorem changeAck_new {p : Nat} (hroot : j.root = true) (hrel : h.released = false) (hp : p < bookModules j.img) (hnew : p ∉ h.acked) :
    let all := (List.range (bookModules j.img)).all (h.acked ++ [p]).contains
    let t := s.modJob id fun j => { j with chg := some { h with acked := h.acked ++ [p], released := all } }
    changeAck s id p = { t with out := s.out ++ if all then j.others.map fun q => .changeRelease (bookIdent j.img q) id else [] } := by
  have hin : Nat.blt p (bookModules j.img) = true := Nat.blt_eq ▸ hp
  have hack : h.acked.contains p = false := by simpa using hnew
  simp only [changeAck, hjob, hchg, hroot, hrel, hin, hack, Bool.not_true, Bool.or_self, Bool.false_eq_true, if_false, foldl_emit]
  split
  · rfl
  · rw [List.append_nil]
    rfl

/-- A hold at its limit faults the job at the root. -/
theorem changeLimit_reached (hfault : j.faulted = false) (hroot : j.root = true) (hlim : bookChangeLimit j.img ≤ h.steps) :
    changeLimit s id = faultWith s id (s.jobRec j 0x0444 (leBytes 8 j.epoch ++ leBytes 2 ((j.holds.head?.map (·.code.toNat)).getD 0))) := by
  have hreached : Nat.ble (bookChangeLimit j.img) h.steps = true := Nat.ble_eq ▸ hlim
  simp only [changeLimit, hjob, hchg, hroot, hfault, hreached, Bool.not_false, Bool.and_self, if_true]
end

/-! The release (R254, R265). -/

/-- Without new route tables on their way no job waits for any (R238). -/
theorem State.needsDetour_none {s : State} (j : Job) (h : s.hub.detourDue = 0) : s.needsDetour j = false := by
  simp [State.needsDetour, State.crossesFailed, h]

/-- The next epoch of a job begins at a tick; where no cue counts epochs, that is all (R254). -/
theorem nextEpoch_uncounted {s : State} {id : Word} {j : Job} (hjob : s.job id = some j) (hcues : ∀ n c, (n, c) ∈ s.cues → c.action ≠ 4) (t : Nat) :
    ∃ j', (nextEpoch s id t).job id = some j' ∧ j'.chg = j.chg ∧ j'.epoch = j.epoch + 1 ∧ j'.sTick = t ∧ (nextEpoch s id t).cells = s.cells := by
  have hnone : (s.cues.filter fun c => c.2.action == 4 && Nat.ble 128 c.1 && j.regions.getLsbD (c.1 / 512)) = [] :=
    List.filter_eq_nil_iff.2 fun c hc hon => by
      simp only [Bool.and_eq_true, beq_iff_eq] at hon
      exact hcues c.1 c.2 hc hon.1.1
  unfold nextEpoch
  simp only [hjob, countSteps_cues, State.modJob_cues, hnone, List.foldl_nil, job_countSteps, countSteps_cells, State.modJob_cells]
  exact ⟨_, State.job_modJob_of hjob fun _ => rfl, rfl, rfl, rfl, trivial⟩

/-- The hold interval of a job has ended: its packets have gone on, the ticks up to the next mark have passed, and the changes of the hold are no longer staged (R265). -/
def State.holdEnded (s : State) (id : Word) (j : Job) : State :=
  ((pumpAll (s.modJob id fun j => { j with chg := none })).jobTickTo j (256 * (s.jobTick j / 256 + 1))).modJob id fun j =>
    { j with staged := j.staged.filter fun c => !(c.epoch == j.epoch + 1 && underHold c.code) }

section
variable {s : State} {id : Word} {j : Job}

theorem changeRelease_unchanged {h : ChangeHold} (hjob : s.job id = some j) (hchg : j.chg = some h) (hfault : j.faulted = false) (hrel : j.root = false ∨ h.released = true)
    (hholds : j.holds = []) (hdetour : s.hub.detourDue = 0) :
    changeRelease s id = ((s.holdEnded id j).cellsOf j).foldl settle (nextEpoch (s.holdEnded id j) id (256 * (s.jobTick j / 256 + 1))) := by
  have hgo : (j.root && !h.released) = false := by
    rcases hrel with hr | hr <;> simp [hr]
  simp only [changeRelease, hjob, hchg, hfault, hgo, s.needsDetour_none j hdetour, hholds, List.foldl_nil, ite_self, Bool.or_self, Bool.false_eq_true, if_false]
  rfl

theorem job_holdEnded (hjob : s.job id = some j) : ∃ j', (s.holdEnded id j).job id = some j' ∧ j'.chg = none ∧ j'.epoch = j.epoch := by
  have hpump : (pumpAll (s.modJob id fun j => { j with chg := none })).job id = some { j with chg := none } :=
    ((sameCourse_pumpAll _).job id).trans (State.job_modJob_of hjob fun _ => rfl)
  have hticks : ((pumpAll (s.modJob id fun j => { j with chg := none })).jobTickTo j (256 * (s.jobTick j / 256 + 1))).job id = some { j with chg := none } :=
    (State.job_congr (jobs_passTicks ..) id).trans hpump
  exact ⟨_, State.job_modJob_of hticks fun _ => rfl, rfl, rfl⟩

theorem cues_holdEnded : (s.holdEnded id j).cues = s.cues :=
  (cues_passTicks ..).trans (sameCourse_pumpAll _).cues

theorem mem_cell_holdEnded (k : Nat) : ((s.holdEnded id j).cell k).mem = (s.cell k).mem :=
  (mem_cell_passTicks ..).trans ((sameCourse_pumpAll _).mem k)

theorem seq_cell_holdEnded {k : Nat} (hw : (s.cell k).seq.wait = none) : ((s.holdEnded id j).cell k).seq = (s.cell k).seq := by
  have hpump := (sameCourse_pumpAll (s.modJob id fun j => { j with chg := none })).seq k
  refine (seq_cell_passTicks _ _ ?_).trans hpump
  rw [hpump]
  exact hw

/-- A released job begins its next epoch at the next mark; its cells, none of which waits, keep their bytes and stand where they stood. -/
theorem changeRelease_released {h : ChangeHold} (hjob : s.job id = some j) (hchg : j.chg = some h) (hfault : j.faulted = false) (hrel : j.root = false ∨ h.released = true)
    (hfree : ∀ k ∈ s.cellsOf j, (s.cell k).seq.held = none ∧ (s.cell k).seq.wait = none) (hholds : j.holds = []) (hdetour : s.hub.detourDue = 0)
    (hcues : ∀ n c, (n, c) ∈ s.cues → c.action ≠ 4) :
    ∃ j', (changeRelease s id).job id = some j' ∧ j'.chg = none ∧ j'.epoch = j.epoch + 1 ∧ j'.sTick = 256 * (s.jobTick j / 256 + 1)
      ∧ ∀ k ∈ s.cellsOf j, ((changeRelease s id).cell k).mem = (s.cell k).mem ∧ ((changeRelease s id).cell k).seq = (s.cell k).seq := by
  have hall : ∀ k, j.regions.getLsbD (cellRgn k) = true → (s.cell k).seq.held = none ∧ (s.cell k).seq.wait = none := fun k hk =>
    State.cell_of_cellsOf (P := fun c => c.seq.held = none ∧ c.seq.wait = none) ⟨rfl, rfl⟩ hfree hk
  obtain ⟨i, hi, hichg, hiepoch⟩ := job_holdEnded hjob
  obtain ⟨j', hj', hnone, hepoch, htick, hcells⟩ := nextEpoch_uncounted hi (cues_holdEnded (s := s) (id := id) (j := j) ▸ hcues) (256 * (s.jobTick j / 256 + 1))
  have hcell : ∀ k, (nextEpoch (s.holdEnded id j) id (256 * (s.jobTick j / 256 + 1))).cell k = (s.holdEnded id j).cell k := State.cell_congr hcells
  have hsettle : changeRelease s id = nextEpoch (s.holdEnded id j) id (256 * (s.jobTick j / 256 + 1)) := by
    rw [changeRelease_unchanged hjob hchg hfault hrel hholds hdetour]
    refine foldl_settle_unblocked fun k hk => ?_
    obtain ⟨hheld, hwait⟩ := hall k (List.mem_filter.1 hk).2
    rw [hcell, seq_cell_holdEnded hwait]
    exact ⟨hheld, hwait⟩
  rw [hsettle]
  refine ⟨j', hj', hnone.trans hichg, hepoch.trans (congrArg (· + 1) hiepoch), htick, fun k hk => ?_⟩
  rw [hcell]
  exact ⟨mem_cell_holdEnded k, seq_cell_holdEnded (hfree k hk).2⟩
end

/-! The heartbeat (R263). -/

section
variable {s : State} {id : Word} {j : Job} (hjob : s.job id = some j) (hfault : j.faulted = false) (hbegun : j.begun = true)
include hjob hfault hbegun

theorem heartbeatSend_begun : heartbeatSend s id =
    sendEach (s.jobTickTo j (beatMark (s.jobTick j))) j (if j.root then j.others else [j.rootPos]) fun d => timePacket s.hub.fab.moduleId.toNat d 2 id (beatMark (s.jobTick j)) := by
  simp only [heartbeatSend, hjob, hfault, hbegun, Bool.not_true, Bool.or_self, Bool.false_eq_true, if_false]

/-- A partner that the module watches was not heard. -/
theorem heartbeatTimeout_watched {p : Nat} (hwatch : (if j.root then j.others.contains p else p == j.rootPos) = true) :
    let t := s.jobTickTo j (mapGet (j.t0.getD 0) j.beats p + 262144)
    heartbeatTimeout s id p = faultWith t id (t.jobRec j 0x0445 (leBytes 2 (bookIdent j.img p))) := by
  simp only [heartbeatTimeout, hjob, hfault, hbegun, hwatch, Bool.not_true, Bool.or_self, Bool.false_eq_true, if_false]
end

/-- Settles O30: each command meets the job in the one branch in which it acts, and what a release lets go on changes no cell of the job. -/
theorem changeHoldsAndHeartbeats : Obligations.ChangeHoldsAndHeartbeats := by
  intro s id j hjob hfault own
  refine ⟨fun h hchg => ⟨?_, ?_, ?_, ?_⟩, fun hbegun => ⟨?_, ?_⟩⟩
  · exact fun hroot hrel hlim => congrArg _ (changeResend_unreleased hjob hchg hfault hroot hrel hlim)
  · intro p hroot hrel hp hnew all
    have hack : exec (.changeHoldAck id p) s = .next _ := congrArg Host.Outcome.next (changeAck_new hjob hchg hroot hrel hp hnew)
    exact ⟨_, hack, State.job_modJob_of hjob (f := fun j => { j with chg := some { h with acked := h.acked ++ [p], released := all } }) fun _ => rfl, rfl⟩
  · intro hrel hfree hholds hdetour hcues _
    obtain ⟨j', hreleased⟩ := changeRelease_released hjob hchg hfault hrel hfree hholds hdetour hcues
    exact ⟨_, j', rfl, hreleased⟩
  · exact fun hroot hlim => congrArg _ (changeLimit_reached hjob hchg hfault hroot hlim)
  · exact congrArg _ (heartbeatSend_begun hjob hfault hbegun)
  · exact fun p hwatch => congrArg _ (heartbeatTimeout_watched hjob hfault hbegun hwatch)
end Sys2Proof.Machine
end

section
/-! PROOF. A job fault on this module: its cells stop, and what follows leaves them stopped (spec/07_cell_execution.md R164; spec/11_prompt_books_epochs.md R261; spec/15_pyerly_mailboxes.md R351, R359). -/
namespace Sys2Proof.Machine

/-! Cells stop (R164). -/

section
variable {s : State} (cls : BitVec 16) {k n : Nat}

theorem state_stopForFault_running (h : (s.cell k).seq.running = true) : ((stopForFault s cls k).cell k).seq.state = 3 := by
  rw [stopForFault, if_pos h, State.cell_fx]
  rfl

theorem cell_stopForFault_other (h : n ≠ k) : (stopForFault s cls k).cell n = s.cell n := by
  rw [stopForFault]
  split
  · exact State.cell_put_other s _ h
  · rfl

/-- A stopped cell stays stopped. -/
theorem state_stopForFault_stopped (h : (s.cell n).seq.state = 3) : ((stopForFault s cls k).cell n).seq.state = 3 := by
  by_cases hn : n = k
  · subst hn
    have hidle : (s.cell n).seq.running = false := by simp [Seq.running, h]
    rwa [stopForFault, if_neg (by simp [hidle])]
  · rwa [cell_stopForFault_other cls hn]

variable (l : List Nat)

theorem state_foldl_stopForFault_stopped (h : (s.cell n).seq.state = 3) : ((l.foldl (fun t k => stopForFault t cls k) s).cell n).seq.state = 3 :=
  List.foldlRecOn (motive := fun t : State => (t.cell n).seq.state = 3) l _ h fun _ ht _ _ => state_stopForFault_stopped cls ht

/-- Every running cell of a list stops. -/
theorem state_foldl_stopForFault {l : List Nat} (hn : n ∈ l) (h : (s.cell n).seq.running = true) : ((l.foldl (fun t k => stopForFault t cls k) s).cell n).seq.state = 3 := by
  induction l generalizing s with
  | nil => cases hn
  | cons k t ih =>
    rw [List.foldl_cons]
    by_cases hk : n = k
    · subst hk
      exact state_foldl_stopForFault_stopped cls t (state_stopForFault_running cls h)
    · refine ih ((List.mem_cons.1 hn).resolve_left hk) ?_
      rwa [cell_stopForFault_other cls hk]

theorem jobs_foldl_stopForFault : (l.foldl (fun t k => stopForFault t cls k) s).jobs = s.jobs :=
  List.foldlRecOn (motive := fun t : State => t.jobs = s.jobs) l _ rfl fun t ht k _ => by
    rw [stopForFault]
    split <;> simp [ht]

theorem hub_foldl_stopForFault : (l.foldl (fun t k => stopForFault t cls k) s).hub = s.hub :=
  List.foldlRecOn (motive := fun t : State => t.hub = s.hub) l _ rfl fun t ht k _ => by
    rw [stopForFault]
    split <;> simp [ht]
end

/-! What follows a stop. -/

/-- A job with no bucket outstanding has none to fail (R261, R316). -/
theorem bucketDrop_none {s : State} {id : Word} (cause : Nat) (h : ∀ i ∈ s.hub.bkt.insts, i.job ≠ id) : bucketDrop s id cause = s := by
  have hnone : (s.hub.bkt.insts.filter fun i => i.job == id) = [] := List.filter_eq_nil_iff.2 fun i hi => by simpa using h i hi
  rw [bucketDrop, hnone, List.foldl_nil]

theorem sameCourse_applyTables (s : State) : s.SameCourse s.applyTables := by
  unfold State.applyTables
  split
  · exact .refl s
  · obtain ⟨rs, hrs⟩ := foldl_modRgn_rest (fun g => { g with detour := true }) s (List.range 16)
    rw [hrs]
    exact ⟨rfl, rfl, fun _ => rfl, fun _ => rfl⟩

/-! Events (R359). -/

theorem pumpEvents_rest (s : State) (n : Word) : ∃ g o, pumpEvents s n = { s with hub := g, out := o } := by
  unfold pumpEvents
  split
  · split
    · exact ⟨_, _, rfl⟩
    · split
      · exact ⟨_, _, rfl⟩
      · unfold sendOn
        dsimp only
        split
        · exact ⟨_, _, rfl⟩
        · exact ⟨_, _, rfl⟩
  · exact ⟨_, _, rfl⟩

/-- An event changes the hub, the log and what is sent. -/
theorem queueEvent_rest (s : State) (n : Word) (e : Event) : ∃ g f o, queueEvent s n e = { s with hub := g, flt := f, out := o } := by
  unfold queueEvent
  split
  next x _ =>
    split
    · dsimp only
      split
      · exact ⟨_, _, _, rfl⟩
      · exact ⟨_, _, _, rfl⟩
    · obtain ⟨g, o, hpump⟩ := pumpEvents_rest (s.modSession n fun x => { x with events := x.events ++ [e], burst := false }) n
      exact ⟨g, _, o, hpump⟩
  · exact ⟨_, _, _, rfl⟩

/-- An event about a job leaves the cells, and of the job all but its events. -/
theorem jobEvent_keeps {s : State} {id : Word} {j : Job} (hjob : s.job id = some j) (code : Nat) (payload : List Byte) :
    (jobEvent s id code payload).cells = s.cells ∧ ∃ j', (jobEvent s id code payload).job id = some j' ∧ j'.faulted = j.faulted := by
  simp only [jobEvent, hjob]
  split
  · obtain ⟨g, f, o, hqueue⟩ := queueEvent_rest s j.session ⟨BitVec.ofNat 16 code, id, payload⟩
    rw [hqueue]
    exact ⟨rfl, j, hjob, rfl⟩
  · have hlost := State.job_modJob_of hjob (f := fun j => { j with lostEvents := j.lostEvents + 1 }) fun _ => rfl
    split
    · split
      · exact ⟨rfl, _, hlost, rfl⟩
      · exact ⟨rfl, _, hlost, rfl⟩
    · exact ⟨rfl, _, State.job_modJob_of hjob fun _ => rfl, rfl⟩

/-! The job fault (R261). -/

/-- A fault that another module took reaches a job with no bucket outstanding: its running cells stop, and it is faulted. -/
theorem faultJob_stops {s : State} {id : Word} {j : Job} (c : Rec) (hjob : s.job id = some j) (hfault : j.faulted = false) (hinsts : ∀ i ∈ s.hub.bkt.insts, i.job ≠ id) :
    ∃ j', (faultJob s id c false).job id = some j' ∧ j'.faulted = true
      ∧ ∀ n ∈ s.cellsOf j, (s.cell n).seq.running = true → ((faultJob s id c false).cell n).seq.state = 3 := by
  unfold faultJob
  simp only [hjob, hfault, Bool.false_eq_true, if_false]
  generalize hstop : (s.cellsOf j).foldl (fun s k => stopForFault s c.cls k) s = u
  have hjobs : u.job id = some j := (State.job_congr (hstop ▸ jobs_foldl_stopForFault c.cls _) id).trans hjob
  have hhub : u.hub = s.hub := hstop ▸ hub_foldl_stopForFault c.cls _
  rw [bucketDrop_none _ (hhub ▸ hinsts)]
  generalize hv : u.modJob id (fun j => { j with faulted := true, cause := some c, faultDue := none, chg := none }) = v
  have hfaulted : ∃ i, v.job id = some i ∧ i.faulted = true := hv ▸ ⟨_, State.job_modJob_of hjobs fun _ => rfl, rfl⟩
  have hcells : v.cells = u.cells := by rw [← hv]; rfl
  generalize hw : (if j.chg.isSome = true then pumpAll v.applyTables else v.applyTables) = w
  have hcourse : v.SameCourse w := by
    rw [← hw]
    split
    · exact (sameCourse_applyTables v).trans (sameCourse_pumpAll _)
    · exact sameCourse_applyTables v
  obtain ⟨i, hi, hif⟩ := hfaulted
  obtain ⟨hsame, j', hj', hj'f⟩ := jobEvent_keeps (s := { w with flt := { w.flt with jobFault := true } }) ((hcourse.job id).trans hi) 0x8001
    (leBytes 4 id.toNat ++ leBytes 4 0 ++ faultBytes (c.parts.headD c))
  refine ⟨j', hj', hj'f.trans hif, fun n hn hrun => ?_⟩
  have hlater : ({ w with flt := { w.flt with jobFault := true } } : State).cell n = w.cell n := rfl
  rw [State.cell_congr hsame, hlater, hcourse.seq, State.cell_congr hcells, ← hstop]
  exact state_foldl_stopForFault c.cls hn hrun
end Sys2Proof.Machine
end

section
/-! PROOF. HOLD and TIME packets of a job (spec/11_prompt_books_epochs.md R252, R259, R261, R263; spec/12_rinmen_fabric.md R295). -/
namespace Sys2Proof.Machine

/-! A hold that has come (R259). -/

section
variable {s : State} {id : Word} {j : Job} {src e k : Nat} (hjob : s.job id = some j) (hfault : j.faulted = false) (hbegun : j.begun = true)
include hjob hfault hbegun

/-- A hold of the present epoch with more steps than known moves the boundary. -/
theorem holdReceive_moves (hchg : j.chg = none) (he : e = j.epoch) (hk : j.kSteps < k) (hearly : s.jobTick j < j.boundary) :
    holdReceive s id src e k = countSteps (s.modJob id fun j => { j with kSteps := k, kSrc := src }) j (k - j.kSteps) := by
  simp [holdReceive, hjob, hfault, hbegun, hchg, he, Nat.not_le.2 hk, Nat.not_le.2 hearly]

/-- One that comes after the boundary faults the job. -/
theorem holdReceive_late (he : e = j.epoch) (hk : j.kSteps < k) (hlate : j.boundary ≤ s.jobTick j) :
    holdReceive s id src e k = faultWith s id (s.jobRec j 0x0443 (leBytes 8 e ++ leBytes 2 src)) := by
  simp [holdReceive, hjob, hfault, hbegun, he, Nat.not_le.2 hk, hlate]

variable (he : e ≠ j.epoch)
include he

/-- Of another epoch: no more steps than known change nothing. -/
theorem holdReceive_known (hk : k ≤ (mapGet (0, 0) j.kOf e).1) : holdReceive s id src e k = s := by
  simp [holdReceive, hjob, hfault, hbegun, he, hk]

/-- Of an epoch to come: the steps are noted for it. -/
theorem holdReceive_toCome (hk : (mapGet (0, 0) j.kOf e).1 < k) (hnext : j.epoch < e) :
    holdReceive s id src e k = s.modJob id fun j => { j with kOf := mapPut j.kOf e (k, src) } := by
  simp [holdReceive, hjob, hfault, hbegun, he, Nat.not_le.2 hk, Nat.not_lt.2 (Nat.le_of_lt hnext)]

/-- Of an epoch that has ended: more steps than it had fault the job. -/
theorem holdReceive_ended (hk : (mapGet (0, 0) j.kOf e).1 < k) (hpast : e < j.epoch) :
    holdReceive s id src e k = faultWith s id (s.jobRec j 0x0443 (leBytes 8 e ++ leBytes 2 src)) := by
  simp [holdReceive, hjob, hfault, hbegun, he, Nat.not_le.2 hk, hpast]
end

/-! HOLD packets (R259, R261). -/

section
variable {s : State} {p : Nat} {k : Packet} (hpkt : packetFor s p k 6 = true)
include hpkt

theorem holdArrive_hold (hnofault : bitAt k.h2.toNat 16 = false) (hnochange : bitAt k.h2.toNat 17 = false) :
    holdArrive s p k = holdReceive (takeArrived s p k) (BitVec.ofNat 32 (field k.h2.toNat 32 32)) (hSrc k.h0) k.h1.toNat (field k.h2.toNat 0 16) := by
  simp only [holdArrive, hpkt, hnofault, hnochange, Bool.not_true, Bool.false_eq_true, if_false]

/-- A fault of the job on another module: its class is not in the packet (log entry 22). -/
theorem holdArrive_fault {j : Job} (hflag : bitAt k.h2.toNat 16 = true) (hjob : (takeArrived s p k).job (BitVec.ofNat 32 (field k.h2.toNat 32 32)) = some j)
    (hfault : j.faulted = false) : ∃ c, holdArrive s p k = faultJob (takeArrived s p k).draw.1 (BitVec.ofNat 32 (field k.h2.toNat 32 32)) c false := by
  simp only [holdArrive, hpkt, hflag, hjob, hfault, Bool.not_true, Bool.false_eq_true, if_false, if_true]
  exact ⟨_, rfl⟩
end

/-! TIME packets (R252, R263, R295). -/

theorem jobs_foldl_modRgn (f : Region → Region) (s : State) (l : List Nat) : (l.foldl (fun t r => t.modRgn r f) s).jobs = s.jobs := by
  obtain ⟨rs, hrs⟩ := foldl_modRgn_rest f s l
  rw [hrs]

section
variable {s : State} {p : Nat} {k : Packet} {j : Job} (hpkt : packetFor s p k 7 = true) (hjob : (takeArrived s p k).job (timeJob k) = some j)
include hpkt hjob

theorem timeAlign_waiting (hsub : field k.h1.toNat 0 8 = 0) (hbegun : j.begun = false) (hroot : j.root = false) :
    timeAlign s p k = j.rgns.foldl (fun t r => t.modRgn r fun g =>
      { g with tick := (k.h2.toNat + (s.port p).delay.toNat + 64 * (s.hub.tick - arrivedAt s p k) + 32) / 64 }) (takeArrived s p k) := by
  simp [timeAlign, hpkt, hjob, hsub, hbegun, hroot]

/-- T0 is held; no JOB_START of the job waits for it. -/
theorem timeAnnounce_waiting (hsub : field k.h1.toNat 0 8 = 1) (hbegun : j.begun = false) (hroot : j.root = false) (hfault : j.faulted = false)
    (hnone : (takeArrived s p k).executingFor 0x0304 (timeJob k) = none) :
    timeAnnounce s p k = (takeArrived s p k).modJob (timeJob k) fun j => { j with t0 := some k.h2.toNat } := by
  have hstart : ((takeArrived s p k).modJob (timeJob k) fun j => { j with t0 := some k.h2.toNat }).executingFor 0x0304 (timeJob k) = none := hnone
  simp [timeAnnounce, hpkt, hjob, hsub, hbegun, hroot, hfault, hstart]

theorem timeBeat_heard {q : Nat} (hsub : field k.h1.toNat 0 8 = 2) (hpos : bookPosition j.img (hSrc k.h0) = some q) :
    timeBeat s p k = (takeArrived s p k).modJob (timeJob k) fun i => { i with beats := mapPut i.beats q ((takeArrived s p k).jobTick i) } := by
  simp [timeBeat, beatReceive, hpkt, hjob, hsub, hpos]
end

section
variable {s t : State} {p : Fin 48} {k : Packet}
theorem exec_holdPacket (h : holdArrive s p.val k = t) : exec (.holdPacket p k) s = .next t := congrArg _ h
theorem exec_timeAlign (h : timeAlign s p.val k = t) : exec (.timeAlign p k) s = .next t := congrArg _ h
theorem exec_timeAnnounce (h : timeAnnounce s p.val k = t) (hwait : t.hub.mail.waiting = []) : exec (.timeAnnounce p k) s = .next t :=
  congrArg _ ((congrArg drain h).trans (drain_of_none hwait))
theorem exec_timeBeat (h : timeBeat s p.val k = t) : exec (.timeBeat p k) s = .next t := congrArg _ h
end

/-- Settles O43: a packet leaves its port's buffer, and each of its kinds meets the job in a branch of its own. -/
theorem jobPacketsKeepTime : Obligations.JobPacketsKeepTime := by
  intro s p k j s1 b
  refine ⟨fun hpkt hjob => ⟨?_, ?_, fun hnofault hnochange hfault hbegun hepoch => ⟨?_, ?_, ?_⟩, ?_⟩, fun hpkt hjob hbegun hroot => ⟨?_, ?_⟩, ?_⟩
  · intro hnofault hnochange hfault hbegun hchg hepoch hk hearly
    have hexec := exec_holdPacket ((holdArrive_hold hpkt hnofault hnochange).trans (holdReceive_moves hjob hfault hbegun hchg hepoch hk hearly))
    exact ⟨_, hexec, (job_countSteps ..).trans (State.job_modJob_of hjob fun _ => rfl), fun r hr => cnt_rgn_countSteps _ _ _ hr, countSteps_cells ..⟩
  · exact fun hnofault hnochange hfault hbegun hepoch hk hlate =>
      exec_holdPacket ((holdArrive_hold hpkt hnofault hnochange).trans (holdReceive_late hjob hfault hbegun hepoch hk hlate))
  · exact fun hk => exec_holdPacket ((holdArrive_hold hpkt hnofault hnochange).trans (holdReceive_known hjob hfault hbegun hepoch hk))
  · exact fun hk hnext => exec_holdPacket ((holdArrive_hold hpkt hnofault hnochange).trans (holdReceive_toCome hjob hfault hbegun hepoch hk hnext))
  · exact fun hk hpast => exec_holdPacket ((holdArrive_hold hpkt hnofault hnochange).trans (holdReceive_ended hjob hfault hbegun hepoch hk hpast))
  · intro hflag hfault hinsts
    obtain ⟨c, hc⟩ := holdArrive_fault hpkt hflag hjob hfault
    obtain ⟨j', hstops⟩ := faultJob_stops (s := s1.draw.1) c hjob hfault hinsts
    exact ⟨_, j', exec_holdPacket hc, hstops⟩
  · intro hsub
    have hexec := exec_timeAlign (timeAlign_waiting hpkt hjob hsub hbegun hroot)
    refine ⟨_, hexec, fun r hr => ?_, jobs_foldl_modRgn ..⟩
    rw [rgn_foldl_modRgn _ _ j.nodup_rgns, if_pos hr]
  · intro hsub hfault hnone hwait
    exact exec_timeAnnounce (timeAnnounce_waiting hpkt hjob hsub hbegun hroot hfault hnone) hwait
  · exact fun hpkt hsub hjob q hpos => exec_timeBeat (timeBeat_heard hpkt hjob hsub hpos)
end Sys2Proof.Machine
end

section
/-! PROOF. A step with a command waiting (spec/95_what_each_step_holds.md; log entry 1). -/
namespace Sys2Proof.Machine

/-- No meaning ends in a fault or a refusal. -/
theorem exec_next (i : Instr) (s : State) : ∃ t, exec i s = .next t := by
  cases i
  -- what travels comes to its cell, where the number names traffic of that kind
  case remotePutArrival id | accwArrival id | getRequestArrival id | getDataArrival id | hbmReadData id | hbmWriteAck id | remoteWriteAck id =>
    simp only [exec, execRemotePutArrival, execAccwArrival, execGetRequestArrival, execGetDataArrival, execHbmReadData, execHbmWriteAck, execRemoteWriteAck]
    split <;> exact ⟨_, rfl⟩
  all_goals exact ⟨_, rfl⟩

/-- Settles O1: the front command is what `step` matches on, and every command has a next state (`exec_next`). -/
theorem stepRunsFrontCommand : Obligations.StepRunsFrontCommand :=
  fun c rest s => ⟨rfl, exec_next c { s with pending := rest }⟩
end Sys2Proof.Machine
end

section
/-! PROOF. The JTAG port (spec/20_perturbation_counters.md R458; log entry 53). -/
namespace Sys2Proof.Machine

/-- Five rising edges with TMS high lead to Test-Logic-Reset from every state of the TAP. -/
theorem Tap.next_five (t : Tap) : (((((t.next true).next true).next true).next true).next true) = .reset := by
  cases t <;> rfl

/-- An edge changes the JTAG port alone. -/
theorem exec_tckEdge {s : State} (rising tms tdi : Bool) (pins : BitVec 15) (hon : s.hub.clk.stage ≠ .off) :
    exec (.tckEdge rising tms tdi pins) s = .next (s.modJtag fun j => j.edge s.hub.clk.rstLow rising tms tdi pins) :=
  congrArg _ (if_neg hon)

/-- With TRST_N low no edge of TCK has an effect. -/
theorem Jtag.edge_held {j : Jtag} (h : j.trst = false) (low rising tms tdi : Bool) (pins : BitVec 15) : j.edge low rising tms tdi pins = j := by
  simp [Jtag.edge, h]

theorem exec_tckEdge_held {s : State} (h : s.hub.clk.jtag.trst = false) (rising tms tdi : Bool) (pins : BitVec 15) :
    exec (.tckEdge rising tms tdi pins) s = .next s := by
  by_cases hoff : s.hub.clk.stage = .off
  · exact congrArg _ (if_pos hoff)
  · rw [exec_tckEdge _ _ _ _ hoff]
    simp only [State.modJtag, State.modHub, Jtag.edge_held h]

theorem Jtag.rise_chain {j : Jtag} (htap : j.tap = .captureDr) (hop : j.op = .sample) (low tms tdi : Bool) (pins : BitVec 15) :
    (j.rise low tms tdi pins).chain = pins := by
  simp [Jtag.rise, Jtag.clock, Jtag.acts, JtagOp.onChain, htap, hop]

/-- While IN_RST_N is high every instruction leaves the pins to the module. -/
theorem Jtag.pads_high (j : Jtag) : j.pads false = none := by
  cases h : j.op <;> simp [Jtag.pads, Jtag.acts, h]

theorem Jtag.pads_low (j : Jtag) :
    (j.op = .extest ∨ j.op = .clamp → j.pads true = some (some j.latch)) ∧ (j.op = .highz → j.pads true = some none) := by
  cases h : j.op <;> simp [Jtag.pads, Jtag.acts, h]

/-- Settles O39: an edge is the TAP's own function of the port (`exec_tckEdge`), and TRST_N low holds it. -/
theorem jtagPortScansPins : Obligations.JtagPortScansPins := by
  refine ⟨fun s tdi pins hon htrst => ⟨_, exec_tckEdge _ _ _ _ hon, ?_, rfl⟩, Tap.next_five, fun j low tdi pins hreset => ?_, fun s => ⟨_, rfl, rfl, rfl, rfl, ?_⟩,
    fun s => rfl, fun j low tms tdi pins htap hop => Jtag.rise_chain htap hop low tms tdi pins, Jtag.pads_high, Jtag.pads_low⟩
  · show (s.hub.clk.jtag.edge _ true true tdi pins).tap = _
    simp [Jtag.edge, htrst, Jtag.rise]
  · exact if_pos hreset
  · exact exec_tckEdge_held rfl
end Sys2Proof.Machine
end

section
/-! PROOF. Start-up (spec/16_clocks_reset_startup.md R372, R379, R381; spec/21_electrical_mechanical.md R461, R465, R467). -/
namespace Sys2Proof.Machine

/-- What every step of a fold keeps, the fold keeps. -/
theorem foldl_keeps {α β γ : Type} (g : β → γ) {f : β → α → β} (h : ∀ t a, g (f t a) = g t) (l : List α) (s : β) : g (l.foldl f s) = g s :=
  List.foldlRecOn (motive := fun t => g t = g s) l f rfl fun t ht a _ => (h t a).trans ht

/-! Repairs, records and the measured boot at hub ready. -/

theorem hub_repairCols (s : State) (bk p : Nat) (cols : List Nat) : (repairCols s bk p cols).hub = s.hub := by
  unfold repairCols
  exact foldl_keeps State.hub (by intros; rfl) _ _
theorem regions_repairCols (s : State) (bk p : Nat) (cols : List Nat) : (repairCols s bk p cols).regions = s.regions := by
  unfold repairCols
  exact foldl_keeps State.regions (by intros; rfl) _ _
theorem hub_repairCell (s : State) (bk p : Nat) : (repairCell s bk p).hub = s.hub := by
  unfold repairCell
  split
  · rfl
  · split <;> rfl
theorem regions_repairCell (s : State) (bk p : Nat) : (repairCell s bk p).regions = s.regions := by
  unfold repairCell
  split
  · rfl
  · split <;> rfl
theorem hub_repairBlock (s : State) (bk : Nat) : (repairBlock s bk).hub = s.hub := by
  unfold repairBlock
  split <;> rfl
theorem regions_repairBlock (s : State) (bk : Nat) : (repairBlock s bk).regions = s.regions := by
  unfold repairBlock
  split <;> rfl
theorem hub_applyRepairs (s : State) (r : Nat) : (applyRepairs s r).hub = s.hub :=
  (foldl_keeps State.hub hub_repairBlock _ _).trans ((foldl_keeps State.hub (fun t _ => hub_repairCell t _ _) _ _).trans (foldl_keeps State.hub (fun t _ => hub_repairCols t _ _ _) _ s))
theorem regions_applyRepairs (s : State) (r : Nat) : (applyRepairs s r).regions = s.regions :=
  (foldl_keeps State.regions regions_repairBlock _ _).trans
    ((foldl_keeps State.regions (fun t _ => regions_repairCell t _ _) _ _).trans (foldl_keeps State.regions (fun t _ => regions_repairCols t _ _ _) _ s))

/-- Two states that differ in the security engine and in the log alone. -/
def State.SameButSec (s t : State) : Prop := ∃ x l, t = { s with hub := { s.hub with sec := x }, flt := l }

theorem State.SameButSec.trans {s t u : State} (h : s.SameButSec t) (h' : t.SameButSec u) : s.SameButSec u := by
  obtain ⟨x, l, rfl⟩ := h
  obtain ⟨y, m, rfl⟩ := h'
  exact ⟨y, m, rfl⟩

theorem sameButSec_modSec (s : State) (f : Sec → Sec) : s.SameButSec (s.modSec f) := ⟨_, _, rfl⟩
theorem sameButSec_modSec_logHub (s : State) (f : Sec → Sec) (cls : Nat) (detail : List Byte) : s.SameButSec ((s.modSec f).logHub cls detail) := ⟨_, _, rfl⟩

theorem sameButSec_installTable (s : State) : s.SameButSec (installTable s) := by
  unfold installTable
  dsimp only
  split
  · exact ⟨_, _, rfl⟩
  · split
    · exact ⟨_, _, rfl⟩
    · exact (sameButSec_modSec s _).trans (sameButSec_modSec_logHub _ _ _ _)

/-- The measured boot changes the security engine and the log. -/
theorem sameButSec_secureReady (s : State) : s.SameButSec (secureReady s) := by
  unfold secureReady
  extract_lets x s1 s2 y r low s3
  have h1 : s.SameButSec s1 := by
    unfold s1
    split
    · exact sameButSec_modSec_logHub ..
    · exact ⟨_, _, rfl⟩
  have h2 : s.SameButSec s2 := h1.trans ((sameButSec_modSec s1 _).trans (sameButSec_installTable _))
  split
  · exact h2.trans (sameButSec_modSec_logHub ..)
  · split
    · exact (h2.trans (sameButSec_modSec s2 _)).trans (sameButSec_modSec_logHub ..)
    · exact h2.trans (sameButSec_modSec s2 _)

/-! The links of the regions and the ports at hub ready. -/

theorem State.linksOf_congr {s t : State} (h : ∀ q, (t.rgn q).state = (s.rgn q).state) (r : Nat) : t.linksOf r = s.linksOf r := by
  simp only [State.linksOf, Region.failed, h]

/-- Each region of a list takes up the links that are trained; no other region changes, and no region's state. -/
theorem foldl_linksOf (l : List Nat) (s : State) :
    let t := l.foldl (fun s r => s.modRgn r fun g => { g with linkUp := s.linksOf r }) s
    (∀ q, (t.rgn q).state = (s.rgn q).state) ∧ (∀ r ∈ l, (t.rgn r).linkUp = s.linksOf r) ∧ ∀ r, r ∉ l → t.rgn r = s.rgn r := by
  induction l generalizing s with
  | nil => exact ⟨fun _ => rfl, fun _ h => absurd h List.not_mem_nil, fun _ _ => rfl⟩
  | cons i l ih =>
    have hstate : ∀ q, ((s.modRgn i fun g => { g with linkUp := s.linksOf i }).rgn q).state = (s.rgn q).state := fun q => by
      by_cases hq : q = i
      · rw [hq, State.rgn_modRgn]
      · rw [State.rgn_modRgn_other _ _ hq]
    obtain ⟨ihstate, ihlinks, ihother⟩ := ih (s.modRgn i fun g => { g with linkUp := s.linksOf i })
    refine ⟨fun q => (ihstate q).trans (hstate q), fun r hr => ?_, fun r hr => ?_⟩
    · by_cases hl : r ∈ l
      · exact (ihlinks r hl).trans (State.linksOf_congr hstate r)
      · obtain rfl : r = i := (List.mem_cons.1 hr).resolve_right hl
        rw [List.foldl_cons, ihother r hl, State.rgn_modRgn]
    · obtain ⟨hi, hl⟩ := not_or.1 (mt List.mem_cons.2 hr)
      rw [List.foldl_cons, ihother r hl, State.rgn_modRgn_other _ _ hi]

theorem State.port_modPort_other (s : State) (f : Port → Port) {p q : Nat} (h : q ≠ p) : (s.modPort p f).port q = s.port q := State.port_setPort_other _ _ h

/-- Ports changed one after another. -/
theorem port_foldl_modPort (f : Port → Port) {l : List Nat} (hl : l.Nodup) (s : State) (p : Nat) :
    (l.foldl (fun t i => t.modPort i f) s).port p = if p ∈ l then f (s.port p) else s.port p := by
  induction l generalizing s with
  | nil => rfl
  | cons i t ih =>
    obtain ⟨hi, ht⟩ := List.nodup_cons.1 hl
    rw [List.foldl_cons, ih ht]
    by_cases hp : p = i
    · simp [hp, hi]
    · rw [State.port_modPort_other _ _ hp]
      simp [hp]

/-- Ports changed one after another leave everything but the ports. -/
theorem foldl_modPort_rest (f : Port → Port) (l : List Nat) (s : State) :
    ∃ ps, l.foldl (fun t i => t.modPort i f) s = { s with hub := { s.hub with fab := { s.hub.fab with ports := ps } } } :=
  List.foldlRecOn (motive := fun t : State => ∃ ps, t = { s with hub := { s.hub with fab := { s.hub.fab with ports := ps } } }) l _ ⟨s.hub.fab.ports, rfl⟩ fun _ ht r _ => by
    obtain ⟨rs, rfl⟩ := ht
    exact ⟨_, rfl⟩

/-- A logical port below 24 exists where its region has not failed. -/
theorem State.portExists_low (s : State) {p : Nat} (hp : p < 24) : s.portExists p = !(s.rgn (portRegion p)).failed := by
  simp [State.portExists, hp]

/-- The module as hub ready finds it, but for its blocks, its log and its security engine: its counter at 0, its ports in Down, its links taken up. -/
structure State.Readied (s : State) : Prop where
  stage : s.hub.clk.stage = .ready
  hubReady : s.hub.clk.hubReady = true
  tick : s.hub.tick = 0
  ports : ∀ p < 24, s.portExists p = true → (s.port p).state = 1
  links : ∀ r < 16, (s.rgn r).linkUp = s.linksOf r

theorem hubStart_readied {s : State} (hboot : s.hub.clk.stage = .boot) : (hubStart s).Readied := by
  unfold hubStart
  simp only [hboot, bne_self_eq_false, Bool.false_eq_true, if_false]
  generalize hs1 : ((s.modClk fun k => { k with stage := .ready, hubReady := true }).modHub fun h => { h with tick := 0 }) = s1
  generalize hs2 : List.foldl State.log (s1.modFlt fun l => { l with due := [] }) s1.flt.due = s2
  generalize hs3 : (List.range 16).foldl applyRepairs _ = s3
  have hhub : s3.hub = s1.hub := by
    rw [← hs3, foldl_keeps State.hub hub_applyRepairs, State.log_hub, ← hs2]
    exact foldl_keeps State.hub State.log_hub _ _
  obtain ⟨hstate, hlinks, -⟩ := foldl_linksOf (List.range 16) s3
  generalize hs4 : (List.range 16).foldl (fun s r => s.modRgn r fun g => { g with linkUp := s.linksOf r }) s3 = s4 at *
  have hhub4 : s4.hub = s1.hub := hs4 ▸ (foldl_keeps State.hub (by intros; rfl) _ _).trans hhub
  generalize hs5 : (s4.modFab fun f => { f with locked := true }) = s5
  have hport := port_foldl_modPort (fun x => { x with state := 1 }) (List.nodup_range.filter s4.portExists : ((List.range 24).filter s4.portExists).Nodup) s5
  obtain ⟨ps, hs6⟩ := foldl_modPort_rest (fun x => { x with state := 1 }) ((List.range 24).filter s4.portExists) s5
  generalize ((List.range 24).filter s4.portExists).foldl _ s5 = s6 at *
  obtain ⟨x, l, hs7⟩ := sameButSec_secureReady s6
  rw [hs7]
  have hclk : s6.hub.clk = s1.hub.clk := by rw [hs6, ← hs5, ← hhub4]; rfl
  have htick : s6.hub.tick = s1.hub.tick := by rw [hs6, ← hs5, ← hhub4]; rfl
  have hrgn : ∀ r, s6.rgn r = s4.rgn r := fun r => by rw [hs6, ← hs5]; rfl
  refine ⟨?_, ?_, ?_, fun p hp hexists => ?_, fun r hr => ?_⟩
  · show s6.hub.clk.stage = _
    rw [hclk, ← hs1]; rfl
  · show s6.hub.clk.hubReady = _
    rw [hclk, ← hs1]; rfl
  · show s6.hub.tick = _
    rw [htick, ← hs1]; rfl
  · have h6 : s6.portExists p = true := hexists
    have h4 : s4.portExists p = true := by rwa [State.portExists_low _ hp, hrgn, ← State.portExists_low _ hp] at h6
    show (s6.port p).state = 1
    rw [hport, if_pos (List.mem_filter.2 ⟨List.mem_range.2 hp, h4⟩)]
  · show (s6.rgn r).linkUp = s6.linksOf r
    rw [hrgn, hlinks r (List.mem_range.2 hr), State.linksOf_congr (s := s3) (fun q => (congrArg _ (hrgn q)).trans (hstate q))]

/-! The events of start-up. -/

section
variable {s : State}

theorem exec_hubPllLocked_waiting (h : s.hub.clk.stage = .waitPll) :
    exec .hubPllLocked s = .next ((s.modSec fun _ => s.hub.sec.boot.1).modClk fun k => { k with pclk := true, stage := if s.hub.sec.boot.2 then .boot else .bootFailed }) :=
  congrArg _ (if_pos (beq_iff_eq.2 h))

theorem exec_refclkAbsentTimeout_waiting (h : s.hub.clk.stage = .waitRef) (href : s.hub.clk.refOk = false) :
    exec .refclkAbsentTimeout s = .next (s.modClk fun k => { k with refAbsent := true }) := by
  simp [exec, execRefclkAbsentTimeout, h, href]

theorem exec_pwrEnRise_taken (h : s.hub.clk.stage = .standby) (hpwr : s.hub.clk.pwrEn = true) (hbulk : s.hub.clk.bulk = true) (hin : s.hub.clk.inRange = true) :
    exec .pwrEnRise s = .next (s.modClk fun k => { k with stage := .rails }) := by
  simp [exec, execPwrEnRise, powerUp, h, hpwr, hbulk, hin]

theorem exec_hubLeaveReset_taken (straps : BitVec 6) (a b : Bool) (h : s.hub.clk.stage = .waitRef) (href : s.hub.clk.refOk = true) (hsclk : s.hub.clk.sclkOk = true)
    (hdark : s.hub.clk.blackout = false) (hrst : s.hub.clk.rstLow = false) :
    exec (.hubLeaveReset straps a b) s
      = .next (s.modClk fun k => { k with stage := .waitPll, cause := k.nextCause, slotId := straps, pairASeen := a, pairBSeen := b, refAbsent := false }) := by
  simp [exec, execHubLeaveReset, leaveReset, h, href, hsclk, hdark, hrst]

/-- PWR_EN falls before the hub is ready: no job is there to fault, and the rails go. -/
theorem exec_pwrEnFall_early (hpwr : s.hub.clk.pwrEn = false) (hstage : s.hub.clk.stage.powered = true) (hready : s.hub.clk.hubReady = false) :
    exec .pwrEnFall s = .next ((warmReset s 5).modClk fun k => { k with stage := .standby, pgOut := false, refAbsent := false }) := by
  simp [exec, execPwrEnFall, powerDown, hpwr, hstage, hready]
end

/-- Settles O36: in its stage each event is its one update of the clocks, hub ready is `hubStart_readied`, and a lockout is `coldState`. -/
theorem startUpRunsInOrder : Obligations.StartUpRunsInOrder := by
  intro s c
  refine ⟨fun h => ⟨?_, ?_, rfl, rfl, rfl, rfl, rfl⟩, fun h => ⟨?_, ?_, rfl, rfl, ?_, fun high => ?_⟩, fun h => ?_, exec_pwrEnRise_taken, fun h => ?_, fun h href => ?_,
    exec_hubLeaveReset_taken, fun h => ⟨_, exec_hubPllLocked_waiting h, rfl, rfl, rfl⟩, fun h => ?_, fun hpwr hstage hready => ⟨_, exec_pwrEnFall_early hpwr hstage hready, rfl, rfl, rfl, rfl⟩⟩
  · exact congrArg _ (if_pos (beq_iff_eq.2 h))
  · exact congrArg _ (if_pos (beq_iff_eq.2 h))
  · exact congrArg _ (if_neg (mt beq_iff_eq.1 h))
  · exact congrArg _ (if_neg (mt beq_iff_eq.1 h))
  · exact congrArg _ (if_neg (mt beq_iff_eq.1 h))
  · exact congrArg _ (if_neg (mt beq_iff_eq.1 h))
  · exact congrArg _ (if_pos (beq_iff_eq.2 h))
  · exact congrArg _ (if_pos (beq_iff_eq.2 h))
  · exact ⟨_, exec_refclkAbsentTimeout_waiting h href, rfl, by simp [Clk.faultN], h⟩
  · obtain ⟨hstage, hready, htick, hports, hlinks⟩ := hubStart_readied h
    exact ⟨_, rfl, hstage, hready, htick, hports, hlinks⟩
end Sys2Proof.Machine
end

section
/-! PROOF. What operations of the Rinmen links leave (spec/12_rinmen_fabric.md): all but the fabric's own state, the cells' sends, faults that fall due in jobs, the log, and what is sent. -/
namespace Sys2Proof.Machine

/-- What no operation of the links changes. -/
def State.offFabric (s : State) : State := { s with cells := [], jobs := [], flt := .reset, out := [], hub := { s.hub with fab := .reset } }

section
variable (s : State)

theorem State.offFabric_foldl {α : Type} {f : State → α → State} (h : ∀ t a, (f t a).offFabric = t.offFabric) (l : List α) : (l.foldl f s).offFabric = s.offFabric :=
  foldl_keeps State.offFabric h l s

@[simp] theorem offFabric_modFab (f : Fabric → Fabric) : (s.modFab f).offFabric = s.offFabric := rfl
@[simp] theorem offFabric_setPort (p : Nat) (x : Port) : (s.setPort p x).offFabric = s.offFabric := rfl
@[simp] theorem offFabric_modPort (p : Nat) (f : Port → Port) : (s.modPort p f).offFabric = s.offFabric := rfl
@[simp] theorem offFabric_log (r : Rec) : (s.log r).offFabric = s.offFabric := rfl
@[simp] theorem offFabric_logPort (cls p : Nat) (detail : List Byte) : (s.logPort cls p detail).offFabric = s.offFabric := rfl
@[simp] theorem offFabric_emit (o : Out) : (s.emit o).offFabric = s.offFabric := rfl
@[simp] theorem offFabric_modCell (k : Nat) (f : Cell → Cell) : (s.modCell k f).offFabric = s.offFabric := rfl
@[simp] theorem offFabric_modJob (id : Word) (f : Job → Job) : (s.modJob id f).offFabric = s.offFabric := rfl
@[simp] theorem offFabric_sendFlit (p seq vc : Nat) (idle sop : Bool) (body : List Byte) : (sendFlit s p seq vc idle sop body).offFabric = s.offFabric := rfl
@[simp] theorem offFabric_arriveHere (p : Nat) (k : Packet) : (arriveHere s p k).offFabric = s.offFabric := rfl

@[simp] theorem offFabric_finishSends (l : List (Nat × Nat)) : (finishSends s l).offFabric = s.offFabric :=
  s.offFabric_foldl (fun _ _ => offFabric_modCell ..) l

@[simp] theorem offFabric_pumpF (p n : Nat) : (pumpF p n s).offFabric = s.offFabric := by
  induction n generalizing s with
  | zero => rfl
  | succ n ih =>
    unfold pumpF
    dsimp only
    split
    · rfl
    · split
      · rfl
      · simp [ih]

@[simp] theorem offFabric_pump (p : Nat) : (pump s p).offFabric = s.offFabric := offFabric_pumpF ..
@[simp] theorem offFabric_pumpAll : (pumpAll s).offFabric = s.offFabric := s.offFabric_foldl offFabric_pump _
@[simp] theorem offFabric_enqueueAt (p : Nat) (t : TxPkt) : (enqueueAt s p t).offFabric = s.offFabric := offFabric_pump ..

@[simp] theorem offFabric_dueFault (r : Nat) (c : Rec) : (dueFault s r c).offFabric = s.offFabric := by
  unfold dueFault
  split <;> rfl

@[simp] theorem offFabric_lostOwn (port reason : Nat) (h0 : DWord) : (lostOwn s port reason h0).offFabric = s.offFabric := by
  unfold lostOwn
  split
  · simp
  · rfl

@[simp] theorem offFabric_sendMgmt (k : Packet) : (sendMgmt s k).offFabric = s.offFabric := by
  unfold sendMgmt
  split <;> simp

@[simp] theorem offFabric_unreachable (port reason : Nat) (h0 : DWord) : (unreachable s port reason h0).offFabric = s.offFabric := by
  unfold unreachable
  dsimp only
  split
  · rfl
  · split <;> simp

@[simp] theorem offFabric_dropPacket (port : Option Nat) (reason : Nat) (k : Packet) : (dropPacket s port reason k).offFabric = s.offFabric := by
  unfold dropPacket
  cases port <;> dsimp only <;> split <;> simp

@[simp] theorem offFabric_routeBy (t : TxPkt) (e : Word) : (routeBy s t e).offFabric = s.offFabric := by
  unfold routeBy
  split <;> simp

@[simp] theorem offFabric_inject (k : Packet) (origin : Option (Nat × Nat)) : (inject s k origin).offFabric = s.offFabric := by
  unfold inject
  dsimp only
  split
  · simp
  · split <;> simp

@[simp] theorem offFabric_reroute (p : Nat) : (reroute s p).offFabric = s.offFabric :=
  (State.offFabric_foldl _ (fun _ _ => offFabric_routeBy ..) _).trans (offFabric_setPort ..)

@[simp] theorem offFabric_losePackets (p : Nat) : (losePackets s p).offFabric = s.offFabric :=
  (State.offFabric_foldl _ (fun _ _ => offFabric_unreachable ..) _).trans ((offFabric_finishSends ..).trans (offFabric_setPort ..))

@[simp] theorem offFabric_holdoverEnter : (holdoverEnter s).offFabric = s.offFabric := by
  unfold holdoverEnter
  dsimp only
  split <;> rfl

@[simp] theorem offFabric_sourceLost (p : Nat) : (sourceLost s p).offFabric = s.offFabric := by
  unfold sourceLost
  split
  · simp
  · rfl

@[simp] theorem offFabric_dropPort (p : Nat) : (dropPort s p).offFabric = s.offFabric := by
  unfold dropPort
  dsimp only
  rw [offFabric_reroute, State.offFabric_foldl _ (fun _ _ => offFabric_unreachable ..), offFabric_modPort, offFabric_losePackets]
  split
  · exact offFabric_sourceLost ..
  · rfl
end
end Sys2Proof.Machine
end

section
/-! PROOF. Clocks, blackout and resets (spec/16_clocks_reset_startup.md R364 to R366, R369, R370, R374; spec/17_power_thermal.md R403). -/
namespace Sys2Proof.Machine

/-! What records change: the log alone, and never its persistent part. -/

theorem FltLog.persist_push (l : FltLog) (r : Rec) : (l.push r).persist = l.persist := by
  unfold FltLog.push
  exact foldl_keeps FltLog.persist (by intros; rfl) _ _

/-- Records of abandoned operations are in the ring (R377). -/
theorem abandonRecords_rest (s : State) : ∃ l, abandonRecords s = { s with flt := l } ∧ l.persist = s.flt.persist := by
  have one : ∀ (t : State) (op : Nat) (c : Bool), ∃ l, (if c then t.logHub 0x0811 [BitVec.ofNat 8 op] else t) = { t with flt := l } ∧ l.persist = t.flt.persist := fun t op c => by
    cases c
    · exact ⟨_, rfl, rfl⟩
    · exact ⟨_, rfl, FltLog.persist_push ..⟩
  unfold abandonRecords
  dsimp only
  obtain ⟨l0, h0, hp0⟩ := one s 0 (!s.hub.bkt.insts.isEmpty)
  rw [h0]
  obtain ⟨l1, h1, hp1⟩ := one { s with flt := l0 } 1 (s.hub.mail.sessions.any (fun x => x.staging.isSome) || (List.range 16).any fun r => (s.rgn r).state == 4)
  rw [h1]
  obtain ⟨l2, h2, hp2⟩ := one { s with flt := l1 } 2 ((List.range 16).any fun r => (s.rgn r).state == 2)
  rw [h2]
  obtain ⟨l3, h3, hp3⟩ := one { s with flt := l2 } 5 (s.jobs.any fun j => !j.staged.isEmpty)
  rw [h3]
  exact ⟨l3, rfl, hp3.trans (hp2.trans (hp1.trans hp0))⟩

/-! Blackout and the warm reset. -/

/-- What went down with the hub: the cells, the jobs, the hub's clocks; what the HBM holds stands (R373). -/
structure State.Down (s t : State) : Prop where
  cells : t.cells = []
  jobs : t.jobs = []
  hubReady : t.hub.clk.hubReady = false
  pclk : t.hub.clk.pclk = false
  mem : t.hbm.mem = s.hbm.mem

theorem State.Down.all {s t : State} (h : s.Down t) : t.cells = [] ∧ t.jobs = [] ∧ t.hub.clk.hubReady = false ∧ t.hub.clk.pclk = false ∧ t.hbm.mem = s.hbm.mem :=
  ⟨h.cells, h.jobs, h.hubReady, h.pclk, h.mem⟩

/-- The clocks as a blackout leaves them (R365, R403). -/
def Clk.dark (c : Clk) (cls : Nat) : Clk :=
  { c with pclk := false, hubReady := false, alert := false, rgns := [], stage := if c.stage.powered && c.stage != .rails then .waitRef else c.stage, goodWindows := 0, refAbsent := false,
           blackoutSeen := c.blackoutSeen || cls != 0x0712, tripSeen := c.tripSeen || cls == 0x0712 }

theorem enterBlackout_down (s : State) (cls : Nat) (detail : List Byte) :
    s.Down (enterBlackout s cls detail) ∧ (enterBlackout s cls detail).hub.clk = s.hub.clk.dark cls
      ∧ (enterBlackout s cls detail).flt.persist.getLast? = some { s.unitRec 3 cls none none detail with persistent := true } := by
  unfold enterBlackout
  dsimp only
  obtain ⟨l, hl, hpersist⟩ := abandonRecords_rest (s.modFlt fun l => l.keep { s.unitRec 3 cls none none detail with persistent := true })
  rw [hl]
  refine ⟨⟨rfl, rfl, rfl, rfl, rfl⟩, rfl, ?_⟩
  show l.persist.getLast? = _
  rw [hpersist]
  exact List.getLast?_concat

theorem State.Down.modClk {s t : State} (h : s.Down t) {f : Clk → Clk} (hready : ∀ k, (f k).hubReady = k.hubReady) (hpclk : ∀ k, (f k).pclk = k.pclk) : s.Down (t.modClk f) :=
  ⟨h.cells, h.jobs, (hready _).trans h.hubReady, (hpclk _).trans h.pclk, h.mem⟩

/-- The end of a debug unlock leaves the clocks and the HBM (R446). -/
theorem sameButSec_endDebug (s : State) (cause : Nat) : s.SameButSec (endDebug s cause) := by
  unfold endDebug
  split
  · exact ⟨_, _, rfl⟩
  · exact sameButSec_modSec_logHub ..

/-- A warm reset takes everything down but the always-on domain (R372, R373). -/
theorem warmReset_down (s : State) (cause : BitVec 3) :
    s.Down (warmReset s cause) ∧ (warmReset s cause).hub.clk
      = { s.hub.clk with pclk := false, hubReady := false, alert := false, rgns := [], nextCause := cause, warmCount := if s.hub.clk.warmCount = 255 then 255 else s.hub.clk.warmCount + 1,
                         stage := if s.hub.clk.stage.powered && s.hub.clk.stage != .rails then .waitRef else s.hub.clk.stage } := by
  unfold warmReset
  dsimp only
  obtain ⟨x, l, hsec⟩ := sameButSec_endDebug s 2
  obtain ⟨m, hm, -⟩ := abandonRecords_rest (endDebug s 2)
  rw [hm, hsec]
  exact ⟨⟨rfl, rfl, rfl, rfl, rfl⟩, rfl⟩

/-! Clocks judged (R364 to R366). -/

theorem clockFails_refclk {s : State} (how : Byte) (href : s.hub.clk.refOk = true) :
    clockFails s how .refclk = (enterBlackout s 0x0800 [how]).modClk fun k => { k with refOk := false, refFailed := true } := by
  simp only [clockFails, href, if_true]

theorem clockFails_refclk_down {s : State} (how : Byte) (href : s.hub.clk.refOk = true) :
    s.Down (clockFails s how .refclk) ∧ (clockFails s how .refclk).hub.clk = { s.hub.clk.dark 0x0800 with refOk := false, refFailed := true } := by
  obtain ⟨hdown, hclk, -⟩ := enterBlackout_down s 0x0800 [how]
  rw [clockFails_refclk how href]
  exact ⟨hdown.modClk (fun _ => rfl) fun _ => rfl, by rw [State.modClk_hub_clk, hclk]⟩

theorem clockFails_sclk_down {s : State} (how : Byte) (href : s.hub.clk.refOk = true) (hsclk : s.hub.clk.sclkOk = true) :
    s.Down (clockFails s how .sclk) ∧ (clockFails s how .sclk).hub.clk = { s.hub.clk.dark 0x0801 with sclkOk := false, sclkFailed := true, aonOnRef := true, forcedSeen := true } := by
  obtain ⟨hdown, hclk, -⟩ := enterBlackout_down s 0x0801 [how]
  have hfails : clockFails s how .sclk = aonToRef ((enterBlackout s 0x0801 [how]).modClk fun k => { k with sclkOk := false, sclkFailed := true }) := by
    simp only [clockFails, href, hsclk, Bool.and_self, if_true]
  have haon : ∀ t : State, aonToRef t = ({ t with flt := (aonToRef t).flt } : State).modClk fun k => { k with aonOnRef := true, forcedSeen := true } := fun _ => rfl
  rw [hfails]
  refine ⟨⟨hdown.cells, hdown.jobs, hdown.hubReady, hdown.pclk, hdown.mem⟩, ?_⟩
  rw [haon, State.modClk_hub_clk]
  show { ((enterBlackout s 0x0801 [how]).modClk fun k => { k with sclkOk := false, sclkFailed := true }).hub.clk with aonOnRef := true, forcedSeen := true } = _
  rw [State.modClk_hub_clk, hclk]

section
variable {s : State} {ref sclk : Nat}

theorem judgeWindow_first (hlo : 2880 ≤ ref) (hhi : ref ≤ 3520) (slo : 9216 ≤ 10 * sclk) (shi : 10 * sclk ≤ 11264) (h : s.hub.clk.goodWindows = 0) :
    judgeWindow s ref sclk = s.modClk fun k => { k with goodWindows := 1 } := by
  simp [judgeWindow, hlo, hhi, slo, shi, h]

/-- A restart gives the reset its cause and its count. -/
theorem clockRestart_rest (s : State) : ∃ cause n, clockRestart s = s.modClk fun k => { k with nextCause := cause, warmCount := n } := by
  unfold clockRestart
  split
  · exact ⟨s.hub.clk.nextCause, s.hub.clk.warmCount, rfl⟩
  · exact ⟨_, _, rfl⟩

theorem judgeWindow_again (hlo : 2880 ≤ ref) (hhi : ref ≤ 3520) (slo : 9216 ≤ 10 * sclk) (shi : 10 * sclk ≤ 11264) (h : 1 ≤ s.hub.clk.goodWindows) :
    ∃ cause n, judgeWindow s ref sclk = s.modClk fun k => { k with
      goodWindows := s.hub.clk.goodWindows + 1, refOk := true, sclkOk := true, refFailed := false, sclkFailed := false, aonOnRef := false, refAbsent := false, nextCause := cause, warmCount := n } := by
  have hmore : ¬ s.hub.clk.goodWindows + 1 < 2 := by omega
  simp only [judgeWindow, Nat.ble_eq_true_of_le, hlo, hhi, slo, shi, Bool.and_self, if_true, hmore, if_false]
  split
  · obtain ⟨cause, n, hrestart⟩ := clockRestart_rest ((s.modClk fun k => { k with goodWindows := s.hub.clk.goodWindows + 1 }).modClk fun k =>
      { k with refOk := true, sclkOk := true, refFailed := false, sclkFailed := false, aonOnRef := false, refAbsent := false })
    exact ⟨cause, n, hrestart⟩
  · exact ⟨s.hub.clk.nextCause, s.hub.clk.warmCount, rfl⟩

theorem judgeWindow_refBad (href : ref < 2880 ∨ 3520 < ref) (slo : 9216 ≤ 10 * sclk) (shi : 10 * sclk ≤ 11264) : judgeWindow s ref sclk = clockFails s 1 .refclk := by
  have hbad : (Nat.ble 2880 ref && Nat.ble ref 3520) = false := by
    rw [Bool.and_eq_false_iff]
    exact href.imp (fun h => Bool.eq_false_iff.2 fun hb => by have := Nat.le_of_ble_eq_true hb; omega) fun h => Bool.eq_false_iff.2 fun hb => by have := Nat.le_of_ble_eq_true hb; omega
  simp only [judgeWindow, hbad, Nat.ble_eq_true_of_le, slo, shi, Bool.and_self, Bool.false_and, Bool.false_eq_true, if_false, if_true]
end

/-! A region whose interconnect changes over by force, with nothing on its way (R369). -/

/-- No packet waits at a port for a routing entry's way. -/
def State.NoneWaiting (s : State) : Prop := ∀ p < 48, (takeWaiting (s.port p)).1 = []

/-- Once what waits has been taken, nothing waits. -/
theorem takeWaiting_again (x : Port) : (takeWaiting (takeWaiting x).2).1 = [] := by
  simp only [takeWaiting, List.flatMap_eq_nil_iff, List.mem_map, forall_exists_index, and_imp, forall_apply_eq_imp_iff₂]
  intro v _
  rw [List.filter_filter, List.filter_eq_nil_iff]
  rintro t - htwo
  obtain ⟨hsome, hnone⟩ := (Bool.and_eq_true _ _).mp htwo
  rw [Option.isNone_iff_eq_none.1 hnone] at hsome
  exact Bool.false_ne_true hsome

theorem forceRegion_quiet {s : State} (r : Nat) (hflights : s.flights = []) (hwait : s.NoneWaiting) :
    (forceRegion s r).cells = s.cells ∧ (forceRegion s r).hub.clk = ((s.modRclk r fun c => { c with forced := true }).modClk fun k => { k with forcedSeen := true }).hub.clk := by
  unfold forceRegion
  extract_lets s1 s2 here t u
  have ht : t.NoneWaiting := hwait
  have hu : u = t := by
    have hnone : s2.flights.filter here = [] := by
      show s.flights.filter here = []
      rw [hflights, List.filter_nil]
    unfold u
    rw [hnone, List.foldl_nil]
  rw [hu]
  suffices h : ∀ l : List Nat, (∀ p ∈ l, p < 48) → ∀ v : State, v.NoneWaiting →
      let w := l.foldl (fun s p => (takeWaiting (s.port p)).1.foldl (fun s t => finishSends (unreachable s p 0x12 t.k.h0) t.origin.toList) (s.setPort p (takeWaiting (s.port p)).2)) v
      w.cells = v.cells ∧ w.hub.clk = v.hub.clk from
    h _ (fun p hp => List.mem_range.1 (List.mem_filter.1 hp).1) t ht
  intro l
  induction l with
  | nil => exact fun _ v _ => ⟨rfl, rfl⟩
  | cons p l ih =>
    intro hl v hv
    have hp : p < 48 := hl p List.mem_cons_self
    have hnext : (v.setPort p (takeWaiting (v.port p)).2).NoneWaiting := fun q hq => by
      by_cases hqp : q = p
      · rw [hqp, State.port_setPort]
        exact takeWaiting_again _
      · rw [State.port_setPort_other _ _ hqp]
        exact hv q hq
    dsimp only
    rw [List.foldl_cons, hv p hp, List.foldl_nil]
    exact ih (fun q hq => hl q (List.mem_cons_of_mem p hq)) _ hnext

theorem rclk_forceRegion_quiet {s : State} (r : Nat) (hflights : s.flights = []) (hwait : s.NoneWaiting) :
    (forceRegion s r).rclk r = { s.rclk r with forced := true } := by
  obtain ⟨-, hclk⟩ := forceRegion_quiet r hflights hwait
  exact (congrArg (fun k : Clk => mapGet RgnClk.reset k.rgns r) hclk).trans (State.rclk_modRclk s r fun c => { c with forced := true })

/-! A region that fails, with no job in it and no stores of the module (R239, R422). -/

theorem State.modMail_fixed {s : State} {f : Mail → Mail} (h : f s.hub.mail = s.hub.mail) : s.modMail f = s := by
  simp only [State.modMail, State.modHub, h]

/-- The mailboxes' list of jobs under release is empty: no region's becoming Ready ends a release. -/
theorem regionReleased_none {s : State} (r : Nat) (h : s.hub.mail.releasing = []) : regionReleased s r = s := by
  have hmail : (s.modMail fun m => { m with releasing := m.releasing.map fun x => (x.1, x.2.1, x.2.2.1, setBit x.2.2.2 r false) }) = s :=
    State.modMail_fixed (by rw [h, List.map_nil, ← h])
  have hnone : (s.hub.mail.releasing.filter fun x => x.2.2.2 == 0) = [] := by rw [h, List.filter_nil]
  rw [regionReleased, hmail, noteReleased, hnone, List.foldl_nil]
  exact State.modMail_fixed (by rw [h, List.filter_nil, ← h])

/-- Links that fail change no region's state. -/
theorem dropLinks_rest (s : State) (r : Nat) : ∃ rs, dropLinks s r = { s with regions := rs } ∧ ∀ q, (mapGet Region.reset rs q).state = (s.rgn q).state := by
  have keeps : ∀ (t : State) (i : Nat) (f : Region → Region), (∀ g, (f g).state = g.state) → ∀ q, ((t.modRgn i f).rgn q).state = (t.rgn q).state := fun t i f hf q => by
    by_cases hq : q = i
    · rw [hq, State.rgn_modRgn, hf]
    · rw [State.rgn_modRgn_other _ _ hq]
  unfold dropLinks
  refine List.foldlRecOn (motive := fun t : State => ∃ rs, t = { s with regions := rs } ∧ ∀ q, (mapGet Region.reset rs q).state = (s.rgn q).state) _ _
    ⟨_, rfl, keeps s r (fun g => { g with linkUp := 0 }) fun _ => rfl⟩ ?_
  rintro _ ⟨rs, rfl, hrs⟩ ⟨d, q⟩ -
  cases q with
  | none => exact ⟨rs, rfl, hrs⟩
  | some q => exact ⟨_, rfl, fun i => (keeps { s with regions := rs } q (fun g => { g with linkUp := setBit g.linkUp ((d + 2) % 4) false, linkErr := setBit g.linkErr ((d + 2) % 4) true }) (fun _ => rfl) i).trans (hrs i)⟩

/-- The hub but for the fabric and the wait for new tables. -/
def Hub.offRoutes (h : Hub) : Hub := { h with fab := .reset, detourDue := 0 }

/-- A failed region's traffic, links and ports go; no region's state changes, and of the hub the fabric alone. -/
theorem withdrawRegion_keeps (s : State) (r : Nat) :
    (∀ q, ((withdrawRegion s r).rgn q).state = (s.rgn q).state) ∧ (withdrawRegion s r).hub.offRoutes = s.hub.offRoutes := by
  unfold withdrawRegion
  obtain ⟨rs, hrs, hstate⟩ := dropLinks_rest { s with flights := s.flights.filter fun f => f.2.dstRgn != r && s.srcRgn f.2 != r } r
  dsimp only
  rw [hrs]
  have hoff := State.offFabric_foldl { s with flights := s.flights.filter (fun f => f.2.dstRgn != r && s.srcRgn f.2 != r), regions := rs } offFabric_dropPort
    ((List.range 48).filter fun p => portRegion p == r)
  refine ⟨fun q => ?_, congrArg (fun u => u.hub.offRoutes) hoff⟩
  have hregions : (((List.range 48).filter fun p => portRegion p == r).foldl dropPort _).regions = rs := congrArg State.regions hoff
  exact (congrArg (fun m => (mapGet Region.reset m q).state) hregions).trans (hstate q)

theorem applyTables_keeps (s : State) : (∀ q, (s.applyTables.rgn q).state = (s.rgn q).state) ∧ s.applyTables.hub.offRoutes = s.hub.offRoutes := by
  unfold State.applyTables
  split
  · exact ⟨fun _ => rfl, rfl⟩
  · obtain ⟨rs, hrs⟩ := foldl_modRgn_rest (fun g => { g with detour := true }) s (List.range 16)
    have hrgn := rgn_foldl_modRgn (fun g => { g with detour := true }) s (List.nodup_range (n := 16))
    rw [hrs] at hrgn ⊢
    refine ⟨fun q => (congrArg Region.state (hrgn q)).trans ?_, rfl⟩
    split <;> rfl

theorem failOne_idle {s : State} {r : Nat} (cause : Nat) (hstate : (s.rgn r).state ≠ 7) (howner : (s.rgn r).owner = none) (hhost : r ≠ s.hub.hostRgn) (hrel : s.hub.mail.releasing = []) :
    (∀ q, ((failOne s r cause).rgn q).state = if q = r then 7 else (s.rgn q).state)
      ∧ (failOne s r cause).hub.offRoutes = { s.hub with flashRgns := setBit s.hub.flashRgns r true }.offRoutes := by
  unfold failOne
  rw [if_neg hstate]
  extract_lets c owner s1 s2 s3
  have hs1 : s1 = (s.modRgn r fun g => { g with state := 7, scrubPending := true, heldReady := false, goal := .none }).log c := regionReleased_none r hrel
  obtain ⟨hkeeps, hhub⟩ := withdrawRegion_keeps (s1.modHub fun h => { h with flashRgns := setBit h.flashRgns r true, detourDue := setBit h.detourDue r true }) r
  have hs3 : s3 = s2 := by
    unfold s3
    rw [show owner = none from howner]
  have hhub2 : s2.hub.offRoutes = { s.hub with flashRgns := setBit s.hub.flashRgns r true }.offRoutes :=
    hhub.trans (by rw [hs1]; rfl)
  have hhost2 : s2.hub.hostRgn = s.hub.hostRgn := by simpa [Hub.offRoutes] using congrArg (fun h : Hub => h.hostRgn) hhub2
  rw [hs3, if_neg fun hr => hhost (hr.trans hhost2)]
  obtain ⟨htables, hhub3⟩ := applyTables_keeps s2
  refine ⟨fun q => ?_, hhub3.trans hhub2⟩
  have hfallen : (s1.modHub fun h => { h with flashRgns := setBit h.flashRgns r true, detourDue := setBit h.detourDue r true }).rgn q
      = (s.modRgn r fun g => { g with state := 7, scrubPending := true, heldReady := false, goal := .none }).rgn q := by
    rw [hs1]
    rfl
  rw [htables, hkeeps, hfallen]
  split
  next hq => rw [hq, State.rgn_modRgn]
  next hq => rw [State.rgn_modRgn_other _ _ hq]

/-! With one region failed the hub reaches every other one (R16). -/

theorem State.cutOff_congr {s t : State} (h : ∀ q < 16, (t.rgn q).failed = (s.rgn q).failed) : t.cutOff = s.cutOff := by
  have hreach : ∀ n l, t.reachF n l = s.reachF n l := fun n => by
    induction n with
    | zero => exact fun _ => rfl
    | succ n ih =>
      intro l
      rw [State.reachF, State.reachF, ih]
      exact congrArg _ (List.filter_congr fun q hq => by rw [h q (List.mem_range.1 hq)])
  have hstart : ((List.range 4).filter fun r => !(t.rgn r).failed) = (List.range 4).filter fun r => !(s.rgn r).failed :=
    List.filter_congr fun q hq => by rw [h q (Nat.lt_trans (List.mem_range.1 hq) (by decide))]
  rw [State.cutOff, State.cutOff, hstart, hreach]
  exact List.filter_congr fun q hq => by rw [h q (List.mem_range.1 hq)]

/-- The module at reset with one region failed. -/
def oneFailed (r : Nat) : State := State.reset.modRgn r fun g => { g with state := 7 }
theorem cutOff_oneFailed (r : Fin 16) : (oneFailed r.val).cutOff = [] := by
  revert r
  decide +kernel

/-- The only region to fail takes no other with it. -/
theorem failRegion_only {s : State} {r : Fin 16} (cause : Nat) (hsound : ∀ q < 16, (s.rgn q).failed = false) (howner : (s.rgn r.val).owner = none) (hhost : r.val ≠ s.hub.hostRgn)
    (hrel : s.hub.mail.releasing = []) : failRegion s r.val cause = failOne s r.val cause := by
  have hup : (s.rgn r.val).state ≠ 7 := by simpa [Region.failed] using hsound r.val r.isLt
  obtain ⟨hstate, -⟩ := failOne_idle cause hup howner hhost hrel
  have hcut : (failOne s r.val cause).cutOff = [] := by
    refine (State.cutOff_congr fun q hq => ?_).trans (cutOff_oneFailed r)
    rw [Region.failed, hstate]
    by_cases hqr : q = r.val
    · rw [if_pos hqr, hqr, oneFailed, State.rgn_modRgn]
      rfl
    · rw [if_neg hqr, oneFailed, State.rgn_modRgn_other _ _ hqr, State.rgn_reset]
      exact hsound q hq
  rw [failRegion, hcut, List.foldl_nil]

/-! The events. -/

section
variable {s : State}

theorem exec_forcedChangeover_alwaysOn (haon : s.aon = true) :
    ∃ t, exec (.forcedChangeover .alwaysOn) s = .next t ∧ t.hub.clk.forcedSeen = true ∧ t.hub.clk.goodWindows = 0 ∧ t.cells = s.cells := by
  refine ⟨_, congrArg Host.Outcome.next (if_pos haon), rfl, rfl, ?_⟩
  unfold forced
  dsimp only
  split <;> rfl

theorem exec_forcedChangeover_hub (haon : s.aon = true) (hboot : s.hub.clk.stage = .boot) :
    exec (.forcedChangeover .hub) s = .next ((s.modFlt fun l => { l with due := l.due ++ [s.unitRec 3 0x0802 none none [0]] }).modClk fun k =>
      { k with forcedSeen := true, pclk := false, stage := .waitPll }) := by
  simp [exec, execForcedChangeover, haon, forced, hboot]

/-- A region's clocks as its PLL's loss of lock leaves them. -/
def RgnClk.relocking (k : RgnClk) : RgnClk := { k with pllLocked := false, gated := true, lockLost := true, onNclk := false, attempts := 0 }

theorem State.rclk_log (s : State) (c : Rec) (r : Nat) : (s.log c).rclk r = s.rclk r := rfl

/-- A region's compute PLL loses lock where no job owns the region and nothing is on its way. -/
theorem regionPllLoss_idle {r : Nat} (hawake : (s.rgn r).awake = true) (hlocked : (s.rclk r).pllLocked = true) (howner : (s.rgn r).owner = none) :
    regionPllLoss s r = forceRegion ((s.modRclk r RgnClk.relocking).log (s.unitRec 2 0x0803 (some r) none [0, 0])) r := by
  have hgo : ¬((!((s.rgn r).awake && (s.rclk r).pllLocked)) = true) := by simp [hawake, hlocked]
  unfold regionPllLoss
  rw [if_neg hgo]
  dsimp only
  split
  next id hid => exact absurd (hid.symm.trans howner) (Option.some_ne_none id)
  next => rfl

theorem rclk_regionPllLoss_idle {r : Nat} (hawake : (s.rgn r).awake = true) (hlocked : (s.rclk r).pllLocked = true) (howner : (s.rgn r).owner = none)
    (hflights : s.flights = []) (hwait : s.NoneWaiting) : (regionPllLoss s r).rclk r = { (s.rclk r).relocking with forced := true } := by
  rw [regionPllLoss_idle hawake hlocked howner, rclk_forceRegion_quiet, State.rclk_log, State.rclk_modRclk]
  · exact hflights
  · exact hwait

theorem standbyLoss_idle {r : Nat} (hasleep : (s.rgn r).state = 0) :
    standbyLoss s r = failRegion ((s.modRclk r fun k => { k with lockLost := true }).log (s.unitRec 2 0x0803 (some r) none [1, 0])) r 0x0803 := by
  simp [standbyLoss, hasleep]

theorem tripNow_taken (die site : Byte) (haon : s.aon = true) (htrip : s.hub.clk.trip = false) :
    tripNow s die site = (enterBlackout s 0x0712 [die, site]).modClk fun k => { k with trip := true } := by
  obtain ⟨hoff, hhold⟩ := (Bool.and_eq_true _ _).mp haon
  simp only [bne_iff_ne] at hoff hhold
  simp [tripNow, hoff, hhold, htrip]

theorem rstAssert_short {ns : Nat} (hns : ns < 100) : rstAssert s ns = s := by
  simp [rstAssert, Nat.not_le.2 hns, show ¬ 1000 ≤ ns by omega]

theorem rstAssert_long {ns : Nat} (hns : 1000 ≤ ns) (hpow : s.hub.clk.stage.powered = true) (hrails : s.hub.clk.stage ≠ .rails) (hdark : s.hub.clk.blackout = false) :
    rstAssert s ns = (warmReset s 2).modClk fun k => { k with rstLow := true } := by
  have hoff : s.hub.clk.stage ≠ .off := fun h => by rw [h] at hpow; exact Bool.false_ne_true hpow
  simp [rstAssert, hns, show ¬ ns < 1000 by omega, hpow, hrails, hdark, hoff]

theorem rstRelease_untripped {cool : Bool} (hlow : s.hub.clk.rstLow = true) (htrip : s.hub.clk.trip = false) :
    rstRelease s cool = s.modClk fun k => { k with rstLow := false } := by
  simp [rstRelease, hlow, htrip]

theorem rstRelease_cooled (hlow : s.hub.clk.rstLow = true) (htrip : s.hub.clk.trip = true) :
    rstRelease s true = (s.modClk fun k => { k with rstLow := false }).modClk fun k =>
      { k with trip := false, nextCause := 2, warmCount := if k.warmCount = 255 then 255 else k.warmCount + 1 } := by
  simp [rstRelease, hlow, htrip]
end

/-- Settles O37: a judgement, a loss of lock or a trip is a blackout (`enterBlackout_down`), a long pulse a warm reset (`warmReset_down`), and a region's own clocks change in the region alone. -/
theorem clocksAndResets : Obligations.ClocksAndResets := by
  intro s c down
  refine ⟨fun haon => ⟨fun ref sclk hlo hhi slo shi => ⟨fun h0 => ?_, fun h1 => ?_⟩, fun ref sclk hbad slo shi href => ?_, fun href => ?_, fun href hsclk => ?_,
      exec_forcedChangeover_alwaysOn haon, fun hboot => ⟨_, exec_forcedChangeover_hub haon hboot, rfl, rfl, rfl, rfl⟩, fun r hflights hwait => ?_⟩,
    fun hpclk => ?_, fun r hawake hlocked howner hflights hwait => ?_, fun r hgated => ⟨?_, ?_⟩, fun r hasleep howner hhost hrel hsound => ?_, fun die site haon htrip => ?_,
    fun ns => ⟨fun hns => ?_, fun hns hpow hrails hdark => ?_⟩, fun cool hlow => ⟨fun htrip => ?_, fun htrip hcool => ?_⟩⟩
  · exact congrArg Host.Outcome.next ((if_pos haon).trans (judgeWindow_first hlo hhi slo shi h0))
  · obtain ⟨cause, k, hagain⟩ := judgeWindow_again hlo hhi slo shi h1
    exact ⟨_, congrArg Host.Outcome.next ((if_pos haon).trans hagain), rfl, rfl, rfl, rfl, rfl, rfl⟩
  · obtain ⟨hdown, hclk⟩ := clockFails_refclk_down 1 href
    exact ⟨_, congrArg Host.Outcome.next ((if_pos haon).trans (judgeWindow_refBad hbad slo shi)), hdown.all, by rw [hclk], by rw [hclk]; exact Bool.or_true _⟩
  · obtain ⟨hdown, hclk⟩ := clockFails_refclk_down 0 href
    exact ⟨_, congrArg Host.Outcome.next (if_pos haon), hdown.all, by rw [hclk], by rw [hclk]⟩
  · obtain ⟨hdown, hclk⟩ := clockFails_sclk_down 0 href hsclk
    exact ⟨_, congrArg Host.Outcome.next (if_pos haon), hdown.all, by rw [hclk], by rw [hclk]⟩
  · obtain ⟨hcells, hclk⟩ := forceRegion_quiet r.val hflights hwait
    refine ⟨_, congrArg Host.Outcome.next (if_pos haon), ?_, ?_, hcells⟩
    · exact (congrArg Clk.forcedSeen hclk).trans rfl
    · exact congrArg RgnClk.forced (rclk_forceRegion_quiet r.val hflights hwait)
  · obtain ⟨hdown, -, -⟩ := enterBlackout_down s 0x0804 []
    exact ⟨_, congrArg Host.Outcome.next (if_pos hpclk), (hdown.modClk (f := fun k => { k with pllFailed := true }) (fun _ => rfl) fun _ => rfl).all, rfl⟩
  · have hrclk := rclk_regionPllLoss_idle hawake hlocked howner hflights hwait
    exact ⟨_, rfl, congrArg RgnClk.pllLocked hrclk, congrArg RgnClk.gated hrclk, congrArg RgnClk.lockLost hrclk, congrArg RgnClk.forced hrclk⟩
  · simp [exec, execRegionPllRelockAttempt, relockAttempt, hgated]
  · simp [exec, execRegionPllRelockAttempt, relockAttempt, hgated]
  · have hup : (s.rgn r.val).state ≠ 7 := by simpa [Region.failed] using hsound r.val r.isLt
    have hfail := failRegion_only (s := (s.modRclk r.val fun k => { k with lockLost := true }).log (s.unitRec 2 0x0803 (some r.val) none [1, 0])) 0x0803 hsound howner hhost hrel
    obtain ⟨hstate, hhub⟩ := failOne_idle (s := (s.modRclk r.val fun k => { k with lockLost := true }).log (s.unitRec 2 0x0803 (some r.val) none [1, 0])) 0x0803
      hup howner hhost hrel
    refine ⟨_, congrArg Host.Outcome.next ((standbyLoss_idle hasleep).trans hfail), (hstate r.val).trans (if_pos rfl), ?_, ?_⟩
    · exact (congrArg (fun h : Hub => (mapGet RgnClk.reset h.clk.rgns r.val).lockLost) hhub).trans (congrArg RgnClk.lockLost (State.rclk_modRclk s r.val fun k => { k with lockLost := true }))
    · exact congrArg (fun h : Hub => h.flashRgns) hhub
  · obtain ⟨hdown, hclk, hlast⟩ := enterBlackout_down s 0x0712 [die, site]
    refine ⟨_, congrArg Host.Outcome.next (tripNow_taken die site haon htrip), (hdown.modClk (f := fun k => { k with trip := true }) (fun _ => rfl) fun _ => rfl).all, rfl, ?_, ?_⟩
    · rw [State.modClk_hub_clk, hclk]
      exact Bool.or_true _
    · rw [State.modClk_flt, hlast]
      rfl
  · exact congrArg Host.Outcome.next (rstAssert_short hns)
  · obtain ⟨hdown, hclk⟩ := warmReset_down s 2
    refine ⟨_, congrArg Host.Outcome.next (rstAssert_long hns hpow hrails hdark), (hdown.modClk (f := fun k => { k with rstLow := true }) (fun _ => rfl) fun _ => rfl).all, rfl, ?_, ?_⟩
    · rw [State.modClk_hub_clk, hclk]
      exact if_pos ((Bool.and_eq_true _ _).mpr ⟨hpow, bne_iff_ne.2 hrails⟩)
    · rw [State.modClk_hub_clk, hclk]
  · exact congrArg Host.Outcome.next (rstRelease_untripped hlow htrip)
  · subst hcool
    exact ⟨_, congrArg Host.Outcome.next (rstRelease_cooled hlow htrip), rfl, rfl, rfl⟩
end Sys2Proof.Machine
end

section
/-! PROOF. Power, droop and temperatures (spec/17_power_thermal.md R385 to R401, R404). -/
namespace Sys2Proof.Machine

section
variable (s : State) (r : Nat)

theorem State.rpwr_modRpwr (f : RgnPwr → RgnPwr) : (s.modRpwr r f).rpwr r = f (s.rpwr r) := mapGet_mapPut_same ..

/-- Firmware's look at the causes of ALERT_N asserts the pin, if anything. -/
theorem driveAlert_rest : driveAlert s = s.modClk fun c => { c with alert := c.alert || (s.hub.clk.hubReady && s.alertCause) } := by
  unfold driveAlert
  cases s.hub.clk.hubReady && s.alertCause <;> simp [State.modClk, State.modHub]

end

/-! The estimator, the calibration and the input sampler. -/

theorem estimatorSample_awake {s : State} {r : Nat} (b : Nat) (counts : List Nat) (h : (s.rgn r).awake = true) :
    estimatorSample s r b counts = s.modRpwr r fun x =>
      { x with
        dyn := mapPut x.dyn b ((List.range 6).map fun i => Config.fuseWeight i * counts.getD i 0).sum
        power := estimateOf x.gain x.leak (((mapPut x.dyn b ((List.range 6).map fun i => Config.fuseWeight i * counts.getD i 0).sum).map (·.2)).sum) (1000 * Config.fuseLeak r (meanOf x.temps))
        sum := (x.sum.1 + estimateOf x.gain x.leak (((mapPut x.dyn b ((List.range 6).map fun i => Config.fuseWeight i * counts.getD i 0).sum).map (·.2)).sum) (1000 * Config.fuseLeak r (meanOf x.temps)), x.sum.2 + 1) } := by
  simp [estimatorSample, h]

/-- The clamp leaves what is in range. -/
theorem clampTo_mem {lo hi : Nat} {v : Int} (hlo : lo ≤ v) (hhi : v ≤ hi) : ((clampTo lo hi v : Nat) : Int) = v := by
  unfold clampTo
  rw [if_neg (by omega), if_neg (by omega)]
  omega

/-- A fit whose factors need no clamp sets them. -/
theorem calibrate_inRange (s : State) {f : RegionFit} {g o : Int} (hfit : fitOf f = some (g, o)) (hg : 8192 ≤ g) (hg' : g ≤ 32768) (ho : 13107 ≤ o) (ho' : o ≤ 19661) :
    calibrate s f = s.modRpwr f.r.val fun x => { x with gain := clampTo 8192 32768 g, leak := clampTo 13107 19661 o } := by
  unfold calibrate
  rw [hfit]
  exact if_pos ⟨clampTo_mem hg hg', clampTo_mem ho ho'⟩

theorem chargeRegion_unowned (s : State) {r : Nat} (share : Nat) (h : (s.rgn r).owner = none) :
    chargeRegion s r share = s.modRpwr r fun x => { x with energy := (addEnergy x.energy x.frac share).1, frac := (addEnergy x.energy x.frac share).2 } := by
  unfold chargeRegion
  dsimp only
  split
  next id hid => exact absurd (hid.symm.trans h) (Option.some_ne_none id)
  next => rfl

theorem inputSample_on {s : State} (mv ma : Nat) (h : s.hub.clk.stage ≠ .off) :
    ∃ t, inputSample s mv ma = t ∧ t.hub.pwr.mv = mv ∧ t.hub.pwr.inputs = (mv * ma / 1000 :: s.hub.pwr.inputs).take 8
      ∧ t.hub.pwr.inputOor = (s.hub.pwr.inputOor || (Nat.blt mv 40000 || Nat.blt 48000 mv)) ∧ t.hub.clk.inRange = !(Nat.blt mv 40000 || Nat.blt 48000 mv)
      ∧ ((Nat.blt mv 40000 || Nat.blt 48000 mv) = true → s.hub.clk.hubReady = true → t.hub.clk.alert = true) := by
  unfold inputSample
  rw [if_neg (by simpa using h)]
  dsimp only
  rw [driveAlert_rest]
  refine ⟨_, rfl, rfl, rfl, rfl, rfl, fun hbad hready => ?_⟩
  simp only [State.modClk_hub_clk, State.modPwr_hub_clk, hready, State.alertCause, State.modClk_hub_pwr, State.modPwr_hub_pwr, hbad]
  simp [Nat.blt]

/-- Settles O33: each event's equation, with the fit in range and the region without a job. -/
theorem powerIsMeasured : Obligations.PowerIsMeasured := by
  intro s r n counts mv ma uj x e bad
  have hbad : (Nat.blt mv 40000 || Nat.blt 48000 mv) = true ↔ bad := by simp [bad, Nat.blt_eq]
  refine ⟨fun hawake => ?_, ⟨_, rfl, rfl, ?_⟩, fun f g o hawake howner hfit hg hg' ho ho' => ?_, fun hon => ?_, fun hcause => ?_⟩
  · rw [exec, execEstimatorSample, estimatorSample_awake n.val counts hawake]
    refine ⟨_, rfl, ?_⟩
    rw [State.rpwr_modRpwr]
    exact ⟨mapGet_mapPut_same .., rfl, rfl, rfl⟩
  · rfl
  · have hlist : [f].filter (fun f => (s.rgn f.r.val).awake) = [f] := by simp [hawake]
    rw [exec, execPowerCalibration, powerCalibration]
    simp only [hlist, List.map_cons, List.map_nil, List.foldl_cons, List.foldl_nil, chargeRegion_unowned s _ howner, calibrate_inRange _ hfit hg hg' ho ho']
    refine ⟨_, rfl, ?_⟩
    rw [State.rpwr_modRpwr]
    exact ⟨clampTo_mem hg hg', clampTo_mem ho ho', rfl, rfl⟩
  · obtain ⟨t, ht, hmv, hinputs, hoor, hrange, halert⟩ := inputSample_on mv ma hon
    exact ⟨t, congrArg Host.Outcome.next ht, hmv, hinputs, by rw [hoor, Bool.or_eq_true, hbad], by rw [hrange, ← hbad, Bool.not_eq_true', Bool.not_eq_true],
      fun h => halert (hbad.2 h)⟩
  · exact congrArg Host.Outcome.next (if_neg (by rw [hcause]; exact Bool.false_ne_true))

/-! Droop. -/

/-- What a region's next step leaves of the state: all but the region's clocks and point. -/
theorem retarget_rest (s : State) (r : Nat) : ∃ rgns pw, retarget s r = { s with hub := { s.hub with clk := { s.hub.clk with rgns := rgns }, pwr := { s.hub.pwr with rgns := pw } } } := by
  unfold retarget
  dsimp only
  repeat' split
  all_goals exact ⟨_, _, rfl⟩

/-- What it leaves of the region's power state: a halt it can only end, a wait it begins only while a detector asserts. -/
theorem rpwr_retarget (s : State) (r : Nat) : ∃ df ha ph sp, (retarget s r).rpwr r = { s.rpwr r with deferred := df, halted := ha, phase := ph, setpoint := sp }
    ∧ ((s.rpwr r).halted = false → ha = false) ∧ ((s.rpwr r).deferred = false → s.drooping r = false → df = false) := by
  have hid : ∃ df ha ph sp, s.rpwr r = { s.rpwr r with deferred := df, halted := ha, phase := ph, setpoint := sp }
      ∧ ((s.rpwr r).halted = false → ha = false) ∧ ((s.rpwr r).deferred = false → s.drooping r = false → df = false) :=
    ⟨_, _, _, _, rfl, id, fun h _ => h⟩
  unfold retarget
  dsimp only
  split
  · exact hid
  · split
    · split
      · split
        next hd => exact ⟨_, _, _, _, State.rpwr_modRpwr .., id, fun _ hd' => absurd (hd'.symm.trans hd) Bool.false_ne_true⟩
        · exact ⟨_, _, _, _, State.rpwr_modRpwr .., id, fun _ _ => rfl⟩
      · split
        · exact ⟨_, _, _, _, State.rpwr_modRpwr .., id, fun _ _ => rfl⟩
        · exact ⟨_, _, _, _, State.rpwr_modRpwr .., id, fun _ _ => rfl⟩
    · split
      · exact ⟨_, _, _, _, State.rpwr_modRpwr .., fun _ => rfl, fun h _ => h⟩
      · exact hid
    · split
      · exact ⟨_, _, _, _, State.rpwr_modRpwr .., fun _ => rfl, fun h _ => h⟩
      · exact hid

/-- A region's step leaves the cells, the log, the blocks and the pins. -/
theorem retarget_keeps (s : State) (r : Nat) : (retarget s r).cells = s.cells ∧ (retarget s r).flt = s.flt ∧ (retarget s r).blocks = s.blocks := by
  obtain ⟨rgns, pw, h⟩ := retarget_rest s r
  rw [h]
  exact ⟨rfl, rfl, rfl⟩

/-- A region's power state as an assertion of droop leaves it. -/
def RgnPwr.assert (x : RgnPwr) : RgnPwr :=
  { x with stretched := true, halted := x.halted || x.rising, deferred := x.deferred || (x.phase == .idle && Nat.blt x.point x.target) }

section
variable {s : State} {r : Nat} (b d : Nat)

theorem droopAssert_short (h : (s.rgn r).awake = true) :
    droopAssert s r b d false = (s.modBlk (blkKey r b) fun x => { x with droop := setBit x.droop d true }).modRpwr r RgnPwr.assert := by
  simp only [droopAssert, h, Bool.not_true, Bool.false_eq_true, if_false]
  rfl

/-- A sustained assertion lowers the region's ceiling and takes the region's step from there. -/
theorem droopAssert_sustained (h : (s.rgn r).awake = true) :
    ∃ u, droopAssert s r b d true = retarget u r ∧ u.rpwr r = { (s.rpwr r).assert with droopCeil := (s.rpwr r).droopCeil - 1 }
      ∧ u.flt = (s.log (s.unitRec 2 0x0704 (some r) none [])).flt := by
  simp only [droopAssert, h, Bool.not_true, Bool.false_eq_true, if_false, if_true]
  refine ⟨_, rfl, ?_, rfl⟩
  exact (State.rpwr_modRpwr ((s.modBlk (blkKey r b) fun x => { x with droop := setBit x.droop d true }).modRpwr r RgnPwr.assert) r fun x => { x with droopCeil := x.droopCeil - 1 }).trans
    (congrArg (fun x : RgnPwr => { x with droopCeil := x.droopCeil - 1 }) (State.rpwr_modRpwr _ r RgnPwr.assert))

theorem stretchEnd_quiet {cycles : Nat} (hquiet : s.drooping r = false) (h : (s.rpwr r).stretched = true) :
    stretchEnd s r cycles = s.modRpwr r fun x => { x with stretched := false, stretchCnt := satAdd32 x.stretchCnt cycles } := by
  simp [stretchEnd, hquiet, h]

/-- The quiet after droop ends the halt and the wait of a step up. -/
theorem droopQuiet_quiet (hquiet : s.drooping r = false) :
    ((droopQuiet s r).rpwr r).halted = false ∧ ((droopQuiet s r).rpwr r).deferred = false ∧ (droopQuiet s r).cells = s.cells := by
  obtain ⟨df, ha, ph, sp, h, hha, hdf⟩ := rpwr_retarget (s.modRpwr r fun x => { x with halted := false, deferred := false }) r
  rw [droopQuiet, if_neg (by rw [hquiet]; exact Bool.false_ne_true), h]
  rw [State.rpwr_modRpwr] at hha hdf
  exact ⟨hha rfl, hdf rfl hquiet, (retarget_keeps ..).1⟩
end

/-! Temperatures. -/

section
variable {s : State} {r : Nat}

theorem judgeTemps_cool (hwarn : (s.rpwr r).warn = false) (hcool : ∀ u ∈ (s.rpwr r).hbmTemp :: (s.rpwr r).temps, u < 380) : judgeTemps s r = s := by
  have hany : ((s.rpwr r).hbmTemp :: (s.rpwr r).temps).any (fun t => Nat.ble 380 t) = false :=
    List.any_eq_false.2 fun u hu => by simpa using hcool u hu
  simp [judgeTemps, hwarn, hany]

theorem judgeTemps_clear (hwarn : (s.rpwr r).warn = true) (hcool : ∀ u ∈ (s.rpwr r).hbmTemp :: (s.rpwr r).temps, u < 372) :
    judgeTemps s r = s.modRpwr r fun x => { x with warn := false } := by
  have hall : ((s.rpwr r).hbmTemp :: (s.rpwr r).temps).all (fun t => Nat.blt t 372) = true :=
    List.all_eq_true.2 fun u hu => by simpa using hcool u hu
  simp only [judgeTemps, hwarn, hall, Bool.not_true, Bool.false_and, Bool.false_eq_true, if_false, Bool.and_self, if_true]

/-- A temperature of 95 °C sets the warning, with the number of the first sensor that reads one. -/
theorem judgeTemps_hot (hr : r < 16) (hwarn : (s.rpwr r).warn = false) (hhot : ∃ u ∈ (s.rpwr r).hbmTemp :: (s.rpwr r).temps, 380 ≤ u) :
    ((judgeTemps s r).rpwr r) = { s.rpwr r with warn := true }
      ∧ (judgeTemps s r).flt = (s.log (s.unitRec 2 0x0710 (some r) none
          (leBytes 1 (if 380 ≤ (s.rpwr r).hbmTemp then 150 else ((s.rpwr r).temps.findIdx? fun t => Nat.ble 380 t).getD 0)))).flt
      ∧ (s.hub.clk.hubReady = true → (judgeTemps s r).hub.clk.alert = true) := by
  have hany : ((s.rpwr r).hbmTemp :: (s.rpwr r).temps).any (fun t => Nat.ble 380 t) = true := by
    obtain ⟨u, hu, hle⟩ := hhot
    exact List.any_eq_true.2 ⟨u, hu, by simpa using hle⟩
  have hgo : (!(s.rpwr r).warn && ((s.rpwr r).hbmTemp :: (s.rpwr r).temps).any fun t => Nat.ble 380 t) = true := by rw [hwarn, hany]; rfl
  unfold judgeTemps
  rw [if_pos hgo]
  dsimp only
  rw [driveAlert_rest]
  refine ⟨State.rpwr_modRpwr s r fun x => { x with warn := true }, rfl, fun hready => ?_⟩
  have hwarned : ((List.range 16).any fun q => ((s.modRpwr r fun x => { x with warn := true }).rpwr q).warn || Nat.blt ((s.modRpwr r fun x => { x with warn := true }).rpwr q).thermal 11) = true :=
    List.any_eq_true.2 ⟨r, List.mem_range.2 hr, by rw [State.rpwr_modRpwr]; rfl⟩
  have hcause : (s.modRpwr r fun x => { x with warn := true }).alertCause = true := by
    rw [State.alertCause, hwarned, Bool.or_true, Bool.true_or]
  exact (congrArg (fun b => s.hub.clk.alert || b) ((Bool.and_eq_true _ _).mpr ⟨hready, hcause⟩)).trans (Bool.or_true _)
end

/-- Settles O35: the step that follows an assertion, the quiet or the recovery touches no more than `retarget_rest` and `rpwr_retarget` say, and the warning is `judgeTemps`'s case. -/
theorem droopAndTemperature : Obligations.DroopAndTemperature := by
  refine ⟨fun s r n d cycles => ⟨fun hawake => ?_, fun hawake => ?_, rfl, fun hquiet hstr => ?_, fun hquiet => ?_, ?_⟩,
    fun s r temps temp hawake => ⟨fun hwarn hcool => ?_, fun hwarn hhot => ?_, fun hwarn hcool => ?_, fun i hwarn hcool hfind => ?_⟩⟩
  · refine ⟨_, congrArg Host.Outcome.next (droopAssert_short n.val d.val hawake), ?_⟩
    rw [State.rpwr_modRpwr]
    exact ⟨congrArg Block.droop (mapGet_mapPut_same ..), rfl, rfl, rfl, rfl⟩
  · obtain ⟨u, hu, hpwr, hflt⟩ := droopAssert_sustained n.val d.val hawake
    obtain ⟨df, ha, ph, sp, h, -, -⟩ := rpwr_retarget u r.val
    obtain ⟨-, hlog, -⟩ := retarget_keeps u r.val
    refine ⟨_, congrArg Host.Outcome.next hu, ?_, ?_, hlog.trans hflt⟩
    · rw [h, hpwr]
    · rw [h, hpwr]
      rfl
  · exact congrArg Host.Outcome.next (stretchEnd_quiet hquiet hstr)
  · exact ⟨_, rfl, droopQuiet_quiet hquiet⟩
  · obtain ⟨df, ha, ph, sp, h, -, -⟩ := rpwr_retarget (s.modRpwr r.val fun x => { x with droopCeil := min 11 (x.droopCeil + 1) }) r.val
    obtain ⟨hcells, -, -⟩ := retarget_keeps (s.modRpwr r.val fun x => { x with droopCeil := min 11 (x.droopCeil + 1) }) r.val
    rw [State.rpwr_modRpwr] at h
    exact ⟨_, rfl, congrArg RgnPwr.droopCeil h, hcells⟩
  · have hpwr := State.rpwr_modRpwr s r.val fun x => { x with hbmTemp := temp }
    refine congrArg Host.Outcome.next ((if_pos hawake).trans (judgeTemps_cool ?_ ?_))
    · rw [hpwr]
      exact hwarn
    · rw [hpwr]
      exact List.forall_mem_cons.2 hcool
  · have hpwr := State.rpwr_modRpwr s r.val fun x => { x with hbmTemp := temp }
    obtain ⟨hset, hlog, halert⟩ := judgeTemps_hot (s := s.modRpwr r.val fun x => { x with hbmTemp := temp }) r.isLt (by rw [hpwr]; exact hwarn)
      ⟨temp, by rw [hpwr]; exact List.mem_cons_self, hhot⟩
    rw [hpwr] at hset hlog
    refine ⟨_, congrArg Host.Outcome.next (if_pos hawake), by rw [hset], by rw [hset], hlog.trans ?_, fun hready _ => halert hready⟩
    rw [if_pos hhot]
    rfl
  · have hpwr := State.rpwr_modRpwr s r.val fun x => { x with temps := temps }
    refine congrArg Host.Outcome.next ((if_pos hawake).trans ((judgeTemps_clear ?_ ?_).trans ?_))
    · rw [hpwr]
      exact hwarn
    · rw [hpwr]
      exact List.forall_mem_cons.2 hcool
    · simp [State.modRpwr, State.modPwr, State.modHub]
  · have hpwr := State.rpwr_modRpwr s r.val fun x => { x with temps := temps }
    obtain ⟨hi, hble, -⟩ := List.findIdx?_eq_some_iff_getElem.1 hfind
    obtain ⟨hset, hlog, -⟩ := judgeTemps_hot (s := s.modRpwr r.val fun x => { x with temps := temps }) r.isLt (by rw [hpwr]; exact hwarn)
      ⟨temps[i], by rw [hpwr]; exact List.mem_cons_of_mem _ (List.getElem_mem hi), by simpa using hble⟩
    rw [hpwr] at hset hlog
    refine ⟨_, congrArg Host.Outcome.next (if_pos hawake), by rw [hset], hlog.trans ?_⟩
    rw [if_neg (Nat.not_le.2 hcool), hfind]
    rfl
end Sys2Proof.Machine
end

section
/-! PROOF. A flit is received (spec/12_rinmen_fabric.md R276 to R280). -/
namespace Sys2Proof.Machine

/-! The codeword. -/

theorem Port.codeword_begins (x : Port) {symbols : Nat} (h : x.rxCount % 10 = 0) :
    (x.codeword symbols).codeLost = decide (16 < symbols)
      ∧ (x.codeword symbols).cnt = if 16 < symbols then bump x.cnt 0x44 1 else if symbols = 0 then x.cnt else bump x.cnt 0x40 1 := by
  unfold Port.codeword
  rw [if_neg (by omega)]
  split
  next hlost => exact ⟨(decide_eq_true hlost).symm, rfl⟩
  next hlost =>
    rw [decide_eq_false hlost]
    split <;> exact ⟨rfl, rfl⟩

theorem Port.codeword_within (x : Port) {symbols : Nat} (h : x.rxCount % 10 ≠ 0) : x.codeword symbols = x := if_pos h

/-- A codeword changes the port's counters and whether its flits are lost. -/
theorem Port.codeword_rest (x : Port) (symbols : Nat) : ∃ lost cnt sums, x.codeword symbols = { x with codeLost := lost, cnt := cnt, sums := sums } := by
  unfold Port.codeword
  split
  · exact ⟨_, _, _, rfl⟩
  · split
    · exact ⟨_, _, _, rfl⟩
    · split <;> exact ⟨_, _, _, rfl⟩

/-- The port with a flit's place in its codeword taken. -/
def Port.flitCounted (x : Port) (symbols : Nat) : Port := { x.codeword symbols with rxCount := x.rxCount + 1 }

/-- A flit is good: its codeword was corrected, and its check sum is right (R276, R277). -/
def goodFlit (x : Port) (f : List Byte) : Prop := x.codeLost = false ∧ f.length = 64 ∧ crc32 (f.take 60) = leAt f 60 4

/-- The port after a good flit's acknowledgement and credits (R278, R280). -/
def Port.credited (x : Port) (cv w : Nat) : Port :=
  ({ x with replay := ackReplay (field w 12 12) x.replay, resume := false }).modTx cv fun v => { v with credits := v.credits + field w 29 3 }

section
variable {size now w : Nat} {body : List Byte} {x : Port}

theorem takeFlit_outOfOrder (h : field w 0 12 ≠ (x.rxSeq + 1) % 4096) : takeFlit size now w body x = some x.gap := if_pos h

theorem takeFlit_full (h : field w 0 12 = (x.rxSeq + 1) % 4096) (hfull : size ≤ (x.rxOf (field w 24 2)).occ) : takeFlit size now w body x = none :=
  (if_neg fun hne => hne h).trans (if_pos hfull)

theorem takeFlit_taken (h : field w 0 12 = (x.rxSeq + 1) % 4096) (hroom : (x.rxOf (field w 24 2)).occ < size) :
    takeFlit size now w body x = some (takeBody now (field w 24 2) (bitAt w 28) body { x with rxSeq := field w 0 12, rxDiscard := false }) :=
  (if_neg fun hne => hne h).trans (if_neg (Nat.not_le.2 hroom))
end

section
variable {s : State} {p n : Nat} {f : List Byte}

theorem receiveFlit_bad (hport : s.portExists p = true) (hlive : (s.port p).live = true) (hbad : ¬ goodFlit ((s.port p).flitCounted n) f) :
    receiveFlit s p n f = answerFlit (s.setPort p { ((((s.port p).flitCounted n).count 0x48 1).gap) with sums := modAt (· + 1) ((s.port p).flitCounted n).sums 1 }) p := by
  have hdrop : (((s.port p).flitCounted n).codeLost || f.length != 64 || crc32 (f.take 60) != leAt f 60 4) = true := by
    simpa [goodFlit, Classical.or_iff_not_imp_left] using hbad
  unfold receiveFlit
  rw [if_neg (by simp [hport, hlive])]
  exact if_pos hdrop

/-- A good flit: more credits than were ever advertised are a violation; else its body is taken or not, and what was asked for again is sent. -/
theorem receiveFlit_good (hport : s.portExists p = true) (hlive : (s.port p).live = true) (hgood : goodFlit ((s.port p).flitCounted n) f) :
    receiveFlit s p n f =
      if ((s.port p).txOf ((s.port p).rxCount % 4)).adv < ((s.port p).txOf ((s.port p).rxCount % 4)).credits + field (leAt f 0 4) 29 3 then
        enterRetrain (s.setPort p { (s.port p).flitCounted n with replay := ackReplay (field (leAt f 0 4) 12 12) (s.port p).replay }) p 3
      else
        match (if bitAt (leAt f 0 4) 27 then some (((s.port p).flitCounted n).credited ((s.port p).rxCount % 4) (leAt f 0 4))
          else takeFlit (s.bufSize p (field (leAt f 0 4) 24 2)) s.hub.tick (leAt f 0 4) ((f.drop 4).take 56) (((s.port p).flitCounted n).credited ((s.port p).rxCount % 4) (leAt f 0 4))) with
        | none => enterRetrain (s.setPort p (((s.port p).flitCounted n).credited ((s.port p).rxCount % 4) (leAt f 0 4))) p 3
        | some y => answerFlit (if (s.port p).resume || bitAt (leAt f 0 4) 26 then resend (s.setPort p y) p else s.setPort p y) p := by
  obtain ⟨hlost, hlen, hsum⟩ := hgood
  have hkeep : ¬((((s.port p).flitCounted n).codeLost || f.length != 64 || crc32 (f.take 60) != leAt f 60 4) = true) := by
    simp [hlost, hlen, hsum]
  obtain ⟨lost, cnt, sums, hx⟩ := (s.port p).codeword_rest n
  unfold receiveFlit
  rw [if_neg (by simp [hport, hlive])]
  refine (if_neg hkeep).trans ?_
  unfold Port.flitCounted Port.credited
  rw [hx]
  rfl
end

/-- Settles O41: the codeword's three cases, then a bad flit (`receiveFlit_bad`) and a good one (`receiveFlit_good`), whose body `takeFlit` judges. -/
theorem flitsAreTakenInOrder : Obligations.FlitsAreTakenInOrder := by
  intro s p n f x w cv x0 good y
  refine ⟨fun hbegin => x.codeword_begins hbegin, fun hwithin => ?_, fun hport hlive => ⟨fun hbad => ?_, fun hgood hover => ?_, fun hgood hfits => ?_⟩⟩
  · rw [show x0 = _ from congrArg (fun y : Port => { y with rxCount := x.rxCount + 1 }) (x.codeword_within hwithin)]
  · exact congrArg Host.Outcome.next (receiveFlit_bad hport hlive hbad)
  · exact congrArg Host.Outcome.next ((receiveFlit_good hport hlive hgood).trans (if_pos hover))
  · have hrun := (receiveFlit_good hport hlive hgood).trans (if_neg (Nat.not_lt.2 hfits))
    obtain ⟨lost, cnt, sums, hx⟩ := x.codeword_rest n
    have hy : (x.flitCounted n).credited cv w = y := by
      unfold Port.flitCounted Port.credited
      simp only [y, x0, hx]
    have hseq : y.rxSeq = x.rxSeq := by rw [← hy, Port.credited, Port.flitCounted, hx]; rfl
    have hrx : ∀ i, y.rxOf i = x.rxOf i := fun i => by rw [← hy, Port.credited, Port.flitCounted, hx]; rfl
    rw [hy] at hrun
    refine ⟨fun hidle hnext hfull => ?_, fun hresume hrep => ⟨fun hidle => ?_, fun hidle hseq' => ?_, fun hidle hnext hroom => ?_⟩, fun hagain hidle => ?_⟩
    · rw [← hseq] at hnext
      rw [← hrx] at hfull
      rw [hidle, if_neg Bool.false_ne_true, takeFlit_full hnext hfull] at hrun
      exact congrArg Host.Outcome.next hrun
    · rw [hidle, if_pos rfl] at hrun
      exact congrArg Host.Outcome.next (hrun.trans (by rw [hresume, hrep]; rfl))
    · rw [← hseq] at hseq'
      rw [hidle, if_neg Bool.false_ne_true, takeFlit_outOfOrder hseq'] at hrun
      exact congrArg Host.Outcome.next (hrun.trans (by rw [hresume, hrep]; rfl))
    · rw [← hseq] at hnext
      rw [← hrx] at hroom
      rw [hidle, if_neg Bool.false_ne_true, takeFlit_taken hnext hroom] at hrun
      exact congrArg Host.Outcome.next (hrun.trans (by rw [hresume, hrep]; rfl))
    · rw [hidle, if_pos rfl] at hrun
      exact congrArg Host.Outcome.next (hrun.trans (congrArg (fun t => answerFlit t p.val) (if_pos ((Bool.or_eq_true _ _).mpr hagain))))
end Sys2Proof.Machine
end

section
/-! PROOF. A bucket that one module alone takes part in (spec/13_gradient_reduction.md R304, R306, R307, R319). -/
namespace Sys2Proof.Machine

/-! Pieces of a list. -/

theorem chunksF_flatten {α : Type} {n f : Nat} {l : List α} (hn : 0 < n) (hf : l.length ≤ f) : (chunksF n f l).flatten = l := by
  induction f generalizing l with
  | zero => rw [List.length_eq_zero_iff.1 (Nat.le_zero.1 hf)]; rfl
  | succ f ih =>
    cases l with
    | nil => rfl
    | cons a l =>
      have hrest : ((a :: l).drop n).length ≤ f := by rw [List.length_drop]; omega
      rw [chunksF, List.flatten_cons, ih hrest, List.take_append_drop]
      exact List.cons_ne_nil a l

theorem chunksF_length {α : Type} {n f : Nat} {l : List α} (hl : n ∣ l.length) : ∀ c ∈ chunksF n f l, c.length = n := by
  induction f generalizing l with
  | zero => exact fun c hc => absurd hc List.not_mem_nil
  | succ f ih =>
    cases l with
    | nil => exact fun c hc => absurd hc List.not_mem_nil
    | cons a l =>
      have hle : n ≤ (a :: l).length := Nat.le_of_dvd (Nat.succ_pos _) hl
      have hrest : n ∣ ((a :: l).drop n).length := by rw [List.length_drop]; exact Nat.dvd_sub hl (Nat.dvd_refl n)
      rw [chunksF]
      · exact List.forall_mem_cons.2 ⟨by rw [List.length_take]; omega, ih hrest⟩
      · exact List.cons_ne_nil a l

/-! Writing a result. -/

theorem Hbm.mem_write (h : Hbm) (a : Nat) (data : List Byte) (tag : Option Byte) (poison : Bool) : (h.write a data tag poison).mem = memWrite h.mem a data := rfl

/-- The first units of a result lie in HBM one after another. -/
theorem foldl_write_units {us : List BktUnit} (hus : ∀ u ∈ us, u.1.length = 64) (g : Hbm) (hwf : memWf g.mem = true) (a : Nat) (tag : Option Byte) {n : Nat} (hn : n ≤ us.length) :
    ((List.range n).foldl (fun h i => h.write (a + 64 * (0 + i)) ((us.getD i ([], [])).1) tag false) g).mem = memWrite g.mem a ((us.take n).flatMap (·.1)) := by
  induction n with
  | zero => exact (memWrite_nil hwf a).symm
  | succ n ih =>
    have hlen : ((us.take n).flatMap (·.1)).length = 64 * n := by
      rw [List.length_flatMap, List.map_congr_left fun u hu => hus u (List.mem_of_mem_take hu), List.map_const', List.sum_replicate_nat, List.length_take]
      omega
    have hget : us.getD n ([], []) = us[n] := by rw [List.getD_eq_getElem?_getD, List.getElem?_eq_getElem (by omega), Option.getD_some]
    have hmem := ih (by omega)
    rw [List.range_succ, List.foldl_append, List.foldl_cons, List.foldl_nil, Hbm.mem_write, hmem, hget, Nat.zero_add, ← hlen, memWrite_append hwf,
      List.take_succ_eq_append_getElem (by omega), List.flatMap_append, List.flatMap_singleton]

theorem unitsOf_zero (b : BktData) : unitsOf 0 b = (chunks 64 b.1).map fun c => (c, []) := rfl

/-- A whole FP32 result stands at the descriptor's destination. -/
theorem mem_writeUnits_whole {s : State} {d : FabDesc} {b : BktData} (hwf : memWf s.hbm.mem = true) (hb : b.1.length = d.bytes) :
    (writeUnits s d 0 (unitsOf 0 b)).hbm.mem = memWrite s.hbm.mem d.dst b.1 := by
  have hdvd : 64 ∣ b.1.length := by rw [hb, FabDesc.bytes]; exact Dvd.dvd.mul_left (by decide) _
  have hus : ∀ u ∈ unitsOf 0 b, u.1.length = 64 := by
    rw [unitsOf_zero, List.forall_mem_map]
    exact chunksF_length hdvd
  refine (foldl_write_units hus s.hbm hwf d.dst (some d.tag) (Nat.le_refl _)).trans ?_
  rw [List.take_length, unitsOf_zero, List.flatMap_map, List.flatMap_id', chunks, chunksF_flatten (by decide) (Nat.le_refl _)]

theorem writeScales_nil (s : State) (d : FabDesc) : writeScales s d [] = s := rfl
theorem writeUnits_cells (s : State) (d : FabDesc) (off : Nat) (us : List BktUnit) : (writeUnits s d off us).cells = s.cells := rfl

/-! Instances. -/

theorem State.modInst_hbm (s : State) (i : BktInst) (f : BktInst → BktInst) : (s.modInst i f).hbm = s.hbm := rfl
theorem State.modInst_cells (s : State) (i : BktInst) (f : BktInst → BktInst) : (s.modInst i f).cells = s.cells := rfl

theorem State.inst_modInst {s : State} {job : Word} {b n : Nat} {i : BktInst} {f : BktInst → BktInst} (h : s.inst job b n = some i)
    (hf : ∀ x, x.job = i.job ∧ x.bucket = i.bucket ∧ x.num = i.num → (f x).job = i.job ∧ (f x).bucket = i.bucket ∧ (f x).num = i.num) :
    (s.modInst i f).inst job b n = some (f i) := by
  have hkeys := List.find?_some h
  have hsame : ((fun x : BktInst => x.job == job && x.bucket == b && x.num == n) ∘ fun x => if x.job = i.job ∧ x.bucket = i.bucket ∧ x.num = i.num then f x else x)
      = fun x => x.job == job && x.bucket == b && x.num == n := by
    funext x
    simp only [Function.comp_apply]
    split
    next hx =>
      obtain ⟨h1, h2, h3⟩ := hf x hx
      obtain ⟨e1, e2, e3⟩ := hx
      rw [h1, h2, h3, e1, e2, e3]
    next => rfl
  refine (List.find?_map ..).trans ?_
  rw [hsame]
  refine (congrArg (Option.map _) h).trans ?_
  simp

/-! The events of a bucket without children and without a parent. -/

section
variable {s : State} {job : Word} {b n : Nat} {j : Job} {i : BktInst} {d : FabDesc}

/-- Leaf 0 without children writes its contribution. -/
theorem progress_alone {own : BktData} (hi : s.inst job b n = some i) (hown : i.contrib = some own) (hready : i.ready d = true) (hkids : i.kids = []) (hparent : parentPosition (d.members (bookModules j.img)) j.pos = none)
    (hto : kidPositions (d.members (bookModules j.img)) j.pos = []) :
    ∃ u, u.hbm = s.hbm ∧ u.cells = s.cells
      ∧ progress s j d job b n = writeScales (writeUnits u d 0 (unitsOf d.fmt own)) d own.2 := by
  unfold progress
  rw [hi]
  dsimp only
  rw [hready, hkids, hparent, hto, hown]
  refine ⟨_, ?_, ?_, List.foldl_fixed ..⟩ <;> rfl

theorem contribRead_clean (hj : s.job job = some j) (hi : s.inst job b n = some i) (hd : fabDesc j.img b = some d) (hnone : i.contrib = none) (hfmt : d.fmt = 0)
    (herrs : s.hbm.errs = []) (hpoison : s.hbm.poison = []) :
    contribRead s job b n = progress (s.modInst i fun i => { i with contrib := some (memRead s.hbm.mem d.src d.bytes, []) }) j d job b n := by
  have hcheck : ∀ a m, s.checkHbm a m = s := fun a m => by rw [State.checkHbm, herrs]; rfl
  unfold contribRead
  rw [hj, hi]
  dsimp only
  rw [hd]
  simp [hnone, hfmt, hcheck, hpoison]

/-- A whole result without a non-finite element. -/
theorem resultVisible_finite {r : BktData} (hj : s.job job = some j) (hi : s.inst job b n = some i) (hd : fabDesc j.img b = some d) (hr : i.result = some r)
    (hcontrib : i.contrib.isSome = true) (hfinite : nonfinites d.fmt r = []) :
    resultVisible s job b n = some (((s.modBkt fun x => (x.addEntry (digestEntry s j d i false)).count 0x8044 1).dropInst i).modBkt fun x => x.count 0x8050 0, d.doneCue) := by
  have hread : ¬(i.contrib.isNone = true) := by simpa [Option.isSome_iff_ne_none] using hcontrib
  unfold resultVisible
  rw [hj, hi]
  dsimp only
  rw [hd, hr]
  dsimp only
  rw [if_neg hread, hfinite]
  rfl

theorem exec_bucketResultVisible {b : BitVec 12} {n : BitVec 16} {r : State × Nat} (h : resultVisible s job b.toNat n.toNat = some r) :
    exec (.bucketResultVisible job b n) s = .next (addCue r.1 r.2 1) := by
  rw [exec, execBucketResultVisible, h]

theorem State.inst_dropInst (hi : s.inst job b n = some i) : (s.dropInst i).inst job b n = none := by
  have hkeys := List.find?_some hi
  simp only [Bool.and_eq_true, beq_iff_eq] at hkeys
  obtain ⟨⟨rfl, rfl⟩, rfl⟩ := hkeys
  refine List.find?_eq_none.2 fun x hx => ?_
  have hkept := (List.mem_filter.1 hx).2
  simpa [or_assoc, imp_iff_not_or] using hkept
end

/-- Settles O45: alone, the instance's contribution is its result (`progress_alone`), and its visibility ends it (`resultVisible_finite`). -/
theorem bucketsCompleteAndReport : Obligations.BucketsCompleteAndReport := by
  intro s job b n j i d hj hi hd
  refine ⟨fun hnone hfmt herrs hpoison => ?_, fun r hr hcontrib hfinite hlost harmed => ?_⟩
  · have hread := contribRead_clean hj hi hd hnone hfmt herrs hpoison
    refine ⟨congrArg Host.Outcome.next hread, fun hkids hup hparent hto hwf => ?_⟩
    have hi1 := State.inst_modInst (f := fun i => { i with contrib := some (memRead s.hbm.mem d.src d.bytes, []) }) hi fun _ h => h
    have hready : ({ i with contrib := some (memRead s.hbm.mem d.src d.bytes, []) } : BktInst).ready d = true := by simp [BktInst.ready, hkids, hup]
    obtain ⟨u, hhbm, hcells, hdone⟩ := progress_alone hi1 rfl hready hkids hparent hto
    have hmem := mem_writeUnits_whole (s := u) (d := d) (b := (memRead s.hbm.mem d.src d.bytes, [])) (by rw [hhbm, State.modInst_hbm]; exact hwf) (memRead_length ..)
    rw [hhbm, State.modInst_hbm] at hmem
    have hall : (progress (s.modInst i fun i => { i with contrib := some (memRead s.hbm.mem d.src d.bytes, []) }) j d job b.toNat n.toNat).hbm.mem
        = memWrite s.hbm.mem d.dst (memRead s.hbm.mem d.src d.bytes) := by
      rw [hdone, hfmt, writeScales_nil, hmem]
    refine ⟨_, congrArg Host.Outcome.next hread, fun x hx => ?_, fun x hx => ?_, ?_⟩
    · rw [hall, memGet_memWrite_in hwf (by rw [memRead_length]; exact hx), memRead_getD hwf _ hx]
    · rw [hall, memGet_memWrite_out hwf (by rw [memRead_length]; exact hx)]
    · rw [hdone, writeScales_nil, writeUnits_cells, hcells, State.modInst_cells]
  · have hvisible := resultVisible_finite hj hi hd hr hcontrib hfinite
    have hcue := addCue_unarmed (s := ((s.modBkt fun x => (x.addEntry (digestEntry s j d i false)).count 0x8044 1).dropInst i).modBkt fun x => x.count 0x8050 0) 1 hlost harmed
    refine ⟨_, (exec_bucketResultVisible hvisible).trans (congrArg Host.Outcome.next hcue), ?_, ?_, rfl, ?_, rfl, rfl⟩
    · exact congrArg Cue.value (mapGet_mapPut_same ..)
    · exact State.inst_dropInst (s := s.modBkt fun x => (x.addEntry (digestEntry s j d i false)).count 0x8044 1) hi
    · exact mapGet_mapPut_same ..

end Sys2Proof.Machine
end
section
/-! PROOF. A bucket packet that leaves its port lets the port send on (spec/13_gradient_reduction.md R307; spec/12_rinmen_fabric.md R280; R157). -/
namespace Sys2Proof.Machine

/-- An image with one descriptor of level 3. -/
def bucketImg : List Byte := ((((((List.replicate 0xE8 0).set 0x14 1).set 0x80 7).set 0x84 0x48).set 0x88 0xA0).set 0xA0 1 |>.set 0xA4 8 |>.set 0xA8 3)
/-- Its job. -/
def bucketJob : Job :=
  { id := 7, session := 1, keySlot := 0, img := bucketImg, pos := 0, regions := 1, rootIdent := 0, root := true, t0 := some 0, begun := true, epoch := 0, sTick := 0, kSteps := 0, kSrc := 0,
    checks := 0, selfSteps := 0, faulted := false, cause := none, faultDue := none, fired := [], staged := [], applied := [], chg := none, nextInst := [], homePorts := [], beats := [],
    events := [], lostEvents := 0, kOf := [], doneAt := [], slack := none, ran := 0, ended := 0, pool := none, allocs := [], reports := [], allocDue := [] }
/-- Its bucket waits for the stream of child 1. -/
def openInst : BktInst := ⟨7, 0, 0, none, [(1, [])], none, [], none, 0⟩
/-- The child's first unit. -/
def childUnit : Packet := ⟨mkH0 4 1 1 5 6 0 false, BitVec.ofNat 64 (7 * 2 ^ 32), BitVec.ofNat 64 (2 ^ 32), List.replicate 64 0⟩
/-- It has arrived at a port that has the end of a cell's packet to send. -/
def busyPort : Port := { Port.reset with state := 3, arrived := [⟨childUnit, 1, 1, 0, false, 0⟩], tx := List.replicate 4 ⟨[], [0], some (0, 0), 1, 1⟩ }
/-- A cell whose remote write waits for that packet. -/
def sendingCell : Cell := { Cell.reset with units := { Cell.reset.units with outst := [⟨0, 1, 1, 0, true, none⟩] } }
def busyState : State :=
  { State.reset with
    cells := [(0, sendingCell)], jobs := [bucketJob]
    hub := { Hub.reset with fab := { Hub.reset.fab with moduleId := 5, ports := [(0, busyPort)] }, bkt := { Hub.reset.bkt with insts := [openInst] } } }
/-- Its descriptor: 1 MiB of FP32. -/
def bucketDesc : FabDesc := ⟨0, 1, 0, 0, 0, 0, 0, 0, 0, 0, true⟩

/-- The remote write ends: its packet has entered the replay buffer. -/
theorem cells_busyState_reduced : (bucketPacket busyState 0 childUnit 4).cells ≠ busyState.cells := by decide +kernel

/-- Refutes O46: the statement keeps the cells where a good REDUCE is taken. The packet leaves its port, whose buffers it frees, and the port sends what waits there (R280); with the last byte of a cell's PUT the packet enters the replay buffer and the cell's outstanding instruction ends (R157). -/
theorem not_bucketPacketsAndFailures : ¬ Obligations.BucketPacketsAndFailures := by
  rintro ⟨hpackets, -⟩
  obtain ⟨hjob, -⟩ := hpackets busyState 0 childUnit
  obtain ⟨hinst, -⟩ := hjob bucketJob (by decide +kernel) rfl rfl
  obtain ⟨-, -, hgood, -⟩ := hinst openInst bucketDesc (by decide +kernel) (by decide +kernel)
  obtain ⟨hreduce, -⟩ := hgood (by decide +kernel) (by decide +kernel)
  obtain ⟨t, ht, hcells, -⟩ := hreduce (by decide +kernel) rfl
  obtain rfl : bucketPacket busyState 0 childUnit 4 = t := Host.Outcome.next.inj ht
  exact cells_busyState_reduced hcells
end Sys2Proof.Machine
end

section
/-! PROOF. Records on their way to the log, the ring, and the timers of the log and of the hub's memory (spec/18_faults_fencing.md R413 to R423). -/
namespace Sys2Proof.Machine

/-! Hops (R413). -/

section
variable {s : State} {x : Rec}

/-- A record that is no stop faults no job. -/
theorem stopFaults_noStop (h : x.isStop = false) : stopFaults s x = s := by
  rw [stopFaults, h]
  rfl

theorem blockArrival_held {bk : Nat} {rest : List Rec} {a : Aggr} (ht : (s.blk bk).transit = x :: rest) (ha : (s.blk bk).aggr.add x = some a) :
    blockArrival s bk = s.modBlk bk fun b => { b with transit := rest, aggr := a } := by
  rw [blockArrival, ht]
  dsimp only
  rw [ha]

theorem blockArrival_dropped {bk : Nat} {rest : List Rec} (ht : (s.blk bk).transit = x :: rest) (ha : (s.blk bk).aggr.add x = none) (hx : x.isStop = false) :
    blockArrival s bk = { s.modBlk bk fun b => { b with transit := rest, aggr := { b.aggr with lost := true }, cnt := bump b.cnt 0xE0 1 } with flt := s.flt.drop1 } := by
  rw [blockArrival, ht]
  dsimp only
  rw [ha]
  exact stopFaults_noStop hx

theorem regionTake_held {g : Nat} {a : Aggr} (ha : (s.rgn g).aggr.add x = some a) (hx : x.isStop = false) : regionTake s g x = s.modRgn g fun v => { v with aggr := a } := by
  rw [regionTake, ha]
  exact stopFaults_noStop hx

theorem regionArrival_own {g bk : Nat} {rest : List Rec} {a : Aggr} (ht : (s.rgn g).transit = x :: rest) (ha : (s.rgn g).aggr.add x = some a) (hx : x.isStop = false) :
    regionArrival s g bk = (s.modRgn g fun v => { v with transit := rest }).modRgn g fun v => { v with aggr := a } := by
  rw [regionArrival, ht]
  exact regionTake_held (by rw [State.rgn_modRgn]; exact ha) hx

theorem regionArrival_block {g bk : Nat} {a a' : Aggr} (ht : (s.rgn g).transit = []) (hb : (s.blk bk).aggr.take = some (x, a)) (ha : (s.rgn g).aggr.add x = some a') (hx : x.isStop = false) :
    regionArrival s g bk = (s.modBlk bk fun b => { b with aggr := a }).modRgn g fun v => { v with aggr := a' } := by
  rw [regionArrival, ht]
  dsimp only
  rw [hb]
  exact regionTake_held ha hx

theorem State.rgn_log (s : State) (x : Rec) (r : Nat) : (s.log x).rgn r = s.rgn r := rfl

/-- A record that no judgement reads is logged, and nothing else. -/
theorem hubArrival_logged {g : Nat} {a : Aggr} (ha : (s.rgn g).aggr.take = some (x, a)) (hx : x.level ≠ 0) : hubArrival s g = (s.modRgn g fun v => { v with aggr := a }).log x := by
  rw [hubArrival, ha]
  exact if_pos hx
end

/-! The ring (R417). -/

section
variable {l : FltLog} {x : Rec}

theorem FltLog.push_short (hx : x.detail.length ≤ 12) : l.push x = l.push1 x := by
  rw [FltLog.push, Rec.parts, if_pos hx]
  rfl

theorem FltLog.push1_full (x : Rec) (h : l.ring.length = 16384) : (l.push1 x).ring = l.ring.drop 1 ++ [(l.next, x)] ∧ (l.push1 x).wrapped = true := by
  have habove : Nat.blt 16384 (l.ring ++ [(l.next, x)]).length = true := by simp [h]
  rw [FltLog.push1]
  dsimp only
  rw [habove, if_pos rfl, List.drop_append_of_le_length (by omega)]
  exact ⟨rfl, Bool.or_true _⟩

theorem FltLog.push1_room (x : Rec) (h : l.ring.length < 16384) : (l.push1 x).ring = l.ring ++ [(l.next, x)] ∧ (l.push1 x).wrapped = l.wrapped := by
  have hroom : Nat.blt 16384 (l.ring ++ [(l.next, x)]).length = false := by
    rw [Bool.eq_false_iff, ne_eq, Nat.blt_eq, List.length_append, List.length_singleton]
    omega
  rw [FltLog.push1]
  dsimp only
  rw [hroom, if_neg Bool.false_ne_true]
  exact ⟨rfl, Bool.or_false _⟩
end

/-! The timers (R414, R419, R423). -/

theorem sramCorr_passTicks (s : State) (n : Nat) : (s.passTicks n).hub.sramCorr = s.hub.sramCorr := by
  unfold State.passTicks
  split
  · rfl
  · have hrelease : ∀ t : State, (releasePass t).hub.sramCorr = t.hub.sramCorr := fun t => foldl_keeps (fun u : State => u.hub.sramCorr) (by intros; rfl) _ t
    have hcount : ∀ t : State, (countPass n t).hub.sramCorr = t.hub.sramCorr := fun t => foldl_keeps (fun u : State => u.hub.sramCorr) (by intros; rfl) _ _
    have hcredit : ∀ t : State, (creditPass n t).hub.sramCorr = t.hub.sramCorr := fun t => foldl_keeps (fun u : State => u.hub.sramCorr) (by intros; rfl) _ t
    have hpause : ∀ t : State, (pausePass n t).hub.sramCorr = t.hub.sramCorr := fun _ => rfl
    have hearly : ∀ t : State, (earlyPass n t).hub.sramCorr = t.hub.sramCorr := fun _ => rfl
    have hages : ∀ t : State, (agesPass n t).hub.sramCorr = t.hub.sramCorr := fun _ => rfl
    rw [hrelease, hpause, hcount, hcredit, hearly, hages]

/-- What a summary touches is not in the hub or the log. -/
def State.hubLog (s : State) : Hub × FltLog := (s.hub, s.flt)

theorem hubLog_cellSummaries (s : State) (k tick : Nat) : (cellSummaries s k tick).hubLog = s.hubLog := by
  unfold cellSummaries
  dsimp only
  split
  · rfl
  · refine Eq.trans rfl (foldl_keeps State.hubLog (fun t e => ?_) _ s)
    split <;> rfl

theorem hubLog_blockSummaries (s : State) (bk tick : Nat) : (blockSummaries s bk tick).hubLog = s.hubLog := by
  unfold blockSummaries
  dsimp only
  split <;> split <;> rfl

theorem hubLog_regionSummaries (s : State) (r tick : Nat) : (regionSummaries s r tick).hubLog = s.hubLog := by
  unfold regionSummaries
  dsimp only
  split <;> split <;> rfl

theorem hubLog_closeInterval (s : State) (r tick : Nat) : (closeInterval s r tick).hubLog = s.hubLog := by
  unfold closeInterval
  rw [hubLog_regionSummaries, foldl_keeps State.hubLog (fun t b => hubLog_blockSummaries t b tick), foldl_keeps State.hubLog (fun t k => hubLog_cellSummaries t k tick)]

/-- The summaries of the regions that no job holds. -/
def closeUnassigned (s : State) (tick : Nat) : State := ((List.range 16).filter fun r => !(s.rgn r).assigned).foldl (fun s r => closeInterval s r tick) s

theorem hubLog_closeUnassigned (s : State) (tick : Nat) : (closeUnassigned s tick).hubLog = s.hubLog :=
  foldl_keeps State.hubLog (fun t r => hubLog_closeInterval t r tick) _ s

/-- The summary of the hub's own memory. -/
def summarizeSram (s : State) : State :=
  if s.hub.sramCorr = 0 then s else (s.log { s.unitRec 3 0x011B none none [] with summary := true, count := s.hub.sramCorr }).modHub fun h => { h with sramCorr := 0 }

theorem summaryTimer_eq (s : State) : summaryTimer s =
    summarizeSram (closeUnassigned (s.passTicks (1048576 * (s.hub.tick / 1048576 + 1) - s.hub.tick)) (1048576 * (s.hub.tick / 1048576 + 1))) := rfl

theorem summarizeSram_hub (s : State) : (summarizeSram s).hub.tick = s.hub.tick ∧ (summarizeSram s).hub.sramCorr = 0
    ∧ (summarizeSram s).flt = if s.hub.sramCorr = 0 then s.flt else s.flt.push { s.unitRec 3 0x011B none none [] with summary := true, count := s.hub.sramCorr } := by
  unfold summarizeSram
  split
  next h => exact ⟨rfl, h, rfl⟩
  next => exact ⟨rfl, rfl, rfl⟩

theorem State.unitRec_hub {s t : State} (h : t.hub.tick = s.hub.tick) (level cls : Nat) (detail : List Byte) : t.unitRec level cls none none detail = s.unitRec level cls none none detail := by
  simp only [State.unitRec, h]

/-- The hub's part of the summary timer, at the next mark. -/
theorem summaryTimer_hub (s : State) {mark : Nat} (hmark : 1048576 * (s.hub.tick / 1048576 + 1) = mark) :
    (summaryTimer s).hub.tick = mark % 2 ^ 64 ∧ (summaryTimer s).hub.sramCorr = 0
    ∧ (summaryTimer s).flt = if s.hub.sramCorr = 0 then s.flt
      else s.flt.push { (s.modHub fun h => { h with tick := mark % 2 ^ 64 }).unitRec 3 0x011B none none [] with summary := true, count := s.hub.sramCorr } := by
  have hlt : s.hub.tick < mark := by omega
  obtain ⟨g, rs, hp, htick, -⟩ := passTicks_rest s (Nat.sub_pos_of_lt hlt)
  rw [Nat.add_sub_of_le (Nat.le_of_lt hlt)] at htick
  have hcorr : g.sramCorr = s.hub.sramCorr := (congrArg (fun u : State => u.hub.sramCorr) hp).symm.trans (sramCorr_passTicks s _)
  have hclosed : (closeUnassigned (s.passTicks (mark - s.hub.tick)) mark).hubLog = (g, s.flt) := (hubLog_closeUnassigned ..).trans (congrArg State.hubLog hp)
  rw [summaryTimer_eq, hmark]
  generalize closeUnassigned (s.passTicks (mark - s.hub.tick)) mark = v at hclosed
  obtain ⟨hhub, hflt⟩ : v.hub = g ∧ v.flt = s.flt := Prod.mk.inj hclosed
  obtain ⟨ht, hz, hf⟩ := summarizeSram_hub v
  rw [State.unitRec_hub (s := s.modHub fun h => { h with tick := mark % 2 ^ 64 }) (by rw [hhub, htick]; rfl), hhub, hcorr, hflt] at hf
  exact ⟨by rw [ht, hhub, htick], hz, hf⟩

/-- The second's summary, where the input was in range. -/
theorem secondSummary_flt {s : State} (hm : s.hub.mail.rejected = 0) (hp : s.hub.pwr.extreme = none) :
    (secondSummary s).flt = if s.hub.eth.drops = 0 then s.flt else s.flt.push { s.unitRec 3 0x0600 none none [] with summary := true, count := s.hub.eth.drops } := by
  unfold secondSummary
  rw [hm]
  dsimp only
  rw [if_pos rfl]
  by_cases he : s.hub.eth.drops = 0
  · rw [if_pos he, if_pos he, hp]
    rfl
  · rw [if_neg he, if_neg he]
    split
    next mv hmv => exact absurd (hmv.symm.trans hp) (Option.some_ne_none mv)
    next => rfl

theorem sramScrub_lost (s : State) (n a : Nat) : ∃ u, sramScrub s n [a] = warmReset u 3 := ⟨_, rfl⟩

theorem hostTakeover_moved {s : State} (htake : s.hub.takeover = true) (howner : (s.rgn s.hub.hostRgn).owner = none) (hup : (s.rgn s.hub.hostRgn).failed = false) :
    hostTakeover s = { s with cues := s.cues.filter fun c => !(Nat.blt c.1 128 || (c.1 / 512 == s.hub.hostRgn && Nat.blt (c.1 % 512) 128)) }.modHub fun x => { x with takeover := false } := by
  simp [hostTakeover, htake, howner, hup]

/-- Settles O38: each hop's case, the ring's two cases, and the timers. -/
theorem recordsReachTheLog : Obligations.RecordsReachTheLog := by
  refine ⟨fun s r n x rest => ⟨fun ht => ⟨fun a ha => ?_, fun ha hx => ?_⟩, fun ht hx a ha => ?_, fun y a ht hb hy a' ha => ?_, fun y a ha hy howner => ?_⟩, fun l x hx hl => ?_,
    fun s => ⟨fun hready => ⟨?_, ?_, fun n => ?_, fun n a _ => ?_⟩, fun htake howner hfailed => ?_⟩⟩
  · exact congrArg Host.Outcome.next (blockArrival_held ht ha)
  · refine ⟨_, congrArg Host.Outcome.next (blockArrival_dropped ht ha hx), ?_, ?_, rfl, rfl⟩
    · exact congrArg Block.aggr (mapGet_mapPut_same ..)
    · exact congrArg Block.cnt (mapGet_mapPut_same ..)
  · refine ⟨_, congrArg Host.Outcome.next (regionArrival_own ht ha hx), ?_, ?_, rfl, rfl⟩
    · rw [State.rgn_modRgn]
    · rw [State.rgn_modRgn, State.rgn_modRgn]
  · refine ⟨_, congrArg Host.Outcome.next (regionArrival_block ht hb ha hy), ?_, ?_, rfl⟩
    · rw [State.rgn_modRgn]
    · exact congrArg Block.aggr (mapGet_mapPut_same ..)
  · have hrun := hubArrival_logged ha hy
    have hown : ((hubArrival s r.val).rgn r.val).owner = (s.rgn r.val).owner := by
      rw [hrun, State.rgn_log, State.rgn_modRgn]
    refine congrArg Host.Outcome.next ((if_neg ?_).trans hrun)
    rw [hown]
    simpa [Option.isSome_iff_ne_none] using howner
  · have hnext : (l.push x).next = (l.next + 1) % 2 ^ 32 := by rw [FltLog.push_short hx]; rfl
    have hpersist : (l.push x).persist = l.persist := by rw [FltLog.push_short hx]; rfl
    have hfull := fun h : l.ring.length = 16384 => FltLog.push1_full x h
    have hroom := fun h : l.ring.length < 16384 => FltLog.push1_room x h
    rw [← FltLog.push_short hx] at hfull hroom
    refine ⟨hnext, ?_, ?_, hfull, hroom, hpersist⟩
    · rcases Nat.lt_or_eq_of_le hl with h | h
      · rw [(hroom h).1, List.getLast?_concat]
      · rw [(hfull h).1, List.getLast?_concat]
    · rcases Nat.lt_or_eq_of_le hl with h | h
      · rw [(hroom h).1, List.length_append, List.length_singleton]
        omega
      · rw [(hfull h).1, List.length_append, List.length_drop, List.length_singleton]
        omega
  · exact ⟨_, congrArg Host.Outcome.next (if_pos hready), summaryTimer_hub s rfl⟩
  · refine ⟨_, congrArg Host.Outcome.next (if_pos hready), rfl, rfl, rfl, fun he hm hp => ?_, fun he hm hp => ?_⟩
    · exact (secondSummary_flt hm hp).trans (if_pos he)
    · exact (secondSummary_flt hm hp).trans (if_neg he)
  · exact congrArg Host.Outcome.next (if_pos hready)
  · obtain ⟨u, hu⟩ := sramScrub_lost s n a
    obtain ⟨hdown, hclk⟩ := warmReset_down u 3
    exact ⟨_, congrArg Host.Outcome.next ((if_pos hready).trans hu), hdown.cells, hdown.hubReady, congrArg Clk.nextCause hclk⟩
  · refine ⟨_, congrArg Host.Outcome.next (hostTakeover_moved htake howner hfailed), rfl, fun i hi => ?_, rfl, rfl⟩
    refine mapGet_of_unlisted _ fun hmem => ?_
    obtain ⟨c, hc, hci⟩ := List.mem_map.1 hmem
    obtain ⟨-, hkept⟩ := List.mem_filter.1 hc
    rw [hci, show Nat.blt i 128 = true from by simpa using hi] at hkept
    exact Bool.false_ne_true hkept
end Sys2Proof.Machine
end

section
/-! PROOF. The module as requester (spec/14_ethernet_port.md R331, R332). -/
namespace Sys2Proof.Machine

/-! Other queue pairs. -/

section
variable (s : State) {q i : Nat}

theorem State.qp_modQp_other (f : Qp → Qp) (h : i ≠ q) : (s.modQp q f).qp i = s.qp i := mapGet_mapPut_other _ _ _ h

theorem qp_qpHears_other (bytes : Nat) (ce : Bool) (tag : VlanTag) (h : i ≠ q) : (qpHears s q bytes ce tag).qp i = s.qp i := by
  have htagged : (s.tagged q bytes tag).qp i = s.qp i := by rw [State.tagged, State.qp_qpEnergy, State.qp_modQp_other _ _ h]
  rw [qpHears_eq]
  rcases cnpAnswer_cases (s.tagged q bytes tag) q ce with hcnp | hcnp
  · rw [hcnp, State.cnpSent, State.qp_emitQp, State.qp_qpEnergy, State.qp_ethCount, State.qp_modQp_other _ _ h, htagged]
  · rw [hcnp, htagged]
end

/-! Sends again. -/

section
variable (s : State) (q : Nat)

/-- A SEND leaves once more. -/
def State.sendAgain (s : State) (q : Nat) (e : BitVec 24 × List Byte) : State := (s.qpEnergy q e.2.length 1).emitQp q (.send e.1 e.2)

theorem resendAll_eq : resendAll s q = (s.qp q).unacked.foldl (fun t e => t.sendAgain q e) s := rfl

theorem qp_sendAgain (e : BitVec 24 × List Byte) (i : Nat) : (s.sendAgain q e).qp i = s.qp i := rfl

theorem foldl_sendAgain (l : List (BitVec 24 × List Byte)) :
    (∀ i, (l.foldl (fun t e => t.sendAgain q e) s).qp i = s.qp i)
      ∧ (l.foldl (fun t e => t.sendAgain q e) s).out = s.out ++ l.map fun e => .rdma q (s.hub.eth.mark (s.qp q).tag false) (.send e.1 e.2) := by
  induction l generalizing s with
  | nil => exact ⟨fun _ => rfl, (List.append_nil _).symm⟩
  | cons e l ih =>
    obtain ⟨hqp, hout⟩ := ih (s.sendAgain q e)
    refine ⟨hqp, hout.trans ?_⟩
    rw [List.map_cons, List.append_cons]
    rfl

theorem qp_resendAll (i : Nat) : (resendAll s q).qp i = s.qp i := (foldl_sendAgain s q _).1 i

theorem out_resendAll : (resendAll s q).out = s.out ++ (s.qp q).unacked.map fun e => .rdma q (s.hub.eth.mark (s.qp q).tag false) (.send e.1 e.2) :=
  (foldl_sendAgain s q _).2
end

/-! Acknowledgements. -/

section
variable {s : State} {q : Nat}

/-- Off the event queue pairs an acknowledgement changes what waits, and nothing else. -/
theorem ackedTo_sends (psn : BitVec 24) (h : (s.qp q).kind ≠ .event) :
    ackedTo s q psn = s.modQp q fun x => { x with unacked := (s.qp q).unacked.filter fun e => psnPlace psn e.1 == .ahead, retries := 0 } := by
  have hkind : ((s.qp q).kind == .event) = false := by simpa using h
  simp only [ackedTo, hkind, Bool.false_and, Bool.false_eq_true, if_false]

/-- A queue pair as its error leaves it. -/
def Qp.failed (x : Qp) : Qp := { x with state := .error, unacked := [], write := none, retries := 0 }

theorem qpError_connected (cause : Nat) (h : (s.qp q).state = .connected) :
    qpError s q cause = ((((s.loseAnswers q).modQp q Qp.failed).logHub 0x0604 (leBytes 4 (0x100 + q) ++ [BitVec.ofNat 8 cause]))).emitQp q .dreq := by
  have hlive : ¬(((s.qp q).state == .free || (s.qp q).state == .error) = true) := by rw [h]; decide
  rw [qpError, if_neg hlive]
  rfl

theorem qp_qpError (cause : Nat) (h : (s.qp q).state = .connected) : (qpError s q cause).qp q = (s.qp q).failed := by
  rw [qpError_connected cause h]
  exact State.qp_modQp (s.loseAnswers q) q Qp.failed

theorem out_qpError (cause : Nat) (h : (s.qp q).state = .connected) : (qpError s q cause).out = s.out ++ [.rdma q (s.hub.eth.mark (s.qp q).tag false) .dreq] := by
  have htag := congrArg Qp.tag (State.qp_modQp (s.loseAnswers q) q Qp.failed)
  rw [qpError_connected cause h]
  exact congrArg (fun g => s.out ++ [.rdma q (s.hub.eth.mark g false) .dreq]) htag

theorem retryTimeout_again (hx : (s.qp q).state = .connected) (hne : (s.qp q).unacked ≠ []) (h : (s.qp q).retries < 7) :
    retryTimeout s q = resendAll (s.modQp q fun x => { x with retries := x.retries + 1 }) q := by
  simp [retryTimeout, hx, hne, h]

theorem retryTimeout_last (hx : (s.qp q).state = .connected) (hne : (s.qp q).unacked ≠ []) (h : 7 ≤ (s.qp q).retries) : retryTimeout s q = qpError s q 0 := by
  simp [retryTimeout, hx, hne, Nat.not_lt.2 h]

theorem flt_qpError (cause : Nat) (h : (s.qp q).state = .connected) :
    (qpError s q cause).flt = s.flt.push (s.unitRec 3 0x0604 none none (leBytes 4 (0x100 + q) ++ [BitVec.ofNat 8 cause])) := by
  rw [qpError_connected cause h]
  rfl
end

section
variable {s : State} {q : Fin 64} {psn : BitVec 24} {ce : Bool} {g : VlanTag}

theorem exec_rdmaAckReceived (syndrome : Byte) (hon : s.ethOn = true) (hx : (s.qp q.val).state = .connected) :
    exec (.rdmaAckReceived q psn ⟨syndrome, ce, g⟩) s = .next (
      if field syndrome.toNat 5 3 = 0 then ackedTo (qpHears s q.val 0 ce g) q.val psn
      else if field syndrome.toNat 5 3 = 1 then resendAll (ackedTo (qpHears s q.val 0 ce g) q.val (psn - 1)) q.val
      else if syndrome = 0x60 then resendAll (ackedTo (qpHears s q.val 0 ce g) q.val (psn - 1)) q.val
      else qpError (qpHears s q.val 0 ce g) q.val 3) := by
  simp [exec, execRdmaAckReceived, ackTake, hon, hx]

/-- What a NAK of sequence or of a receiver that is not ready leaves unacknowledged goes out again. -/
theorem resendAll_ackedTo (psn : BitVec 24) (hx : (s.qp q.val).state = .connected) (hkind : (s.qp q.val).kind ≠ .event) :
    let t := resendAll (ackedTo (qpHears s q.val 0 ce g) q.val psn) q.val
    (t.qp q.val).state = .connected ∧ (t.qp q.val).retries = 0
      ∧ t.out = (qpHears s q.val 0 ce g).out ++ ((s.qp q.val).unacked.filter fun e => psnPlace psn e.1 == .ahead).map fun e => .rdma q.val (s.hub.eth.mark g false) (.send e.1 e.2) := by
  obtain ⟨v, hv⟩ := qp_qpHears s q.val 0 ce g
  have hmark := (sameStores_qpHears s q.val 0 ce g).mark g false
  dsimp only
  rw [qp_resendAll, out_resendAll, ackedTo_sends psn (by rw [hv]; exact hkind), State.qp_modQp, hv, (sameStores_modQp ..).mark, hmark]
  exact ⟨hx, rfl, rfl⟩
end

/-- Settles O50: an acknowledgement is `ackedTo`, a NAK that repeats `resendAll` of what it leaves, and any other `qpError`. -/
theorem sendsAreAcknowledged : Obligations.SendsAreAcknowledged := by
  intro s q psn ce g x s1 mk hx hkind
  obtain ⟨v, hv⟩ := qp_qpHears s q.val 0 ce g
  have hconn : (s1.qp q.val).state = .connected := by rw [hv]; exact hx
  have hsend : (s1.qp q.val).kind ≠ .event := by rw [hv]; exact hkind
  have hun : (s1.qp q.val).unacked = x.unacked := by rw [hv]
  have hmark : s1.hub.eth.mark (s1.qp q.val).tag false = mk := by rw [hv, (sameStores_qpHears s q.val 0 ce g).mark]
  refine ⟨fun hon => ?_, fun hon => ?_, fun hon => ?_, fun hon => ?_, fun hne => ⟨fun hfew => ?_, fun hmany => ?_⟩⟩
  · refine ⟨_, (exec_rdmaAckReceived 0 hon hx).trans (congrArg Host.Outcome.next (ackedTo_sends psn hsend)), ?_, fun i hi => ?_, rfl⟩
    · rw [State.qp_modQp, hun]
    · rw [State.qp_modQp_other _ _ hi, qp_qpHears_other _ _ _ _ hi]
  · obtain ⟨hstate, -, hout⟩ := resendAll_ackedTo (ce := ce) (g := g) (psn - 1) hx hkind
    exact ⟨_, exec_rdmaAckReceived 0x60 hon hx, hstate, hout⟩
  · obtain ⟨hstate, hretries, hout⟩ := resendAll_ackedTo (ce := ce) (g := g) (psn - 1) hx hkind
    exact ⟨_, exec_rdmaAckReceived 0x2E hon hx, hstate, hretries, hout⟩
  · refine ⟨_, exec_rdmaAckReceived 0x63 hon hx, congrArg Qp.state (qp_qpError 3 hconn), congrArg Qp.unacked (qp_qpError 3 hconn), ?_⟩
    rw [← hmark]
    exact out_qpError 3 hconn
  · refine ⟨_, congrArg Host.Outcome.next (retryTimeout_again hx hne hfew), ?_, ?_⟩
    · rw [qp_resendAll, State.qp_modQp]
    · rw [out_resendAll, State.qp_modQp]
      rfl
  · exact ⟨_, congrArg Host.Outcome.next (retryTimeout_last hx hne hmany), congrArg Qp.state (qp_qpError 0 hx), out_qpError 0 hx, flt_qpError 0 hx⟩
end Sys2Proof.Machine
end

section
/-! PROOF. The Ethernet port's link and addresses (spec/14_ethernet_port.md R323, R325, R341). -/
namespace Sys2Proof.Machine

/-! A queue pair in error, and the others. -/

/-- A queue pair carries nothing: it is free or in error. -/
def Qp.Down (x : Qp) : Prop := x.state = .free ∨ x.state = .error

section
variable (s : State) {q i : Nat} (cause : Nat)

theorem qpError_ofDown {s : State} (h : (s.qp q).Down) : qpError s q cause = s := by
  refine if_pos ?_
  rcases h with h | h <;> rw [h] <;> rfl

theorem qpError_live {s : State} (h : ¬ (s.qp q).Down) :
    qpError s q cause = ((((s.loseAnswers q).modQp q Qp.failed).logHub 0x0604 (leBytes 4 (0x100 + q) ++ [BitVec.ofNat 8 cause]))).emitQp q .dreq := by
  refine if_neg fun hdown => h ?_
  simpa [Qp.Down] using hdown

/-- A queue pair's error leaves the port's addresses. -/
theorem eth_qpError : ∃ qps, (qpError s q cause).hub.eth = { s.hub.eth with qps := qps } := by
  by_cases h : (s.qp q).Down
  · rw [qpError_ofDown cause h]
    exact ⟨_, rfl⟩
  · rw [qpError_live cause h]
    exact ⟨_, rfl⟩

theorem down_qpError : ((qpError s q cause).qp q).Down := by
  by_cases h : (s.qp q).Down
  · rwa [qpError_ofDown cause h]
  · rw [qpError_live cause h]
    exact .inr (congrArg Qp.state (State.qp_modQp (s.loseAnswers q) q Qp.failed))

theorem qp_qpError_other (h : i ≠ q) : (qpError s q cause).qp i = s.qp i := by
  by_cases hd : (s.qp q).Down
  · rw [qpError_ofDown cause hd]
  · rw [qpError_live cause hd]
    exact State.qp_modQp_other (s.loseAnswers q) Qp.failed h

theorem dst_qpError (i : Nat) : ((qpError s q cause).qp i).dst = (s.qp i).dst := by
  by_cases hi : i = q
  · rw [hi]
    by_cases hd : (s.qp q).Down
    · rw [qpError_ofDown cause hd]
    · rw [qpError_live cause hd]
      exact (congrArg Qp.dst (State.qp_modQp (s.loseAnswers q) q Qp.failed) :)
  · rw [qp_qpError_other s cause hi]
end

/-! An address that goes. -/

/-- A queue pair goes to the error state where it is bound to an address. -/
def State.unbound (s : State) (a : BitVec 128) (q : Nat) : State := if (s.qp q).dst == a then qpError s q 1 else s

theorem unbindAddr_eq (s : State) (a : BitVec 128) : unbindAddr s a = (List.range 64).foldl (fun t q => t.unbound a q) s := rfl

section
variable (s : State) (a : BitVec 128)

theorem eth_unbound (q : Nat) : ∃ qps, (s.unbound a q).hub.eth = { s.hub.eth with qps := qps } := by
  unfold State.unbound
  split
  · exact eth_qpError s 1
  · exact ⟨_, rfl⟩

theorem qp_unbound_other {q i : Nat} (h : (s.qp i).dst ≠ a) : (s.unbound a q).qp i = s.qp i := by
  unfold State.unbound
  split
  next hq =>
    refine qp_qpError_other s 1 fun hiq => h ?_
    rw [hiq]
    exact beq_iff_eq.1 hq
  next => rfl

theorem qp_unbound_down {q i : Nat} (h : (s.qp i).Down) : (s.unbound a q).qp i = s.qp i := by
  unfold State.unbound
  split
  · by_cases hiq : i = q
    · subst hiq
      rw [qpError_ofDown 1 h]
    · exact qp_qpError_other s 1 hiq
  · rfl

theorem dst_unbound (q i : Nat) : ((s.unbound a q).qp i).dst = (s.qp i).dst := by
  unfold State.unbound
  split
  · exact dst_qpError s 1 i
  · rfl

theorem eth_foldl_unbound (l : List Nat) : ∃ qps, (l.foldl (fun t q => t.unbound a q) s).hub.eth = { s.hub.eth with qps := qps } := by
  refine List.foldlRecOn (motive := fun t : State => ∃ qps, t.hub.eth = { s.hub.eth with qps := qps }) l _ ⟨_, rfl⟩ fun t ⟨_, ht⟩ q _ => ?_
  obtain ⟨qps, hq⟩ := eth_unbound t a q
  exact ⟨qps, by rw [hq, ht]⟩

theorem qp_foldl_unbound_other (l : List Nat) {i : Nat} (h : (s.qp i).dst ≠ a) : (l.foldl (fun t q => t.unbound a q) s).qp i = s.qp i := by
  refine List.foldlRecOn (motive := fun t : State => t.qp i = s.qp i) l _ rfl fun t ht q _ => ?_
  rw [qp_unbound_other t a (by rw [ht]; exact h), ht]

theorem qp_foldl_unbound_down (l : List Nat) {i : Nat} (h : (s.qp i).Down) : (l.foldl (fun t q => t.unbound a q) s).qp i = s.qp i := by
  refine List.foldlRecOn (motive := fun t : State => t.qp i = s.qp i) l _ rfl fun t ht q _ => ?_
  rw [qp_unbound_down t a (by rw [ht]; exact h), ht]

theorem down_foldl_unbound {l : List Nat} {i : Nat} (hi : i ∈ l) (h : (s.qp i).dst = a) : ((l.foldl (fun t q => t.unbound a q) s).qp i).Down := by
  induction l generalizing s with
  | nil => exact absurd hi List.not_mem_nil
  | cons q l ih =>
    rcases List.mem_cons.1 hi with rfl | hl
    · have hdown : ((s.unbound a i).qp i).Down := by
        rw [State.unbound, if_pos (beq_iff_eq.2 h)]
        exact down_qpError s 1
      rw [List.foldl_cons, qp_foldl_unbound_down _ a l hdown]
      exact hdown
    · exact ih (s.unbound a q) hl ((dst_unbound s a q i).trans h)
end

/-- The IPv4 address goes: the client starts again, and the queue pairs bound to it are in error. -/
theorem dropIpv4_valid {s : State} (h : s.hub.eth.ipv4Valid = true) :
    (∃ qps, (dropIpv4 s).hub.eth = { s.hub.eth with ipv4 := 0, mask := 0, gateway := 0, ipv4Valid := false, dhcp := false, leaseSec := 0, qps := qps })
      ∧ (∀ q < 64, (s.qp q).dst = mapped s.hub.eth.ipv4 → ((dropIpv4 s).qp q).Down)
      ∧ (∀ q, (s.qp q).dst ≠ mapped s.hub.eth.ipv4 → (dropIpv4 s).qp q = s.qp q) := by
  have hgo : ¬((!s.hub.eth.ipv4Valid) = true) := by simp [h]
  unfold dropIpv4
  rw [if_neg hgo]
  dsimp only
  rw [unbindAddr_eq]
  refine ⟨?_, fun q hq hdst => down_foldl_unbound _ _ (List.mem_range.2 hq) hdst, fun q hdst => ?_⟩
  · obtain ⟨qps, hqps⟩ := eth_foldl_unbound ((s.modEth fun e => { e with ipv4 := 0, mask := 0, gateway := 0, ipv4Valid := false, dhcp := false, leaseSec := 0 }).logHub 0x0602 (leBytes 4 s.hub.eth.ipv4.toNat))
      (mapped s.hub.eth.ipv4) (List.range 64)
    exact ⟨qps, hqps⟩
  · exact qp_foldl_unbound_other ((s.modEth fun e => { e with ipv4 := 0, mask := 0, gateway := 0, ipv4Valid := false, dhcp := false, leaseSec := 0 }).logHub 0x0602 (leBytes 4 s.hub.eth.ipv4.toNat))
      (mapped s.hub.eth.ipv4) (List.range 64) hdst

/-! The link and the DHCP client. -/

section
variable {s : State}

theorem State.ethOn_iff : s.ethOn = true ↔ s.hub.clk.hubReady = true ∧ s.hub.eth.linkUp = true := by rw [State.ethOn, Bool.and_eq_true]

theorem linkRise_ready (hready : s.hub.clk.hubReady = true) (hlink : s.hub.eth.linkUp = false) :
    linkRise s = let t := (s.modEth fun e => { e with linkUp := true, linkChange := true }).logHub 0x0601 [1]
      if s.hub.eth.client || s.hub.eth.ipv4Valid then t else (t.modEth fun e => { e with client := true }).emit (.eth none .dhcpDiscover) := by
  rw [linkRise, if_neg (by simp [hready, hlink])]

/-- Within the second of the last count. -/
theorem echoAnswer_counted {v6 : Bool} (a b : BitVec 128) (body : List Byte) (g : VlanTag) (hon : s.ethOn = true) (htick : s.hub.tick < s.hub.eth.echoTick + 100000000) :
    echoAnswer s v6 a b body g = if !s.hub.eth.owns b || Nat.ble 1000 (if v6 then s.hub.eth.echo6 else s.hub.eth.echo4) then ethDrop s
      else (s.modEth fun e => if v6 then { e with echo6 := e.echo6 + 1 } else { e with echo4 := e.echo4 + 1 }).emit (.eth g (.echoReply v6 a b body)) := by
  simp only [echoAnswer, hon, Bool.not_true, Bool.false_eq_true, if_false, Nat.not_le.2 htick]

theorem owns_linkLocal (e : Eth) : e.owns linkLocal = true := by rw [Eth.owns, BEq.rfl, Bool.true_or, Bool.true_or]

theorem echoAnswer_answered (a b : BitVec 128) (body : List Byte) (g : VlanTag) (hon : s.ethOn = true) (htick : s.hub.tick < s.hub.eth.echoTick + 100000000)
    (hfew : s.hub.eth.echo6 < 1000) (hb : s.hub.eth.owns b = true) :
    echoAnswer s true a b body g = (s.modEth fun e => { e with echo6 := e.echo6 + 1 }).emit (.eth g (.echoReply true a b body)) := by
  have hcount : Nat.ble 1000 s.hub.eth.echo6 = false := by rw [← Bool.not_eq_true, Nat.ble_eq]; omega
  rw [echoAnswer_counted a b body g hon htick, if_neg (by rw [hb, if_pos rfl, hcount]; decide)]
  rfl

theorem echoAnswer_limit (a b : BitVec 128) (body : List Byte) (g : VlanTag) (hon : s.ethOn = true) (htick : s.hub.tick < s.hub.eth.echoTick + 100000000)
    (hmany : 1000 ≤ s.hub.eth.echo4) : echoAnswer s false a b body g = ethDrop s := by
  have hcount : Nat.ble 1000 s.hub.eth.echo4 = true := by simpa [Nat.ble_eq] using hmany
  rw [echoAnswer_counted a b body g hon htick, if_pos (by rw [if_neg Bool.false_ne_true, hcount, Bool.or_true])]

theorem setIpv4_plain (a mask gateway : Word) (dhcp : Bool) (lease : Nat) (h : s.hub.eth.ipv4Valid = false ∨ s.hub.eth.ipv4 = a) :
    setIpv4 s a mask gateway dhcp lease = s.modEth fun e => { e with ipv4 := a, mask := mask, gateway := gateway, ipv4Valid := true, dhcp := dhcp, leaseSec := lease } := by
  have hkeep : ¬((s.hub.eth.ipv4Valid && s.hub.eth.ipv4 != a) = true) := by rcases h with h | h <;> simp [h]
  unfold setIpv4
  dsimp only
  rw [if_neg hkeep]

section
variable {d : DhcpReply} (hon : s.ethOn = true) (hclient : s.hub.eth.client = true)
include hon hclient

theorem dhcpTake_offer (hd : d.kind = .offer) (hdhcp : s.hub.eth.dhcp = false) (hasked : s.hub.eth.asked = none) : dhcpTake s d = dhcpAsk s d.addr d.tag := by
  simp [dhcpTake, hon, hclient, hd, hdhcp, hasked]

theorem dhcpTake_ack (hd : d.kind = .ack) (hasked : s.hub.eth.asked = some d.addr) (h : s.hub.eth.ipv4Valid = false ∨ s.hub.eth.ipv4 = d.addr) :
    dhcpTake s d = s.modEth fun e => { e with ipv4 := d.addr, mask := d.mask, gateway := d.gateway, ipv4Valid := true, dhcp := true, leaseSec := d.leaseSec, asked := none } := by
  have htake : dhcpTake s d = setIpv4 (s.modEth fun e => { e with asked := none }) d.addr d.mask d.gateway true d.leaseSec := by
    simp [dhcpTake, hon, hclient, hd, hasked]
  exact htake.trans (setIpv4_plain d.addr d.mask d.gateway true d.leaseSec h)

theorem dhcpTake_strange (hd : d.kind = .ack) (hasked : s.hub.eth.asked ≠ some d.addr) : dhcpTake s d = s := by
  simp [dhcpTake, hon, hclient, hd, hasked]

theorem dhcpTake_nak (hd : d.kind = .nak) (hasked : s.hub.eth.asked.isSome = true) (hdhcp : s.hub.eth.dhcp = false) : dhcpTake s d = dhcpStart s d.tag := by
  simp [dhcpTake, hon, hclient, hd, hasked, hdhcp]

theorem dhcpAgain_unleased (hdhcp : s.hub.eth.dhcp = false) : dhcpAgain s = dhcpStart s none := by simp [dhcpAgain, hon, hclient, hdhcp]

theorem dhcpRenewal_leased (hdhcp : s.hub.eth.dhcp = true) : dhcpRenewal s = dhcpAsk s s.hub.eth.ipv4 none := by simp [dhcpRenewal, hon, hclient, hdhcp]

theorem leaseEnds_leased (hdhcp : s.hub.eth.dhcp = true) : leaseEnds s = dropIpv4 s := by simp [leaseEnds, (State.ethOn_iff.1 hon).1, hclient, hdhcp]
end

theorem arpAnswer_own (a : Word) (g : VlanTag) (hon : s.ethOn = true) (h : s.hub.eth.ipv4Valid = true) :
    arpAnswer s a s.hub.eth.ipv4 g = s.emit (.eth g (.arpReply a s.hub.eth.ipv4)) := by
  simp [arpAnswer, hon, h]

theorem arpAnswer_other (a b : Word) (g : VlanTag) (h : s.hub.eth.ipv4Valid = false ∨ b ≠ s.hub.eth.ipv4) : arpAnswer s a b g = s := by
  rcases h with h | h <;> simp [arpAnswer, h]

theorem neighbourAnswer_own (a b : BitVec 128) (g : VlanTag) (hon : s.ethOn = true) (h : (b == linkLocal || (s.hub.eth.ipv6Valid && b == s.hub.eth.ipv6)) = true) :
    neighbourAnswer s a b g = s.emit (.eth g (.neighbourAdvert a b)) := by
  rw [neighbourAnswer, hon, h]
  rfl
end

/-- Settles O47: each packet's case, and the lease's end is `dropIpv4_valid`. -/
theorem linkAndAddresses : Obligations.LinkAndAddresses := by
  intro s e
  refine ⟨fun hready hlink => ⟨fun hclient hvalid => ?_, fun hclient => ?_⟩, fun hon => ⟨?_, fun a g hvalid => ?_, fun a b g h => ?_, fun a g => ?_, fun a g hvalid => ?_,
    fun a b body g htick hfew hb => ?_, fun a b body g htick hmany => ?_, fun hclient => ⟨fun d hd hdhcp hasked => ?_, fun d hd hasked h => ?_, fun d hd hasked => ?_,
      fun d hd hasked hdhcp => ?_, fun hdhcp => ?_, fun hdhcp => ?_, fun hdhcp hvalid => ?_⟩⟩, rfl⟩
  · exact congrArg Host.Outcome.next ((linkRise_ready hready hlink).trans (if_neg (by simp [show s.hub.eth.client = false from hclient, show s.hub.eth.ipv4Valid = false from hvalid])))
  · exact congrArg Host.Outcome.next ((linkRise_ready hready hlink).trans (if_pos ((Bool.or_eq_true _ _).mpr (.inl hclient))))
  · exact congrArg Host.Outcome.next (if_neg (by rw [hon]; decide))
  · exact congrArg Host.Outcome.next (arpAnswer_own a g hon hvalid)
  · exact congrArg Host.Outcome.next (arpAnswer_other a b g h)
  · exact congrArg Host.Outcome.next (neighbourAnswer_own a linkLocal g hon (by rw [BEq.rfl, Bool.true_or]))
  · exact congrArg Host.Outcome.next (neighbourAnswer_own a e.ipv6 g hon (by rw [hvalid, BEq.rfl, Bool.and_self, Bool.or_true]))
  · exact congrArg Host.Outcome.next (echoAnswer_answered a b body g hon htick hfew (by rw [hb]; exact owns_linkLocal _))
  · exact ⟨_, congrArg Host.Outcome.next (echoAnswer_limit a b body g hon htick hmany), rfl, rfl⟩
  · exact congrArg Host.Outcome.next (dhcpTake_offer hon hclient hd hdhcp hasked)
  · exact congrArg Host.Outcome.next (dhcpTake_ack hon hclient hd hasked h)
  · exact congrArg Host.Outcome.next (dhcpTake_strange hon hclient hd hasked)
  · exact congrArg Host.Outcome.next (dhcpTake_nak hon hclient hd hasked hdhcp)
  · exact congrArg Host.Outcome.next (dhcpAgain_unleased hon hclient hdhcp)
  · exact congrArg Host.Outcome.next (dhcpRenewal_leased hon hclient hdhcp)
  · obtain ⟨⟨qps, heth⟩, hdown, hkept⟩ := dropIpv4_valid hvalid
    refine ⟨_, congrArg Host.Outcome.next (leaseEnds_leased hon hclient hdhcp), ?_, ?_, ?_, hdown, fun q _ hq => hkept q hq⟩
    · rw [heth]
    · rw [heth]
    · rw [heth]
      exact hclient
end Sys2Proof.Machine
end

section
/-! PROOF. Flow control and connections (spec/14_ethernet_port.md R323, R326, R327, R329, R332, R338; spec/17_power_thermal.md R405). -/
namespace Sys2Proof.Machine

/-! A queue pair that is free again (R332). -/

section
variable (s : State) {q : Nat}

/-- Discarded responses change mailboxes alone. -/
theorem qp_loseAnswers (i : Nat) : (s.loseAnswers q).qp i = s.qp i := rfl

theorem mbx_loseAnswers (b : Nat) : (s.loseAnswers q).mbx b = (s.mbx b).loseAnswer q := 
  mapGet_map (f := fun _ x => Mbx.loseAnswer q x) b rfl s.hub.mail.mbx

theorem req_loseAnswer {x : Mbx} {r : Req} (h : x.req = some r) (hq : r.m.q.val = q) : (x.loseAnswer q).req = some { r with lost := true } := by
  rw [Mbx.loseAnswer, h, Option.map_some, if_pos hq]

theorem qp_freeQp : (freeQp s q).qp q = .reset := State.qp_modQp (s.loseAnswers q) q fun _ => .reset

theorem qp_freeQp_other {i : Nat} (h : i ≠ q) : (freeQp s q).qp i = s.qp i := State.qp_modQp_other (s.loseAnswers q) (fun _ => .reset) h

theorem mbx_freeQp (b : Nat) : (freeQp s q).mbx b = (s.mbx b).loseAnswer q := mbx_loseAnswers s b

theorem qpFreed_error {s : State} (h : (s.qp q).state = .error) : qpFreed s q = freeQp s q := if_pos (by rw [h]; rfl)
end

/-! Pauses (R323, R326). -/

section
variable {s : State} (hon : s.ethOn = true)
include hon

theorem pfcTake_enabled (m : Byte) (l : List Nat) (hpfc : s.hub.eth.qos.getLsbD 15 = true) :
    pfcTake s m l = (s.ethCount 0x50 1).modEth fun e => { e with pause := (List.range 8).map fun i => if m.getLsbD i then 4 * l.getD i 0 else e.pause.getD i 0 } := by
  have hen : (s.ethCount 0x50 1).hub.eth.pfcEn = true := hpfc
  simp only [pfcTake, hon, hen, Bool.not_true, Bool.false_eq_true, if_false]

theorem pfcTake_disabled (m : Byte) (l : List Nat) (hpfc : s.hub.eth.qos.getLsbD 15 = false) : pfcTake s m l = s.ethCount 0x50 1 := by
  have hen : (s.ethCount 0x50 1).hub.eth.pfcEn = false := hpfc
  simp only [pfcTake, hon, hen, Bool.not_true, Bool.not_false, Bool.false_eq_true, if_false, if_true]

theorem pauseTake_pfc (n : BitVec 16) (hpfc : s.hub.eth.qos.getLsbD 15 = true) : pauseTake s n = s.ethCount 0x50 1 := by
  have hen : (s.ethCount 0x50 1).hub.eth.pfcEn = true := hpfc
  simp only [pauseTake, hon, hen, Bool.not_true, Bool.false_eq_true, if_false, if_true]

theorem pauseTake_plain (n : BitVec 16) (hpfc : s.hub.eth.qos.getLsbD 15 = false) :
    pauseTake s n = (s.ethCount 0x50 1).modEth fun e => { e with pause := List.replicate 8 (4 * n.toNat) } := by
  have hen : (s.ethCount 0x50 1).hub.eth.pfcEn = false := hpfc
  simp only [pauseTake, hon, hen, Bool.not_true, Bool.false_eq_true, if_false]
end

/-! Requests for a connection (R329). -/

/-- A queue pair as a request takes it. -/
def requestedQp (r : CmReq) (kind : QpKind) (psn : BitVec 24) : Qp :=
  { Qp.reset with state := .connecting, kind := kind, session := if r.service = 0 then 0 else r.session, src := r.source, dst := r.dstIp, epsn := r.psn, txPsn := psn, tag := r.tag }

section
variable {s : State} {r : CmReq}

theorem cmJudge_mailbox0 (h : r.service = 0) (hfew : s.boxConns 0 < 8) : cmJudge s r = if r.mtu = 4096 then .inl (.mailbox 0) else .inr 26 := by
  simp [cmJudge, h, hfew]

theorem cmJudge_data (h : r.service = 0x300) (hmtu : r.mtu = 4096) : cmJudge s r = if s.fromSession r then .inl .data else .inr 28 := by
  cases hs : s.fromSession r <;> simp [cmJudge, h, hmtu, hs]

theorem cmJudge_unknown (h : r.service = 0x140) : cmJudge s r = .inr 28 := by
  simp [cmJudge, h]

section
variable (hon : s.ethOn = true) (hown : s.hub.eth.owns r.dstIp = true)
include hon hown

theorem cmRequest_rejected {reason : Nat} (h : cmJudge s r = .inr reason) : cmRequest s r = cmTurnAway s r reason := by
  simp [cmRequest, hon, hown, h]

theorem cmRequest_full {kind : QpKind} (h : cmJudge s r = .inl kind) (hfull : ∀ q < 64, (s.qp q).state ≠ .free) : cmRequest s r = cmTurnAway s r 1 := by
  have hnone : (List.range 64).find? (fun q => (s.qp q).state == .free) = none := List.find?_eq_none.2 fun q hq => by simpa using hfull q (List.mem_range.1 hq)
  simp only [cmRequest, hon, hown, h, hnone, Bool.not_true, Bool.false_eq_true, if_false]

theorem cmRequest_taken {kind : QpKind} {q : Nat} (h : cmJudge s r = .inl kind) (hq : q < 64) (hfree : (s.qp q).state = .free) (hlow : ∀ i < q, (s.qp i).state ≠ .free) :
    cmRequest s r = (s.draw.1.modQp q fun _ => requestedQp r kind (s.draw.2.setWidth 24)).emitQp q .rep := by
  have hfind : (List.range 64).find? (fun q => (s.qp q).state == .free) = some q := by
    rw [List.find?_range_eq_some]
    exact ⟨by rw [hfree]; rfl, List.mem_range.2 hq, fun j hj => by simpa using hlow j hj⟩
  simp only [cmRequest, hon, hown, h, hfind, Bool.not_true, Bool.false_eq_true, if_false]
  rfl
end
end

/-! A connection's life (R329, R332). -/

section
variable {s : State} {q : Nat} (hon : s.ethOn = true)
include hon

theorem cmReject_connecting (h : (s.qp q).state = .connecting) : cmReject s q = freeQp s q := if_pos (by rw [hon, h]; rfl)

theorem cmReady_noEvent (h : (s.qp q).state = .connecting) (hkind : (s.qp q).kind ≠ .event) :
    cmReady s q = (s.modQp q fun x => { x with state := .connected }).modPwr fun p => { p with qp := mapPut p.qp q 0 } := by
  have hk : (((s.modQp q fun x => { x with state := .connected }).modPwr fun p => { p with qp := mapPut p.qp q 0 }).qp q).kind ≠ .event := by
    have hqp := State.qp_modQp s q fun x => { x with state := .connected }
    exact fun hk => hkind ((congrArg Qp.kind hqp :).symm.trans hk)
  rw [cmReady, if_neg (by rw [hon, h]; decide)]
  exact if_neg (by simpa using hk)

theorem cmDisconnect_free (g : VlanTag) (h : (s.qp q).state = .free) : cmDisconnect s q g = ethDrop s := by
  simp [cmDisconnect, hon, h]

theorem cmDisconnect_used (g : VlanTag) (h : (s.qp q).state ≠ .free) : cmDisconnect s q g = freeQp ((s.modQp q fun x => { x with tag := g }).emitQp q .drep) q := by
  simp [cmDisconnect, hon, h]

theorem cnpTake_connected (h : (s.qp q).state = .connected) : cnpTake s q = (s.ethCount 0x4C 1).qpEnergy q 0 1 := by
  simp [cnpTake, hon, h]
end

/-- Settles O48: pauses under PFC and without it, the judgement of a request, and a queue pair's life. -/
theorem pausesAndConnections : Obligations.PausesAndConnections := by
  intro s hon
  refine ⟨⟨fun hpfc => ⟨fun m l => ?_, fun n => ?_⟩, fun hpfc => ⟨fun m l => ?_, fun n => ?_⟩⟩, fun c => ?_, fun r hown => ⟨fun reason h => ?_, fun kind h => ⟨fun hfull => ?_, fun q hq hfree hlow => ?_⟩,
    fun h hfew => ?_, fun h hmtu => ?_, fun h => ?_⟩, fun q => ⟨fun hq => ⟨?_, fun hkind => ?_⟩, fun g hq => ?_, fun g hq => ?_, ?_, fun hq => ?_, fun hq => ?_⟩⟩
  · exact congrArg Host.Outcome.next (pfcTake_enabled hon m l hpfc)
  · exact congrArg Host.Outcome.next (pauseTake_pfc hon n hpfc)
  · exact congrArg Host.Outcome.next (pfcTake_disabled hon m l hpfc)
  · exact congrArg Host.Outcome.next (pauseTake_plain hon n hpfc)
  · exact congrArg Host.Outcome.next (if_pos hon)
  · exact congrArg Host.Outcome.next (cmRequest_rejected hon hown h)
  · exact congrArg Host.Outcome.next (cmRequest_full hon hown h hfull)
  · have hqp := State.qp_modQp s.draw.1 q fun _ => requestedQp r kind (s.draw.2.setWidth 24)
    refine ⟨_, congrArg Host.Outcome.next (cmRequest_taken hon hown h hq hfree hlow), ?_, ?_, ?_, ?_, ?_, ?_, fun i hi => ?_, ?_, rfl, rfl⟩
    iterate 6 rw [State.qp_emitQp, hqp]; rfl
    · exact State.qp_modQp_other s.draw.1 (fun _ => requestedQp r kind (s.draw.2.setWidth 24)) hi
    · exact congrArg (fun x : Qp => s.out ++ [.rdma q (s.hub.eth.mark x.tag false) .rep]) hqp
  · exact cmJudge_mailbox0 h hfew
  · exact cmJudge_data h hmtu
  · exact cmJudge_unknown h
  · exact congrArg Host.Outcome.next (cmReject_connecting hon hq)
  · refine ⟨_, congrArg Host.Outcome.next (cmReady_noEvent hon hq hkind), ?_, mapGet_mapPut_same .., fun i hi => ?_, rfl, rfl⟩
    · exact State.qp_modQp s q.val fun x => { x with state := .connected }
    · exact State.qp_modQp_other s (fun x => { x with state := .connected }) hi
  · exact congrArg Host.Outcome.next (cmDisconnect_free hon g hq)
  · have hqp := State.qp_modQp s q.val fun x => { x with tag := g }
    refine ⟨_, congrArg Host.Outcome.next (cmDisconnect_used hon g hq), qp_freeQp _, fun i hi => ?_, ?_, rfl⟩
    · rw [qp_freeQp_other _ hi, State.qp_emitQp, State.qp_modQp_other _ _ hi]
    · exact congrArg (fun x : Qp => s.out ++ [.rdma q.val (s.hub.eth.mark x.tag false) .drep]) hqp
  · refine ⟨qp_freeQp s, fun i hi => qp_freeQp_other s hi, rfl, rfl, fun b r hr hrq => ⟨{ r with lost := true }, ?_, rfl, rfl⟩⟩
    rw [mbx_freeQp]
    exact req_loseAnswer hr (by rw [hrq])
  · exact ⟨congrArg Host.Outcome.next (qpFreed_error hq), congrArg Host.Outcome.next (qpFreed_error hq)⟩
  · exact congrArg Host.Outcome.next (cnpTake_connected hon hq)
end Sys2Proof.Machine
end

section
/-! PROOF. The response to a request (spec/15_pyerly_mailboxes.md R343 to R346, R361, R362; spec/14_ethernet_port.md R328, R331). -/
namespace Sys2Proof.Machine

section
variable (s : State)

/-- What a SEND on a queue pair leaves: all but the port's queue pairs, its energy counts and what has been sent. -/
theorem sendOn_rest (q : Nat) (bytes : List Byte) : ∃ qps en out, sendOn s q bytes =
    { s with hub := { s.hub with eth := { s.hub.eth with qps := qps }, pwr := { s.hub.pwr with qp := en } }, out := out } := by
  unfold sendOn
  dsimp only
  split <;> exact ⟨_, _, _, rfl⟩

theorem sendOn_unconnected {s : State} {q : Nat} (bytes : List Byte) (h : (s.qp q).state ≠ .connected) : sendOn s q bytes = s := if_pos (by simpa using h)

theorem sendOn_connected {s : State} {q : Nat} (bytes : List Byte) (h : (s.qp q).state = .connected) :
    ((sendOn s q bytes).qp q).unacked = (s.qp q).unacked ++ [((s.qp q).txPsn, bytes)]
      ∧ (sendOn s q bytes).out = s.out ++ [.rdma q (s.hub.eth.mark (s.qp q).tag false) (.send (s.qp q).txPsn bytes)] := by
  have hqp := State.qp_modQp s q fun x => { x with txPsn := x.txPsn + 1, unacked := x.unacked ++ [(x.txPsn, bytes)] }
  have hup : ¬(((s.qp q).state != .connected) = true) := by simp [h]
  unfold sendOn
  rw [if_neg hup]
  exact ⟨(congrArg Qp.unacked hqp :), congrArg (fun x : Qp => s.out ++ [.rdma q (s.hub.eth.mark x.tag false) (.send (s.qp q).txPsn bytes)]) hqp⟩
end

/-! The response. -/

/-- The counts of a response with a status (R361, R362). -/
def Mail.count (m : Mail) (n status : Nat) : Mail :=
  { m with
    requests := if 0x0100 ≤ status ∧ status ≤ 0x0105 then m.requests else satAdd32 m.requests 1
    errors := if 0x0100 ≤ status then satAdd32 m.errors 1 else m.errors
    rejected := if 0x0100 ≤ status ∧ status ≤ 0x0105 then m.rejected + 1 else m.rejected
    waiting := m.waiting.filter (· != n) }

/-- A response is kept and counted, and its mailbox is free (R343, R344). -/
def State.answered (s : State) (n status : Nat) (k : Kept) : State :=
  (s.modMail fun m => m.count n status).modMbx n fun x => { x with req := none, kept := some k }

section
variable {s : State} {n status : Nat} {payload : List Byte} {r : Req}

/-- The response of an open mailbox (R344). -/
theorem respond_open (hreq : (s.mbx n).req = some r) (hopen : n ≠ 0 → (s.mbx n).session ≠ 0) :
    respond s n status payload = if r.lost then s.answered n status ⟨r.code, r.m.seq, responseBytes r.code r.m status payload⟩
      else sendOn (s.answered n status ⟨r.code, r.m.seq, responseBytes r.code r.m status payload⟩) r.m.q.val (responseBytes r.code r.m status payload) := by
  have hsame : (status / 8 = 0x0100 / 8 ∧ status ≤ 0x0105) = (0x0100 ≤ status ∧ status ≤ 0x0105) := by
    simp only [eq_iff_iff]
    omega
  have hlive : ¬((n != 0 && (s.mbx n).session == 0) = true) := by
    rw [Bool.and_eq_true, bne_iff_ne, beq_iff_eq]
    exact fun h => hopen h.1 h.2
  unfold respond
  rw [hreq]
  dsimp only
  rw [if_neg hlive]
  simp only [hsame]
  rfl

theorem mbx_answered (k : Kept) : (s.answered n status k).mbx n = { s.mbx n with req := none, kept := some k } := State.mbx_modMbx ..

theorem mbx_answered_other (k : Kept) {i : Nat} (h : i ≠ n) : (s.answered n status k).mbx i = s.mbx i := State.mbx_modMbx_other _ _ h

/-- A response leaves on its queue pair, or nowhere: the mail and the stores are as its being kept leaves them. -/
theorem respond_rest (hreq : (s.mbx n).req = some r) (hopen : n ≠ 0 → (s.mbx n).session ≠ 0) :
    ∃ qps en out, respond s n status payload = { s.answered n status ⟨r.code, r.m.seq, responseBytes r.code r.m status payload⟩ with
      hub := { (s.answered n status ⟨r.code, r.m.seq, responseBytes r.code r.m status payload⟩).hub with eth := { s.hub.eth with qps := qps }, pwr := { s.hub.pwr with qp := en } }, out := out } := by
  rw [respond_open hreq hopen]
  split
  · exact ⟨_, _, _, rfl⟩
  · exact sendOn_rest ..

theorem responseBytes_eq (code : BitVec 16) (m : Msg) : responseBytes code m status payload =
    leBytes 2 0x4D42 ++ [1, 1] ++ leBytes 2 code.toNat ++ leBytes 2 status ++ leBytes 4 m.seq.toNat ++ leBytes 4 m.session.toNat
      ++ leBytes 4 payload.length ++ leBytes 4 0 ++ leBytes 8 m.applyAt.toNat ++ leBytes 4 m.job.toNat ++ leBytes 12 0 ++ payload := by
  have hflag : leBytes 1 1 = [1] := rfl
  simp only [responseBytes, msgHeader, hflag, List.append_assoc, List.cons_append, List.nil_append]
end

/-- Settles O52: the response is kept and counted (`State.answered`), and sent where it is not lost and its queue pair is connected. -/
theorem responsesAreSentAndKept : Obligations.ResponsesAreSentAndKept := by
  intro s n status payload r hreq hopen t bytes
  have hbytes : responseBytes r.code r.m status payload = bytes := responseBytes_eq ..
  have hrun := respond_open (status := status) (payload := payload) hreq hopen
  obtain ⟨qps, en, out, hrest⟩ := respond_rest (status := status) (payload := payload) hreq hopen
  rw [hbytes] at hrun hrest
  have hmbx : ∀ i, t.mbx i = (s.answered n status ⟨r.code, r.m.seq, bytes⟩).mbx i := fun i => (congrArg (fun u : State => u.mbx i) hrest :)
  have hmail : t.hub.mail = (s.answered n status ⟨r.code, r.m.seq, bytes⟩).hub.mail := (congrArg (fun u : State => u.hub.mail) hrest :)
  refine ⟨?_, ?_, fun k hk => ?_, ?_, fun hlost => ?_, fun hup hkept => ?_, fun hdown => ?_, ?_, ?_, ?_, ?_, ?_, ?_, ?_, ?_⟩
  · rw [hmbx, mbx_answered]
  · rw [hmbx, mbx_answered]
  · rw [hmbx, mbx_answered_other _ hk]
  · rw [hmail]
    exact fun hn => by simpa using (List.mem_filter.1 hn).2
  · rw [show t = _ from hrun, if_pos hlost]
    rfl
  · obtain ⟨hunacked, hout⟩ := sendOn_connected (s := s.answered n status ⟨r.code, r.m.seq, bytes⟩) bytes hup
    rw [show t = _ from hrun, if_neg (by rw [hkept]; exact Bool.false_ne_true)]
    exact ⟨hout, hunacked⟩
  · rw [show t = _ from hrun]
    split
    · rfl
    · rw [sendOn_unconnected (s := s.answered n status ⟨r.code, r.m.seq, bytes⟩) bytes hdown]
      rfl
  · rw [hmail]
    rfl
  · rw [hmail]
    rfl
  all_goals
    rw [show t = _ from hrest]
    rfl
end Sys2Proof.Machine
end

section
/-! PROOF. A request reaches firmware (spec/14_ethernet_port.md R328, R330, R338; spec/15_pyerly_mailboxes.md R343, R344, R346, R348, R352). -/
namespace Sys2Proof.Machine

/-! A SEND that the port takes. -/

/-- What a packet that is heard, taken and acknowledged leaves: all but the queue pairs, the port's counts, the energy counts and what has been sent. -/
structure State.SameButPort (s t : State) : Prop where
  cells : t.cells = s.cells
  blocks : t.blocks = s.blocks
  regions : t.regions = s.regions
  hbm : t.hbm = s.hbm
  jobs : t.jobs = s.jobs
  flt : t.flt = s.flt
  hub : ∃ qps cnt en, t.hub = { s.hub with eth := { s.hub.eth with qps := qps, cnt := cnt }, pwr := { s.hub.pwr with qp := en } }

theorem State.SameButPort.refl (s : State) : s.SameButPort s := ⟨rfl, rfl, rfl, rfl, rfl, rfl, _, _, _, rfl⟩

theorem State.SameButPort.trans {s t u : State} (h : s.SameButPort t) (h' : t.SameButPort u) : s.SameButPort u := by
  obtain ⟨_, _, _, hhub⟩ := h.hub
  obtain ⟨_, _, _, hhub'⟩ := h'.hub
  exact ⟨h'.cells.trans h.cells, h'.blocks.trans h.blocks, h'.regions.trans h.regions, h'.hbm.trans h.hbm, h'.jobs.trans h.jobs, h'.flt.trans h.flt, _, _, _, by rw [hhub', hhub]⟩

section
variable {s t : State} (h : s.SameButPort t)
include h

theorem State.SameButPort.mail : t.hub.mail = s.hub.mail := by
  obtain ⟨_, _, _, hhub⟩ := h.hub
  rw [hhub]

theorem State.SameButPort.mbx (n : Nat) : t.mbx n = s.mbx n := congrArg (fun m : Mail => mapGet Mbx.reset m.mbx n) h.mail

end

section
variable (s : State) (q : Nat)

theorem sameButPort_modQp (f : Qp → Qp) : s.SameButPort (s.modQp q f) := ⟨rfl, rfl, rfl, rfl, rfl, rfl, _, _, _, rfl⟩
theorem sameButPort_qpEnergy (bytes n : Nat) : s.SameButPort (s.qpEnergy q bytes n) := ⟨rfl, rfl, rfl, rfl, rfl, rfl, _, _, _, rfl⟩

theorem sameButPort_ethCount (reg n : Nat) : s.SameButPort (s.ethCount reg n) := ⟨rfl, rfl, rfl, rfl, rfl, rfl, _, _, _, rfl⟩
theorem sameButPort_emitQp (o : RdmaOut) : s.SameButPort (s.emitQp q o) := ⟨rfl, rfl, rfl, rfl, rfl, rfl, _, _, _, rfl⟩

theorem sameButPort_cnpSent : s.SameButPort (s.cnpSent q) :=
  (sameButPort_modQp ..).trans ((sameButPort_ethCount ..).trans ((sameButPort_qpEnergy ..).trans (sameButPort_emitQp ..)))

theorem sameButPort_qpHears (bytes : Nat) (ce : Bool) (tag : VlanTag) : s.SameButPort (qpHears s q bytes ce tag) := by
  have htagged : s.SameButPort (s.tagged q bytes tag) := (sameButPort_modQp ..).trans (sameButPort_qpEnergy ..)
  rw [qpHears_eq]
  rcases cnpAnswer_cases (s.tagged q bytes tag) q ce with h | h
  · rw [h]
    exact htagged.trans (sameButPort_cnpSent _ q)
  · rwa [h]

theorem sameButPort_sendAck (psn : BitVec 24) (syndrome : Byte) : s.SameButPort (sendAck s q psn syndrome) := by
  unfold sendAck
  dsimp only
  split <;> exact ⟨rfl, rfl, rfl, rfl, rfl, rfl, _, _, _, rfl⟩

theorem sameButPort_sendTaken (m : Msg) : s.SameButPort (s.sendTaken m) :=
  (sameButPort_qpHears ..).trans ((sameButPort_modQp ..).trans (sameButPort_sendAck ..))
end

/-! A SEND that is answered and fills no buffer (R328, R330, R338). -/

section
variable {s : State} {code : BitVec 16} {m : Msg} {n : Nat}

/-- A SEND as the port hears it. -/
def State.heardSend (s : State) (m : Msg) : State := qpHears s m.q.val (48 + m.payload.length) m.ce m.tag

theorem psnGap_first {q : Nat} (h : (s.qp q).nakSent = false) : psnGap s q = sendAck (s.modQp q fun x => { x with nakSent := true }) q (s.qp q).epsn 0x60 := by
  rw [psnGap, h]
  rfl

section
variable (hon : s.ethOn = true)
include hon

theorem receive_unconnected (hx : (s.qp m.q.val).state ≠ .connected) : receive s code m = ethDrop s := by
  simp [receive, hon, hx]

variable (hx : (s.qp m.q.val).state = .connected)
include hx

theorem receive_noMailbox (hkind : (s.qp m.q.val).kind = .data ∨ (s.qp m.q.val).kind = .event) : receive s code m = sendAck (s.heardSend m) m.q.val m.psn 0x61 := by
  rcases hkind with hkind | hkind <;> simp [receive, hon, hx, hkind, State.heardSend]

variable (hkind : (s.qp m.q.val).kind = .mailbox n)
include hkind

theorem receive_ahead (hplace : psnPlace (s.qp m.q.val).epsn m.psn = .ahead) : receive s code m = psnGap (s.heardSend m) m.q.val := by
  simp [receive, hon, hx, hkind, hplace, State.heardSend]

theorem receive_duplicate (hplace : psnPlace (s.qp m.q.val).epsn m.psn = .duplicate) : receive s code m = sendAck (s.heardSend m) m.q.val ((s.qp m.q.val).epsn - 1) 0 := by
  simp [receive, hon, hx, hkind, hplace, State.heardSend]

variable (hplace : psnPlace (s.qp m.q.val).epsn m.psn = .expected)
include hplace

theorem receive_long (hlong : 4048 < m.payload.length) : receive s code m = sendAck (s.heardSend m) m.q.val m.psn 0x61 := by
  simp [receive, hon, hx, hkind, hplace, hlong, State.heardSend]

theorem receive_full (hfits : m.payload.length ≤ 4048) (hfull : (s.mbx n).req.isSome = true) : receive s code m = sendAck (s.heardSend m) m.q.val m.psn 0x2E := by
  have hheard : ((qpHears s m.q.val (48 + m.payload.length) m.ce m.tag).mbx n).req.isSome = true := by rw [(sameButPort_qpHears ..).mbx]; exact hfull
  simp [receive, hon, hx, hkind, hplace, Nat.not_lt.2 hfits, State.heardSend, hheard]
end

/-! A SEND that fills its mailbox's buffer (R343, R344). -/

theorem receive_mailed (h : Mailed s n m) : receive s code m = drain (fillBuffer (s.sendTaken m) n code m) := by
  have hheard : ((qpHears s m.q.val (48 + m.payload.length) m.ce m.tag).mbx n).req = none := by rw [(sameButPort_qpHears ..).mbx]; exact h.room
  simp only [receive, h.on, h.up, h.kind, h.turn, Nat.not_lt.2 h.fits, hheard, State.sendTaken, bne_self_eq_false, Bool.not_true, Bool.false_eq_true, Option.isSome_none, if_false]

/-- A repeated request is answered from the kept response (R344). -/
theorem receive_repeated {k : Kept} (h : Mailed s n m) (hidle : s.hub.mail.waiting = []) (hkept : (s.mbx n).kept = some k) (hcode : k.code = code) (hseq : k.seq = m.seq) :
    receive s code m = sendOn (s.sendTaken m) m.q.val k.bytes := by
  have hsame := sameButPort_sendTaken s m
  obtain ⟨_, _, _, hsend⟩ := sendOn_rest (s.sendTaken m) m.q.val k.bytes
  rw [receive_mailed h, fillBuffer, hsame.mbx, hkept]
  dsimp only
  rw [if_pos ⟨hcode, hseq⟩]
  refine drain_of_none ?_
  rw [hsend]
  exact (congrArg Mail.waiting hsame.mail).trans hidle

/-! A new request that nothing holds back (R343). -/

theorem State.executing_eq_nil : s.executing = [] ↔ ∀ k < 64, ∀ r, (s.mbx k).req = some r → r.executing = false := by
  rw [State.executing, List.filter_eq_nil_iff]
  refine ⟨fun hall k hk r hr => ?_, fun hall k hk => ?_⟩
  · have hnone := hall k (List.mem_range.2 hk)
    rw [hr] at hnone
    exact Bool.eq_false_iff.2 hnone
  · split
    next r hr => rw [hall k (List.mem_range.1 hk) r hr]; exact Bool.false_ne_true
    next => exact Bool.false_ne_true

/-- The request in its mailbox's buffer, in the order of arrival. -/
def State.queued (s : State) (n : Nat) (code : BitVec 16) (m : Msg) : State :=
  (s.modMbx n fun x => { x with req := some ⟨code, m, false, false⟩, kept := none }).modMail fun l => { l with waiting := l.waiting ++ [n] }

theorem mbx_queued : (s.queued n code m).mbx n = { s.mbx n with req := some ⟨code, m, false, false⟩, kept := none } :=
  State.mbx_modMbx s n fun x => { x with req := some ⟨code, m, false, false⟩, kept := none }

theorem mbx_queued_other {k : Nat} (h : k ≠ n) : (s.queued n code m).mbx k = s.mbx k :=
  State.mbx_modMbx_other s (fun x => { x with req := some ⟨code, m, false, false⟩, kept := none }) h

/-- With no other request, one may start. -/
theorem canStart_queued (hidle : s.hub.mail.waiting = []) (halone : s.executing = []) : canStart (s.queued n code m) n ⟨code, m, false, false⟩ = true := by
  have hwaiting : (s.queued n code m).hub.mail.waiting = [n] := congrArg (· ++ [n]) hidle
  have hexec : (s.queued n code m).executing = [] := by
    rw [State.executing_eq_nil] at halone ⊢
    intro k hk r hr
    by_cases hkn : k = n
    · rw [hkn, mbx_queued] at hr
      rw [← Option.some.inj hr]
    · rw [mbx_queued_other hkn] at hr
      exact halone k hk r hr
  rw [canStart, hexec, hwaiting, List.takeWhile_cons_of_neg (by simp)]
  rfl

/-- The request as firmware has it: it executes and waits no more. -/
def State.started (s : State) (n : Nat) (code : BitVec 16) (m : Msg) : State := s.modMbx n fun x => { x with req := some ⟨code, m, true, false⟩, kept := none }

/-- What firmware does with a request in its hand, by what the shared checks say. -/
def State.carriedOut (s : State) (n : Nat) (code : BitVec 16) (m : Msg) : Option Nat → State
  | some status => deny s n status
  | none => runCode code.toNat s n m

theorem execute_queued (hidle : s.hub.mail.waiting = []) :
    execute (s.queued n code m) n = (s.started n code m).carriedOut n code m (precheck (s.started n code m) n code.toNat m) := by
  have hstate : ((s.queued n code m).modMbx n fun x => { x with req := some ⟨code, m, true, false⟩ }).modMail (fun l => { l with waiting := l.waiting.filter (· != n) })
      = s.started n code m := by
    have hwait : (s.hub.mail.waiting ++ [n]).filter (· != n) = s.hub.mail.waiting := by rw [hidle]; simp
    simp only [State.queued, State.started, State.modMbx, State.modMail, State.modHub, mapPut_mapPut, mapGet_mapPut_same, hwait]
  unfold execute
  rw [mbx_queued]
  dsimp only
  rw [hstate]
  cases precheck (s.started n code m) n code.toNat m <;> rfl

/-- The checks that every command shares read the mailbox's session, the sessions and the regions. -/
theorem precheck_congr {t : State} (hmbx : (t.mbx n).session = (s.mbx n).session) (hsessions : t.hub.mail.sessions = s.hub.mail.sessions) (hregions : t.regions = s.regions) (c : Nat) :
    precheck t n c m = precheck s n c m := by
  have hpriv : t.privOf m.session = s.privOf m.session := by simp only [State.privOf, State.session, hsessions]
  have hreach : t.hubReach = s.hubReach := by simp only [State.hubReach, State.rgn, hregions]
  simp only [precheck, hmbx, hpriv, hreach]

theorem precheck_inHand (c : Nat) : precheck (s.inHand n code m) n c m = precheck s n c m := by
  have hsame := sameButPort_sendTaken s m
  refine precheck_congr (t := s.inHand n code m) ?_ (congrArg Mail.sessions hsame.mail :) hsame.regions c
  rw [State.inHand, State.mbx_modMbx, hsame.mbx]

/-- A new request is turned away by the checks that every command shares, or given its command's effect. -/
theorem receive_new (h : Mailed s n m) (hidle : s.hub.mail.waiting = []) (halone : s.executing = []) (hfresh : ∀ k, (s.mbx n).kept = some k → ¬ (k.code = code ∧ k.seq = m.seq)) :
    receive s code m = drain ((s.inHand n code m).carriedOut n code m (precheck s n code.toNat m)) := by
  have hsame := sameButPort_sendTaken s m
  have hidle' : (s.sendTaken m).hub.mail.waiting = [] := (congrArg Mail.waiting hsame.mail).trans hidle
  have halone' : (s.sendTaken m).executing = [] := by
    rw [State.executing_eq_nil] at halone ⊢
    intro k hk r hr
    rw [hsame.mbx] at hr
    exact halone k hk r hr
  have hplace : fillBuffer (s.sendTaken m) n code m = fillBuffer.place (s.sendTaken m) n code m := by
    rw [fillBuffer, hsame.mbx]
    split
    next k hk => rw [if_neg (hfresh k hk)]
    next => rfl
  rw [receive_mailed h, hplace, fillBuffer.place]
  refine congrArg drain ((if_pos (canStart_queued hidle' halone')).trans ((execute_queued hidle').trans ?_))
  exact congrArg ((s.inHand n code m).carriedOut n code m) (precheck_inHand code.toNat)

/-- The request in firmware's hand stands in its mailbox, which is open; no other waits. -/
theorem mbx_inHand : (s.inHand n code m).mbx n = { s.mbx n with req := some ⟨code, m, true, false⟩, kept := none } := by
  have hmbx := State.mbx_modMbx (s.sendTaken m) n fun x => { x with req := some ⟨code, m, true, false⟩, kept := none }
  rw [(sameButPort_sendTaken s m).mbx] at hmbx
  exact hmbx

theorem waiting_respond {t : State} {r : Req} {status : Nat} {payload : List Byte} (hreq : (t.mbx n).req = some r) (hopen : n ≠ 0 → (t.mbx n).session ≠ 0) (hidle : t.hub.mail.waiting = []) :
    (respond t n status payload).hub.mail.waiting = [] := by
  obtain ⟨_, _, _, hrest⟩ := respond_rest (status := status) (payload := payload) hreq hopen
  rw [hrest]
  exact (congrArg (List.filter (· != n)) hidle :)

theorem drain_respond {status : Nat} {payload : List Byte} (h : Mailed s n m) (hidle : s.hub.mail.waiting = []) :
    drain (respond (s.inHand n code m) n status payload) = respond (s.inHand n code m) n status payload :=
  drain_of_none (waiting_respond (congrArg Mbx.req mbx_inHand) (fun hn => by rw [mbx_inHand]; exact h.bound hn) ((congrArg Mail.waiting (sameButPort_sendTaken s m).mail).trans hidle))

/-- A served request has its command's effect. -/
theorem receive_served (h : Served s n code m) : receive s code m = drain (runCode code.toNat (s.inHand n code m) n m) := by
  rw [receive_new h.toMailed h.idle h.alone h.fresh, h.granted]
  rfl
end

/-! A SEND that fills no buffer. -/

section
variable {s : State} {q n : Nat} {psn : BitVec 24} {bytes : Nat} {ce : Bool} {tag : VlanTag} (hkind : (s.qp q).kind = .mailbox n)
include hkind

theorem busySend_request (hlong : 48 ≤ bytes) (hfits : bytes ≤ 4096) (hroom : (s.mbx n).req = none) (hon : s.ethOn = true) (hx : (s.qp q).state = .connected) :
    busySend s q psn bytes ce tag = s := by
  simp [busySend, hon, hx, hkind, hroom, Nat.not_lt.2 hlong, Nat.not_lt.2 hfits]

variable (hon : s.ethOn = true) (hx : (s.qp q).state = .connected) (hplace : psnPlace (s.qp q).epsn psn = .expected)
include hon hx hplace

theorem busySend_length (hbad : bytes < 48 ∨ 4096 < bytes) : busySend s q psn bytes ce tag = sendAck (qpHears s q bytes ce tag) q psn 0x61 := by
  have hshort : (Nat.blt bytes 48 || Nat.blt 4096 bytes) = true := by simpa using hbad
  simp [busySend, hon, hx, hkind, hplace, hshort]

theorem busySend_full (hlong : 48 ≤ bytes) (hfits : bytes ≤ 4096) (hfull : (s.mbx n).req.isSome = true) : busySend s q psn bytes ce tag = sendAck (qpHears s q bytes ce tag) q psn 0x2E := by
  have hroom : (s.mbx n).req ≠ none := Option.isSome_iff_ne_none.1 hfull
  simp [busySend, hon, hx, hkind, hplace, hroom, Nat.not_lt.2 hlong, Nat.not_lt.2 hfits]
end

/-! A request that is turned away. -/

section
variable {s : State} {n : Nat} {m : Msg} {c : Nat}

theorem precheck_header (h : headerOk m = false) : precheck s n c m = some 0x0100 := by
  simp [precheck, h]

variable (hok : headerOk m = true)
include hok

theorem precheck_unknown (h : cmdNeeds c = none) : precheck s n c m = some 0x0101 := by
  simp [precheck, hok, h]

variable {p : Priv} (hneeds : cmdNeeds c = some (.session, p))
include hneeds

/-- The checks of a command that needs a mailbox of its session. -/
theorem precheck_session : precheck s n c m =
    if n = 0 then some 0x0105 else if m.session ≠ (s.mbx n).session then some 0x0103 else if s.privOf m.session &&& p ≠ p then some 0x0104
    else if applySet m && !stageable c then some 0x0301 else if !s.hubReach && needsRegion c m then some 0x0201 else none := by
  have hbox : ((Where.session == .zero && n != 0) || (Where.session == .session && n == 0)) = (n == 0) := by cases n <;> rfl
  simp only [precheck, hok, hneeds, hbox, Bool.not_true, Bool.false_eq_true, if_false, beq_iff_eq]
end

theorem privJ_of_bit {p : Priv} : p &&& privJ = privJ ↔ p.getLsbD 0 = true := by
  revert p
  decide

/-- Settles O51: each way of turning a SEND away is a lemma about `receive`, `busySend` or `precheck`. -/
theorem requestsReachFirmware : Obligations.RequestsReachFirmware := by
  intro s m n x s1
  refine ⟨fun hon => ⟨fun hx => congrArg Host.Outcome.next (receive_unconnected hon hx), fun hx hkind => congrArg Host.Outcome.next (receive_noMailbox hon hx hkind), fun hx hkind => ?_⟩,
    fun k hmailed hidle hkept hcode hseq => congrArg Host.Outcome.next (receive_repeated hmailed hidle hkept hcode hseq), fun hmailed hidle halone hkept => ?_⟩
  · refine ⟨fun hplace hfirst => ?_, fun hplace => congrArg Host.Outcome.next (receive_duplicate hon hx hkind hplace), fun hplace hlong => congrArg Host.Outcome.next (receive_long hon hx hkind hplace hlong),
      fun hplace hfits hfull => congrArg Host.Outcome.next (receive_full hon hx hkind hplace hfits hfull), fun psn k ce g hplace hbad => congrArg Host.Outcome.next (busySend_length hkind hon hx hplace hbad),
      fun psn k ce g hplace hlong hfits hfull => congrArg Host.Outcome.next (busySend_full hkind hon hx hplace hlong hfits hfull),
      fun psn k ce g hlong hfits hroom => congrArg Host.Outcome.next (busySend_request hkind hlong hfits hroom hon hx)⟩
    obtain ⟨v, hv⟩ := qp_qpHears s m.q.val (48 + m.payload.length) m.ce m.tag
    have hepsn : (s1.qp m.q.val).epsn = x.epsn := by rw [hv]
    rw [← hepsn]
    exact congrArg Host.Outcome.next ((receive_ahead hon hx hkind hplace).trans (psnGap_first ((congrArg Qp.nakSent hv).trans hfirst)))
  · have hdenied : ∀ code status, precheck s n code.toNat m = some status → receive s code m = respond (s.inHand n code m) n status [] := fun code status hstatus => by
      rw [receive_new hmailed hidle halone (by simp [hkept]), hstatus]
      exact drain_respond hmailed hidle
    have hneeds : cmdNeeds 0x0303 = some (.session, privJ) := by decide
    refine ⟨fun status hstatus => congrArg Host.Outcome.next (hdenied 0x0303 status hstatus), precheck_header, fun hok => ?_⟩
    refine ⟨fun hn => ?_, fun hn hother => ?_, fun hn hown hpriv => ?_, fun hn hown hpriv => ?_, fun code hcode => congrArg Host.Outcome.next (hdenied code _ (precheck_unknown hok hcode))⟩
    all_goals rw [precheck_session hok hneeds]
    · exact if_pos hn
    · rw [if_neg hn, if_pos hother]
    · rw [if_neg hn, if_neg (not_not.2 hown), if_pos (by rw [Ne, privJ_of_bit, hpriv]; exact Bool.false_ne_true)]
    · have hstage : stageable 0x0303 = false := by decide
      have hregion : needsRegion 0x0303 m = true := rfl
      rw [if_neg hn, if_neg (not_not.2 hown), if_neg (not_not.2 (privJ_of_bit.2 hpriv)), hstage, hregion]
      cases s.hubReach <;> simp [applySet]
end Sys2Proof.Machine
end

section
/-! PROOF. What the abandoning of a region's work leaves of the hub's accounts: the sessions of the mailboxes and of the queue pairs (spec/15_pyerly_mailboxes.md R350, R351; spec/16_clocks_reset_startup.md R377). -/
namespace Sys2Proof.Machine

/-! The mailboxes and the queue pairs. -/

/-- Mailboxes, the requests that wait, and queue pairs. -/
def State.hosting (s : State) : SMap Mbx × List Nat × SMap Qp := (s.hub.mail.mbx, s.hub.mail.waiting, s.hub.eth.qps)

section
variable {s t : State}

theorem hosting_of_hub (h : t.hub = s.hub) : t.hosting = s.hosting := by
  rw [State.hosting, h]
  rfl

theorem hosting_of_offFabric (h : t.offFabric = s.offFabric) : t.hosting = s.hosting := (congrArg State.hosting h :)
end

section
variable (s : State)

theorem hub_failBlockChan (bk ch cls : Nat) (cells : List Nat) (quiet : Bool) (skip : Option Nat) : (failBlockChan s bk ch cls cells quiet skip).hub = s.hub :=
  (foldl_keeps State.hub (fun _ _ => State.fx_hub ..) _ _).trans (State.modBlk_hub ..)

theorem hub_failComb (bk ch cls : Nat) (img d : List Byte) (skip : Option Nat) : (failComb s bk ch cls img d skip).hub = s.hub := by
  unfold failComb
  extract_lets r ds trees blocks here cells t
  have ht : t.hub = s.hub := foldl_keeps State.hub (fun _ _ => hub_failBlockChan ..) _ _
  split
  · split
    · exact ht
    · exact ht
  · refine (foldl_keeps State.hub (fun t g => ?_) _ _).trans ht
    rfl

theorem hub_abandonChans (bk : Nat) : (abandonChans s bk).hub = s.hub := by
  unfold abandonChans
  refine (State.modBlk_hub ..).trans (foldl_keeps State.hub (fun t ch => ?_) _ _)
  split
  · exact hub_failComb ..
  · rfl

theorem hub_releaseRegion (r : Nat) : (releaseRegion s r).hub = s.hub := by
  unfold releaseRegion
  dsimp only
  split
  · rfl
  · exact (State.modRgn_hub ..).trans (foldl_keeps State.hub hub_abandonChans _ _)

theorem hosting_failInst (i : BktInst) (cause : Nat) : (failInst s i cause).hosting = s.hosting := by
  unfold failInst
  dsimp only
  split
  · split <;> rfl
  · rfl

theorem hosting_bucketDrop (job : Word) (cause : Nat) : (bucketDrop s job cause).hosting = s.hosting :=
  foldl_keeps State.hosting (fun _ _ => hosting_failInst ..) _ _

theorem hosting_applyTables : s.applyTables.hosting = s.hosting := by
  unfold State.applyTables
  split
  · rfl
  · obtain ⟨_, hrest⟩ := foldl_modRgn_rest (fun g => { g with detour := true }) s (List.range 16)
    rw [hrest]
    rfl

theorem hosting_pumpAll : (pumpAll s).hosting = s.hosting := hosting_of_offFabric (offFabric_pumpAll s)

theorem hosting_sendEach (j : Job) (ps : List Nat) (f : Nat → Packet) : (sendEach s j ps f).hosting = s.hosting :=
  foldl_keeps State.hosting (fun _ _ => hosting_of_offFabric (offFabric_inject ..)) _ _
end

/-! Who a mailbox and a queue pair belong to. -/

/-- Whose a queue pair is, what it is for, and who is at its other end. -/
def Qp.tenure (x : Qp) : Word × QpKind × NetSource := (x.session, x.kind, x.src)

/-- Every mailbox and every queue pair is its session's as before, and no request has come to wait. -/
structure State.SameTenure (s t : State) : Prop where
  box : ∀ k, (t.mbx k).session = (s.mbx k).session
  pair : ∀ q, (t.qp q).tenure = (s.qp q).tenure
  idle : s.hub.mail.waiting = [] → t.hub.mail.waiting = []

theorem State.SameTenure.refl (s : State) : s.SameTenure s := ⟨fun _ => rfl, fun _ => rfl, id⟩

theorem State.SameTenure.trans {s t u : State} (h : s.SameTenure t) (h' : t.SameTenure u) : s.SameTenure u :=
  ⟨fun k => (h'.box k).trans (h.box k), fun q => (h'.pair q).trans (h.pair q), h'.idle ∘ h.idle⟩

theorem State.SameTenure.of_hosting {s t : State} (h : t.hosting = s.hosting) : s.SameTenure t := by
  have hmbx := congrArg Prod.fst h
  have hwaiting := congrArg (fun x => x.2.1) h
  have hqps := congrArg (fun x => x.2.2) h
  exact ⟨fun k => (congrArg (fun m => (mapGet Mbx.reset m k).session) hmbx :), fun q => (congrArg (fun m => (mapGet Qp.reset m q).tenure) hqps :),
    fun hidle => hwaiting.trans hidle⟩

theorem State.SameTenure.foldl {α : Type} {f : State → α → State} (h : ∀ (t : State) a, t.SameTenure (f t a)) (l : List α) (s : State) : s.SameTenure (l.foldl f s) :=
  List.foldlRecOn (motive := s.SameTenure) l f (.refl s) fun t ht a _ => ht.trans (h t a)

section
variable (s : State)

theorem sameTenure_log (r : Rec) : s.SameTenure (s.log r) := .of_hosting rfl
theorem sameTenure_modJob (id : Word) (f : Job → Job) : s.SameTenure (s.modJob id f) := .of_hosting rfl
theorem sameTenure_modRgn (r : Nat) (f : Region → Region) : s.SameTenure (s.modRgn r f) := .of_hosting rfl

theorem sameTenure_modMbx (n : Nat) {f : Mbx → Mbx} (hf : ∀ x, (f x).session = x.session) : s.SameTenure (s.modMbx n f) := by
  refine ⟨fun k => ?_, fun _ => rfl, id⟩
  by_cases hk : k = n
  · rw [hk, State.mbx_modMbx, hf]
  · rw [State.mbx_modMbx_other _ _ hk]

theorem sameTenure_modQp (q : Nat) {f : Qp → Qp} (hf : ∀ x, (f x).tenure = x.tenure) : s.SameTenure (s.modQp q f) := by
  refine ⟨fun _ => rfl, fun i => ?_, id⟩
  by_cases hi : i = q
  · rw [hi, State.qp_modQp, hf]
  · rw [State.qp_modQp_other _ _ hi]

theorem sameTenure_sendOn (q : Nat) (bytes : List Byte) : s.SameTenure (sendOn s q bytes) := by
  unfold sendOn
  dsimp only
  split
  · exact .refl s
  · exact (sameTenure_modQp s q (f := fun x => { x with txPsn := x.txPsn + 1, unacked := x.unacked ++ [(x.txPsn, bytes)] }) fun _ => rfl).trans (.of_hosting rfl)

theorem sameTenure_loseAnswers (q : Nat) : s.SameTenure (s.loseAnswers q) :=
  ⟨fun k => by rw [mbx_loseAnswers]; rfl, fun _ => rfl, id⟩

theorem sameTenure_qpError (q cause : Nat) : s.SameTenure (qpError s q cause) := by
  by_cases h : (s.qp q).Down
  · rw [qpError_ofDown cause h]
    exact .refl s
  · rw [qpError_live cause h]
    exact (sameTenure_loseAnswers s q).trans ((sameTenure_modQp _ q (f := Qp.failed) fun _ => rfl).trans (.of_hosting rfl))

theorem sameTenure_respond (n status : Nat) (payload : List Byte) : s.SameTenure (respond s n status payload) := by
  unfold respond
  split
  · exact .refl s
  · extract_lets bytes gone t u
    have ht : s.SameTenure t := ⟨fun _ => rfl, fun _ => rfl, fun hidle => (congrArg (List.filter (· != n)) hidle :)⟩
    have hu : s.SameTenure u := ht.trans (sameTenure_modMbx t n fun _ => rfl)
    split
    · exact ht.trans (sameTenure_modMbx t n fun _ => rfl)
    · split
      · exact hu
      · exact hu.trans (sameTenure_sendOn ..)

/-! Events (R359). -/

theorem sameTenure_pumpEvents (n : Word) : s.SameTenure (pumpEvents s n) := by
  unfold pumpEvents
  split
  · split
    · exact .refl s
    · split
      · exact .refl s
      · exact sameTenure_sendOn ..
  · exact .refl s

theorem sameTenure_queueEvent (n : Word) (e : Event) : s.SameTenure (queueEvent s n e) := by
  unfold queueEvent
  split
  · split
    · dsimp only
      split <;> exact .of_hosting rfl
    · exact State.SameTenure.trans (t := s.modSession n _) (.of_hosting rfl) (sameTenure_pumpEvents ..)
  · exact .refl s

theorem sameTenure_jobEvent (id : Word) (code : Nat) (payload : List Byte) : s.SameTenure (jobEvent s id code payload) := by
  unfold jobEvent
  split
  · exact .refl s
  · dsimp only
    split
    · exact sameTenure_queueEvent ..
    · split
      · split <;> exact .of_hosting rfl
      · exact .of_hosting rfl

/-! Jobs that fault or leave (R261, R424). -/

theorem sameTenure_faultJob (id : Word) (c : Rec) (send : Bool) : s.SameTenure (faultJob s id c send) := by
  unfold faultJob
  split
  · exact .refl s
  next j _ =>
    split
    · exact .refl s
    · extract_lets s1 s2 s3 s4 log s5 s6
      have h1 : s1.hosting = s.hosting := hosting_of_hub (hub_foldl_stopForFault ..)
      have h3 : s3.hosting = s.hosting := (hosting_applyTables _).trans ((hosting_bucketDrop ..).trans h1)
      have h4 : s4.hosting = s.hosting := by
        dsimp only [s4]
        split
        · exact (hosting_pumpAll s3).trans h3
        · exact h3
      have h6 : s6.hosting = s.hosting := by
        dsimp only [s6]
        split
        · exact (hosting_sendEach ..).trans h4
        · exact h4
      exact (State.SameTenure.of_hosting h6).trans (sameTenure_jobEvent ..)

theorem sameTenure_noteReleased : s.SameTenure (noteReleased s) := by
  unfold noteReleased
  extract_lets out
  refine State.SameTenure.trans (t := s.modMail _) (.of_hosting rfl) (.foldl (fun t x => ?_) _ _)
  exact sameTenure_queueEvent ..

theorem sameTenure_releaseJob (id : Word) : s.SameTenure (releaseJob s id) := by
  unfold releaseJob
  split
  · exact .refl s
  next j _ =>
    extract_lets s1 s2 s3 s4 s5 left s6
    have h2 : s2.hosting = s.hosting := hosting_bucketDrop ..
    have h4 : s4.hosting = s.hosting := (hosting_of_hub (foldl_keeps State.hub hub_releaseRegion _ _)).trans h2
    have h5 : s5.hosting = s.hosting := by
      dsimp only [s5]
      split
      · exact h4
      · exact h4
    refine State.SameTenure.trans ?_ (sameTenure_noteReleased _)
    refine .of_hosting ((hosting_applyTables _).trans ?_)
    exact h5

theorem sameTenure_abandonLoad (id : Word) : s.SameTenure (abandonLoad s id) := by
  unfold abandonLoad
  extract_lets n s1 s2
  have h1 : s.SameTenure s1 := by
    dsimp only [s1]
    split <;> exact .of_hosting rfl
  have h2 : s.SameTenure s2 := h1.trans (sameTenure_releaseJob ..)
  clear_value n
  split
  · exact h2.trans (sameTenure_respond ..)
  · exact h2

/-! Regions that are reset, and the end of a debug unlock (R377, R446). -/

theorem sameTenure_regionReset (r cause : Nat) : s.SameTenure (regionReset s r cause) := by
  unfold regionReset
  extract_lets g detail c s1 s2 s3
  have h3 : s.SameTenure s3 := .of_hosting rfl
  split
  · exact .refl s
  · split
    next id _ =>
      split
      · exact h3.trans ((sameTenure_abandonLoad s3 id).trans (sameTenure_log ..))
      · split
        · have hreleased : (faultJob s3 id c true).SameTenure (releaseRegion (faultJob s3 id c true) r) := .of_hosting (hosting_of_hub (hub_releaseRegion ..))
          refine h3.trans ((sameTenure_faultJob s3 id c true).trans (hreleased.trans ?_))
          exact sameTenure_modJob ..
        · exact h3.trans (sameTenure_modRgn ..)
    next =>
      split
      · exact h3.trans (sameTenure_modRgn ..)
      · split
        · exact h3.trans ((sameTenure_modRgn ..).trans (sameTenure_log ..))
        · exact h3.trans (sameTenure_modRgn ..)

theorem sameTenure_closeDebug (cause : Nat) : s.SameTenure (closeDebug s cause) := by
  unfold closeDebug
  split
  · exact .refl s
  · refine State.SameTenure.trans ?_ (.foldl (fun _ _ => sameTenure_regionReset ..) _ _)
    obtain ⟨_, _, hsec⟩ := sameButSec_endDebug s cause
    rw [hsec]
    exact .of_hosting rfl

/-! A SEND that is taken. -/

theorem sameTenure_cnpSent (q : Nat) : s.SameTenure (s.cnpSent q) :=
  (sameTenure_modQp s q (f := fun x => { x with lastCnp := some s.hub.tick }) fun _ => rfl).trans (.of_hosting rfl)

theorem sameTenure_qpHears (q bytes : Nat) (ce : Bool) (tag : VlanTag) : s.SameTenure (qpHears s q bytes ce tag) := by
  have htagged : s.SameTenure (s.tagged q bytes tag) := (sameTenure_modQp s q (f := fun x => { x with tag := tag }) fun _ => rfl).trans (.of_hosting rfl)
  rw [qpHears_eq]
  rcases cnpAnswer_cases (s.tagged q bytes tag) q ce with h | h
  · rw [h]
    exact htagged.trans (sameTenure_cnpSent _ q)
  · rwa [h]

theorem sameTenure_sendAck (q : Nat) (psn : BitVec 24) (syndrome : Byte) : s.SameTenure (sendAck s q psn syndrome) := by
  unfold sendAck
  dsimp only
  split <;> exact .of_hosting rfl

theorem sameTenure_psnTaken (q n : Nat) (whole : Bool) : s.SameTenure (psnTaken s q n whole) := sameTenure_modQp _ _ fun _ => rfl

theorem sameTenure_sendTaken (m : Msg) : s.SameTenure (s.sendTaken m) :=
  (sameTenure_qpHears ..).trans ((sameTenure_psnTaken ..).trans (sameTenure_sendAck ..))

theorem sameTenure_inHand (n : Nat) (code : BitVec 16) (m : Msg) : s.SameTenure (s.inHand n code m) :=
  (sameTenure_sendTaken s m).trans (sameTenure_modMbx _ n fun _ => rfl)
end
end Sys2Proof.Machine
end

section
/-! PROOF. Sessions and security (spec/15_pyerly_mailboxes.md R349 to R352, R360; spec/19_measured_boot_attestation.md R440 to R446). -/
namespace Sys2Proof.Machine

/-! A request in firmware's hand. -/

section
variable {s : State} {n : Nat} {code : BitVec 16} {m : Msg}

/-- What taking a request in hand leaves of the hub: all but the mailboxes, the queue pairs and the port's counts. -/
theorem hub_inHand : ∃ qps cnt en mbx, (s.inHand n code m).hub =
    { s.hub with eth := { s.hub.eth with qps := qps, cnt := cnt }, pwr := { s.hub.pwr with qp := en }, mail := { s.hub.mail with mbx := mbx } } := by
  obtain ⟨qps, cnt, en, hhub⟩ := (sameButPort_sendTaken s m).hub
  refine ⟨qps, cnt, en, mapPut s.hub.mail.mbx n { s.mbx n with req := some ⟨code, m, true, false⟩, kept := none }, ?_⟩
  have hmbx : (s.sendTaken m).mbx n = s.mbx n := (sameButPort_sendTaken s m).mbx n
  rw [← hmbx]
  simp only [State.inHand, State.modMbx, State.modMail, State.modHub, State.mbx, hhub]

theorem mbx_inHand_other {k : Nat} (h : k ≠ n) : (s.inHand n code m).mbx k = s.mbx k :=
  (State.mbx_modMbx_other (s.sendTaken m) (fun x => { x with req := some ⟨code, m, true, false⟩, kept := none }) h).trans ((sameButPort_sendTaken s m).mbx k)

theorem sec_inHand : (s.inHand n code m).hub.sec = s.hub.sec := by
  obtain ⟨_, _, _, _, h⟩ := hub_inHand (s := s) (n := n) (code := code) (m := m)
  rw [h]

theorem tick_inHand : (s.inHand n code m).hub.tick = s.hub.tick := by
  obtain ⟨_, _, _, _, h⟩ := hub_inHand (s := s) (n := n) (code := code) (m := m)
  rw [h]

theorem fab_inHand : (s.inHand n code m).hub.fab = s.hub.fab := by
  obtain ⟨_, _, _, _, h⟩ := hub_inHand (s := s) (n := n) (code := code) (m := m)
  rw [h]

/-- The mail but for the mailboxes. -/
theorem mail_inHand : ∃ mbx, (s.inHand n code m).hub.mail = { s.hub.mail with mbx := mbx } := by
  obtain ⟨_, _, _, mbx, h⟩ := hub_inHand (s := s) (n := n) (code := code) (m := m)
  exact ⟨mbx, by rw [h]⟩

theorem cells_inHand : (s.inHand n code m).cells = s.cells := ((sameButPort_sendTaken s m).cells :)

theorem jobs_inHand : (s.inHand n code m).jobs = s.jobs := ((sameButPort_sendTaken s m).jobs :)

theorem key_inHand (slot : Nat) : (s.inHand n code m).key slot = s.key slot := by
  rw [State.key, sec_inHand]
  rfl

theorem nonceOk_inHand (slot : Nat) (v : List Byte) : (s.inHand n code m).nonceOk slot v = s.nonceOk slot v := by
  obtain ⟨_, hmail⟩ := mail_inHand (s := s) (n := n) (code := code) (m := m)
  rw [State.nonceOk, tick_inHand, hmail]
  rfl

theorem session_inHand (num : Word) : (s.inHand n code m).session num = s.session num := by
  obtain ⟨_, hmail⟩ := mail_inHand (s := s) (n := n) (code := code) (m := m)
  rw [State.session, hmail]
  rfl

theorem State.SameTenure.owner {s t : State} (h : s.SameTenure t) (q : Nat) : (t.qp q).session = (s.qp q).session := congrArg Prod.fst (h.pair q)

theorem State.SameTenure.kind {s t : State} (h : s.SameTenure t) (q : Nat) : (t.qp q).kind = (s.qp q).kind := congrArg (fun x => x.2.1) (h.pair q)

theorem src_inHand (q : Nat) : ((s.inHand n code m).qp q).src = (s.qp q).src := congrArg (fun x => x.2.2) ((sameTenure_inHand s n code m).pair q)

theorem not_mem_freeBoxes (h : Mailed s n m) : n ∉ s.freeBoxes := by
  intro hn
  have hfree := (List.mem_filter.1 hn).2
  simp only [Bool.and_eq_true, bne_iff_ne, beq_iff_eq] at hfree
  exact h.bound hfree.1.1 hfree.1.2

theorem freeBoxes_inHand (h : Mailed s n m) : (s.inHand n code m).freeBoxes = s.freeBoxes := by
  refine List.filter_congr fun k _ => ?_
  by_cases hk : k = n
  · subst hk
    rw [mbx_inHand]
    by_cases hzero : k = 0
    · simp [hzero]
    · have hopen : ((s.mbx k).session == 0) = false := beq_eq_false_iff_ne.2 (h.bound hzero)
      simp only [hopen, Bool.and_false, Bool.false_and]
  · rw [mbx_inHand_other hk]

/-! Answers. -/

/-- A response to the request in hand, from a state that still has it in hand, ends the command. -/
theorem drain_respond_of {u : State} {status : Nat} {payload : List Byte} (h : Mailed s n m) (hidle : s.hub.mail.waiting = []) (hmbx : u.mbx n = (s.inHand n code m).mbx n)
    (hwaiting : u.hub.mail.waiting = (s.inHand n code m).hub.mail.waiting) : drain (respond u n status payload) = respond u n status payload := by
  obtain ⟨_, hmail⟩ := mail_inHand (s := s) (n := n) (code := code) (m := m)
  refine drain_of_none (waiting_respond (r := ⟨code, m, true, false⟩) ?_ (fun hn => ?_) ?_)
  · rw [hmbx, mbx_inHand]
  · rw [hmbx, mbx_inHand]
    exact h.bound hn
  · rw [hwaiting, hmail]
    exact hidle

/-- A response to the request in hand leaves the cells and the jobs. -/
theorem respond_stores {u : State} {status : Nat} {payload : List Byte} (h : Mailed s n m) (hmbx : u.mbx n = (s.inHand n code m).mbx n) :
    (respond u n status payload).cells = u.cells ∧ (respond u n status payload).jobs = u.jobs := by
  have hbox : u.mbx n = { s.mbx n with req := some ⟨code, m, true, false⟩, kept := none } := hmbx.trans mbx_inHand
  obtain ⟨_, _, _, hrest⟩ := respond_rest (status := status) (payload := payload) (congrArg Mbx.req hbox) (fun hn => by rw [hbox]; exact h.bound hn)
  rw [hrest]
  exact ⟨rfl, rfl⟩

/-- A command that answers from the state that has the request in hand. -/
theorem receive_answer {u : State} {status : Nat} {payload : List Byte} (h : Served s n code m) (hrun : runCode code.toNat (s.inHand n code m) n m = respond u n status payload)
    (hmbx : u.mbx n = (s.inHand n code m).mbx n) (hwaiting : u.hub.mail.waiting = (s.inHand n code m).hub.mail.waiting) : receive s code m = respond u n status payload := by
  rw [receive_served h, hrun]
  exact drain_respond_of h.toMailed h.idle hmbx hwaiting
end

/-! Identity. -/

section
variable {t : State} {n : Nat} {m : Msg}

theorem identGet_of (h : m.payload = []) : identGet t n m = done t n (hubIdent ++ leBytes 8 Config.fuseSerial.toNat ++ leBytes 2 t.hub.fab.moduleId.toNat
    ++ [BitVec.ofNat 8 (b2n t.hub.sec.bootedB), 0] ++ leBytes 4 t.hub.sec.version.toNat ++ leBytes 6 Config.fuseMac.toNat) := if_neg (by simp [h])

theorem unitsGet_of (h : m.payload = []) : unitsGet t n m = done t n ((List.range 16).map (fun r => (t.rgn r).state.setWidth 8) ++ [byteOf fun i => (t.rgn i).failed, byteOf fun i => (t.rgn (8 + i)).failed, 0, 0]
    ++ (List.range 300).map fun k => byteOf fun i => (t.blk (8 * k + i)).isFenced (8 * k + i)) := if_neg (by simp [h])

theorem challenge_unknown (h : m.payload.length = 1) (hkey : t.key (leAt m.payload 0 1) = none) : challenge t n m = authFail t n (leAt m.payload 0 1) m := by
  rw [challenge, if_neg (not_not.2 h), hkey]
  rfl

theorem challenge_known (h : m.payload.length = 1) (hkey : (t.key (leAt m.payload 0 1)).isSome = true) :
    challenge t n m = done (t.modMail fun x => { x with draws := x.draws + 1, nonces := (x.nonces.filter fun o => o.slot != leAt m.payload 0 1) ++ [⟨leAt m.payload 0 1, Config.nonce t.hub.mail.draws, t.hub.tick⟩] }) n
      (digestBytes (Config.nonce t.hub.mail.draws)) := by
  have hsome : ¬((t.key (leAt m.payload 0 1)).isNone = true) := by simpa [Option.isNone_iff_eq_none, ← Option.isSome_iff_ne_none] using hkey
  unfold challenge
  dsimp only
  rw [if_neg (not_not.2 h), if_neg hsome]

theorem quote_of (h : m.payload.length = 32) : quote t n m = done t n (quoteBody t m.payload ++ beBytes 384 (Config.attestSign (digestWord (quoteBody t m.payload))).toNat
    ++ leBytes 4 (Config.certChain.take 3276).length ++ Config.certChain.take 3276) := if_neg (not_not.2 h)
end

section
variable {s : State} {n : Nat} {m : Msg}

theorem exec_identGet (h : Served s n 0x0101 m) (hlen : m.payload = []) :
    exec (.identGet m) s = .next (done (s.inHand n 0x0101 m) n (hubIdent ++ leBytes 8 Config.fuseSerial.toNat ++ leBytes 2 s.hub.fab.moduleId.toNat
      ++ [BitVec.ofNat 8 (b2n s.hub.sec.bootedB), 0] ++ leBytes 4 s.hub.sec.version.toNat ++ leBytes 6 Config.fuseMac.toNat)) := by
  refine congrArg Host.Outcome.next (receive_answer h ?_ rfl rfl)
  rw [← fab_inHand (s := s) (n := n) (code := 0x0101) (m := m), ← sec_inHand (s := s) (n := n) (code := 0x0101) (m := m)]
  exact identGet_of hlen

theorem exec_unitsGet (h : Served s n 0x0102 m) (hlen : m.payload = []) :
    exec (.unitsGet m) s = .next (done (s.inHand n 0x0102 m) n ((List.range 16).map (fun r => (s.rgn r).state.setWidth 8)
      ++ [byteOf fun i => (s.rgn i).failed, byteOf fun i => (s.rgn (8 + i)).failed, 0, 0] ++ (List.range 300).map fun k => byteOf fun i => (s.blk (8 * k + i)).isFenced (8 * k + i))) := by
  have hsame := sameButPort_sendTaken s m
  have hrgn : ∀ r, (s.inHand n 0x0102 m).rgn r = s.rgn r := fun r => (congrArg (fun g => mapGet Region.reset g r) hsame.regions :)
  have hblk : ∀ k, (s.inHand n 0x0102 m).blk k = s.blk k := fun k => (congrArg (fun g => mapGet Block.reset g k) hsame.blocks :)
  have hanswer := unitsGet_of (t := s.inHand n 0x0102 m) (n := n) hlen
  simp only [hrgn, hblk] at hanswer
  exact congrArg Host.Outcome.next (receive_answer h hanswer rfl rfl)

theorem exec_challenge_unknown (h : Served s n 0x0201 m) (hlen : m.payload.length = 1) (hkey : s.key (leAt m.payload 0 1) = none) :
    exec (.challenge m) s = .next (deny ((s.inHand n 0x0201 m).logHub 0x0611 (leBytes 1 (leAt m.payload 0 1) ++ beBytes 16 (s.qp m.q.val).src.gid.toNat)) n 0x0400) := by
  refine congrArg Host.Outcome.next (receive_answer h ?_ rfl rfl)
  rw [← src_inHand (n := n) (code := 0x0201) (m := m)]
  exact challenge_unknown hlen (by rw [key_inHand]; exact hkey)

theorem exec_challenge_known (h : Served s n 0x0201 m) (hlen : m.payload.length = 1) (hkey : (s.key (leAt m.payload 0 1)).isSome = true) :
    exec (.challenge m) s = .next (done ((s.inHand n 0x0201 m).modMail fun x => { x with
      draws := x.draws + 1, nonces := (x.nonces.filter fun o => o.slot != leAt m.payload 0 1) ++ [⟨leAt m.payload 0 1, Config.nonce s.hub.mail.draws, s.hub.tick⟩] }) n
        (digestBytes (Config.nonce s.hub.mail.draws))) := by
  obtain ⟨_, hmail⟩ := mail_inHand (s := s) (n := n) (code := 0x0201) (m := m)
  have hdraws : (s.inHand n 0x0201 m).hub.mail.draws = s.hub.mail.draws := by rw [hmail]
  have hanswer := challenge_known (t := s.inHand n 0x0201 m) (n := n) hlen (by rw [key_inHand]; exact hkey)
  rw [hdraws, tick_inHand] at hanswer
  exact congrArg Host.Outcome.next (receive_answer h hanswer rfl rfl)

theorem exec_quote (h : Served s n 0x0204 m) (hlen : m.payload.length = 32) :
    exec (.quote m) s = .next (done (s.inHand n 0x0204 m) n (quoteBody s m.payload ++ beBytes 384 (Config.attestSign (digestWord (quoteBody s m.payload))).toNat
      ++ leBytes 4 (Config.certChain.take 3276).length ++ Config.certChain.take 3276)) := by
  have hbody : quoteBody (s.inHand n 0x0204 m) m.payload = quoteBody s m.payload := by simp only [quoteBody, sec_inHand, tick_inHand]
  have hanswer := quote_of (t := s.inHand n 0x0204 m) (n := n) hlen
  rw [hbody] at hanswer
  exact congrArg Host.Outcome.next (receive_answer h hanswer rfl rfl)
end

/-! Mailboxes are bound (R350). -/

section
variable (s : State) (num : Word) (l : List Nat)

theorem bindBoxes_rest : ∃ mbx, bindBoxes s num l = s.modMail fun x => { x with mbx := mbx } := by
  refine List.foldlRecOn (motive := fun t : State => ∃ mbx, t = s.modMail fun x => { x with mbx := mbx }) l _ ⟨_, rfl⟩ fun t ⟨_, ht⟩ k _ => ?_
  rw [ht]
  exact ⟨_, rfl⟩

theorem mbx_bindBoxes_other {b : Nat} (h : b ∉ l) : (bindBoxes s num l).mbx b = s.mbx b := by
  refine List.foldlRecOn (motive := fun t : State => t.mbx b = s.mbx b) l _ rfl fun t ht k hk => ?_
  have hne : b ≠ k := fun hbk => h (hbk ▸ hk)
  exact (State.mbx_modMbx_other t (fun _ => { Mbx.reset with session := num }) hne).trans ht

theorem mbx_bindBoxes {b : Nat} (h : b ∈ l) : (bindBoxes s num l).mbx b = { Mbx.reset with session := num } := by
  induction l generalizing s with
  | nil => exact absurd h List.not_mem_nil
  | cons k l ih =>
    by_cases hl : b ∈ l
    · exact ih (s.modMbx k fun _ => { Mbx.reset with session := num }) hl
    · obtain rfl := (List.mem_cons.1 h).resolve_right hl
      exact (mbx_bindBoxes_other _ num l hl).trans (State.mbx_modMbx s b fun _ => { Mbx.reset with session := num })
end

section
variable {s : State} {n : Nat} {m : Msg}

theorem exec_mailboxBind (h : Served s n 0x0206 m) (hlen : m.payload.length = 1) (hfew : 1 ≤ leAt m.payload 0 1) (hmany : leAt m.payload 0 1 ≤ 6)
    (hbound : ((List.range 64).filter fun i => i != 0 && (s.mbx i).session == m.session).length + leAt m.payload 0 1 ≤ 8) (hfree : leAt m.payload 0 1 ≤ s.freeBoxes.length) :
    exec (.mailboxBind m) s = .next (done (bindBoxes (s.inHand n 0x0206 m) m.session (s.freeBoxes.take (leAt m.payload 0 1))) n
      (leBytes 8 (boxMask (((List.range 64).filter fun i => i != 0 && (s.mbx i).session == m.session) ++ s.freeBoxes.take (leAt m.payload 0 1))))) := by
  have hother : n ∉ s.freeBoxes.take (leAt m.payload 0 1) := fun hn => not_mem_freeBoxes h.toMailed (List.mem_of_mem_take hn)
  obtain ⟨_, hbind⟩ := bindBoxes_rest (s.inHand n 0x0206 m) m.session (s.freeBoxes.take (leAt m.payload 0 1))
  refine congrArg Host.Outcome.next (receive_answer h ?_ (mbx_bindBoxes_other _ _ _ hother) (by rw [hbind]; rfl))
  show mailboxBind (s.inHand n 0x0206 m) n m = _
  unfold mailboxBind
  simp only [pAt, (sameTenure_inHand s n 0x0206 m).box, freeBoxes_inHand h.toMailed]
  rw [if_neg (by omega), if_neg (by omega)]
end

/-! A debug unlock (R445, R446). -/

/-- A nonce that is spent, what is measured and what is recorded leave the mailboxes. -/
theorem nonceSpent_keeps (t : State) (slot : Nat) (g : Sec → Sec) (cls : Nat) (detail : List Byte) (b : Nat) :
    (((t.modMail fun x => { x with nonces := x.nonces.filter fun o => o.slot != slot }).modSec g).logHub cls detail).mbx b = t.mbx b
      ∧ (((t.modMail fun x => { x with nonces := x.nonces.filter fun o => o.slot != slot }).modSec g).logHub cls detail).hub.mail.waiting = t.hub.mail.waiting := ⟨rfl, rfl⟩

section
variable {m : Msg} (hlen : m.payload.length = 512) (hmagic : leAt m.payload 0 4 = 0x31474244) (hzero : zeroAt m 6 8 = true) (hzero' : zeroAt m 56 128 = true) (hscope : leAt m.payload 5 1 < 16)
  (hfew : 1 ≤ leAt m.payload 12 4) (hmany : leAt m.payload 12 4 ≤ 86400) (hown : leAt m.payload 8 4 = m.session.toNat) (hserial : leAt m.payload 16 8 = Config.fuseSerial.toNat)
include hlen hmagic hzero hzero' hscope hfew hmany hown hserial

/-- A token of good form is taken where it is signed. -/
theorem debugUnlock_of {t : State} {n : Nat} {k : OpKey} (hnonce : t.nonceOk (leAt m.payload 4 1) ((m.payload.drop 24).take 32) = true) (hkey : t.key (leAt m.payload 4 1) = some k) (hpriv : k.priv.getLsbD 3 = true) :
    debugUnlock t n m = if pssVerify k.modulus.toNat (m.payload.take 128) (m.payload.drop 128) = true then
        done (((t.modMail fun x => { x with nonces := x.nonces.filter fun o => o.slot != leAt m.payload 4 1 }).modSec fun x =>
          { x.extend 5 m.payload with dbg := some ⟨m.session, BitVec.ofNat 4 (leAt m.payload 5 1), t.hub.tick + leAt m.payload 12 4 * 100000000⟩ }).logHub 0x0906
            (leBytes 4 m.session.toNat ++ leBytes 1 (leAt m.payload 5 1))) n []
      else deny (t.logHub 0x0905 (leBytes 1 (leAt m.payload 4 1))) n 0x0400 := by
  have hform : (leAt m.payload 0 4 == 0x31474244 && zeroAt m 6 8 && zeroAt m 56 128 && Nat.blt (leAt m.payload 5 1) 16 && Nat.ble 1 (leAt m.payload 12 4) && Nat.ble (leAt m.payload 12 4) 86400) = true := by
    simp [hmagic, hzero, hzero', hscope, hfew, hmany]
  have hmine : (leAt m.payload 8 4 == m.session.toNat && leAt m.payload 16 8 == Config.fuseSerial.toNat) = true := by simp [hown, hserial]
  unfold debugUnlock
  simp only [pAt, hlen, hkey, hpriv, hform, hmine, hnonce, Bool.true_and]
  cases pssVerify k.modulus.toNat (m.payload.take 128) (m.payload.drop 128) <;> rfl

theorem exec_debugUnlock {s : State} {n : Nat} {k : OpKey} (h : Served s n 0x0205 m) (hnonce : s.nonceOk (leAt m.payload 4 1) ((m.payload.drop 24).take 32) = true) (hkey : s.key (leAt m.payload 4 1) = some k) (hpriv : k.priv.getLsbD 3 = true) :
    exec (.debugUnlock m) s = .next (if pssVerify k.modulus.toNat (m.payload.take 128) (m.payload.drop 128) = true then
        done ((((s.inHand n 0x0205 m).modMail fun x => { x with nonces := x.nonces.filter fun o => o.slot != leAt m.payload 4 1 }).modSec fun x =>
          { x.extend 5 m.payload with dbg := some ⟨m.session, BitVec.ofNat 4 (leAt m.payload 5 1), s.hub.tick + leAt m.payload 12 4 * 100000000⟩ }).logHub 0x0906
            (leBytes 4 m.session.toNat ++ leBytes 1 (leAt m.payload 5 1))) n []
      else deny ((s.inHand n 0x0205 m).logHub 0x0905 (leBytes 1 (leAt m.payload 4 1))) n 0x0400) := by
  have hanswer := debugUnlock_of (t := s.inHand n 0x0205 m) (n := n) hlen hmagic hzero hzero' hscope hfew hmany hown hserial (by rw [nonceOk_inHand]; exact hnonce) (by rw [key_inHand]; exact hkey) hpriv
  rw [tick_inHand] at hanswer
  refine congrArg Host.Outcome.next ?_
  split at hanswer
  next hsigned =>
    rw [if_pos hsigned]
    have hkept := nonceSpent_keeps (s.inHand n 0x0205 m) (leAt m.payload 4 1)
    exact receive_answer h hanswer (hkept _ _ _ n).1 (hkept _ _ _ n).2
  next hsigned =>
    rw [if_neg hsigned]
    exact receive_answer h hanswer rfl rfl
end

/-! A session opens (R349, R350). -/

theorem nextSession_ne_zero (opened : Nat) : nextSession opened ≠ 0 := by
  intro h
  have hnat := congrArg BitVec.toNat h
  have hlt := Nat.mod_lt (opened + Config.sessionBase) (show 0 < 2 ^ 32 - 1 by decide)
  rw [nextSession, BitVec.toNat_ofNat, Nat.mod_eq_of_lt (by omega)] at hnat
  exact absurd hnat (by simp)

/-- A session stands and has its mailboxes; a test session is measured. -/
def State.withSession (t : State) (x : Session) (boxes : List Nat) : State :=
  let u := bindBoxes (t.modMail fun l => { l with sessions := l.sessions ++ [x], opened := l.opened + 1 }) x.num boxes
  if x.test then u.modSec fun y => y.extend 6 (leBytes 4 x.num.toNat ++ leBytes 1 x.slot) else u

section
variable (t : State) (x : Session) (boxes : List Nat)

theorem withSession_rest : ∃ mbx sec, t.withSession x boxes
    = { t with hub := { t.hub with sec := sec, mail := { t.hub.mail with mbx := mbx, sessions := t.hub.mail.sessions ++ [x], opened := t.hub.mail.opened + 1 } } } := by
  obtain ⟨_, hbind⟩ := bindBoxes_rest (t.modMail fun l => { l with sessions := l.sessions ++ [x], opened := l.opened + 1 }) x.num boxes
  unfold State.withSession
  rw [hbind]
  dsimp only
  split <;> exact ⟨_, _, rfl⟩

theorem mbx_withSession (b : Nat) : (t.withSession x boxes).mbx b = (bindBoxes (t.modMail fun l => { l with sessions := l.sessions ++ [x], opened := l.opened + 1 }) x.num boxes).mbx b := by
  unfold State.withSession
  dsimp only
  split <;> rfl

theorem mbx_withSession_same {b : Nat} (h : b ∈ boxes) : (t.withSession x boxes).mbx b = { Mbx.reset with session := x.num } := by
  rw [mbx_withSession, mbx_bindBoxes _ _ _ h]

theorem mbx_withSession_other {b : Nat} (h : b ∉ boxes) : (t.withSession x boxes).mbx b = t.mbx b := by
  rw [mbx_withSession, mbx_bindBoxes_other _ _ _ h]
  rfl
end

section
variable {m : Msg} (hlen : m.payload.length = 420) (hkind : leAt m.payload 1 1 ≤ 1) (hzero : zeroAt m 2 4 = true)
include hlen hkind hzero

section
variable {t : State} {n : Nat} {k : OpKey} (hkey : t.key (leAt m.payload 0 1) = some k)
include hkey

theorem sessionOpen_unsigned
    (hsigned : pssVerify k.modulus.toNat ((m.payload.drop 4).take 32 ++ leBytes 8 Config.fuseSerial.toNat ++ beBytes 16 (t.qp m.q.val).src.gid.toNat) (m.payload.drop 36) = false) :
    sessionOpen t n m = authFail t n (leAt m.payload 0 1) m := by
  have hform : ¬ (m.payload.length ≠ 420 ∨ 1 < leAt m.payload 1 1 ∨ zeroAt m 2 4 = false) := by simp [hlen, hkind, hzero]
  unfold sessionOpen
  dsimp only [pAt]
  rw [if_neg hform, hkey]
  dsimp only
  rw [hsigned, Bool.not_false, Bool.or_true, Bool.true_or, if_pos rfl]

theorem sessionOpen_signed
    (hsigned : pssVerify k.modulus.toNat ((m.payload.drop 4).take 32 ++ leBytes 8 Config.fuseSerial.toNat ++ beBytes 16 (t.qp m.q.val).src.gid.toNat) (m.payload.drop 36) = true)
    (hnonce : t.nonceOk (leAt m.payload 0 1) ((m.payload.drop 4).take 32) = true) (hpriv : (leAt m.payload 1 1 == 1) = true → k.priv.getLsbD 2 = true)
    (hroom : t.hub.mail.sessions.length < 16) (hfree : t.freeBoxes ≠ []) :
    sessionOpen t n m = done (t.withSession ⟨nextSession t.hub.mail.opened, leAt m.payload 0 1, leAt m.payload 1 1 == 1, k.priv, (t.qp m.q.val).src, none, [], 0, 0, false⟩ (t.freeBoxes.take 2)) n
      (leBytes 4 (nextSession t.hub.mail.opened).toNat ++ leBytes 4 k.priv.toNat ++ leBytes 8 (boxMask (t.freeBoxes.take 2))) := by
  have hform : ¬ (m.payload.length ≠ 420 ∨ 1 < leAt m.payload 1 1 ∨ zeroAt m 2 4 = false) := by simp [hlen, hkind, hzero]
  have htest : (leAt m.payload 1 1 == 1 && !k.priv.getLsbD 2) = false := by
    cases htest : leAt m.payload 1 1 == 1
    · rfl
    · rw [hpriv htest]
      rfl
  have hboxes : ¬ (16 ≤ t.hub.mail.sessions.length ∨ t.freeBoxes.take 2 = []) := by simp [hroom, hfree]
  unfold sessionOpen
  dsimp only [pAt]
  rw [if_neg hform, hkey]
  dsimp only
  rw [hnonce, hsigned, htest, if_neg (by decide), if_neg hboxes, State.withSession]
  simp only [beq_iff_eq]
end

theorem exec_sessionOpen_unsigned {s : State} {n : Nat} {k : OpKey} (h : Served s n 0x0202 m) (hkey : s.key (leAt m.payload 0 1) = some k)
    (hsigned : pssVerify k.modulus.toNat ((m.payload.drop 4).take 32 ++ leBytes 8 Config.fuseSerial.toNat ++ beBytes 16 (s.qp m.q.val).src.gid.toNat) (m.payload.drop 36) = false) :
    exec (.sessionOpen m) s = .next (deny ((s.inHand n 0x0202 m).logHub 0x0611 (leBytes 1 (leAt m.payload 0 1) ++ beBytes 16 (s.qp m.q.val).src.gid.toNat)) n 0x0400) := by
  have hanswer := sessionOpen_unsigned (t := s.inHand n 0x0202 m) (n := n) hlen hkind hzero ((key_inHand _).trans hkey) (by rw [src_inHand]; exact hsigned)
  rw [authFail, src_inHand] at hanswer
  exact congrArg Host.Outcome.next (receive_answer h hanswer rfl rfl)

/-- What a signed SESSION_OPEN leaves. -/
theorem exec_sessionOpen_signed {s : State} {n : Nat} {k : OpKey} (h : Served s n 0x0202 m) (hkey : s.key (leAt m.payload 0 1) = some k)
    (hsigned : pssVerify k.modulus.toNat ((m.payload.drop 4).take 32 ++ leBytes 8 Config.fuseSerial.toNat ++ beBytes 16 (s.qp m.q.val).src.gid.toNat) (m.payload.drop 36) = true)
    (hnonce : s.nonceOk (leAt m.payload 0 1) ((m.payload.drop 4).take 32) = true) (hpriv : (leAt m.payload 1 1 == 1) = true → k.priv.getLsbD 2 = true)
    (hroom : s.hub.mail.sessions.length < 16) (hfree : s.freeBoxes ≠ []) :
    ∃ t, exec (.sessionOpen m) s = .next t ∧ t.cells = s.cells ∧ t.jobs = s.jobs
      ∧ t.hub.mail.sessions = s.hub.mail.sessions ++ [⟨nextSession s.hub.mail.opened, leAt m.payload 0 1, leAt m.payload 1 1 == 1, k.priv, (s.qp m.q.val).src, none, [], 0, 0, false⟩]
      ∧ (∀ b ∈ s.freeBoxes.take 2, t.mbx b = { Mbx.reset with session := nextSession s.hub.mail.opened }) ∧ (∀ b, b ≠ n → b ∉ s.freeBoxes.take 2 → t.mbx b = s.mbx b)
      ∧ (t.mbx n).kept = some ⟨0x0202, m.seq, responseBytes 0x0202 m 0 (leBytes 4 (nextSession s.hub.mail.opened).toNat ++ leBytes 4 k.priv.toNat ++ leBytes 8 (boxMask (s.freeBoxes.take 2)))⟩ := by
  obtain ⟨_, hmail⟩ := mail_inHand (s := s) (n := n) (code := 0x0202) (m := m)
  have hsessions : (s.inHand n 0x0202 m).hub.mail.sessions = s.hub.mail.sessions := by rw [hmail]
  have hopened : (s.inHand n 0x0202 m).hub.mail.opened = s.hub.mail.opened := by rw [hmail]
  have hanswer := sessionOpen_signed (t := s.inHand n 0x0202 m) (n := n) hlen hkind hzero ((key_inHand _).trans hkey) (by rw [src_inHand]; exact hsigned) ((nonceOk_inHand _ _).trans hnonce) hpriv
    (by rw [hsessions]; exact hroom) (by rw [freeBoxes_inHand h.toMailed]; exact hfree)
  rw [hopened, src_inHand, freeBoxes_inHand h.toMailed] at hanswer
  generalize hx : (⟨nextSession s.hub.mail.opened, leAt m.payload 0 1, leAt m.payload 1 1 == 1, k.priv, (s.qp m.q.val).src, none, [], 0, 0, false⟩ : Session) = x at hanswer ⊢
  have hnum : x.num = nextSession s.hub.mail.opened := by rw [← hx]
  have hother : n ∉ s.freeBoxes.take 2 := fun hn => not_mem_freeBoxes h.toMailed (List.mem_of_mem_take hn)
  have hmbx := mbx_withSession_other (s.inHand n 0x0202 m) x (s.freeBoxes.take 2) hother
  obtain ⟨_, _, hrest⟩ := withSession_rest (s.inHand n 0x0202 m) x (s.freeBoxes.take 2)
  have hreq : (((s.inHand n 0x0202 m).withSession x (s.freeBoxes.take 2)).mbx n).req = some ⟨0x0202, m, true, false⟩ := by rw [hmbx, mbx_inHand]
  have hopen : n ≠ 0 → (((s.inHand n 0x0202 m).withSession x (s.freeBoxes.take 2)).mbx n).session ≠ 0 := fun hn => by
    rw [hmbx, mbx_inHand]
    exact h.bound hn
  obtain ⟨-, hkept, hrespond, -, -, -, -, -, -, hcells, hjobs, -, -, -, hsame⟩ := responsesAreSentAndKept _ n 0
    (leBytes 4 (nextSession s.hub.mail.opened).toNat ++ leBytes 4 k.priv.toNat ++ leBytes 8 (boxMask (s.freeBoxes.take 2))) _ hreq hopen
  refine ⟨_, congrArg Host.Outcome.next (receive_answer h hanswer hmbx (by rw [hrest])), hcells.trans ?_, hjobs.trans ?_, hsame.trans ?_, fun b hb => ?_, fun b hbn hb => ?_, ?_⟩
  · simp only [hrest, cells_inHand]
  · simp only [hrest, jobs_inHand]
  · rw [hrest, ← hsessions]
  · rw [hrespond b (fun hbn => hother (hbn ▸ hb)), mbx_withSession_same _ _ _ hb, hnum]
  · rw [hrespond b hbn, mbx_withSession_other _ _ _ hb, mbx_inHand_other hbn]
  · rw [hkept, responseBytes_eq]
end

/-! A session closes (R351). -/

/-- A queue pair of the session that closes goes to the error state. -/
def State.pairEnded (s : State) (num : Word) (q : Nat) : State := if (s.qp q).session = num ∧ (s.qp q).kind ≠ .mailbox 0 then qpError s q 2 else s

/-- A mailbox that is taken from its session: only a request that executes stays. -/
def Mbx.unbound (b : Mbx) : Mbx := { session := 0, kept := none, req := match b.req with | some r => if r.executing then some r else none | none => none }

section
variable (s : State) (num : Word)

theorem sameTenure_pairEnded (q : Nat) : s.SameTenure (s.pairEnded num q) := by
  unfold State.pairEnded
  split
  · exact sameTenure_qpError ..
  · exact .refl s

theorem down_pairEnded {q i : Nat} (h : (s.qp i).Down) : ((s.pairEnded num q).qp i).Down := by
  unfold State.pairEnded
  split
  · by_cases hi : i = q
    · rw [hi]
      exact down_qpError s 2
    · rwa [qp_qpError_other s 2 hi]
  · exact h

theorem down_foldl_pairEnded {l : List Nat} {q : Nat} (hq : q ∈ l) (hown : (s.qp q).session = num) (hkind : (s.qp q).kind ≠ .mailbox 0) : ((l.foldl (fun t q => t.pairEnded num q) s).qp q).Down := by
  induction l generalizing s with
  | nil => exact absurd hq List.not_mem_nil
  | cons i l ih =>
    by_cases hi : q = i
    · subst hi
      refine List.foldlRecOn (motive := fun t : State => (t.qp q).Down) l _ ?_ fun t ht i _ => down_pairEnded t num ht
      have hended : s.pairEnded num q = qpError s q 2 := if_pos ⟨hown, hkind⟩
      show ((s.pairEnded num q).qp q).Down
      rw [hended]
      exact down_qpError s 2
    · have hsame := sameTenure_pairEnded s num i
      exact ih (s.pairEnded num i) ((List.mem_cons.1 hq).resolve_left hi) ((hsame.owner q).trans hown) (by rw [hsame.kind]; exact hkind)

theorem foldl_unbound_rest (l : List Nat) : ∃ mbx, l.foldl (fun t k => t.modMbx k Mbx.unbound) s = s.modMail fun x => { x with mbx := mbx } := by
  refine List.foldlRecOn (motive := fun t : State => ∃ mbx, t = s.modMail fun x => { x with mbx := mbx }) l _ ⟨_, rfl⟩ fun t ⟨_, ht⟩ k _ => ?_
  rw [ht]
  exact ⟨_, rfl⟩

theorem session_foldl_unbound {l : List Nat} {b : Nat} (hb : b ∈ l) : ((l.foldl (fun t k => t.modMbx k Mbx.unbound) s).mbx b).session = 0 := by
  induction l generalizing s with
  | nil => exact absurd hb List.not_mem_nil
  | cons k l ih =>
    by_cases hk : b = k
    · subst hk
      refine List.foldlRecOn (motive := fun t : State => (t.mbx b).session = 0) l _ ?_ fun t ht i _ => ?_
      · rw [State.mbx_modMbx]
        rfl
      · by_cases hi : b = i
        · rw [hi, State.mbx_modMbx]
          rfl
        · rw [State.mbx_modMbx_other _ _ hi, ht]
    · exact ih _ ((List.mem_cons.1 hb).resolve_left hk)
end

/-- A session is gone: its mailboxes and its queue pairs are nobody's, and it has no window. -/
structure State.Closed (s t : State) (num : Word) : Prop where
  gone : t.session num = none
  windows : ∀ w ∈ t.hub.eth.windows, w.2.session ≠ num
  boxes : ∀ b < 64, (s.mbx b).session = num → (t.mbx b).session = 0
  pairs : ∀ q < 64, (s.qp q).session = num → (s.qp q).kind ≠ .mailbox 0 → (t.qp q).Down
  idle : s.hub.mail.waiting = [] → t.hub.mail.waiting = []

theorem closeSession_closed {s : State} {num : Word} (hopen : (s.session num).isSome = true) : s.Closed (closeSession s num) num := by
  obtain ⟨x, hx⟩ := Option.isSome_iff_exists.1 hopen
  unfold closeSession
  rw [hx]
  extract_lets s1 s2
  dsimp -zeta only
  extract_lets s3 s4 s5 boxes s6 s7
  have h1 : s.SameTenure s1 := by
    dsimp only [s1]
    split
    · split
      · exact sameTenure_closeDebug ..
      · exact .refl s
    · exact .refl s
  have h3 : s.SameTenure s3 := by
    dsimp only [s3]
    split
    · exact h1.trans (.of_hosting rfl)
    · exact h1.trans (.of_hosting rfl)
  have h4 : s.SameTenure s4 := h3.trans (.foldl (fun t q => sameTenure_pairEnded t num q) _ s3)
  have hpairs : ∀ q < 64, (s.qp q).session = num → (s.qp q).kind ≠ .mailbox 0 → (s4.qp q).Down := fun q hq hown hkind =>
    down_foldl_pairEnded s3 num (List.mem_range.2 hq) ((h3.owner q).trans hown) (by rw [h3.kind]; exact hkind)
  clear_value s4
  have hboxes : ∀ b < 64, (s.mbx b).session = num → (s6.mbx b).session = 0 := fun b hb hown => by
    have hbox : (s5.mbx b).session = num := (h4.box b).trans hown
    have hmem : b ∈ boxes := List.mem_filter.2 ⟨List.mem_range.2 hb, beq_iff_eq.2 hbox⟩
    exact session_foldl_unbound s5 hmem
  obtain ⟨_, h6⟩ : ∃ mbx, s6 = s5.modMail fun x => { x with mbx := mbx } := foldl_unbound_rest ..
  clear_value s6
  have hhub := foldl_keeps (f := fun s e => s.modJob e.job fun j => { j with events := j.events ++ [e] }) State.hub (fun _ _ => rfl) x.events s7
  refine ⟨?_, ?_, fun b hb hown => ?_, fun q hq hown hkind => ?_, fun hidle => ?_⟩
  · rw [State.session, hhub]
    exact List.find?_eq_none.2 fun y hy => by simpa using (List.mem_filter.1 hy).2
  · rw [hhub]
    intro w hw
    have hwindows : w ∈ s5.hub.eth.windows := by
      have heth : s7.hub.eth = s5.hub.eth := by
        show s6.hub.eth = _
        rw [h6]
        rfl
      rwa [heth] at hw
    simpa using (List.mem_filter.1 hwindows).2
  · rw [State.mbx, hhub]
    exact hboxes b hb hown
  · have hqp : s6.qp q = s4.qp q := by
      rw [h6]
      rfl
    rw [State.qp, hhub]
    show (s6.qp q).Down
    rw [hqp]
    exact hpairs q hq hown hkind
  · have hwaiting : s6.hub.mail.waiting = s4.hub.mail.waiting := by
      rw [h6]
      rfl
    rw [hhub]
    show s6.hub.mail.waiting.filter _ = []
    rw [hwaiting, h4.idle hidle]
    rfl

theorem State.SameTenure.closed {s u t : State} {num : Word} (h : s.SameTenure u) (hclosed : u.Closed t num) : s.Closed t num where
  gone := hclosed.gone
  windows := hclosed.windows
  boxes := fun b hb hown => hclosed.boxes b hb ((h.box b).trans hown)
  pairs := fun q hq hown hkind => hclosed.pairs q hq ((h.owner q).trans hown) (by rw [h.kind]; exact hkind)
  idle := hclosed.idle ∘ h.idle

theorem exec_sessionClose {s : State} {n : Nat} {m : Msg} (h : Served s n 0x0203 m) (hlen : m.payload = []) (hopen : (s.session m.session).isSome = true) :
    ∃ t, exec (.sessionClose m) s = .next t ∧ s.Closed t m.session := by
  have hreq : ((s.inHand n 0x0203 m).mbx n).req = some ⟨0x0203, m, true, false⟩ := by rw [mbx_inHand]
  have hbound : n ≠ 0 → ((s.inHand n 0x0203 m).mbx n).session ≠ 0 := fun hn => by
    rw [mbx_inHand]
    exact h.bound hn
  obtain ⟨-, -, -, -, -, -, -, -, -, -, -, -, -, -, hsessions⟩ := responsesAreSentAndKept _ n 0 [] _ hreq hbound
  have hstands : ((done (s.inHand n 0x0203 m) n []).session m.session).isSome = true := by
    rw [State.session, hsessions]
    exact (congrArg Option.isSome (session_inHand m.session)).trans hopen
  have hclosed := ((sameTenure_inHand s n 0x0203 m).trans (sameTenure_respond _ n 0 [])).closed (closeSession_closed hstands)
  have hrun : receive s 0x0203 m = drain (sessionClose (s.inHand n 0x0203 m) n m) := receive_served h
  have hclose : sessionClose (s.inHand n 0x0203 m) n m = closeSession (done (s.inHand n 0x0203 m) n []) m.session := if_neg (by simp [hlen])
  exact ⟨_, congrArg Host.Outcome.next (hrun.trans ((congrArg drain hclose).trans (drain_of_none (hclosed.idle h.idle)))), hclosed⟩

theorem exec_sessionIdleClose {s : State} {num : Word} (hopen : (s.session num).isSome = true) (hidle : s.hub.mail.waiting = []) (hquiet : ∀ b < 64, (s.mbx b).session = num → (s.mbx b).req = none)
    (hdown : ∀ q < 64, (s.qp q).state = .connected → (s.qp q).session = num → (s.qp q).kind = .mailbox 0) : ∃ t, exec (.sessionIdleClose num) s = .next t ∧ s.Closed t num := by
  have hbusy : ((List.range 64).any fun k => (s.mbx k).session == num && (s.mbx k).req.isSome) = false := by
    refine List.any_eq_false.2 fun b hb hfull => ?_
    obtain ⟨hown, hsome⟩ := Bool.and_eq_true_iff.1 hfull
    rw [hquiet b (List.mem_range.1 hb) (beq_iff_eq.1 hown)] at hsome
    exact Bool.false_ne_true hsome
  have hup : ((List.range 64).any fun q => (s.qp q).state == .connected && (s.qp q).session == num && (s.qp q).kind != .mailbox 0) = false := by
    refine List.any_eq_false.2 fun q hq hlive => ?_
    simp only [Bool.and_eq_true, beq_iff_eq, bne_iff_ne] at hlive
    exact hlive.2 (hdown q (List.mem_range.1 hq) hlive.1.1 hlive.1.2)
  have hstands : ((s.session num).isNone || false || false) = false := by simpa [← Option.isSome_iff_ne_none] using hopen
  have hclose : idleClose s num = closeSession (s.logHub 0x0612 (leBytes 4 num.toNat)) num := by
    unfold idleClose
    dsimp only
    rw [hbusy, hup, hstands, if_neg Bool.false_ne_true]
  have hclosed : s.Closed (closeSession (s.logHub 0x0612 (leBytes 4 num.toNat)) num) num := (sameTenure_log s _).closed (closeSession_closed hopen)
  exact ⟨_, congrArg Host.Outcome.next ((congrArg drain hclose).trans (drain_of_none (hclosed.idle hidle))), hclosed⟩

/-- A debug unlock that wrote no region's clocks ends with a record. -/
theorem closeDebug_quiet {s : State} (cause : Nat) (hopen : s.hub.sec.dbg.isSome = true) (hquiet : ∀ r < 16, (s.rclk r).debugClk = false) : closeDebug s cause = endDebug s cause := by
  have hnone : ((List.range 16).filter fun r => (s.rclk r).debugClk) = [] := List.filter_eq_nil_iff.2 fun r hr => Bool.eq_false_iff.1 (hquiet r (List.mem_range.1 hr))
  have hstands : ¬ s.hub.sec.dbg.isNone = true := by simpa [← Option.isSome_iff_ne_none] using hopen
  rw [closeDebug, if_neg hstands, hnone]
  rfl

theorem dbg_endDebug (s : State) (cause : Nat) : (endDebug s cause).hub.sec.dbg = none := by
  unfold endDebug
  split
  next h => exact h
  next => rfl

/-- Settles O53: each command's answer is its `exec_` lemma, and the closing of a session is `State.Closed`. -/
theorem sessionsAndSecurity : Obligations.SessionsAndSecurity := by
  intro s n m
  refine ⟨exec_identGet, exec_unitsGet, fun h hlen => ⟨exec_challenge_unknown h hlen, exec_challenge_known h hlen⟩, fun k h hlen hkind hzero hkey hnonce hpriv hroom hfree => ?_, fun h hlen hopen => ?_,
    exec_quote, fun k h hlen hmagic hzero hzero' hscope hfew hmany hown hserial hnonce hkey hpriv => exec_debugUnlock hlen hmagic hzero hzero' hscope hfew hmany hown hserial h hnonce hkey hpriv,
    fun h hlen hfew hmany hbound hfree => exec_mailboxBind h hlen hfew hmany hbound hfree, fun num hopen hidle hquiet hdown => ?_, fun hopen hquiet => ?_⟩
  · cases hsigned : pssVerify k.modulus.toNat ((m.payload.drop 4).take 32 ++ leBytes 8 Config.fuseSerial.toNat ++ beBytes 16 (s.qp m.q.val).src.gid.toNat) (m.payload.drop 36)
    · obtain ⟨hcells, hjobs⟩ := respond_stores (u := (s.inHand n 0x0202 m).logHub 0x0611 (leBytes 1 (leAt m.payload 0 1) ++ beBytes 16 (s.qp m.q.val).src.gid.toNat)) (status := 0x0400) (payload := []) h.toMailed rfl
      rw [State.logHub_cells, cells_inHand] at hcells
      rw [State.logHub_jobs, jobs_inHand] at hjobs
      exact ⟨_, exec_sessionOpen_unsigned hlen hkind hzero h hkey hsigned, hcells, hjobs, fun h => absurd h Bool.false_ne_true, fun _ => rfl⟩
    · obtain ⟨t, ht, hcells, hjobs, hsessions, hboxes, hrest, hkept⟩ := exec_sessionOpen_signed hlen hkind hzero h hkey hsigned hnonce hpriv hroom hfree
      exact ⟨t, ht, hcells, hjobs, fun _ => ⟨hsessions, nextSession_ne_zero _, hboxes, hrest, hkept⟩, fun h => absurd h.symm Bool.false_ne_true⟩
  · obtain ⟨t, ht, hclosed⟩ := exec_sessionClose h hlen hopen
    exact ⟨t, ht, hclosed.gone, hclosed.windows, hclosed.boxes, hclosed.pairs⟩
  · obtain ⟨t, ht, hclosed⟩ := exec_sessionIdleClose hopen hidle hquiet hdown
    exact ⟨t, ht, hclosed.gone, hclosed.boxes⟩
  · have hend : debugEnds s = endDebug s 0 := closeDebug_quiet 0 hopen hquiet
    obtain ⟨_, _, hsec⟩ := sameButSec_endDebug s 0
    refine ⟨_, congrArg Host.Outcome.next hend, dbg_endDebug s 0, ?_, ?_⟩
    all_goals
      rw [hsec]
end Sys2Proof.Machine
end

section
/-! PROOF. A static address ends the DHCP client's business (spec/14_ethernet_port.md R325; spec/15_pyerly_mailboxes.md R356). -/
namespace Sys2Proof.Machine

/-- A session with the M privilege. -/
def adminSession : Session := ⟨1, 0, false, privM, ⟨1, 1⟩, none, [], 0, 0, false⟩
/-- Its queue pair, to mailbox 1. -/
def adminQp : Qp := { Qp.reset with state := .connected, kind := .mailbox 1, session := 1, src := ⟨1, 1⟩ }
/-- The port linked, its DHCP client with a lease asked for and no address yet. -/
def askingState : State :=
  { State.reset with
    hub := { Hub.reset with
      clk := { Hub.reset.clk with hubReady := true }
      eth := { Eth.reset with linkUp := true, client := true, asked := some 1, qps := [(0, adminQp)] }
      mail := { Mail.reset with mbx := [(1, { Mbx.reset with session := 1 })], sessions := [adminSession] } } }
/-- PORT_CONFIG with selector 1: an IPv4 address. -/
def staticAddress : Msg := ⟨0, 0, false, none, 0x4D42, 1, 0, 0, 1, 1, 36, 0, 0, 0, 0, 1 :: List.replicate 35 0⟩

theorem served_staticAddress : Served askingState 1 0x0508 staticAddress where
  number := by decide
  on := by decide +kernel
  up := by decide +kernel
  kind := by decide +kernel
  turn := by decide +kernel
  fits := by decide +kernel
  room := by decide +kernel
  bound := by decide +kernel
  fresh := by decide +kernel
  idle := rfl
  alone := by decide +kernel
  granted := by decide +kernel

/-- The static address is set, and the client waits for no lease any more. -/
theorem asked_askingState_configured : (receive askingState 0x0508 staticAddress).hub.eth.asked = none := by decide +kernel

/-- The response leaves the lease that is asked for. -/
theorem asked_askingState_answered : (done (askingState.inHand 1 0x0508 staticAddress) 1 []).hub.eth.asked = some 1 := by decide +kernel

/-- Refutes O55: the statement keeps the lease that the DHCP client has asked for where PORT_CONFIG sets a static address. The model drops it with the client, which a static address ends (R325, R356), so that a client that is started again waits for no old answer. -/
theorem not_windowsPortsAndRoutes : ¬ Obligations.WindowsPortsAndRoutes := by
  intro h
  obtain ⟨-, -, -, -, -, -, -, -, -, -, hconfig⟩ := h askingState 1 staticAddress
  obtain ⟨-, -, hstatic⟩ := hconfig served_staticAddress (by decide +kernel) (by decide +kernel)
  have hset := Host.Outcome.next.inj (hstatic (by decide +kernel) rfl)
  have hasked := asked_askingState_configured.symm.trans ((congrArg (fun t : State => t.hub.eth.asked) hset).trans asked_askingState_answered)
  exact absurd hasked (by decide)
end Sys2Proof.Machine
end
